-- ==== Sys2Proof/Word.lean ====
section
/-! DEFINITION. The word types of the Ewekor architecture (R3 of spec/00_scope.md). -/

namespace Sys2Proof

/-- One byte. -/
abbrev Byte := BitVec 8

/-- One 32-bit register lane. -/
abbrev Word := BitVec 32

/-- A 64-bit value: an address, a pair of registers, a latch lane. -/
abbrev DWord := BitVec 64

end Sys2Proof
end

