-- ==== Sys2Proof/Config.lean ====
section
/-! DEFINITION. What the ZSJ4-A fixes, and the free values: constants without a body, which stand for what the spec
leaves open (log entries named beside them). Nothing can evaluate one or prove a value of it. -/

namespace Sys2Proof.Config

/-- Threads of a group (R11). -/
abbrev groupSize : Nat := 32

/-- Passes of a turn (R45). -/
abbrev turnPasses : Nat := 8

/-- The pipeline depth in span cycles (R100). -/
abbrev pipeDepth : Nat := 10

/-- Loop-buffer misses and private fills, in span cycles (R97). -/
abbrev fillCost : Nat := 12

/-- Lines of a loop buffer (R48). -/
abbrev loopLines : Nat := 16

/-- Instructions of a private buffer (R49). -/
abbrev privInstrs : Nat := 48

/-- The horizon of promises in reference cycles (R231). -/
abbrev horizon : Nat := 2 ^ 20

/-- The quantum: 100 us of the 2.1 GHz reference, in cycles (R420). -/
abbrev quantum : Nat := 210000

/-- The duration that a calendar or an engine quotes, in reference cycles (R223, R261); log 9. -/
opaque quote : Nat → Nat

/-- The fixed durations of R223, in reference cycles: own scratchpad, private-cache hit, and the term of each hop to a peer's
scratchpad; log 9. -/
opaque ownQuote : Nat

opaque privateQuote : Nat

opaque hopTerm : Nat

/-- The bounds on promise-class transit from a core's die to a unit, and back (R219, R224, R228), by the two places; log 9. -/
opaque transitOut : Nat → Nat → Nat

opaque transitBack : Nat → Nat → Nat

/-- The difference of a sector's stored check value from that of its bytes, once its data is uncorrectable (R236); log 71. -/
opaque flips : Nat → BitVec 16

/-- The element of (value before the mark, zero) that a read of a dead-marked lane returns (R93): `true` for the value;
log 10. -/
opaque deadKeeps : Nat → Bool

/-- Which of its 16 entries translates a 64 KiB page (R388); log 11. -/
opaque pageEntry : Nat → BitVec 4

/-- The approximations of R196 as candidates in the result format, kept when they meet the error bound; log 12. -/
opaque approx : Nat → Nat → Nat

/-- A deck result candidate, kept when it meets R189's bound: form, element, operand pairs, old element; log 13. -/
opaque deckResult : Nat → Nat → List (Nat × Nat) → Nat → Nat

/-- Values of the Keystone's key generator, signatures and digests (R427 to R431, R437); log 14. -/
opaque secret : Nat → Nat → Nat

/-- Ordered reductions that a slice's own storage holds (R320); log 79. -/
opaque sliceStore : Nat

/-- A placement of a context's rectangle that hardware chooses (R408): die, cluster, x and y from a counter; log 15. -/
opaque placement : Nat → Nat → Nat

/-- Bytes that the spec leaves undefined: overlapping engine copies and racing reads (R262, R363); log 16. -/
opaque anyByte : Nat → Nat → Byte

/-- The order in which combined reductions and racing updates leave (R316, R310); log 17. -/
opaque anyOrder : Nat → Nat → Nat

end Sys2Proof.Config
end

