-- ==== Sys2Proof/Syntax.lean ====
section
/-! DEFINITION. The abstract syntax of every row of spec/opcode_table.json: operand codes (R87, R104, R105, R116,
R117), the fields of each format (R108 to R115), and `Instr`, the one inductive of all instructions and steps. -/

namespace Sys2Proof

/-- A direct register V0-V63. -/
abbrev VReg := BitVec 6

/-- A scalar register S0-S63. -/
abbrev SReg := BitVec 6

/-- A predicate P0-P3; P0 is hard-wired true (R79). As a guard, 0 means none (R112). -/
abbrev PReg := BitVec 2

/-- A time register T0-T15. -/
abbrev TReg := BitVec 4

/-- An index register I0-I3. -/
abbrev IReg := BitVec 2

/-- An operand-cache entry C0-C7. -/
abbrev CReg := BitVec 3

/-- A deck tile Z0-Z7. -/
abbrev ZReg := BitVec 3

/-- The 7-bit source codes of R116. -/
inductive Src
  /-- V0-V63 -/
  | v (r : VReg)
  /-- the last-result latch L0 -/
  | l0
  /-- the latch L1 -/
  | l1
  /-- the queue window Q -/
  | q
  /-- ZERO -/
  | zero
  /-- the reserved codes 0x44 to 0x47 -/
  | rsv (n : BitVec 2)
  /-- C0-C7 -/
  | c (k : CReg)
  /-- S0-S31 -/
  | s (r : BitVec 5)
  /-- an immediate -8..+7, as its two's-complement value -/
  | imm (i : BitVec 4)
deriving DecidableEq, Repr

/-- The 7-bit destination codes of R87. -/
inductive Dst
  /-- V0-V63 -/
  | v (r : VReg)
  /-- 0x40: write-back suppressed; the no-return form of an atomic -/
  | sup
  /-- 0x42: push to the queue window -/
  | q
  /-- the reserved code 0x40 + n -/
  | rsv (n : BitVec 6)
deriving DecidableEq, Repr

/-- The uniform source codes of R117. -/
inductive USrc
  /-- S0-S63 -/
  | s (r : SReg)
  /-- ZERO -/
  | zero
  /-- an immediate -8..+7, as its two's-complement value -/
  | imm (i : BitVec 4)
  /-- the reserved code 0x40 + n -/
  | rsv (n : BitVec 6)
deriving DecidableEq, Repr

/-- The uniform destination codes of R117. -/
inductive UDst
  /-- S0-S63 -/
  | s (r : SReg)
  /-- the reserved code 0x40 + n -/
  | rsv (n : BitVec 6)
deriving DecidableEq, Repr

/-- Rounding directions (R182). -/
inductive Rnd
  | rne | rz | ru | rd
deriving DecidableEq, Repr

/-- The rounding selector RS of a conversion (R197). -/
inductive RndSel
  | dyn | rne | rz | ru | rd
deriving DecidableEq, Repr

/-- Conditions of ICMP (R147). -/
inductive ICond
  | eq | ne | lt | le | gt | ge | test | ntest
deriving DecidableEq, Repr

/-- Conditions of FCMP (R193). -/
inductive FCond
  | eq | ne | lt | le | gt | ge | un | ord
deriving DecidableEq, Repr

/-- Operand types of ICMP (R147). -/
inductive ICmpTy
  | i32 | n32 | i64 | n64
deriving DecidableEq, Repr

/-- Operand types of FCMP (R193). -/
inductive FCmpTy
  | f32 | f64 | bf16
deriving DecidableEq, Repr

/-- The combining operations of SCAN and REDUCE (R156). -/
inductive ScanOp
  | addI32 | addF32 | maxI32 | maxN32 | minI32 | minN32 | or | xor
deriving DecidableEq, Repr

/-- The kinds of SHIFTI (R149). -/
inductive ShiftKind
  | shl | shr | sar | rotl
deriving DecidableEq, Repr

/-- The sizes of LDSUB (R242). -/
inductive SubSize
  | i8 | n8 | i16 | n16
deriving DecidableEq, Repr

/-- The tests of BRT (R170). -/
inductive TimeTest
  | arrived | due | breached | withdrawn
deriving DecidableEq, Repr

/-- The scopes of R30. -/
inductive Scope
  | thread | group | core | quad | clus | die | pkg | pod
deriving DecidableEq, Repr

/-- The kinds of FENCE (R324). -/
inductive FenceKind
  | rel | acq | ar
deriving DecidableEq, Repr

/-- The counts ESTAT reads (R270). -/
inductive EstatKind
  | mine | free | coll
deriving DecidableEq, Repr

/-- The 16-bit format (R104): `d := d op b`. -/
structure Fmt16 where
  b : Src
  d : VReg
deriving DecidableEq, Repr

/-- Format A (R108). -/
structure FmtA where
  b : Src
  a : Src
  d : Dst
  kb : Bool
  ka : Bool
deriving DecidableEq, Repr

/-- Format A with a predicate in X: SELP (R145). -/
structure FmtSel where
  b : Src
  a : Src
  d : Dst
  kb : Bool
  ka : Bool
  p : PReg
deriving DecidableEq, Repr

/-- Format A in the uniform majors 0x30 and 0x31 (R164). -/
structure FmtUA where
  b : USrc
  a : USrc
  d : UDst
  kb : Bool
  ka : Bool
deriving DecidableEq, Repr

/-- Format C for ICMP (R109, R147); `conj` is bit 3 of COND. -/
structure FmtIC where
  b : Src
  a : Src
  conj : Bool
  cond : ICond
  p : PReg
  kb : Bool
  ka : Bool
  ty : ICmpTy
deriving DecidableEq, Repr

/-- Format C for FCMP (R109, R193). -/
structure FmtFC where
  b : Src
  a : Src
  conj : Bool
  cond : FCond
  p : PReg
  kb : Bool
  ka : Bool
  ty : FCmpTy
deriving DecidableEq, Repr

/-- Format I (R110). -/
structure FmtI where
  imm : BitVec 11
  a : Src
  d : Dst
deriving DecidableEq, Repr

/-- Format I with the fields of SHIFTI (R149). -/
structure FmtShift where
  kind : ShiftKind
  amt : BitVec 5
  a : Src
  d : Dst
deriving DecidableEq, Repr

/-- Format I of SADDI (R148). -/
structure FmtUI where
  imm : BitVec 11
  a : USrc
  d : UDst
deriving DecidableEq, Repr

/-- Format L with imm18 (R111). -/
structure FmtL where
  imm : BitVec 18
  d : Dst
deriving DecidableEq, Repr

/-- Format L of LLO, imm18[13:0] (R111). -/
structure FmtLo where
  imm : BitVec 14
  d : Dst
deriving DecidableEq, Repr

/-- Format L of SLUI. -/
structure FmtUL where
  imm : BitVec 18
  d : UDst
deriving DecidableEq, Repr

/-- Format L of SLLO. -/
structure FmtULo where
  imm : BitVec 14
  d : UDst
deriving DecidableEq, Repr

/-- Format N with a source and a destination (R112). -/
structure FmtN where
  a : Src
  d : Dst
  k1 : Bool
  ka : Bool
  g : PReg
deriving DecidableEq, Repr

/-- Format N with the source in A alone; D is a field that must be 0. -/
structure FmtNA where
  a : Src
  k1 : Bool
  ka : Bool
  g : PReg
deriving DecidableEq, Repr

/-- Format N with a second source in D. -/
structure FmtNB where
  a : Src
  b : Src
  k1 : Bool
  ka : Bool
  g : PReg
deriving DecidableEq, Repr

/-- Format N of FINIT: K1 selects the form (R337). -/
structure FmtFin where
  a : Src
  b : Src
  ka : Bool
  g : PReg
deriving DecidableEq, Repr

/-- Format N with a guard alone. -/
structure FmtNG where
  k1 : Bool
  ka : Bool
  g : PReg
deriving DecidableEq, Repr

/-- Format N with no operand and no guard. -/
structure FmtNK where
  k1 : Bool
  ka : Bool
deriving DecidableEq, Repr

/-- Format N of MOVX and IGET: an index register and a destination (R153, R154). -/
structure FmtIdx where
  i : IReg
  d : Dst
  k1 : Bool
  ka : Bool
  g : PReg
deriving DecidableEq, Repr

/-- Format N of MOVXW and ISET: a source and an index register. -/
structure FmtIdxA where
  a : Src
  i : IReg
  k1 : Bool
  ka : Bool
  g : PReg
deriving DecidableEq, Repr

/-- Format N of SCAN (R156, R157). -/
structure FmtScan where
  op : ScanOp
  seg : PReg
  a : Src
  d : Dst
  k1 : Bool
  ka : Bool
  g : PReg
deriving DecidableEq, Repr

/-- Format N of REDUCE (R160). -/
structure FmtRed where
  op : ScanOp
  a : Src
  d : UDst
  k1 : Bool
  ka : Bool
  g : PReg
deriving DecidableEq, Repr

/-- Format N of VOTE (R160). -/
structure FmtVote where
  a : Src
  d : UDst
  k1 : Bool
  ka : Bool
  g : PReg
deriving DecidableEq, Repr

/-- Format N of PAND, POR and PXOR (R163). -/
structure FmtPL where
  nb : Bool
  na : Bool
  pb : PReg
  pa : PReg
  pd : PReg
  k1 : Bool
  ka : Bool
  g : PReg
deriving DecidableEq, Repr

/-- Format N of PTEST and PBIT. -/
structure FmtPA where
  a : Src
  pd : PReg
  k1 : Bool
  ka : Bool
  g : PReg
deriving DecidableEq, Repr

/-- Format N of PGET. -/
structure FmtPG where
  pa : PReg
  d : Dst
  k1 : Bool
  ka : Bool
  g : PReg
deriving DecidableEq, Repr

/-- Format N of a uniform move: a uniform source and a uniform destination. -/
structure FmtU where
  a : USrc
  d : UDst
  k1 : Bool
  ka : Bool
deriving DecidableEq, Repr

/-- Format N of SREAD (no guard) and SFROMV: a vector field and a uniform destination; `a` is the 7-bit code. -/
structure FmtUV where
  a : Src
  d : UDst
  k1 : Bool
  ka : Bool
  g : PReg
deriving DecidableEq, Repr

/-- Format N of SWRITE: a uniform source pair and a vector field in D. -/
structure FmtVU where
  a : USrc
  d : Dst
  k1 : Bool
  ka : Bool
deriving DecidableEq, Repr

/-- Format N of CALLR and RET: a uniform source. -/
structure FmtUO where
  a : USrc
  k1 : Bool
  ka : Bool
deriving DecidableEq, Repr

/-- Format N of QTAKE: a uniform destination. -/
structure FmtUD where
  d : UDst
  k1 : Bool
  ka : Bool
deriving DecidableEq, Repr

/-- Format B: BRA with an offset and a predicate field (R115). -/
structure FmtB where
  off : BitVec 19
  g : PReg
deriving DecidableEq, Repr

/-- Format B of BRA.ALWAYS and CALL. -/
structure FmtJ where
  off : BitVec 19
deriving DecidableEq, Repr

/-- Format B of BRT (R170). -/
structure FmtBT where
  off : BitVec 19
  t : TReg
  test : TimeTest
deriving DecidableEq, Repr

/-- Format B of LOOP (R53). -/
structure FmtLoop where
  off : BitVec 19
  s : BitVec 4
deriving DecidableEq, Repr

/-- Format N of a conversion (R197). -/
structure FmtCvt where
  r : RndSel
  a : Src
  d : Dst
  k1 : Bool
  ka : Bool
  g : PReg
deriving DecidableEq, Repr

/-- Format M, a load (R113). -/
structure FmtLd where
  off : BitVec 5
  t : TReg
  b : Src
  d : Dst
  g : PReg
deriving DecidableEq, Repr

/-- Format M, a sub-word load. -/
structure FmtLdSub where
  sz : SubSize
  off : BitVec 3
  t : TReg
  b : Src
  d : Dst
  g : PReg
deriving DecidableEq, Repr

/-- Format M, a store; `t` must be 0. -/
structure FmtSt where
  off : BitVec 5
  t : TReg
  b : Src
  x : Src
  g : PReg
deriving DecidableEq, Repr

/-- Format M, a sub-word store; `half` selects 16 bits. -/
structure FmtStSub where
  half : Bool
  off : BitVec 3
  t : TReg
  b : Src
  x : Src
  g : PReg
deriving DecidableEq, Repr

/-- Format T (R114). -/
structure FmtT where
  opnd : VReg
  addr : VReg
  d : Dst
  g : PReg
deriving DecidableEq, Repr

/-- Format N of CPY, CPYX, COLL and MCRD: a block in S registers and a time register. -/
structure FmtE where
  a : USrc
  t : TReg
  k1 : Bool
  ka : Bool
deriving DecidableEq, Repr

/-- Format N of ESTAT. -/
structure FmtEst where
  k : EstatKind
  d : UDst
  k1 : Bool
  ka : Bool
deriving DecidableEq, Repr

/-- Format N of BAR.ARRIVE. -/
structure FmtBarA where
  a : USrc
  sc : Scope
  k1 : Bool
  ka : Bool
deriving DecidableEq, Repr

/-- Format N of BAR.WAIT. -/
structure FmtBarW where
  k : BitVec 4
  sc : Scope
  k1 : Bool
  ka : Bool
deriving DecidableEq, Repr

/-- Format N of FENCE. -/
structure FmtFence where
  kind : FenceKind
  sc : Scope
  k1 : Bool
  ka : Bool
  g : PReg
deriving DecidableEq, Repr

/-- Format N of MMA. -/
structure FmtMma where
  n : USrc
  z : ZReg
  k1 : Bool
  ka : Bool
deriving DecidableEq, Repr

/-- Format N of MMA.RA and MMA.RB: the register block starts at V(4m). -/
structure FmtMmaR where
  n : USrc
  z : ZReg
  m : BitVec 4
  k1 : Bool
  ka : Bool
deriving DecidableEq, Repr

/-- Format N of DZERO. -/
structure FmtZ where
  z : ZReg
  k1 : Bool
  ka : Bool
deriving DecidableEq, Repr

/-- Format N of DRDROW, DRDCOL and DWRROW. -/
structure FmtRow where
  r : BitVec 4
  z : ZReg
  d : Dst
  k1 : Bool
  ka : Bool
deriving DecidableEq, Repr

/-- Format N of TWAIT and YIELDT: a time register. -/
structure FmtTR where
  t : TReg
  k1 : Bool
  ka : Bool
  g : PReg
deriving DecidableEq, Repr

/-- Format N of TMOV. -/
structure FmtTM where
  t : TReg
  u : TReg
  k1 : Bool
  ka : Bool
  g : PReg
deriving DecidableEq, Repr

/-- Format N of TSTAT and TDIFF. -/
structure FmtTD where
  t : TReg
  d : Dst
  k1 : Bool
  ka : Bool
  g : PReg
deriving DecidableEq, Repr

/-- Format N of TNOW. -/
structure FmtND where
  d : Dst
  k1 : Bool
  ka : Bool
  g : PReg
deriving DecidableEq, Repr

/-- Format N of TSET (K1 = 0) and TSET.CLR (K1 = 1). -/
structure FmtTS where
  a : Src
  t : TReg
  ka : Bool
  g : PReg
deriving DecidableEq, Repr

/-- Format N of TRAP and BKPT. -/
structure FmtK where
  k : BitVec 7
  k1 : Bool
  ka : Bool
deriving DecidableEq, Repr

/-- Format N of ERET, where K1 selects the form. -/
structure FmtKA where
  ka : Bool
deriving DecidableEq, Repr

/-- Values of the SYS family, held per group (R400). -/
inductive GroupVal
  | coreid | grantX | grantY | grantW | grantH | codeBase | codeBaseHi | whereAt | mode | flags | fmask | tcause
  | tframe | context | restart
deriving DecidableEq, Repr

/-- Values of the SYS family, held per thread (R400). -/
inductive ThreadVal
  | epc | estate | eaddr | eaddrHi
deriving DecidableEq, Repr

/-- SRD (K1 = 0). -/
structure FmtSrd where
  val : GroupVal
  d : UDst
  ka : Bool
deriving DecidableEq, Repr

/-- SRD.V (K1 = 1). -/
structure FmtSrdV where
  val : ThreadVal
  d : Dst
  ka : Bool
  g : PReg
deriving DecidableEq, Repr

/-- SWR (K1 = 0): MODE (`false`) or FLAGS (`true`). -/
structure FmtSwr where
  flags : Bool
  a : USrc
  ka : Bool
deriving DecidableEq, Repr

/-- SWR.V (K1 = 1): the one writable per-thread value is EPC. -/
structure FmtSwrV where
  a : Src
  ka : Bool
  g : PReg
deriving DecidableEq, Repr

/-- Format N of CBIND. -/
structure FmtCb where
  a : Src
  c : CReg
  k1 : Bool
  ka : Bool
deriving DecidableEq, Repr

/-- Format N of CUNBIND. -/
structure FmtCu where
  c : CReg
  k1 : Bool
  ka : Bool
deriving DecidableEq, Repr

/-- Fault causes (R365). -/
inductive Cause
  | illegalInstr | illegalOperand | index | place | page | perm | align | atomType | timeBreach | engineLate
  | futureOrder | idemViolation | deckNoRestart | uncorrectable | barrierBroken | breakpoint | trap
deriving DecidableEq, Repr

/-- A rotation slot: core identifier (R29), span of the core (R48), slot of the span (R77). -/
structure Place where
  core : BitVec 10
  span : BitVec 4
  slot : BitVec 3
deriving DecidableEq, Repr

/-- The fields of a management header a command carries (R433): the session it came in (none: outside a session),
its tag and its context number; and the port that the session is carried by (R440). -/
structure MgmtHead where
  session : Option Nat
  tag : BitVec 16
  ctx : BitVec 16
  port : BitVec 3 := 0
deriving DecidableEq, Repr

/-- The algorithms a NEGOTIATE_ALGORITHMS request offers (R431). -/
structure SpdmAlgorithms where
  ecdsaP384 : Bool
  sha384 : Bool
  ecdheP384 : Bool
  aes256Gcm : Bool
deriving DecidableEq, Repr

/-- The payload of HWINSET (R438). -/
structure WindowSetting where
  window : BitVec 3
  endpoint : Nat
  base : Nat
  len : Nat
  r : Bool
  w : Bool
  a : Bool
deriving DecidableEq, Repr

/-- What DBGRUN resumes (R445, R447). -/
inductive RunTarget
  /-- one halted group -/
  | group (g : Nat)
  /-- a die halted by DBGHALT with die scope; the new durations of some promises whose slots fell within the halt (R228);
  any other's is the hardware's -/
  | die (d : Nat) (durations : List (Nat × Nat))
deriving DecidableEq, Repr

/-- A field of a loop level. -/
inductive LoopField
  | counter | start | stop
deriving DecidableEq, Repr

/-- What DBGREAD and DBGWRITE name (R445). -/
inductive DebugItem
  | v (slot : BitVec 5) (r : VReg)
  | x (slot : BitVec 5) (k : BitVec 7)
  | s (r : SReg)
  | p (slot : BitVec 5) (r : PReg)
  | i (slot : BitVec 5) (r : IReg)
  | t (slot : BitVec 5) (r : TReg)
  | loop (level : Nat) (f : LoopField)
  | pc (slot : BitVec 5)
deriving DecidableEq, Repr

/-- The payload of TRCSTART (R448, R449): for each compute die the pages of its trace unit (virtual address, 64 KiB or
4 KiB; none where that unit is not to start), the record mask, the mode, and the sampling period exponent. -/
structure TraceSetting where
  pages : List (List (DWord × Bool))
  mask : Byte
  wrap : Bool
  period : Option Nat
deriving DecidableEq, Repr

/-- The payload of LINKSET (R443, R444): a Viaduct link's width, or a die's fabric frequency in MHz. -/
inductive LinkRequest
  | width (link : Nat) (full : Bool)
  | freq (die : Nat) (mhz : Nat)
deriving DecidableEq, Repr

/-- What MONREAD reads (R442). -/
inductive MonUnit
  | die (n : Nat)
  | cluster (n : Nat)
deriving DecidableEq, Repr

/-- Atomic operations a host or a peer module asks for over a port (R308, R439). -/
inductive UeAtomic
  | add (wide : Bool) | exch (wide : Bool) | cas (wide : Bool)
deriving DecidableEq, Repr

/-- What a request over a port asks for (R439, R441), at a physical address. -/
inductive UeKind
  | read (pa : Nat) (len : Nat)
  | write (pa : Nat) (data : List Byte)
  | atomic (op : UeAtomic) (pa : Nat) (x : DWord) (y : DWord)
  /-- a collective's request of another module -/
  | collective
  /-- a packet that asks for a delivery mode the module does not implement -/
  | unsupported
deriving DecidableEq, Repr

/-- A reading of a sensor (R442): its unit and its temperature in °C. -/
structure TempReading where
  unit : Nat
  temp : Nat
deriving DecidableEq, Repr

/-- A reading of a die's hottest core sensor (R442), and for how many microseconds it has stood so. -/
structure HeatReading where
  die : Nat
  temp : Nat
  us : Nat
deriving DecidableEq, Repr

/-- A die's reading (R442) and whether its supply is below its limit. -/
structure DroopReading where
  die : Nat
  temp : Nat
  droop : Bool
deriving DecidableEq, Repr

/-- What a scrub of a group's registers meets (R393, R395), by lane and REG of R398: words that it finds uncorrectable, and
words that errors have struck behind it. -/
structure ScrubWords where
  bad : List (BitVec 5 × Nat)
  struck : List (BitVec 5 × Nat)
deriving DecidableEq, Repr

/-- A power-on (R428, R429): the dies that stay in reset, and, where the stored image fails its verification, the image that
the boot ROM fetches over port 0. -/
structure BootTrial where
  failed : List Nat
  recovery : Option (List Byte)
deriving DecidableEq, Repr

/-- A request that arrives at a port, from a host or from another module (R38). -/
structure UeRequest where
  port : BitVec 3
  peer : Bool
  kind : UeKind
deriving DecidableEq, Repr

/-- Every instruction and every step of spec/opcode_table.json, one constructor each. -/
inductive Instr
  /-- ADD_16 (R106) -/
  | add16 (o : Fmt16)
  /-- SUB_16 (R106) -/
  | sub16 (o : Fmt16)
  /-- AND_16 (R106) -/
  | and16 (o : Fmt16)
  /-- OR_16 (R106) -/
  | or16 (o : Fmt16)
  /-- XOR_16 (R106) -/
  | xor16 (o : Fmt16)
  /-- SHL_16 (R106) -/
  | shl16 (o : Fmt16)
  /-- SHR_16 (R106) -/
  | shr16 (o : Fmt16)
  /-- MIN_16 (R106) -/
  | min16 (o : Fmt16)
  /-- MAX_16 (R106) -/
  | max16 (o : Fmt16)
  /-- MOV_16 (R106) -/
  | mov16 (o : Fmt16)
  /-- FADD_16 (R106) -/
  | fadd16 (o : Fmt16)
  /-- FMUL_16 (R106) -/
  | fmul16 (o : Fmt16)
  /-- FMAC_16 (R106) -/
  | fmac16 (o : Fmt16)
  /-- PADD2_16 (R106) -/
  | padd2s16 (o : Fmt16)
  /-- PFMA2_16 (R106) -/
  | pfma2s16 (o : Fmt16)
  /-- FMAX_16 (R106) -/
  | fmax16 (o : Fmt16)
  /-- ADD (R143) -/
  | add (o : FmtA)
  /-- SUB (R143) -/
  | sub (o : FmtA)
  /-- MULLO (R143) -/
  | mullo (o : FmtA)
  /-- MULHI (R143) -/
  | mulhi (o : FmtA)
  /-- MULHIU (R143) -/
  | mulhiu (o : FmtA)
  /-- MAD (R143) -/
  | mad (o : FmtA)
  /-- ABSDIFF (R143) -/
  | absdiff (o : FmtA)
  /-- AVG (R143) -/
  | avg (o : FmtA)
  /-- MIN (R143) -/
  | min (o : FmtA)
  /-- MAX (R143) -/
  | max (o : FmtA)
  /-- MINU (R143) -/
  | minu (o : FmtA)
  /-- MAXU (R143) -/
  | maxu (o : FmtA)
  /-- AND (R143) -/
  | and (o : FmtA)
  /-- OR (R143) -/
  | or (o : FmtA)
  /-- XOR (R143) -/
  | xor (o : FmtA)
  /-- ANDN (R143) -/
  | andn (o : FmtA)
  /-- SHL (R143) -/
  | shl (o : FmtA)
  /-- SHR (R143) -/
  | shr (o : FmtA)
  /-- SAR (R143) -/
  | sar (o : FmtA)
  /-- ROTL (R143) -/
  | rotl (o : FmtA)
  /-- BFX (R144) -/
  | bfx (o : FmtA)
  /-- BFI (R144) -/
  | bfi (o : FmtA)
  /-- LEA2 (R143) -/
  | lea2 (o : FmtA)
  /-- LEA3 (R143) -/
  | lea3 (o : FmtA)
  /-- SELP (R145) -/
  | selp (o : FmtSel)
  /-- ADD64 (R146) -/
  | add64 (o : FmtA)
  /-- SUB64 (R146) -/
  | sub64 (o : FmtA)
  /-- SHL64 (R146) -/
  | shl64 (o : FmtA)
  /-- SHR64 (R146) -/
  | shr64 (o : FmtA)
  /-- ICMP (R147) -/
  | icmp (o : FmtIC)
  /-- FCMP (R193) -/
  | fcmp (o : FmtFC)
  /-- ADDI (R148) -/
  | addi (o : FmtI)
  /-- ANDI (R148) -/
  | andi (o : FmtI)
  /-- ORI (R148) -/
  | ori (o : FmtI)
  /-- XORI (R148) -/
  | xori (o : FmtI)
  /-- SHIFTI (R149) -/
  | shifti (o : FmtShift)
  /-- MULI (R148) -/
  | muli (o : FmtI)
  /-- SADDI (R148) -/
  | saddi (o : FmtUI)
  /-- LUI (R150) -/
  | lui (o : FmtL)
  /-- LLO (R150) -/
  | llo (o : FmtLo)
  /-- ADR (R150) -/
  | adr (o : FmtL)
  /-- SLUI (R150) -/
  | slui (o : FmtUL)
  /-- SLLO (R150) -/
  | sllo (o : FmtULo)
  /-- MOV (R152) -/
  | mov (o : FmtN)
  /-- NOT (R152) -/
  | not (o : FmtN)
  /-- NEG (R152) -/
  | neg (o : FmtN)
  /-- ABS (R152) -/
  | abs (o : FmtN)
  /-- CLZ (R152) -/
  | clz (o : FmtN)
  /-- CTZ (R152) -/
  | ctz (o : FmtN)
  /-- POPC (R152) -/
  | popc (o : FmtN)
  /-- BREV (R152) -/
  | brev (o : FmtN)
  /-- BSWAP (R152) -/
  | bswap (o : FmtN)
  /-- SEXT8 (R152) -/
  | sext8 (o : FmtN)
  /-- SEXT16 (R152) -/
  | sext16 (o : FmtN)
  /-- MOV64 (R152) -/
  | mov64 (o : FmtN)
  /-- MOVX (R153) -/
  | movx (o : FmtIdx)
  /-- MOVXW (R153) -/
  | movxw (o : FmtIdxA)
  /-- ISET (R154) -/
  | iset (o : FmtIdxA)
  /-- IGET (R154) -/
  | iget (o : FmtIdx)
  /-- SCAN (R157) -/
  | scan (o : FmtScan)
  /-- DELAY (R158) -/
  | delay (o : FmtN)
  /-- PERM (R158) -/
  | perm (o : FmtN)
  /-- BFIRST (R159) -/
  | bfirst (o : FmtN)
  /-- BLAST (R159) -/
  | blast (o : FmtN)
  /-- RANK (R159) -/
  | rank (o : FmtN)
  /-- MATCH (R159) -/
  | matchLanes (o : FmtN)
  /-- REDUCE (R160) -/
  | reduce (o : FmtRed)
  /-- VOTE (R160) -/
  | vote (o : FmtVote)
  /-- PAND (R163) -/
  | pand (o : FmtPL)
  /-- POR (R163) -/
  | por (o : FmtPL)
  /-- PXOR (R163) -/
  | pxor (o : FmtPL)
  /-- PTEST (R163) -/
  | ptest (o : FmtPA)
  /-- PBIT (R163) -/
  | pbit (o : FmtPA)
  /-- PGET (R163) -/
  | pget (o : FmtPG)
  /-- SADD (R164) -/
  | sadd (o : FmtUA)
  /-- SSUB (R164) -/
  | ssub (o : FmtUA)
  /-- SMUL (R164) -/
  | smul (o : FmtUA)
  /-- SAND (R164) -/
  | sand (o : FmtUA)
  /-- SOR (R164) -/
  | sor (o : FmtUA)
  /-- SXOR (R164) -/
  | sxor (o : FmtUA)
  /-- SSHL (R164) -/
  | sshl (o : FmtUA)
  /-- SSHR (R164) -/
  | sshr (o : FmtUA)
  /-- SMOV (R166) -/
  | smov (o : FmtU)
  /-- SFROMV (R166) -/
  | sfromv (o : FmtUV)
  /-- SLD (R167) -/
  | sld (o : FmtU)
  /-- SLDD (R167) -/
  | sldd (o : FmtU)
  /-- SREAD (R166) -/
  | sread (o : FmtUV)
  /-- SWRITE (R166) -/
  | swrite (o : FmtVU)
  /-- SPOPC (R166) -/
  | spopc (o : FmtU)
  /-- SCTZ (R166) -/
  | sctz (o : FmtU)
  /-- SCLZ (R166) -/
  | sclz (o : FmtU)
  /-- BRA_ALWAYS (R169) -/
  | braAlways (o : FmtJ)
  /-- BRA_THR (R169) -/
  | braThr (o : FmtB)
  /-- BRA_THR_NOT (R169) -/
  | braThrNot (o : FmtB)
  /-- BRA_ANY (R169) -/
  | braAny (o : FmtB)
  /-- BRA_ALL (R169) -/
  | braAll (o : FmtB)
  /-- BRA_NONE (R169) -/
  | braNone (o : FmtB)
  /-- BRT (R170) -/
  | brt (o : FmtBT)
  /-- LOOP (R53) -/
  | loop (o : FmtLoop)
  /-- CALL (R172) -/
  | call (o : FmtJ)
  /-- NOP (R174) -/
  | nop (o : FmtNG)
  /-- JMP (R174) -/
  | jmp (o : FmtNA)
  /-- CALLR (R174) -/
  | callr (o : FmtUO)
  /-- RET (R174) -/
  | ret (o : FmtUO)
  /-- BRKLOOP (R174) -/
  | brkloop (o : FmtNG)
  /-- ENDTURN (R174) -/
  | endturn (o : FmtNK)
  /-- YIELD (R174) -/
  | yield (o : FmtNK)
  /-- FADD (R191) -/
  | fadd (o : FmtA)
  /-- FSUB (R191) -/
  | fsub (o : FmtA)
  /-- FMUL (R191) -/
  | fmul (o : FmtA)
  /-- FFMA (R191) -/
  | ffma (o : FmtA)
  /-- FMIN (R192) -/
  | fmin (o : FmtA)
  /-- FMAX (R192) -/
  | fmax (o : FmtA)
  /-- FFMAL (R191) -/
  | ffmal (o : FmtA)
  /-- FNMA (R191) -/
  | fnma (o : FmtA)
  /-- PADD2 (R191) -/
  | padd2 (o : FmtA)
  /-- PMUL2 (R191) -/
  | pmul2 (o : FmtA)
  /-- PFMA2 (R191) -/
  | pfma2 (o : FmtA)
  /-- PMAX2 (R192) -/
  | pmax2 (o : FmtA)
  /-- DADD (R191) -/
  | dadd (o : FmtA)
  /-- DSUB (R191) -/
  | dsub (o : FmtA)
  /-- DMUL (R191) -/
  | dmul (o : FmtA)
  /-- DFMA (R191) -/
  | dfma (o : FmtA)
  /-- DMIN (R192) -/
  | dmin (o : FmtA)
  /-- DMAX (R192) -/
  | dmax (o : FmtA)
  /-- FNEG (R195) -/
  | fneg (o : FmtN)
  /-- FABS (R195) -/
  | fabs (o : FmtN)
  /-- FSQRT (R195) -/
  | fsqrt (o : FmtN)
  /-- FRCP (R195) -/
  | frcp (o : FmtN)
  /-- FRSQ (R196) -/
  | frsq (o : FmtN)
  /-- FEXP2 (R196) -/
  | fexp2 (o : FmtN)
  /-- FLOG2 (R196) -/
  | flog2 (o : FmtN)
  /-- FSINPI (R196) -/
  | fsinpi (o : FmtN)
  /-- FCOSPI (R196) -/
  | fcospi (o : FmtN)
  /-- FRINT (R195) -/
  | frint (o : FmtN)
  /-- FCLASS (R195) -/
  | fclass (o : FmtN)
  /-- DNEG (R195) -/
  | dneg (o : FmtN)
  /-- DABS (R195) -/
  | dabs (o : FmtN)
  /-- DSQRT (R195) -/
  | dsqrt (o : FmtN)
  /-- DRCP (R195) -/
  | drcp (o : FmtN)
  /-- DRINT (R195) -/
  | drint (o : FmtN)
  /-- DCLASS (R195) -/
  | dclass (o : FmtN)
  /-- PNEG2 (R195) -/
  | pneg2 (o : FmtN)
  /-- PABS2 (R195) -/
  | pabs2 (o : FmtN)
  /-- CVT_F32_I32 (R198) -/
  | cvtF32I32 (o : FmtCvt)
  /-- CVT_F32_N32 (R198) -/
  | cvtF32N32 (o : FmtCvt)
  /-- CVT_I32_F32 (R198) -/
  | cvtI32F32 (o : FmtCvt)
  /-- CVT_N32_F32 (R198) -/
  | cvtN32F32 (o : FmtCvt)
  /-- CVT_F64_F32 (R198) -/
  | cvtF64F32 (o : FmtCvt)
  /-- CVT_F32_F64 (R198) -/
  | cvtF32F64 (o : FmtCvt)
  /-- CVT_F64_I32 (R198) -/
  | cvtF64I32 (o : FmtCvt)
  /-- CVT_I32_F64 (R198) -/
  | cvtI32F64 (o : FmtCvt)
  /-- CVT_F32_F16 (R198) -/
  | cvtF32F16 (o : FmtCvt)
  /-- CVT_F16X2_F32X2 (R198) -/
  | cvtF16x2F32x2 (o : FmtCvt)
  /-- CVT_BF16X2_F32X2 (R198) -/
  | cvtBf16x2F32x2 (o : FmtCvt)
  /-- CVT_BF16X4_E8X4 (R198) -/
  | cvtBf16x4E8x4 (o : FmtCvt)
  /-- CVT_E4M3X4_BF16X4 (R198) -/
  | cvtE4m3x4Bf16x4 (o : FmtCvt)
  /-- CVT_E5M2X4_BF16X4 (R198) -/
  | cvtE5m2x4Bf16x4 (o : FmtCvt)
  /-- CVT_BF16X2_B4 (R199) -/
  | cvtBf16x2B4 (o : FmtCvt)
  /-- CVT_B4_F32 (R200) -/
  | cvtB4F32 (o : FmtCvt)
  /-- LDW (R240) -/
  | ldw (o : FmtLd)
  /-- LDD (R240) -/
  | ldd (o : FmtLd)
  /-- LDQ (R240) -/
  | ldq (o : FmtLd)
  /-- LDSUB (R242) -/
  | ldsub (o : FmtLdSub)
  /-- STW (R241) -/
  | stw (o : FmtSt)
  /-- STD (R241) -/
  | std (o : FmtSt)
  /-- STQ (R241) -/
  | stq (o : FmtSt)
  /-- STSUB (R242) -/
  | stsub (o : FmtStSub)
  /-- ATOM32_ADD_I32 (R306) -/
  | atom32AddI32 (o : FmtT)
  /-- ATOM32_ADD_F32 (R306) -/
  | atom32AddF32 (o : FmtT)
  /-- ATOM32_MIN_I32 (R306) -/
  | atom32MinI32 (o : FmtT)
  /-- ATOM32_MIN_N32 (R306) -/
  | atom32MinN32 (o : FmtT)
  /-- ATOM32_MIN_F32 (R306) -/
  | atom32MinF32 (o : FmtT)
  /-- ATOM32_MAX_I32 (R306) -/
  | atom32MaxI32 (o : FmtT)
  /-- ATOM32_MAX_N32 (R306) -/
  | atom32MaxN32 (o : FmtT)
  /-- ATOM32_MAX_F32 (R306) -/
  | atom32MaxF32 (o : FmtT)
  /-- ATOM32_AND_B32 (R306) -/
  | atom32AndB32 (o : FmtT)
  /-- ATOM32_OR_B32 (R306) -/
  | atom32OrB32 (o : FmtT)
  /-- ATOM32_XOR_B32 (R306) -/
  | atom32XorB32 (o : FmtT)
  /-- ATOM32_EXCH_B32 (R306) -/
  | atom32ExchB32 (o : FmtT)
  /-- ATOM32_CAS_B32 (R306) -/
  | atom32CasB32 (o : FmtT)
  /-- ATOM64_ADD_I64 (R306) -/
  | atom64AddI64 (o : FmtT)
  /-- ATOM64_ADD_F64 (R306) -/
  | atom64AddF64 (o : FmtT)
  /-- ATOM64_MIN_I64 (R306) -/
  | atom64MinI64 (o : FmtT)
  /-- ATOM64_MIN_N64 (R306) -/
  | atom64MinN64 (o : FmtT)
  /-- ATOM64_MIN_F64 (R306) -/
  | atom64MinF64 (o : FmtT)
  /-- ATOM64_MAX_I64 (R306) -/
  | atom64MaxI64 (o : FmtT)
  /-- ATOM64_MAX_N64 (R306) -/
  | atom64MaxN64 (o : FmtT)
  /-- ATOM64_MAX_F64 (R306) -/
  | atom64MaxF64 (o : FmtT)
  /-- ATOM64_AND_B64 (R306) -/
  | atom64AndB64 (o : FmtT)
  /-- ATOM64_OR_B64 (R306) -/
  | atom64OrB64 (o : FmtT)
  /-- ATOM64_XOR_B64 (R306) -/
  | atom64XorB64 (o : FmtT)
  /-- ATOM64_EXCH_B64 (R306) -/
  | atom64ExchB64 (o : FmtT)
  /-- ATOM64_CAS_B64 (R306) -/
  | atom64CasB64 (o : FmtT)
  /-- ATOMX_ADD_BF16 (R306) -/
  | atomxAddBf16 (o : FmtT)
  /-- ATOMX_MIN_BF16 (R306) -/
  | atomxMinBf16 (o : FmtT)
  /-- ATOMX_MAX_BF16 (R306) -/
  | atomxMaxBf16 (o : FmtT)
  /-- ATOMX_ADD_BF16X2 (R306) -/
  | atomxAddBf16x2 (o : FmtT)
  /-- ATOMX_MIN_BF16X2 (R306) -/
  | atomxMinBf16x2 (o : FmtT)
  /-- ATOMX_MAX_BF16X2 (R306) -/
  | atomxMaxBf16x2 (o : FmtT)
  /-- ATOMX_ADD_F16X2 (R306) -/
  | atomxAddF16x2 (o : FmtT)
  /-- ATOMX_MIN_F16X2 (R306) -/
  | atomxMinF16x2 (o : FmtT)
  /-- ATOMX_MAX_F16X2 (R306) -/
  | atomxMaxF16x2 (o : FmtT)
  /-- ATOMX_EXCH_B128 (R306) -/
  | atomxExchB128 (o : FmtT)
  /-- ATOMX_CAS_B128 (R306) -/
  | atomxCasB128 (o : FmtT)
  /-- PIN (R245) -/
  | pin (o : FmtN)
  /-- UNPIN (R245) -/
  | unpin (o : FmtNA)
  /-- CFLUSH (R246) -/
  | cflush (o : FmtNA)
  /-- CINV (R246) -/
  | cinv (o : FmtNA)
  /-- MCRD (R248) -/
  | mcrd (o : FmtE)
  /-- MCST (R247) -/
  | mcst (o : FmtNB)
  /-- MSEND (R251) -/
  | msend (o : FmtNB)
  /-- MWAIT (R252) -/
  | mwait (o : FmtNA)
  /-- BAR_ARRIVE (R328) -/
  | barArrive (o : FmtBarA)
  /-- BAR_WAIT (R329) -/
  | barWait (o : FmtBarW)
  /-- BOSET (R332) -/
  | boset (o : FmtNB)
  /-- BOADD (R332) -/
  | boadd (o : FmtNB)
  /-- BOWAIT (R333) -/
  | bowait (o : FmtNB)
  /-- FENCE (R326) -/
  | fence (o : FmtFence)
  /-- QTAKE (R334) -/
  | qtake (o : FmtUD)
  /-- QPOST (R335) -/
  | qpost (o : FmtU)
  /-- QPOST_STATUS (R335) -/
  | qpostStatus (id : Nat)
  /-- TASKEND (R336) -/
  | taskend (o : FmtNG)
  /-- FINIT (R338) -/
  | finit (o : FmtFin)
  /-- FINIT_FULL (R338) -/
  | finitFull (o : FmtFin)
  /-- FGET (R339) -/
  | fget (o : FmtN)
  /-- FGET_ANSWER (R339) -/
  | fgetAnswer (id : Nat)
  /-- FFILL (R338) -/
  | ffill (o : FmtNB)
  /-- HELD_ENTRY_ENQUEUE (R338) -/
  | heldEntryEnqueue (ctx : Nat) (queue : Nat)
  /-- CPY (R263) -/
  | cpy (o : FmtE)
  /-- CPYX (R264) -/
  | cpyx (o : FmtE)
  /-- COLL (R267) -/
  | coll (o : FmtE)
  /-- ESTAT (R270) -/
  | estat (o : FmtEst)
  /-- MMA (R355) -/
  | mma (o : FmtMma)
  /-- MMA_RA (R355) -/
  | mmaRa (o : FmtMmaR)
  /-- MMA_RB (R355) -/
  | mmaRb (o : FmtMmaR)
  /-- DZERO (R357) -/
  | dzero (o : FmtZ)
  /-- DZERO_FREE (R357) -/
  | dzeroFree (o : FmtZ)
  /-- DRDROW (R358) -/
  | drdrow (o : FmtRow)
  /-- DRDCOL (R358) -/
  | drdcol (o : FmtRow)
  /-- DWRROW (R358) -/
  | dwrrow (o : FmtRow)
  /-- DRESTART (R359) -/
  | drestart (o : FmtUO)
  /-- TWAIT (R254) -/
  | twait (o : FmtTR)
  /-- TWAITANY (R254) -/
  | twaitany (o : FmtNA)
  /-- TMIN (R255) -/
  | tmin (o : FmtN)
  /-- TMOV (R256) -/
  | tmov (o : FmtTM)
  /-- TSTAT (R257) -/
  | tstat (o : FmtTD)
  /-- TSET (R256) -/
  | tset (o : FmtTS)
  /-- TSET_CLR (R256) -/
  | tsetClr (o : FmtTS)
  /-- TNOW (R257) -/
  | tnow (o : FmtND)
  /-- TDIFF (R257) -/
  | tdiff (o : FmtTD)
  /-- YIELDT (R254) -/
  | yieldt (o : FmtTR)
  /-- TRAP (R401) -/
  | trap (o : FmtK)
  /-- BKPT (R401) -/
  | bkpt (o : FmtK)
  /-- ERET (R402) -/
  | eret (o : FmtKA)
  /-- ERET_FAIL (R402) -/
  | eretFail (o : FmtKA)
  /-- SRD (R403) -/
  | srd (o : FmtSrd)
  /-- SRD_V (R403) -/
  | srdV (o : FmtSrdV)
  /-- SWR (R403) -/
  | swr (o : FmtSwr)
  /-- SWR_V (R403) -/
  | swrV (o : FmtSwrV)
  /-- IDEMB (R383) -/
  | idemb (o : FmtNK)
  /-- IDEME (R383) -/
  | ideme (o : FmtNK)
  /-- CBIND (R405) -/
  | cbind (o : FmtCb)
  /-- CUNBIND (R405) -/
  | cunbind (o : FmtCu)
  /-- TURN_START (R77) -/
  | turnStart (place : Place) (elapsed : Nat)
  /-- CODE_FETCH_RETURN (R48) -/
  | codeFetchReturn (id : Nat)
  /-- PROBE_ANSWER (R227) -/
  | probeAnswer (id duration : Nat)
  /-- LOAD_VALUE_ARRIVAL (R240) -/
  | loadValueArrival (id : Nat)
  /-- BREACH_NOTICE (R228) -/
  | breachNotice (id duration : Nat)
  /-- PROMISE_WITHDRAWAL (R230) -/
  | promiseWithdrawal (id : Nat) (cause : Cause)
  /-- PROMISE_LATE (R227) -/
  | promiseLate (id : Nat)
  /-- TRANSLATION_WALK (R390) -/
  | translationWalk (id : Nat)
  /-- SLICE_ADMIT (R225) -/
  | sliceAdmit (id : Nat) (slot : Nat)
  /-- LINE_READ_SERVE (R250) -/
  | lineReadServe (line : Nat)
  /-- HOME_WRITE_APPLY (R286) -/
  | homeWriteApply (id : Nat)
  /-- MARKER_PROCESS (R281) -/
  | markerProcess (source : Nat) (sink : Nat)
  /-- ATOMIC_HOME_STEP (R306) -/
  | atomicHomeStep (id : Nat)
  /-- ATOMIC_REPLY (R313) -/
  | atomicReply (id : Nat)
  /-- PIN_OUTCOME (R245) -/
  | pinOutcome (id : Nat)
  /-- MESSAGE_APPEND (R221) -/
  | messageAppend (id : Nat)
  /-- REDUCTION_ENTRY_LEAVE (R316) -/
  | reductionEntryLeave (core : Nat) (key : Nat)
  /-- OVERFLOW_DRAIN (R317) -/
  | overflowDrain (ctx : Nat) (die : Nat)
  /-- TASK_END_UPDATE (R65) -/
  | taskEndUpdate (id : Nat)
  /-- HOST_ENQUEUE (R409) -/
  | hostEnqueue (ctx : Nat) (session : Nat) (queue : Nat) (image : List Byte)
  /-- DEP_COUNTER_NOTICE (R410) -/
  | depCounterNotice (entry : Nat)
  /-- AGING_TICK (R411) -/
  | agingTick (entry : Nat)
  /-- ENTRY_PULL (R412) -/
  | entryPull (die : Nat)
  /-- TASK_START (R58) -/
  | taskStart (entry : Nat)
  /-- ENGINE_QUOTE (R261) -/
  | engineQuote (id : Nat) (time : Word)
  /-- ENGINE_START (R262) -/
  | engineStart (id : Nat)
  /-- ENGINE_COMPLETE (R261) -/
  | engineComplete (id : Nat)
  /-- MCRD_RECEIVER_DELIVERY (R249) -/
  | mcrdReceiverDelivery (id : Nat) (receiver : Nat)
  /-- COLL_INSTANCE_FORM (R268) -/
  | collInstanceForm (id : Nat) (agrees : Bool)
  /-- DECK_OP_START (R362) -/
  | deckOpStart (quad : Nat)
  /-- DECK_READ_READY (R362) -/
  | deckReadReady (quad : Nat)
  /-- DECK_OP_COMPLETE (R362) -/
  | deckOpComplete (quad : Nat)
  /-- DZERO_WAIT_TIMEOUT (R345) -/
  | dzeroWaitTimeout (group : Nat)
  /-- QUANTUM_EXPIRY (R420) -/
  | quantumExpiry (core : Nat) (span : Nat)
  /-- GROUP_SAVE (R375) -/
  | groupSave (group : Nat)
  /-- GROUP_RESIDENT (R417) -/
  | groupResident (group : Nat)
  /-- COMPACTION (R418) -/
  | compaction (core : Nat) (span : Nat)
  /-- DET_ROUND_START (R422) -/
  | detRoundStart (ctx : Nat)
  /-- REGISTER_SCRUB (R395): corrected words, uncorrectable ones, whether group control state is uncorrectable (R396) -/
  | registerScrub (group : Nat) (corrected : Nat) (words : ScrubWords) (control : Bool)
  /-- DIE_FENCE (R396) -/
  | dieFence (die : Nat)
  /-- LINK_RETRY (R228) -/
  | linkRetry (link : Nat) (ids : List Nat) (duration : Nat)
  /-- CORRECTED_MEMORY_ERROR (R228) -/
  | correctedMemoryError (mdie : Nat) (ids : List Nat) (duration : Nat)
  /-- CLOCK_STEP_DOWN (R442) -/
  | clockStepDown (r : HeatReading)
  /-- CLOCK_STEP_UP (R442) -/
  | clockStepUp (r : HeatReading)
  /-- EMERGENCY_THROTTLE (R232, R442): the reading, the promises it makes late and their new duration -/
  | emergencyThrottle (r : DroopReading) (ids : List Nat) (duration : Nat)
  /-- REFRESH_DOUBLE (R442): a memory die's reading -/
  | refreshDouble (r : TempReading)
  /-- SENSOR_OVERTEMP_FENCE (R442): a compute die's reading -/
  | sensorOvertempFence (r : TempReading)
  /-- FREQUENCY_SWITCH (R232) -/
  | frequencySwitch (die : Nat)
  /-- LINK_WIDTH_REDUCE (R443) -/
  | linkWidthReduce (link : Nat) (failing : Bool)
  /-- LINK_WIDTH_INCREASE (R443) -/
  | linkWidthIncrease (link : Nat)
  /-- VIADUCT_PATH_CHANGE (R20) -/
  | viaductPathChange (link : Nat) (back : Bool)
  /-- POWER_ON (R428, R429) -/
  | powerOn (trial : BootTrial)
  /-- UE_INBOUND_REQUEST (R439) -/
  | ueInboundRequest (r : UeRequest)
  /-- REMOTE_WRITE_ACK (R301) -/
  | remoteWriteAck (id : Nat)
  /-- GET_VERSION (R431) -/
  | getVersion (conn : Nat)
  /-- GET_CAPABILITIES (R431) -/
  | getCapabilities (conn : Nat) (version : Nat)
  /-- NEGOTIATE_ALGORITHMS (R431) -/
  | negotiateAlgorithms (conn : Nat) (offered : SpdmAlgorithms)
  /-- GET_DIGESTS (R431) -/
  | getDigests (conn : Nat)
  /-- GET_CERTIFICATE (R431) -/
  | getCertificate (conn : Nat) (slot : Nat) (offset : Nat) (len : Nat)
  /-- CHALLENGE (R431) -/
  | challenge (conn : Nat) (slot : Nat) (nonce : Nat)
  /-- GET_MEASUREMENTS (R431) -/
  | getMeasurements (conn : Nat) (block : Nat)
  /-- KEY_EXCHANGE (R431) -/
  | keyExchange (conn : Nat) (slot : Nat) (pub : Nat)
  /-- FINISH (R431) -/
  | finish (session : Nat) (verified : Bool)
  /-- HEARTBEAT (R431) -/
  | heartbeat (session : Nat)
  /-- KEY_UPDATE (R431) -/
  | keyUpdate (session : Nat)
  /-- END_SESSION (R431) -/
  | endSession (session : Nat)
  /-- SPDM_UNSUPPORTED (R431) -/
  | spdmUnsupported (conn : Nat) (code : Nat)
  /-- MGMT_MALFORMED (R433): the 16 bytes of the message's header -/
  | mgmtMalformed (session : Option Nat) (port : BitVec 3) (head : List Byte)
  /-- CTXSTART (R407) -/
  | ctxstart (h : MgmtHead) (descriptor : Nat)
  /-- CTXEND (R434) -/
  | ctxend (h : MgmtHead)
  /-- CTXEND_COMPLETE (R434) -/
  | ctxendComplete (ctx : Nat)
  /-- SUSPEND (R421) -/
  | suspend (h : MgmtHead)
  /-- RESUME (R421) -/
  | resume (h : MgmtHead)
  /-- TLBINV (R391) -/
  | tlbinv (h : MgmtHead) (base : DWord) (len : Nat) (force : Bool)
  /-- TLBINV_COMPLETE (R391) -/
  | tlbinvComplete (id : Nat)
  /-- HWINSET (R438) -/
  | hwinset (h : MgmtHead) (w : WindowSetting)
  /-- HWINSET_COMPLETE (R438) -/
  | hwinsetComplete (window : Nat)
  /-- KEYSET (R437) -/
  | keyset (h : MgmtHead) (mask : BitVec 64) (domain : Nat)
  /-- KEYERASE (R437) -/
  | keyerase (h : MgmtHead) (mask : BitVec 64) (domain : Nat)
  /-- MODSET (R38) -/
  | modset (h : MgmtHead) (number : BitVec 6)
  /-- FWUPDATE (R429) -/
  | fwupdate (h : MgmtHead) (piece : List Byte) (last : Bool)
  /-- DBGATTACH (R445) -/
  | dbgattach (h : MgmtHead)
  /-- DBGHALT (R445) -/
  | dbghalt (h : MgmtHead) (group : Nat)
  /-- DBGHALT_DIE (R447) -/
  | dbghaltDie (h : MgmtHead) (die : Nat)
  /-- DBGRUN (R447) -/
  | dbgrun (h : MgmtHead) (target : RunTarget)
  /-- DBGSTEP (R446) -/
  | dbgstep (h : MgmtHead) (group : Nat) (slot : BitVec 5)
  /-- DBGREAD (R445) -/
  | dbgread (h : MgmtHead) (group : Nat) (item : DebugItem)
  /-- DBGWRITE (R445) -/
  | dbgwrite (h : MgmtHead) (group : Nat) (item : DebugItem) (value : DWord)
  /-- TRCSTART (R449) -/
  | trcstart (h : MgmtHead) (t : TraceSetting)
  /-- TRCSTOP (R449) -/
  | trcstop (h : MgmtHead)
  /-- MONREAD (R442) -/
  | monread (h : MgmtHead) (u : MonUnit)
  /-- LINKSET (R443) -/
  | linkset (h : MgmtHead) (r : LinkRequest)
  /-- PORTMODE (R440) -/
  | portmode (h : MgmtHead) (port : Nat) (mode : Nat)
  /-- PORT_RETRAIN_DONE (R440) -/
  | portRetrainDone (port : Nat)
  /-- STALL_SAMPLE (R448) -/
  | stallSample (core : Nat) (span : Nat)
  /-- POD_MODULE_LOSS (R330) -/
  | podModuleLoss (number : BitVec 6)
deriving DecidableEq, Repr

end Sys2Proof
end

