-- ==== Sys2Proof/Decode.lean ====
section
/-! DEFINITION. The encodings of R102 to R123 and of the minor tables: the encoder, and the decoder, total on any
bytes. A word is a natural number below 2^32, bit 0 least significant; `decode32` refuses (`none`) exactly where R121
says ILLEGAL_INSTR. An encoding whose operation is assigned and whose operand codes are not accepted decodes, and the
operand check (R121, R122) refuses it when a pass issues it: it is not well-formed. -/

namespace Sys2Proof

/-- The rows of spec/opcode_table.json that have an encoding. -/
inductive Row
  | add16 | sub16 | and16 | or16 | xor16 | shl16 | shr16 | min16 | max16 | mov16 | fadd16 | fmul16 | fmac16
  | padd2s16 | pfma2s16 | fmax16 | add | sub | mullo | mulhi | mulhiu | mad | absdiff | avg | min | max | minu
  | maxu | and | or | xor | andn | shl | shr | sar | rotl | bfx | bfi | lea2 | lea3 | selp | add64 | sub64 | shl64
  | shr64 | icmp | fcmp | addi | andi | ori | xori | shifti | muli | saddi | lui | llo | adr | slui | sllo | mov
  | not | neg | abs | clz | ctz | popc | brev | bswap | sext8 | sext16 | mov64 | movx | movxw | iset | iget | scan
  | delay | perm | bfirst | blast | rank | matchLanes | reduce | vote | pand | por | pxor | ptest | pbit | pget
  | sadd | ssub | smul | sand | sor | sxor | sshl | sshr | smov | sfromv | sld | sldd | sread | swrite | spopc
  | sctz | sclz | braAlways | braThr | braThrNot | braAny | braAll | braNone | brt | loop | call | nop | jmp
  | callr | ret | brkloop | endturn | yield | fadd | fsub | fmul | ffma | fmin | fmax | ffmal | fnma | padd2
  | pmul2 | pfma2 | pmax2 | dadd | dsub | dmul | dfma | dmin | dmax | fneg | fabs | fsqrt | frcp | frsq | fexp2
  | flog2 | fsinpi | fcospi | frint | fclass | dneg | dabs | dsqrt | drcp | drint | dclass | pneg2 | pabs2
  | cvtF32I32 | cvtF32N32 | cvtI32F32 | cvtN32F32 | cvtF64F32 | cvtF32F64 | cvtF64I32 | cvtI32F64 | cvtF32F16
  | cvtF16x2F32x2 | cvtBf16x2F32x2 | cvtBf16x4E8x4 | cvtE4m3x4Bf16x4 | cvtE5m2x4Bf16x4 | cvtBf16x2B4 | cvtB4F32
  | ldw | ldd | ldq | ldsub | stw | std | stq | stsub | atom32AddI32 | atom32AddF32 | atom32MinI32 | atom32MinN32
  | atom32MinF32 | atom32MaxI32 | atom32MaxN32 | atom32MaxF32 | atom32AndB32 | atom32OrB32 | atom32XorB32
  | atom32ExchB32 | atom32CasB32 | atom64AddI64 | atom64AddF64 | atom64MinI64 | atom64MinN64 | atom64MinF64
  | atom64MaxI64 | atom64MaxN64 | atom64MaxF64 | atom64AndB64 | atom64OrB64 | atom64XorB64 | atom64ExchB64
  | atom64CasB64 | atomxAddBf16 | atomxMinBf16 | atomxMaxBf16 | atomxAddBf16x2 | atomxMinBf16x2 | atomxMaxBf16x2
  | atomxAddF16x2 | atomxMinF16x2 | atomxMaxF16x2 | atomxExchB128 | atomxCasB128 | pin | unpin | cflush | cinv
  | mcrd | mcst | msend | mwait | barArrive | barWait | boset | boadd | bowait | fence | qtake | qpost | taskend
  | finit | finitFull | fget | ffill | cpy | cpyx | coll | estat | mma | mmaRa | mmaRb | dzero | dzeroFree | drdrow
  | drdcol | dwrrow | drestart | twait | twaitany | tmin | tmov | tstat | tset | tsetClr | tnow | tdiff | yieldt
  | trap | bkpt | eret | eretFail | srd | srdV | swr | swrV | idemb | ideme | cbind | cunbind
deriving DecidableEq, Repr

/-- The `n` bits of `w` from bit `lo` up. -/
def bits (w lo n : Nat) : Nat := w / 2 ^ lo % 2 ^ n

/-- The same, as a bit vector. -/
def field (w lo n : Nat) : BitVec n := BitVec.ofNat n (w / 2 ^ lo)

/-- Bit `lo` of `w`. -/
def bit (w lo : Nat) : Bool := w / 2 ^ lo % 2 == 1

/-- R116, from a code below 128. -/
def srcOfCode (c : Nat) : Src :=
  if c < 64 then .v (BitVec.ofNat 6 c)
  else if c = 64 then .l0
  else if c = 65 then .l1
  else if c = 66 then .q
  else if c = 67 then .zero
  else if c < 72 then .rsv (BitVec.ofNat 2 c)
  else if c < 80 then .c (BitVec.ofNat 3 c)
  else if c < 112 then .s (BitVec.ofNat 5 (c - 80))
  else .imm (BitVec.ofNat 4 (c - 104))

/-- R116. -/
def srcCode : Src → Nat
  | .v r => r.toNat
  | .l0 => 64
  | .l1 => 65
  | .q => 66
  | .zero => 67
  | .rsv n => 68 + n.toNat
  | .c k => 72 + k.toNat
  | .s r => 80 + r.toNat
  | .imm i => 112 + (i.toNat + 8) % 16

/-- R87, from a code below 128. -/
def dstOfCode (c : Nat) : Dst :=
  if c < 64 then .v (BitVec.ofNat 6 c) else if c = 64 then .sup else if c = 66 then .q
  else .rsv (BitVec.ofNat 6 c)

/-- R87. -/
def dstCode : Dst → Nat
  | .v r => r.toNat
  | .sup => 64
  | .q => 66
  | .rsv n => 64 + n.toNat

/-- R117, from a code below 128. -/
def usrcOfCode (c : Nat) : USrc :=
  if c < 64 then .s (BitVec.ofNat 6 c) else if c = 67 then .zero
  else if c < 112 then .rsv (BitVec.ofNat 6 c) else .imm (BitVec.ofNat 4 (c - 104))

/-- R117. -/
def usrcCode : USrc → Nat
  | .s r => r.toNat
  | .zero => 67
  | .imm i => 112 + (i.toNat + 8) % 16
  | .rsv n => 64 + n.toNat

/-- R117, from a code below 128. -/
def udstOfCode (c : Nat) : UDst :=
  if c < 64 then .s (BitVec.ofNat 6 c) else .rsv (BitVec.ofNat 6 c)

/-- R117. -/
def udstCode : UDst → Nat
  | .s r => r.toNat
  | .rsv n => 64 + n.toNat

/-- The b field of the 16-bit format (R105). -/
def b16Of (c : Nat) : Src :=
  if c < 24 then .v (BitVec.ofNat 6 c)
  else if c = 24 then .l0
  else if c = 25 then .l1
  else if c = 26 then .s 0
  else if c = 27 then .s 1
  else if c = 28 then .zero
  else if c = 29 then .imm 1
  else if c = 30 then .imm 15
  else .q

/-- R105; a source the field cannot name has the code 32, which no field holds. -/
def b16Code : Src → Nat
  | .v r => if r.toNat < 24 then r.toNat else 32
  | .l0 => 24
  | .l1 => 25
  | .s r => if r.toNat < 2 then 26 + r.toNat else 32
  | .zero => 28
  | .imm i => if i = 1 then 29 else if i = 15 then 30 else 32
  | .q => 31
  | .rsv _ => 32
  | .c _ => 32

def iCondCode : ICond → Nat
  | .eq => 0
  | .ne => 1
  | .lt => 2
  | .le => 3
  | .gt => 4
  | .ge => 5
  | .test => 6
  | .ntest => 7

def iCondOf (c : Nat) : ICond :=
  match c with
  | 0 => .eq
  | 1 => .ne
  | 2 => .lt
  | 3 => .le
  | 4 => .gt
  | 5 => .ge
  | 6 => .test
  | _ => .ntest

def fCondCode : FCond → Nat
  | .eq => 0
  | .ne => 1
  | .lt => 2
  | .le => 3
  | .gt => 4
  | .ge => 5
  | .un => 6
  | .ord => 7

def fCondOf (c : Nat) : FCond :=
  match c with
  | 0 => .eq
  | 1 => .ne
  | 2 => .lt
  | 3 => .le
  | 4 => .gt
  | 5 => .ge
  | 6 => .un
  | _ => .ord

def iCmpTyCode : ICmpTy → Nat
  | .i32 => 0
  | .n32 => 1
  | .i64 => 2
  | .n64 => 3

def iCmpTyOf (c : Nat) : ICmpTy :=
  match c with
  | 0 => .i32
  | 1 => .n32
  | 2 => .i64
  | _ => .n64

def fCmpTyCode : FCmpTy → Nat
  | .f32 => 0
  | .f64 => 1
  | .bf16 => 2

def fCmpTyOf (c : Nat) : FCmpTy :=
  match c with
  | 0 => .f32
  | 1 => .f64
  | _ => .bf16

def shiftKindCode : ShiftKind → Nat
  | .shl => 0
  | .shr => 1
  | .sar => 2
  | .rotl => 3

def shiftKindOf (c : Nat) : ShiftKind :=
  match c with
  | 0 => .shl
  | 1 => .shr
  | 2 => .sar
  | _ => .rotl

def subSizeCode : SubSize → Nat
  | .i8 => 0
  | .n8 => 1
  | .i16 => 2
  | .n16 => 3

def subSizeOf (c : Nat) : SubSize :=
  match c with
  | 0 => .i8
  | 1 => .n8
  | 2 => .i16
  | _ => .n16

def timeTestCode : TimeTest → Nat
  | .arrived => 0
  | .due => 1
  | .breached => 2
  | .withdrawn => 3

def timeTestOf (c : Nat) : TimeTest :=
  match c with
  | 0 => .arrived
  | 1 => .due
  | 2 => .breached
  | _ => .withdrawn

def scopeCode : Scope → Nat
  | .thread => 0
  | .group => 1
  | .core => 2
  | .quad => 3
  | .clus => 4
  | .die => 5
  | .pkg => 6
  | .pod => 7

def scopeOf (c : Nat) : Scope :=
  match c with
  | 0 => .thread
  | 1 => .group
  | 2 => .core
  | 3 => .quad
  | 4 => .clus
  | 5 => .die
  | 6 => .pkg
  | _ => .pod

def fenceKindCode : FenceKind → Nat
  | .rel => 1
  | .acq => 2
  | .ar => 3

def fenceKindOf (c : Nat) : FenceKind :=
  match c with
  | 1 => .rel
  | 2 => .acq
  | _ => .ar

def estatKindCode : EstatKind → Nat
  | .mine => 0
  | .free => 1
  | .coll => 2

def estatKindOf (c : Nat) : EstatKind :=
  match c with
  | 0 => .mine
  | 1 => .free
  | _ => .coll

def scanOpCode : ScanOp → Nat
  | .addI32 => 0
  | .addF32 => 1
  | .maxI32 => 2
  | .maxN32 => 3
  | .minI32 => 4
  | .minN32 => 5
  | .or => 6
  | .xor => 7

def scanOpOf (c : Nat) : ScanOp :=
  match c with
  | 0 => .addI32
  | 1 => .addF32
  | 2 => .maxI32
  | 3 => .maxN32
  | 4 => .minI32
  | 5 => .minN32
  | 6 => .or
  | _ => .xor

def rndSelCode : RndSel → Nat
  | .dyn => 0
  | .rne => 1
  | .rz => 2
  | .ru => 3
  | .rd => 4

def rndSelOf (c : Nat) : RndSel :=
  match c with
  | 0 => .dyn
  | 1 => .rne
  | 2 => .rz
  | 3 => .ru
  | _ => .rd

def groupValCode : GroupVal → Nat
  | .coreid => 0
  | .grantX => 1
  | .grantY => 2
  | .grantW => 3
  | .grantH => 4
  | .codeBase => 5
  | .codeBaseHi => 6
  | .whereAt => 7
  | .mode => 8
  | .flags => 9
  | .fmask => 10
  | .tcause => 11
  | .tframe => 12
  | .context => 13
  | .restart => 14

def groupValOf (c : Nat) : GroupVal :=
  match c with
  | 0 => .coreid
  | 1 => .grantX
  | 2 => .grantY
  | 3 => .grantW
  | 4 => .grantH
  | 5 => .codeBase
  | 6 => .codeBaseHi
  | 7 => .whereAt
  | 8 => .mode
  | 9 => .flags
  | 10 => .fmask
  | 11 => .tcause
  | 12 => .tframe
  | 13 => .context
  | _ => .restart

def threadValCode : ThreadVal → Nat
  | .epc => 32
  | .estate => 33
  | .eaddr => 34
  | .eaddrHi => 35

def threadValOf (c : Nat) : ThreadVal :=
  match c with
  | 32 => .epc
  | 33 => .estate
  | 34 => .eaddr
  | _ => .eaddrHi

/-- The fields of `FmtA` as bits of its word. -/
def encA (o : FmtA) : Nat :=
  srcCode o.b * 2 ^ 25 + srcCode o.a * 2 ^ 18 + dstCode o.d * 2 ^ 11 + o.kb.toNat * 2 ^ 10 + o.ka.toNat * 2 ^ 9

def decA (w : Nat) : FmtA :=
  { b := srcOfCode (bits w 25 7),
    a := srcOfCode (bits w 18 7),
    d := dstOfCode (bits w 11 7),
    kb := bit w 10,
    ka := bit w 9 }

/-- The fields of `FmtSel` as bits of its word. -/
def encSel (o : FmtSel) : Nat :=
  srcCode o.b * 2 ^ 25 + srcCode o.a * 2 ^ 18 + dstCode o.d * 2 ^ 11 + o.kb.toNat * 2 ^ 10 + o.ka.toNat * 2 ^ 9 + o.p.toNat * 2 ^ 7

def decSel (w : Nat) : FmtSel :=
  { b := srcOfCode (bits w 25 7),
    a := srcOfCode (bits w 18 7),
    d := dstOfCode (bits w 11 7),
    kb := bit w 10,
    ka := bit w 9,
    p := field w 7 2 }

/-- The fields of `FmtUA` as bits of its word. -/
def encUA (o : FmtUA) : Nat :=
  usrcCode o.b * 2 ^ 25 + usrcCode o.a * 2 ^ 18 + udstCode o.d * 2 ^ 11 + o.kb.toNat * 2 ^ 10 + o.ka.toNat * 2 ^ 9

def decUA (w : Nat) : FmtUA :=
  { b := usrcOfCode (bits w 25 7),
    a := usrcOfCode (bits w 18 7),
    d := udstOfCode (bits w 11 7),
    kb := bit w 10,
    ka := bit w 9 }

/-- The fields of `FmtIC` as bits of its word. -/
def encIC (o : FmtIC) : Nat :=
  srcCode o.b * 2 ^ 25 + srcCode o.a * 2 ^ 18 + o.conj.toNat * 2 ^ 16 + iCondCode o.cond * 2 ^ 13 + o.p.toNat * 2 ^ 11 + o.kb.toNat * 2 ^ 10 + o.ka.toNat * 2 ^ 9 + iCmpTyCode o.ty * 2 ^ 7

def decIC (w : Nat) : FmtIC :=
  { b := srcOfCode (bits w 25 7),
    a := srcOfCode (bits w 18 7),
    conj := bit w 16,
    cond := iCondOf (bits w 13 3),
    p := field w 11 2,
    kb := bit w 10,
    ka := bit w 9,
    ty := iCmpTyOf (bits w 7 2) }

/-- The fields of `FmtFC` as bits of its word. -/
def encFC (o : FmtFC) : Nat :=
  srcCode o.b * 2 ^ 25 + srcCode o.a * 2 ^ 18 + o.conj.toNat * 2 ^ 16 + fCondCode o.cond * 2 ^ 13 + o.p.toNat * 2 ^ 11 + o.kb.toNat * 2 ^ 10 + o.ka.toNat * 2 ^ 9 + fCmpTyCode o.ty * 2 ^ 7

def decFC (w : Nat) : FmtFC :=
  { b := srcOfCode (bits w 25 7),
    a := srcOfCode (bits w 18 7),
    conj := bit w 16,
    cond := fCondOf (bits w 13 3),
    p := field w 11 2,
    kb := bit w 10,
    ka := bit w 9,
    ty := fCmpTyOf (bits w 7 2) }

/-- The fields of `FmtI` as bits of its word. -/
def encI (o : FmtI) : Nat :=
  (o.imm.toNat / 2 ^ 4) * 2 ^ 25 + (o.imm.toNat % 2 ^ 4) * 2 ^ 7 + srcCode o.a * 2 ^ 18 + dstCode o.d * 2 ^ 11

def decI (w : Nat) : FmtI :=
  { imm := BitVec.ofNat 11 (bits w 25 7 * 2 ^ 4 + bits w 7 4),
    a := srcOfCode (bits w 18 7),
    d := dstOfCode (bits w 11 7) }

/-- The fields of `FmtUI` as bits of its word. -/
def encUI (o : FmtUI) : Nat :=
  (o.imm.toNat / 2 ^ 4) * 2 ^ 25 + (o.imm.toNat % 2 ^ 4) * 2 ^ 7 + usrcCode o.a * 2 ^ 18 + udstCode o.d * 2 ^ 11

def decUI (w : Nat) : FmtUI :=
  { imm := BitVec.ofNat 11 (bits w 25 7 * 2 ^ 4 + bits w 7 4),
    a := usrcOfCode (bits w 18 7),
    d := udstOfCode (bits w 11 7) }

/-- The fields of `FmtShift` as bits of its word. -/
def encShift (o : FmtShift) : Nat :=
  shiftKindCode o.kind * 2 ^ 30 + (o.amt.toNat / 2 ^ 4) * 2 ^ 25 + (o.amt.toNat % 2 ^ 4) * 2 ^ 7 + srcCode o.a * 2 ^ 18 + dstCode o.d * 2 ^ 11

def decShift (w : Nat) : FmtShift :=
  { kind := shiftKindOf (bits w 30 2),
    amt := BitVec.ofNat 5 (bits w 25 1 * 2 ^ 4 + bits w 7 4),
    a := srcOfCode (bits w 18 7),
    d := dstOfCode (bits w 11 7) }

/-- The fields of `FmtL` as bits of its word. -/
def encL (o : FmtL) : Nat :=
  (o.imm.toNat / 2 ^ 4) * 2 ^ 18 + (o.imm.toNat % 2 ^ 4) * 2 ^ 7 + dstCode o.d * 2 ^ 11

def decL (w : Nat) : FmtL :=
  { imm := BitVec.ofNat 18 (bits w 18 14 * 2 ^ 4 + bits w 7 4),
    d := dstOfCode (bits w 11 7) }

/-- The fields of `FmtLo` as bits of its word. -/
def encLo (o : FmtLo) : Nat :=
  (o.imm.toNat / 2 ^ 4) * 2 ^ 18 + (o.imm.toNat % 2 ^ 4) * 2 ^ 7 + dstCode o.d * 2 ^ 11

def decLo (w : Nat) : FmtLo :=
  { imm := BitVec.ofNat 14 (bits w 18 10 * 2 ^ 4 + bits w 7 4),
    d := dstOfCode (bits w 11 7) }

/-- The fields of `FmtUL` as bits of its word. -/
def encUL (o : FmtUL) : Nat :=
  (o.imm.toNat / 2 ^ 4) * 2 ^ 18 + (o.imm.toNat % 2 ^ 4) * 2 ^ 7 + udstCode o.d * 2 ^ 11

def decUL (w : Nat) : FmtUL :=
  { imm := BitVec.ofNat 18 (bits w 18 14 * 2 ^ 4 + bits w 7 4),
    d := udstOfCode (bits w 11 7) }

/-- The fields of `FmtULo` as bits of its word. -/
def encULo (o : FmtULo) : Nat :=
  (o.imm.toNat / 2 ^ 4) * 2 ^ 18 + (o.imm.toNat % 2 ^ 4) * 2 ^ 7 + udstCode o.d * 2 ^ 11

def decULo (w : Nat) : FmtULo :=
  { imm := BitVec.ofNat 14 (bits w 18 10 * 2 ^ 4 + bits w 7 4),
    d := udstOfCode (bits w 11 7) }

/-- The fields of `FmtN` as bits of its word. -/
def encN (o : FmtN) : Nat :=
  srcCode o.a * 2 ^ 18 + dstCode o.d * 2 ^ 11 + o.k1.toNat * 2 ^ 10 + o.ka.toNat * 2 ^ 9 + o.g.toNat * 2 ^ 7

def decN (w : Nat) : FmtN :=
  { a := srcOfCode (bits w 18 7),
    d := dstOfCode (bits w 11 7),
    k1 := bit w 10,
    ka := bit w 9,
    g := field w 7 2 }

/-- The fields of `FmtNA` as bits of its word. -/
def encNA (o : FmtNA) : Nat :=
  srcCode o.a * 2 ^ 18 + o.k1.toNat * 2 ^ 10 + o.ka.toNat * 2 ^ 9 + o.g.toNat * 2 ^ 7

def decNA (w : Nat) : FmtNA :=
  { a := srcOfCode (bits w 18 7),
    k1 := bit w 10,
    ka := bit w 9,
    g := field w 7 2 }

/-- The fields of `FmtNB` as bits of its word. -/
def encNB (o : FmtNB) : Nat :=
  srcCode o.a * 2 ^ 18 + srcCode o.b * 2 ^ 11 + o.k1.toNat * 2 ^ 10 + o.ka.toNat * 2 ^ 9 + o.g.toNat * 2 ^ 7

def decNB (w : Nat) : FmtNB :=
  { a := srcOfCode (bits w 18 7),
    b := srcOfCode (bits w 11 7),
    k1 := bit w 10,
    ka := bit w 9,
    g := field w 7 2 }

/-- The fields of `FmtFin` as bits of its word. -/
def encFin (o : FmtFin) : Nat :=
  srcCode o.a * 2 ^ 18 + srcCode o.b * 2 ^ 11 + o.ka.toNat * 2 ^ 9 + o.g.toNat * 2 ^ 7

def decFin (w : Nat) : FmtFin :=
  { a := srcOfCode (bits w 18 7),
    b := srcOfCode (bits w 11 7),
    ka := bit w 9,
    g := field w 7 2 }

/-- The fields of `FmtNG` as bits of its word. -/
def encNG (o : FmtNG) : Nat :=
  o.k1.toNat * 2 ^ 10 + o.ka.toNat * 2 ^ 9 + o.g.toNat * 2 ^ 7

def decNG (w : Nat) : FmtNG :=
  { k1 := bit w 10,
    ka := bit w 9,
    g := field w 7 2 }

/-- The fields of `FmtNK` as bits of its word. -/
def encNK (o : FmtNK) : Nat :=
  o.k1.toNat * 2 ^ 10 + o.ka.toNat * 2 ^ 9

def decNK (w : Nat) : FmtNK :=
  { k1 := bit w 10,
    ka := bit w 9 }

/-- The fields of `FmtIdx` as bits of its word. -/
def encIdx (o : FmtIdx) : Nat :=
  o.i.toNat * 2 ^ 18 + dstCode o.d * 2 ^ 11 + o.k1.toNat * 2 ^ 10 + o.ka.toNat * 2 ^ 9 + o.g.toNat * 2 ^ 7

def decIdx (w : Nat) : FmtIdx :=
  { i := field w 18 2,
    d := dstOfCode (bits w 11 7),
    k1 := bit w 10,
    ka := bit w 9,
    g := field w 7 2 }

/-- The fields of `FmtIdxA` as bits of its word. -/
def encIdxA (o : FmtIdxA) : Nat :=
  srcCode o.a * 2 ^ 18 + o.i.toNat * 2 ^ 11 + o.k1.toNat * 2 ^ 10 + o.ka.toNat * 2 ^ 9 + o.g.toNat * 2 ^ 7

def decIdxA (w : Nat) : FmtIdxA :=
  { a := srcOfCode (bits w 18 7),
    i := field w 11 2,
    k1 := bit w 10,
    ka := bit w 9,
    g := field w 7 2 }

/-- The fields of `FmtScan` as bits of its word. -/
def encScan (o : FmtScan) : Nat :=
  scanOpCode o.op * 2 ^ 25 + o.seg.toNat * 2 ^ 28 + srcCode o.a * 2 ^ 18 + dstCode o.d * 2 ^ 11 + o.k1.toNat * 2 ^ 10 + o.ka.toNat * 2 ^ 9 + o.g.toNat * 2 ^ 7

def decScan (w : Nat) : FmtScan :=
  { op := scanOpOf (bits w 25 3),
    seg := field w 28 2,
    a := srcOfCode (bits w 18 7),
    d := dstOfCode (bits w 11 7),
    k1 := bit w 10,
    ka := bit w 9,
    g := field w 7 2 }

/-- The fields of `FmtRed` as bits of its word. -/
def encRed (o : FmtRed) : Nat :=
  scanOpCode o.op * 2 ^ 25 + srcCode o.a * 2 ^ 18 + udstCode o.d * 2 ^ 11 + o.k1.toNat * 2 ^ 10 + o.ka.toNat * 2 ^ 9 + o.g.toNat * 2 ^ 7

def decRed (w : Nat) : FmtRed :=
  { op := scanOpOf (bits w 25 3),
    a := srcOfCode (bits w 18 7),
    d := udstOfCode (bits w 11 7),
    k1 := bit w 10,
    ka := bit w 9,
    g := field w 7 2 }

/-- The fields of `FmtVote` as bits of its word. -/
def encVote (o : FmtVote) : Nat :=
  srcCode o.a * 2 ^ 18 + udstCode o.d * 2 ^ 11 + o.k1.toNat * 2 ^ 10 + o.ka.toNat * 2 ^ 9 + o.g.toNat * 2 ^ 7

def decVote (w : Nat) : FmtVote :=
  { a := srcOfCode (bits w 18 7),
    d := udstOfCode (bits w 11 7),
    k1 := bit w 10,
    ka := bit w 9,
    g := field w 7 2 }

/-- The fields of `FmtPL` as bits of its word. -/
def encPL (o : FmtPL) : Nat :=
  o.nb.toNat * 2 ^ 23 + o.na.toNat * 2 ^ 22 + o.pb.toNat * 2 ^ 20 + o.pa.toNat * 2 ^ 18 + o.pd.toNat * 2 ^ 11 + o.k1.toNat * 2 ^ 10 + o.ka.toNat * 2 ^ 9 + o.g.toNat * 2 ^ 7

def decPL (w : Nat) : FmtPL :=
  { nb := bit w 23,
    na := bit w 22,
    pb := field w 20 2,
    pa := field w 18 2,
    pd := field w 11 2,
    k1 := bit w 10,
    ka := bit w 9,
    g := field w 7 2 }

/-- The fields of `FmtPA` as bits of its word. -/
def encPA (o : FmtPA) : Nat :=
  srcCode o.a * 2 ^ 18 + o.pd.toNat * 2 ^ 11 + o.k1.toNat * 2 ^ 10 + o.ka.toNat * 2 ^ 9 + o.g.toNat * 2 ^ 7

def decPA (w : Nat) : FmtPA :=
  { a := srcOfCode (bits w 18 7),
    pd := field w 11 2,
    k1 := bit w 10,
    ka := bit w 9,
    g := field w 7 2 }

/-- The fields of `FmtPG` as bits of its word. -/
def encPG (o : FmtPG) : Nat :=
  o.pa.toNat * 2 ^ 18 + dstCode o.d * 2 ^ 11 + o.k1.toNat * 2 ^ 10 + o.ka.toNat * 2 ^ 9 + o.g.toNat * 2 ^ 7

def decPG (w : Nat) : FmtPG :=
  { pa := field w 18 2,
    d := dstOfCode (bits w 11 7),
    k1 := bit w 10,
    ka := bit w 9,
    g := field w 7 2 }

/-- The fields of `FmtU` as bits of its word. -/
def encU (o : FmtU) : Nat :=
  usrcCode o.a * 2 ^ 18 + udstCode o.d * 2 ^ 11 + o.k1.toNat * 2 ^ 10 + o.ka.toNat * 2 ^ 9

def decU (w : Nat) : FmtU :=
  { a := usrcOfCode (bits w 18 7),
    d := udstOfCode (bits w 11 7),
    k1 := bit w 10,
    ka := bit w 9 }

/-- The fields of `FmtUV` as bits of its word. -/
def encUV (o : FmtUV) : Nat :=
  srcCode o.a * 2 ^ 18 + udstCode o.d * 2 ^ 11 + o.k1.toNat * 2 ^ 10 + o.ka.toNat * 2 ^ 9 + o.g.toNat * 2 ^ 7

def decUV (w : Nat) : FmtUV :=
  { a := srcOfCode (bits w 18 7),
    d := udstOfCode (bits w 11 7),
    k1 := bit w 10,
    ka := bit w 9,
    g := field w 7 2 }

/-- The fields of `FmtVU` as bits of its word. -/
def encVU (o : FmtVU) : Nat :=
  usrcCode o.a * 2 ^ 18 + dstCode o.d * 2 ^ 11 + o.k1.toNat * 2 ^ 10 + o.ka.toNat * 2 ^ 9

def decVU (w : Nat) : FmtVU :=
  { a := usrcOfCode (bits w 18 7),
    d := dstOfCode (bits w 11 7),
    k1 := bit w 10,
    ka := bit w 9 }

/-- The fields of `FmtUO` as bits of its word. -/
def encUO (o : FmtUO) : Nat :=
  usrcCode o.a * 2 ^ 18 + o.k1.toNat * 2 ^ 10 + o.ka.toNat * 2 ^ 9

def decUO (w : Nat) : FmtUO :=
  { a := usrcOfCode (bits w 18 7),
    k1 := bit w 10,
    ka := bit w 9 }

/-- The fields of `FmtUD` as bits of its word. -/
def encUD (o : FmtUD) : Nat :=
  udstCode o.d * 2 ^ 11 + o.k1.toNat * 2 ^ 10 + o.ka.toNat * 2 ^ 9

def decUD (w : Nat) : FmtUD :=
  { d := udstOfCode (bits w 11 7),
    k1 := bit w 10,
    ka := bit w 9 }

/-- The fields of `FmtB` as bits of its word. -/
def encB (o : FmtB) : Nat :=
  o.off.toNat * 2 ^ 13 + o.g.toNat * 2 ^ 7

def decB (w : Nat) : FmtB :=
  { off := field w 13 19,
    g := field w 7 2 }

/-- The fields of `FmtJ` as bits of its word. -/
def encJ (o : FmtJ) : Nat :=
  o.off.toNat * 2 ^ 13

def decJ (w : Nat) : FmtJ :=
  { off := field w 13 19 }

/-- The fields of `FmtBT` as bits of its word. -/
def encBT (o : FmtBT) : Nat :=
  o.off.toNat * 2 ^ 13 + o.t.toNat * 2 ^ 9 + timeTestCode o.test * 2 ^ 7

def decBT (w : Nat) : FmtBT :=
  { off := field w 13 19,
    t := field w 9 4,
    test := timeTestOf (bits w 7 2) }

/-- The fields of `FmtLoop` as bits of its word. -/
def encLoop (o : FmtLoop) : Nat :=
  o.off.toNat * 2 ^ 13 + o.s.toNat * 2 ^ 9

def decLoop (w : Nat) : FmtLoop :=
  { off := field w 13 19,
    s := field w 9 4 }

/-- The fields of `FmtCvt` as bits of its word. -/
def encCvt (o : FmtCvt) : Nat :=
  rndSelCode o.r * 2 ^ 25 + srcCode o.a * 2 ^ 18 + dstCode o.d * 2 ^ 11 + o.k1.toNat * 2 ^ 10 + o.ka.toNat * 2 ^ 9 + o.g.toNat * 2 ^ 7

def decCvt (w : Nat) : FmtCvt :=
  { r := rndSelOf (bits w 25 3),
    a := srcOfCode (bits w 18 7),
    d := dstOfCode (bits w 11 7),
    k1 := bit w 10,
    ka := bit w 9,
    g := field w 7 2 }

/-- The fields of `FmtLd` as bits of its word. -/
def encLd (o : FmtLd) : Nat :=
  o.off.toNat * 2 ^ 27 + o.t.toNat * 2 ^ 23 + srcCode o.b * 2 ^ 16 + dstCode o.d * 2 ^ 9 + o.g.toNat * 2 ^ 7

def decLd (w : Nat) : FmtLd :=
  { off := field w 27 5,
    t := field w 23 4,
    b := srcOfCode (bits w 16 7),
    d := dstOfCode (bits w 9 7),
    g := field w 7 2 }

/-- The fields of `FmtLdSub` as bits of its word. -/
def encLdSub (o : FmtLdSub) : Nat :=
  subSizeCode o.sz * 2 ^ 30 + o.off.toNat * 2 ^ 27 + o.t.toNat * 2 ^ 23 + srcCode o.b * 2 ^ 16 + dstCode o.d * 2 ^ 9 + o.g.toNat * 2 ^ 7

def decLdSub (w : Nat) : FmtLdSub :=
  { sz := subSizeOf (bits w 30 2),
    off := field w 27 3,
    t := field w 23 4,
    b := srcOfCode (bits w 16 7),
    d := dstOfCode (bits w 9 7),
    g := field w 7 2 }

/-- The fields of `FmtSt` as bits of its word. -/
def encSt (o : FmtSt) : Nat :=
  o.off.toNat * 2 ^ 27 + o.t.toNat * 2 ^ 23 + srcCode o.b * 2 ^ 16 + srcCode o.x * 2 ^ 9 + o.g.toNat * 2 ^ 7

def decSt (w : Nat) : FmtSt :=
  { off := field w 27 5,
    t := field w 23 4,
    b := srcOfCode (bits w 16 7),
    x := srcOfCode (bits w 9 7),
    g := field w 7 2 }

/-- The fields of `FmtStSub` as bits of its word. -/
def encStSub (o : FmtStSub) : Nat :=
  o.half.toNat * 2 ^ 30 + o.off.toNat * 2 ^ 27 + o.t.toNat * 2 ^ 23 + srcCode o.b * 2 ^ 16 + srcCode o.x * 2 ^ 9 + o.g.toNat * 2 ^ 7

def decStSub (w : Nat) : FmtStSub :=
  { half := bit w 30,
    off := field w 27 3,
    t := field w 23 4,
    b := srcOfCode (bits w 16 7),
    x := srcOfCode (bits w 9 7),
    g := field w 7 2 }

/-- The fields of `FmtT` as bits of its word. -/
def encT (o : FmtT) : Nat :=
  o.opnd.toNat * 2 ^ 22 + o.addr.toNat * 2 ^ 16 + dstCode o.d * 2 ^ 9 + o.g.toNat * 2 ^ 7

def decT (w : Nat) : FmtT :=
  { opnd := field w 22 6,
    addr := field w 16 6,
    d := dstOfCode (bits w 9 7),
    g := field w 7 2 }

/-- The fields of `FmtE` as bits of its word. -/
def encE (o : FmtE) : Nat :=
  usrcCode o.a * 2 ^ 18 + o.t.toNat * 2 ^ 11 + o.k1.toNat * 2 ^ 10 + o.ka.toNat * 2 ^ 9

def decE (w : Nat) : FmtE :=
  { a := usrcOfCode (bits w 18 7),
    t := field w 11 4,
    k1 := bit w 10,
    ka := bit w 9 }

/-- The fields of `FmtEst` as bits of its word. -/
def encEst (o : FmtEst) : Nat :=
  estatKindCode o.k * 2 ^ 18 + udstCode o.d * 2 ^ 11 + o.k1.toNat * 2 ^ 10 + o.ka.toNat * 2 ^ 9

def decEst (w : Nat) : FmtEst :=
  { k := estatKindOf (bits w 18 2),
    d := udstOfCode (bits w 11 7),
    k1 := bit w 10,
    ka := bit w 9 }

/-- The fields of `FmtBarA` as bits of its word. -/
def encBarA (o : FmtBarA) : Nat :=
  usrcCode o.a * 2 ^ 18 + scopeCode o.sc * 2 ^ 11 + o.k1.toNat * 2 ^ 10 + o.ka.toNat * 2 ^ 9

def decBarA (w : Nat) : FmtBarA :=
  { a := usrcOfCode (bits w 18 7),
    sc := scopeOf (bits w 11 3),
    k1 := bit w 10,
    ka := bit w 9 }

/-- The fields of `FmtBarW` as bits of its word. -/
def encBarW (o : FmtBarW) : Nat :=
  o.k.toNat * 2 ^ 18 + scopeCode o.sc * 2 ^ 11 + o.k1.toNat * 2 ^ 10 + o.ka.toNat * 2 ^ 9

def decBarW (w : Nat) : FmtBarW :=
  { k := field w 18 4,
    sc := scopeOf (bits w 11 3),
    k1 := bit w 10,
    ka := bit w 9 }

/-- The fields of `FmtFence` as bits of its word. -/
def encFence (o : FmtFence) : Nat :=
  fenceKindCode o.kind * 2 ^ 21 + scopeCode o.sc * 2 ^ 18 + o.k1.toNat * 2 ^ 10 + o.ka.toNat * 2 ^ 9 + o.g.toNat * 2 ^ 7

def decFence (w : Nat) : FmtFence :=
  { kind := fenceKindOf (bits w 21 2),
    sc := scopeOf (bits w 18 3),
    k1 := bit w 10,
    ka := bit w 9,
    g := field w 7 2 }

/-- The fields of `FmtMma` as bits of its word. -/
def encMma (o : FmtMma) : Nat :=
  usrcCode o.n * 2 ^ 18 + o.z.toNat * 2 ^ 11 + o.k1.toNat * 2 ^ 10 + o.ka.toNat * 2 ^ 9

def decMma (w : Nat) : FmtMma :=
  { n := usrcOfCode (bits w 18 7),
    z := field w 11 3,
    k1 := bit w 10,
    ka := bit w 9 }

/-- The fields of `FmtMmaR` as bits of its word. -/
def encMmaR (o : FmtMmaR) : Nat :=
  usrcCode o.n * 2 ^ 18 + o.z.toNat * 2 ^ 11 + o.m.toNat * 2 ^ 14 + o.k1.toNat * 2 ^ 10 + o.ka.toNat * 2 ^ 9

def decMmaR (w : Nat) : FmtMmaR :=
  { n := usrcOfCode (bits w 18 7),
    z := field w 11 3,
    m := field w 14 4,
    k1 := bit w 10,
    ka := bit w 9 }

/-- The fields of `FmtZ` as bits of its word. -/
def encZ (o : FmtZ) : Nat :=
  o.z.toNat * 2 ^ 11 + o.k1.toNat * 2 ^ 10 + o.ka.toNat * 2 ^ 9

def decZ (w : Nat) : FmtZ :=
  { z := field w 11 3,
    k1 := bit w 10,
    ka := bit w 9 }

/-- The fields of `FmtRow` as bits of its word. -/
def encRow (o : FmtRow) : Nat :=
  o.r.toNat * 2 ^ 21 + o.z.toNat * 2 ^ 18 + dstCode o.d * 2 ^ 11 + o.k1.toNat * 2 ^ 10 + o.ka.toNat * 2 ^ 9

def decRow (w : Nat) : FmtRow :=
  { r := field w 21 4,
    z := field w 18 3,
    d := dstOfCode (bits w 11 7),
    k1 := bit w 10,
    ka := bit w 9 }

/-- The fields of `FmtTR` as bits of its word. -/
def encTR (o : FmtTR) : Nat :=
  o.t.toNat * 2 ^ 18 + o.k1.toNat * 2 ^ 10 + o.ka.toNat * 2 ^ 9 + o.g.toNat * 2 ^ 7

def decTR (w : Nat) : FmtTR :=
  { t := field w 18 4,
    k1 := bit w 10,
    ka := bit w 9,
    g := field w 7 2 }

/-- The fields of `FmtTM` as bits of its word. -/
def encTM (o : FmtTM) : Nat :=
  o.t.toNat * 2 ^ 18 + o.u.toNat * 2 ^ 11 + o.k1.toNat * 2 ^ 10 + o.ka.toNat * 2 ^ 9 + o.g.toNat * 2 ^ 7

def decTM (w : Nat) : FmtTM :=
  { t := field w 18 4,
    u := field w 11 4,
    k1 := bit w 10,
    ka := bit w 9,
    g := field w 7 2 }

/-- The fields of `FmtTD` as bits of its word. -/
def encTD (o : FmtTD) : Nat :=
  o.t.toNat * 2 ^ 18 + dstCode o.d * 2 ^ 11 + o.k1.toNat * 2 ^ 10 + o.ka.toNat * 2 ^ 9 + o.g.toNat * 2 ^ 7

def decTD (w : Nat) : FmtTD :=
  { t := field w 18 4,
    d := dstOfCode (bits w 11 7),
    k1 := bit w 10,
    ka := bit w 9,
    g := field w 7 2 }

/-- The fields of `FmtND` as bits of its word. -/
def encND (o : FmtND) : Nat :=
  dstCode o.d * 2 ^ 11 + o.k1.toNat * 2 ^ 10 + o.ka.toNat * 2 ^ 9 + o.g.toNat * 2 ^ 7

def decND (w : Nat) : FmtND :=
  { d := dstOfCode (bits w 11 7),
    k1 := bit w 10,
    ka := bit w 9,
    g := field w 7 2 }

/-- The fields of `FmtTS` as bits of its word. -/
def encTS (o : FmtTS) : Nat :=
  srcCode o.a * 2 ^ 18 + o.t.toNat * 2 ^ 11 + o.ka.toNat * 2 ^ 9 + o.g.toNat * 2 ^ 7

def decTS (w : Nat) : FmtTS :=
  { a := srcOfCode (bits w 18 7),
    t := field w 11 4,
    ka := bit w 9,
    g := field w 7 2 }

/-- The fields of `FmtK` as bits of its word. -/
def encK (o : FmtK) : Nat :=
  o.k.toNat * 2 ^ 18 + o.k1.toNat * 2 ^ 10 + o.ka.toNat * 2 ^ 9

def decK (w : Nat) : FmtK :=
  { k := field w 18 7,
    k1 := bit w 10,
    ka := bit w 9 }

/-- The fields of `FmtKA` as bits of its word. -/
def encKA (o : FmtKA) : Nat :=
  o.ka.toNat * 2 ^ 9

def decKA (w : Nat) : FmtKA :=
  { ka := bit w 9 }

/-- The fields of `FmtSrd` as bits of its word. -/
def encSrd (o : FmtSrd) : Nat :=
  groupValCode o.val * 2 ^ 18 + udstCode o.d * 2 ^ 11 + o.ka.toNat * 2 ^ 9

def decSrd (w : Nat) : FmtSrd :=
  { val := groupValOf (bits w 18 7),
    d := udstOfCode (bits w 11 7),
    ka := bit w 9 }

/-- The fields of `FmtSrdV` as bits of its word. -/
def encSrdV (o : FmtSrdV) : Nat :=
  threadValCode o.val * 2 ^ 18 + dstCode o.d * 2 ^ 11 + o.ka.toNat * 2 ^ 9 + o.g.toNat * 2 ^ 7

def decSrdV (w : Nat) : FmtSrdV :=
  { val := threadValOf (bits w 18 7),
    d := dstOfCode (bits w 11 7),
    ka := bit w 9,
    g := field w 7 2 }

/-- The fields of `FmtSwr` as bits of its word. -/
def encSwr (o : FmtSwr) : Nat :=
  o.flags.toNat * 2 ^ 11 + usrcCode o.a * 2 ^ 18 + o.ka.toNat * 2 ^ 9

def decSwr (w : Nat) : FmtSwr :=
  { flags := bit w 11,
    a := usrcOfCode (bits w 18 7),
    ka := bit w 9 }

/-- The fields of `FmtSwrV` as bits of its word. -/
def encSwrV (o : FmtSwrV) : Nat :=
  srcCode o.a * 2 ^ 18 + o.ka.toNat * 2 ^ 9 + o.g.toNat * 2 ^ 7

def decSwrV (w : Nat) : FmtSwrV :=
  { a := srcOfCode (bits w 18 7),
    ka := bit w 9,
    g := field w 7 2 }

/-- The fields of `FmtCb` as bits of its word. -/
def encCb (o : FmtCb) : Nat :=
  srcCode o.a * 2 ^ 18 + o.c.toNat * 2 ^ 11 + o.k1.toNat * 2 ^ 10 + o.ka.toNat * 2 ^ 9

def decCb (w : Nat) : FmtCb :=
  { a := srcOfCode (bits w 18 7),
    c := field w 11 3,
    k1 := bit w 10,
    ka := bit w 9 }

/-- The fields of `FmtCu` as bits of its word. -/
def encCu (o : FmtCu) : Nat :=
  o.c.toNat * 2 ^ 11 + o.k1.toNat * 2 ^ 10 + o.ka.toNat * 2 ^ 9

def decCu (w : Nat) : FmtCu :=
  { c := field w 11 3,
    k1 := bit w 10,
    ka := bit w 9 }

/-- The 16-bit instructions (R104 to R106); 0x0000 is none (R102). -/
def rowOf16 (h : Nat) : Option Row :=
  if h = 0 then none
  else match bits h 1 4 with
  | 0 => some .add16
  | 1 => some .sub16
  | 2 => some .and16
  | 3 => some .or16
  | 4 => some .xor16
  | 5 => some .shl16
  | 6 => some .shr16
  | 7 => some .min16
  | 8 => some .max16
  | 9 => some .mov16
  | 10 => some .fadd16
  | 11 => some .fmul16
  | 12 => some .fmac16
  | 13 => some .padd2s16
  | 14 => some .pfma2s16
  | _ => some .fmax16

/-- Major 0x00 (R120). -/
def rowMajor00 (w : Nat) : Option Row :=
  match bits w 7 2 with
  | 0 => some .add
  | 1 => some .sub
  | 2 => some .mullo
  | 3 => some .mulhi
  | _ => none

/-- Major 0x01 (R120). -/
def rowMajor01 (w : Nat) : Option Row :=
  match bits w 7 2 with
  | 0 => some .mulhiu
  | 1 => some .mad
  | 2 => some .absdiff
  | 3 => some .avg
  | _ => none

/-- Major 0x02 (R120). -/
def rowMajor02 (w : Nat) : Option Row :=
  match bits w 7 2 with
  | 0 => some .min
  | 1 => some .max
  | 2 => some .minu
  | 3 => some .maxu
  | _ => none

/-- Major 0x03 (R120). -/
def rowMajor03 (w : Nat) : Option Row :=
  match bits w 7 2 with
  | 0 => some .and
  | 1 => some .or
  | 2 => some .xor
  | 3 => some .andn
  | _ => none

/-- Major 0x04 (R120). -/
def rowMajor04 (w : Nat) : Option Row :=
  match bits w 7 2 with
  | 0 => some .shl
  | 1 => some .shr
  | 2 => some .sar
  | 3 => some .rotl
  | _ => none

/-- Major 0x05 (R120). -/
def rowMajor05 (w : Nat) : Option Row :=
  match bits w 7 2 with
  | 0 => some .bfx
  | 1 => some .bfi
  | 2 => some .lea2
  | 3 => some .lea3
  | _ => none

/-- Major 0x06 (R120). -/
def rowMajor06 (w : Nat) : Option Row :=
  if bits w 7 2 = 0 then none else some .selp

/-- Major 0x07 (R120). -/
def rowMajor07 (w : Nat) : Option Row :=
  match bits w 7 2 with
  | 0 => some .add64
  | 1 => some .sub64
  | 2 => some .shl64
  | 3 => some .shr64
  | _ => none

/-- Major 0x08 (R120). -/
def rowMajor08 (w : Nat) : Option Row :=
  if bits w 17 1 = 0 then some .icmp else none

/-- Major 0x09 (R120). -/
def rowMajor09 (w : Nat) : Option Row :=
  if bits w 17 1 = 0 ∧ bits w 7 2 < 3 then some .fcmp else none

/-- Major 0x0E (R120). -/
def rowMajor0E (w : Nat) : Option Row :=
  if bits w 26 4 = 0 then some .shifti else none

/-- Major 0x11 (R120). -/
def rowMajor11 (w : Nat) : Option Row :=
  if bits w 28 4 = 0 then some .llo else none

/-- Major 0x13 (R120). -/
def rowMajor13 (w : Nat) : Option Row :=
  match bits w 25 7 with
  | 0 => some .mov
  | 1 => some .not
  | 2 => some .neg
  | 3 => some .abs
  | 4 => some .clz
  | 5 => some .ctz
  | 6 => some .popc
  | 7 => some .brev
  | 8 => some .bswap
  | 9 => some .sext8
  | 10 => some .sext16
  | 11 => some .mov64
  | 16 => if bits w 20 5 = 0 then some .movx else none
  | 17 => if bits w 13 5 = 0 then some .movxw else none
  | 18 => if bits w 13 5 = 0 then some .iset else none
  | 19 => if bits w 20 5 = 0 then some .iget else none
  | _ => none

/-- Major 0x14 (R120). -/
def rowMajor14 (w : Nat) : Option Row :=
  let m := bits w 25 7
  if m < 32 then some .scan
  else if 40 ≤ m ∧ m < 48 then some .reduce
  else match m with
  | 32 => some .delay
  | 33 => some .perm
  | 34 => some .bfirst
  | 35 => some .blast
  | 36 => some .rank
  | 37 => some .matchLanes
  | 48 => some .vote
  | _ => none

/-- Major 0x15 (R120). -/
def rowMajor15 (w : Nat) : Option Row :=
  match bits w 25 7 with
  | 0 => if bits w 24 1 = 0 ∧ bits w 13 5 = 0 then some .pand else none
  | 1 => if bits w 24 1 = 0 ∧ bits w 13 5 = 0 then some .por else none
  | 2 => if bits w 24 1 = 0 ∧ bits w 13 5 = 0 then some .pxor else none
  | 8 => if bits w 13 5 = 0 then some .ptest else none
  | 9 => if bits w 13 5 = 0 then some .pbit else none
  | 10 => if bits w 20 5 = 0 then some .pget else none
  | _ => none

/-- Major 0x18 (R120). -/
def rowMajor18 (w : Nat) : Option Row :=
  match bits w 7 2 with
  | 0 => some .fadd
  | 1 => some .fsub
  | 2 => some .fmul
  | 3 => some .ffma
  | _ => none

/-- Major 0x19 (R120). -/
def rowMajor19 (w : Nat) : Option Row :=
  match bits w 7 2 with
  | 0 => some .fmin
  | 1 => some .fmax
  | 2 => some .ffmal
  | 3 => some .fnma
  | _ => none

/-- Major 0x1A (R120). -/
def rowMajor1A (w : Nat) : Option Row :=
  match bits w 7 2 with
  | 0 => some .padd2
  | 1 => some .pmul2
  | 2 => some .pfma2
  | 3 => some .pmax2
  | _ => none

/-- Major 0x1B (R120). -/
def rowMajor1B (w : Nat) : Option Row :=
  match bits w 7 2 with
  | 0 => some .dadd
  | 1 => some .dsub
  | 2 => some .dmul
  | 3 => some .dfma
  | _ => none

/-- Major 0x1C (R120). -/
def rowMajor1C (w : Nat) : Option Row :=
  match bits w 7 2 with
  | 0 => some .dmin
  | 1 => some .dmax
  | _ => none

/-- Major 0x1D (R120). -/
def rowMajor1D (w : Nat) : Option Row :=
  match bits w 25 7 with
  | 0 => some .fneg
  | 1 => some .fabs
  | 2 => some .fsqrt
  | 3 => some .frcp
  | 4 => some .frsq
  | 5 => some .fexp2
  | 6 => some .flog2
  | 7 => some .fsinpi
  | 8 => some .fcospi
  | 9 => some .frint
  | 10 => some .fclass
  | 16 => some .dneg
  | 17 => some .dabs
  | 18 => some .dsqrt
  | 19 => some .drcp
  | 20 => some .drint
  | 21 => some .dclass
  | 24 => some .pneg2
  | 25 => some .pabs2
  | _ => none

/-- Major 0x1E (R120). -/
def rowMajor1E (w : Nat) : Option Row :=
  match bits w 28 4 with
  | 0 => if bits w 25 3 < 5 then some .cvtF32I32 else none
  | 1 => if bits w 25 3 < 5 then some .cvtF32N32 else none
  | 2 => if bits w 25 3 < 5 then some .cvtI32F32 else none
  | 3 => if bits w 25 3 < 5 then some .cvtN32F32 else none
  | 4 => if bits w 25 3 = 0 then some .cvtF64F32 else none
  | 5 => if bits w 25 3 < 5 then some .cvtF32F64 else none
  | 6 => if bits w 25 3 = 0 then some .cvtF64I32 else none
  | 7 => if bits w 25 3 < 5 then some .cvtI32F64 else none
  | 8 => if bits w 25 3 = 0 then some .cvtF32F16 else none
  | 9 => if bits w 25 3 < 5 then some .cvtF16x2F32x2 else none
  | 10 => if bits w 25 3 < 5 then some .cvtBf16x2F32x2 else none
  | 11 => if bits w 25 3 = 0 then some .cvtBf16x4E8x4 else none
  | 12 => if bits w 25 3 < 5 then some .cvtE4m3x4Bf16x4 else none
  | 13 => if bits w 25 3 < 5 then some .cvtE5m2x4Bf16x4 else none
  | 14 => if bits w 25 3 = 0 then some .cvtBf16x2B4 else none
  | 15 => if bits w 25 3 < 5 then some .cvtB4F32 else none
  | _ => none

/-- Major 0x27 (R120). -/
def rowMajor27 (w : Nat) : Option Row :=
  if bits w 31 1 = 0 then some .stsub else none

/-- Major 0x28 (R120). -/
def rowMajor28 (w : Nat) : Option Row :=
  match bits w 28 4 with
  | 0 => some .atom32AddI32
  | 1 => some .atom32AddF32
  | 2 => some .atom32MinI32
  | 3 => some .atom32MinN32
  | 4 => some .atom32MinF32
  | 5 => some .atom32MaxI32
  | 6 => some .atom32MaxN32
  | 7 => some .atom32MaxF32
  | 8 => some .atom32AndB32
  | 9 => some .atom32OrB32
  | 10 => some .atom32XorB32
  | 11 => some .atom32ExchB32
  | 12 => some .atom32CasB32
  | _ => none

/-- Major 0x29 (R120). -/
def rowMajor29 (w : Nat) : Option Row :=
  match bits w 28 4 with
  | 0 => some .atom64AddI64
  | 1 => some .atom64AddF64
  | 2 => some .atom64MinI64
  | 3 => some .atom64MinN64
  | 4 => some .atom64MinF64
  | 5 => some .atom64MaxI64
  | 6 => some .atom64MaxN64
  | 7 => some .atom64MaxF64
  | 8 => some .atom64AndB64
  | 9 => some .atom64OrB64
  | 10 => some .atom64XorB64
  | 11 => some .atom64ExchB64
  | 12 => some .atom64CasB64
  | _ => none

/-- Major 0x2A (R120). -/
def rowMajor2A (w : Nat) : Option Row :=
  match bits w 28 4 with
  | 0 => some .atomxAddBf16
  | 1 => some .atomxMinBf16
  | 2 => some .atomxMaxBf16
  | 3 => some .atomxAddBf16x2
  | 4 => some .atomxMinBf16x2
  | 5 => some .atomxMaxBf16x2
  | 6 => some .atomxAddF16x2
  | 7 => some .atomxMinF16x2
  | 8 => some .atomxMaxF16x2
  | 9 => some .atomxExchB128
  | 10 => some .atomxCasB128
  | _ => none

/-- Major 0x2B (R120). -/
def rowMajor2B (w : Nat) : Option Row :=
  match bits w 25 7 with
  | 0 => some .pin
  | 1 => if bits w 11 7 = 0 then some .unpin else none
  | 2 => if bits w 11 7 = 0 then some .cflush else none
  | 3 => if bits w 11 7 = 0 then some .cinv else none
  | 4 => if bits w 15 3 = 0 ∧ bits w 7 2 = 0 then some .mcrd else none
  | 5 => some .mcst
  | 6 => some .msend
  | 7 => if bits w 11 7 = 0 then some .mwait else none
  | _ => none

/-- Major 0x2C (R120). -/
def rowMajor2C (w : Nat) : Option Row :=
  match bits w 25 7 with
  | 0 => if bits w 14 4 = 0 ∧ bits w 7 2 = 0 ∧ 2 ≤ bits w 11 3 then some .barArrive else none
  | 1 => if bits w 22 3 = 0 ∧ bits w 14 4 = 0 ∧ bits w 7 2 = 0 ∧ 2 ≤ bits w 11 3 then some .barWait else none
  | 4 => some .boset
  | 5 => some .boadd
  | 6 => some .bowait
  | 8 => if bits w 23 2 = 0 ∧ bits w 11 7 = 0 ∧ bits w 21 2 ≠ 0 then some .fence else none
  | 16 => if bits w 18 7 = 0 ∧ bits w 7 2 = 0 then some .qtake else none
  | 17 => if bits w 7 2 = 0 then some .qpost else none
  | 18 => if bits w 11 14 = 0 then some .taskend else none
  | 24 => if bit w 10 then some .finitFull else some .finit
  | 25 => some .fget
  | 26 => some .ffill
  | _ => none

/-- Major 0x2D (R120). -/
def rowMajor2D (w : Nat) : Option Row :=
  match bits w 25 7 with
  | 0 => if bits w 15 3 = 0 ∧ bits w 7 2 = 0 then some .cpy else none
  | 1 => if bits w 15 3 = 0 ∧ bits w 7 2 = 0 then some .cpyx else none
  | 2 => if bits w 15 3 = 0 ∧ bits w 7 2 = 0 then some .coll else none
  | 3 => if bits w 20 5 = 0 ∧ bits w 7 2 = 0 ∧ bits w 18 2 ≠ 3 then some .estat else none
  | _ => none

/-- Major 0x2E (R120). -/
def rowMajor2E (w : Nat) : Option Row :=
  match bits w 25 7 with
  | 0 => if bits w 14 4 = 0 ∧ bits w 7 2 = 0 then some .mma else none
  | 1 => if bits w 7 2 = 0 then some .mmaRa else none
  | 2 => if bits w 7 2 = 0 then some .mmaRb else none
  | 8 => if bits w 18 7 = 0 ∧ bits w 15 3 = 0 ∧ bits w 7 2 = 0
    then (if bit w 14 then some .dzeroFree else some .dzero) else none
  | 16 => if bits w 7 2 = 0 then some .drdrow else none
  | 17 => if bits w 7 2 = 0 then some .drdcol else none
  | 18 => if bits w 7 2 = 0 then some .dwrrow else none
  | 24 => if bits w 11 7 = 0 ∧ bits w 7 2 = 0 then some .drestart else none
  | _ => none

/-- Major 0x2F (R120). -/
def rowMajor2F (w : Nat) : Option Row :=
  match bits w 25 7 with
  | 0 => if bits w 22 3 = 0 ∧ bits w 11 7 = 0 then some .twait else none
  | 1 => if bits w 11 7 = 0 then some .twaitany else none
  | 2 => some .tmin
  | 3 => if bits w 22 3 = 0 ∧ bits w 15 3 = 0 then some .tmov else none
  | 4 => if bits w 22 3 = 0 then some .tstat else none
  | 5 => if bits w 15 3 = 0 then (if bit w 10 then some .tsetClr else some .tset) else none
  | 6 => if bits w 18 7 = 0 then some .tnow else none
  | 7 => if bits w 22 3 = 0 then some .tdiff else none
  | 8 => if bits w 22 3 = 0 ∧ bits w 11 7 = 0 then some .yieldt else none
  | _ => none

/-- Major 0x30 (R120). -/
def rowMajor30 (w : Nat) : Option Row :=
  match bits w 7 2 with
  | 0 => some .sadd
  | 1 => some .ssub
  | 2 => some .smul
  | 3 => some .sand
  | _ => none

/-- Major 0x31 (R120). -/
def rowMajor31 (w : Nat) : Option Row :=
  match bits w 7 2 with
  | 0 => some .sor
  | 1 => some .sxor
  | 2 => some .sshl
  | 3 => some .sshr
  | _ => none

/-- Major 0x33 (R120). -/
def rowMajor33 (w : Nat) : Option Row :=
  match bits w 25 7 with
  | 0 => if bits w 7 2 = 0 then some .smov else none
  | 1 => some .sfromv
  | 2 => if bits w 7 2 = 0 then some .sld else none
  | 3 => if bits w 7 2 = 0 then some .sldd else none
  | 4 => if bits w 7 2 = 0 then some .sread else none
  | 5 => if bits w 7 2 = 0 then some .swrite else none
  | 6 => if bits w 7 2 = 0 then some .spopc else none
  | 7 => if bits w 7 2 = 0 then some .sctz else none
  | 8 => if bits w 7 2 = 0 then some .sclz else none
  | _ => none

/-- Major 0x35 (R120). -/
def rowMajor35 (w : Nat) : Option Row :=
  if bits w 28 4 = 0 then some .sllo else none

/-- Major 0x38 (R120). -/
def rowMajor38 (w : Nat) : Option Row :=
  match bits w 9 4 with
  | 0 => if bits w 7 2 = 0 then some .braAlways else none
  | 1 => some .braThr
  | 2 => if bits w 7 2 = 0 then none else some .braThrNot
  | 3 => if bits w 7 2 = 0 then none else some .braAny
  | 4 => if bits w 7 2 = 0 then none else some .braAll
  | 5 => if bits w 7 2 = 0 then none else some .braNone
  | _ => none

/-- Major 0x3A (R120). -/
def rowMajor3A (w : Nat) : Option Row :=
  if bits w 7 2 = 0 then some .loop else none

/-- Major 0x3B (R120). -/
def rowMajor3B (w : Nat) : Option Row :=
  if bits w 7 6 = 0 then some .call else none

/-- Major 0x3C (R120). -/
def rowMajor3C (w : Nat) : Option Row :=
  match bits w 25 7 with
  | 0 => if bits w 11 14 = 0 then some .nop else none
  | 1 => if bits w 11 7 = 0 then some .jmp else none
  | 2 => if bits w 11 7 = 0 ∧ bits w 7 2 = 0 then some .callr else none
  | 3 => if bits w 11 7 = 0 ∧ bits w 7 2 = 0 then some .ret else none
  | 4 => if bits w 11 14 = 0 then some .brkloop else none
  | 5 => if bits w 11 14 = 0 ∧ bits w 7 2 = 0 then some .endturn else none
  | 6 => if bits w 11 14 = 0 ∧ bits w 7 2 = 0 then some .yield else none
  | _ => none

/-- Major 0x3D (R120). -/
def rowMajor3D (w : Nat) : Option Row :=
  match bits w 25 7 with
  | 0 => if bits w 11 7 = 0 ∧ bits w 7 2 = 0 then some .trap else none
  | 1 => if bits w 11 7 = 0 ∧ bits w 7 2 = 0 then some .bkpt else none
  | 2 => if bits w 11 14 = 0 ∧ bits w 7 2 = 0 then (if bit w 10 then some .eretFail else some .eret) else none
  | 3 => if bit w 10 then (if 32 ≤ bits w 18 7 ∧ bits w 18 7 < 36 then some .srdV else none)
    else if bits w 7 2 = 0 ∧ bits w 18 7 < 15 then some .srd else none
  | 4 => if bit w 10 then (if bits w 11 7 = 32 then some .swrV else none)
    else if bits w 7 2 = 0 ∧ (bits w 11 7 = 8 ∨ bits w 11 7 = 9) then some .swr else none
  | 5 => if bits w 11 14 = 0 ∧ bits w 7 2 = 0 then some .idemb else none
  | 6 => if bits w 11 14 = 0 ∧ bits w 7 2 = 0 then some .ideme else none
  | 7 => if bits w 14 4 = 0 ∧ bits w 7 2 = 0 then some .cbind else none
  | 8 => if bits w 18 7 = 0 ∧ bits w 14 4 = 0 ∧ bits w 7 2 = 0 then some .cunbind else none
  | _ => none

/-- The 32-bit instructions, by major opcode (R107, R120); the majors not listed are reserved (R121). -/
def rowOf32 (w : Nat) : Option Row :=
  match bits w 1 6 with
  | 0 => rowMajor00 w
  | 1 => rowMajor01 w
  | 2 => rowMajor02 w
  | 3 => rowMajor03 w
  | 4 => rowMajor04 w
  | 5 => rowMajor05 w
  | 6 => rowMajor06 w
  | 7 => rowMajor07 w
  | 8 => rowMajor08 w
  | 9 => rowMajor09 w
  | 10 => some .addi
  | 11 => some .andi
  | 12 => some .ori
  | 13 => some .xori
  | 14 => rowMajor0E w
  | 15 => some .muli
  | 16 => some .lui
  | 17 => rowMajor11 w
  | 18 => some .adr
  | 19 => rowMajor13 w
  | 20 => rowMajor14 w
  | 21 => rowMajor15 w
  | 24 => rowMajor18 w
  | 25 => rowMajor19 w
  | 26 => rowMajor1A w
  | 27 => rowMajor1B w
  | 28 => rowMajor1C w
  | 29 => rowMajor1D w
  | 30 => rowMajor1E w
  | 32 => some .ldw
  | 33 => some .ldd
  | 34 => some .ldq
  | 35 => some .ldsub
  | 36 => some .stw
  | 37 => some .std
  | 38 => some .stq
  | 39 => rowMajor27 w
  | 40 => rowMajor28 w
  | 41 => rowMajor29 w
  | 42 => rowMajor2A w
  | 43 => rowMajor2B w
  | 44 => rowMajor2C w
  | 45 => rowMajor2D w
  | 46 => rowMajor2E w
  | 47 => rowMajor2F w
  | 48 => rowMajor30 w
  | 49 => rowMajor31 w
  | 50 => some .saddi
  | 51 => rowMajor33 w
  | 52 => some .slui
  | 53 => rowMajor35 w
  | 56 => rowMajor38 w
  | 57 => some .brt
  | 58 => rowMajor3A w
  | 59 => rowMajor3B w
  | 60 => rowMajor3C w
  | 61 => rowMajor3D w
  | _ => none

/-- The row and the size in bytes of the encoding at the head of the bytes (R102). -/
def rowOf (w : Nat) : Option Row := if w % 2 = 0 then rowOf16 (w % 65536) else rowOf32 w

/-- The fields of the 16-bit format. -/
def dec16 (w : Nat) : Fmt16 := { b := b16Of (bits w 11 5), d := field w 5 6 }

/-- The instruction of a row, its operands read from the word. Not compiled: the runtime's constructor tags end at 244. -/
noncomputable def rowInstr (r : Row) (w : Nat) : Instr :=
  match r with
  | .add16 => .add16 (dec16 w)
  | .sub16 => .sub16 (dec16 w)
  | .and16 => .and16 (dec16 w)
  | .or16 => .or16 (dec16 w)
  | .xor16 => .xor16 (dec16 w)
  | .shl16 => .shl16 (dec16 w)
  | .shr16 => .shr16 (dec16 w)
  | .min16 => .min16 (dec16 w)
  | .max16 => .max16 (dec16 w)
  | .mov16 => .mov16 (dec16 w)
  | .fadd16 => .fadd16 (dec16 w)
  | .fmul16 => .fmul16 (dec16 w)
  | .fmac16 => .fmac16 (dec16 w)
  | .padd2s16 => .padd2s16 (dec16 w)
  | .pfma2s16 => .pfma2s16 (dec16 w)
  | .fmax16 => .fmax16 (dec16 w)
  | .add => .add (decA w)
  | .sub => .sub (decA w)
  | .mullo => .mullo (decA w)
  | .mulhi => .mulhi (decA w)
  | .mulhiu => .mulhiu (decA w)
  | .mad => .mad (decA w)
  | .absdiff => .absdiff (decA w)
  | .avg => .avg (decA w)
  | .min => .min (decA w)
  | .max => .max (decA w)
  | .minu => .minu (decA w)
  | .maxu => .maxu (decA w)
  | .and => .and (decA w)
  | .or => .or (decA w)
  | .xor => .xor (decA w)
  | .andn => .andn (decA w)
  | .shl => .shl (decA w)
  | .shr => .shr (decA w)
  | .sar => .sar (decA w)
  | .rotl => .rotl (decA w)
  | .bfx => .bfx (decA w)
  | .bfi => .bfi (decA w)
  | .lea2 => .lea2 (decA w)
  | .lea3 => .lea3 (decA w)
  | .selp => .selp (decSel w)
  | .add64 => .add64 (decA w)
  | .sub64 => .sub64 (decA w)
  | .shl64 => .shl64 (decA w)
  | .shr64 => .shr64 (decA w)
  | .icmp => .icmp (decIC w)
  | .fcmp => .fcmp (decFC w)
  | .addi => .addi (decI w)
  | .andi => .andi (decI w)
  | .ori => .ori (decI w)
  | .xori => .xori (decI w)
  | .shifti => .shifti (decShift w)
  | .muli => .muli (decI w)
  | .saddi => .saddi (decUI w)
  | .lui => .lui (decL w)
  | .llo => .llo (decLo w)
  | .adr => .adr (decL w)
  | .slui => .slui (decUL w)
  | .sllo => .sllo (decULo w)
  | .mov => .mov (decN w)
  | .not => .not (decN w)
  | .neg => .neg (decN w)
  | .abs => .abs (decN w)
  | .clz => .clz (decN w)
  | .ctz => .ctz (decN w)
  | .popc => .popc (decN w)
  | .brev => .brev (decN w)
  | .bswap => .bswap (decN w)
  | .sext8 => .sext8 (decN w)
  | .sext16 => .sext16 (decN w)
  | .mov64 => .mov64 (decN w)
  | .movx => .movx (decIdx w)
  | .movxw => .movxw (decIdxA w)
  | .iset => .iset (decIdxA w)
  | .iget => .iget (decIdx w)
  | .scan => .scan (decScan w)
  | .delay => .delay (decN w)
  | .perm => .perm (decN w)
  | .bfirst => .bfirst (decN w)
  | .blast => .blast (decN w)
  | .rank => .rank (decN w)
  | .matchLanes => .matchLanes (decN w)
  | .reduce => .reduce (decRed w)
  | .vote => .vote (decVote w)
  | .pand => .pand (decPL w)
  | .por => .por (decPL w)
  | .pxor => .pxor (decPL w)
  | .ptest => .ptest (decPA w)
  | .pbit => .pbit (decPA w)
  | .pget => .pget (decPG w)
  | .sadd => .sadd (decUA w)
  | .ssub => .ssub (decUA w)
  | .smul => .smul (decUA w)
  | .sand => .sand (decUA w)
  | .sor => .sor (decUA w)
  | .sxor => .sxor (decUA w)
  | .sshl => .sshl (decUA w)
  | .sshr => .sshr (decUA w)
  | .smov => .smov (decU w)
  | .sfromv => .sfromv (decUV w)
  | .sld => .sld (decU w)
  | .sldd => .sldd (decU w)
  | .sread => .sread (decUV w)
  | .swrite => .swrite (decVU w)
  | .spopc => .spopc (decU w)
  | .sctz => .sctz (decU w)
  | .sclz => .sclz (decU w)
  | .braAlways => .braAlways (decJ w)
  | .braThr => .braThr (decB w)
  | .braThrNot => .braThrNot (decB w)
  | .braAny => .braAny (decB w)
  | .braAll => .braAll (decB w)
  | .braNone => .braNone (decB w)
  | .brt => .brt (decBT w)
  | .loop => .loop (decLoop w)
  | .call => .call (decJ w)
  | .nop => .nop (decNG w)
  | .jmp => .jmp (decNA w)
  | .callr => .callr (decUO w)
  | .ret => .ret (decUO w)
  | .brkloop => .brkloop (decNG w)
  | .endturn => .endturn (decNK w)
  | .yield => .yield (decNK w)
  | .fadd => .fadd (decA w)
  | .fsub => .fsub (decA w)
  | .fmul => .fmul (decA w)
  | .ffma => .ffma (decA w)
  | .fmin => .fmin (decA w)
  | .fmax => .fmax (decA w)
  | .ffmal => .ffmal (decA w)
  | .fnma => .fnma (decA w)
  | .padd2 => .padd2 (decA w)
  | .pmul2 => .pmul2 (decA w)
  | .pfma2 => .pfma2 (decA w)
  | .pmax2 => .pmax2 (decA w)
  | .dadd => .dadd (decA w)
  | .dsub => .dsub (decA w)
  | .dmul => .dmul (decA w)
  | .dfma => .dfma (decA w)
  | .dmin => .dmin (decA w)
  | .dmax => .dmax (decA w)
  | .fneg => .fneg (decN w)
  | .fabs => .fabs (decN w)
  | .fsqrt => .fsqrt (decN w)
  | .frcp => .frcp (decN w)
  | .frsq => .frsq (decN w)
  | .fexp2 => .fexp2 (decN w)
  | .flog2 => .flog2 (decN w)
  | .fsinpi => .fsinpi (decN w)
  | .fcospi => .fcospi (decN w)
  | .frint => .frint (decN w)
  | .fclass => .fclass (decN w)
  | .dneg => .dneg (decN w)
  | .dabs => .dabs (decN w)
  | .dsqrt => .dsqrt (decN w)
  | .drcp => .drcp (decN w)
  | .drint => .drint (decN w)
  | .dclass => .dclass (decN w)
  | .pneg2 => .pneg2 (decN w)
  | .pabs2 => .pabs2 (decN w)
  | .cvtF32I32 => .cvtF32I32 (decCvt w)
  | .cvtF32N32 => .cvtF32N32 (decCvt w)
  | .cvtI32F32 => .cvtI32F32 (decCvt w)
  | .cvtN32F32 => .cvtN32F32 (decCvt w)
  | .cvtF64F32 => .cvtF64F32 (decCvt w)
  | .cvtF32F64 => .cvtF32F64 (decCvt w)
  | .cvtF64I32 => .cvtF64I32 (decCvt w)
  | .cvtI32F64 => .cvtI32F64 (decCvt w)
  | .cvtF32F16 => .cvtF32F16 (decCvt w)
  | .cvtF16x2F32x2 => .cvtF16x2F32x2 (decCvt w)
  | .cvtBf16x2F32x2 => .cvtBf16x2F32x2 (decCvt w)
  | .cvtBf16x4E8x4 => .cvtBf16x4E8x4 (decCvt w)
  | .cvtE4m3x4Bf16x4 => .cvtE4m3x4Bf16x4 (decCvt w)
  | .cvtE5m2x4Bf16x4 => .cvtE5m2x4Bf16x4 (decCvt w)
  | .cvtBf16x2B4 => .cvtBf16x2B4 (decCvt w)
  | .cvtB4F32 => .cvtB4F32 (decCvt w)
  | .ldw => .ldw (decLd w)
  | .ldd => .ldd (decLd w)
  | .ldq => .ldq (decLd w)
  | .ldsub => .ldsub (decLdSub w)
  | .stw => .stw (decSt w)
  | .std => .std (decSt w)
  | .stq => .stq (decSt w)
  | .stsub => .stsub (decStSub w)
  | .atom32AddI32 => .atom32AddI32 (decT w)
  | .atom32AddF32 => .atom32AddF32 (decT w)
  | .atom32MinI32 => .atom32MinI32 (decT w)
  | .atom32MinN32 => .atom32MinN32 (decT w)
  | .atom32MinF32 => .atom32MinF32 (decT w)
  | .atom32MaxI32 => .atom32MaxI32 (decT w)
  | .atom32MaxN32 => .atom32MaxN32 (decT w)
  | .atom32MaxF32 => .atom32MaxF32 (decT w)
  | .atom32AndB32 => .atom32AndB32 (decT w)
  | .atom32OrB32 => .atom32OrB32 (decT w)
  | .atom32XorB32 => .atom32XorB32 (decT w)
  | .atom32ExchB32 => .atom32ExchB32 (decT w)
  | .atom32CasB32 => .atom32CasB32 (decT w)
  | .atom64AddI64 => .atom64AddI64 (decT w)
  | .atom64AddF64 => .atom64AddF64 (decT w)
  | .atom64MinI64 => .atom64MinI64 (decT w)
  | .atom64MinN64 => .atom64MinN64 (decT w)
  | .atom64MinF64 => .atom64MinF64 (decT w)
  | .atom64MaxI64 => .atom64MaxI64 (decT w)
  | .atom64MaxN64 => .atom64MaxN64 (decT w)
  | .atom64MaxF64 => .atom64MaxF64 (decT w)
  | .atom64AndB64 => .atom64AndB64 (decT w)
  | .atom64OrB64 => .atom64OrB64 (decT w)
  | .atom64XorB64 => .atom64XorB64 (decT w)
  | .atom64ExchB64 => .atom64ExchB64 (decT w)
  | .atom64CasB64 => .atom64CasB64 (decT w)
  | .atomxAddBf16 => .atomxAddBf16 (decT w)
  | .atomxMinBf16 => .atomxMinBf16 (decT w)
  | .atomxMaxBf16 => .atomxMaxBf16 (decT w)
  | .atomxAddBf16x2 => .atomxAddBf16x2 (decT w)
  | .atomxMinBf16x2 => .atomxMinBf16x2 (decT w)
  | .atomxMaxBf16x2 => .atomxMaxBf16x2 (decT w)
  | .atomxAddF16x2 => .atomxAddF16x2 (decT w)
  | .atomxMinF16x2 => .atomxMinF16x2 (decT w)
  | .atomxMaxF16x2 => .atomxMaxF16x2 (decT w)
  | .atomxExchB128 => .atomxExchB128 (decT w)
  | .atomxCasB128 => .atomxCasB128 (decT w)
  | .pin => .pin (decN w)
  | .unpin => .unpin (decNA w)
  | .cflush => .cflush (decNA w)
  | .cinv => .cinv (decNA w)
  | .mcrd => .mcrd (decE w)
  | .mcst => .mcst (decNB w)
  | .msend => .msend (decNB w)
  | .mwait => .mwait (decNA w)
  | .barArrive => .barArrive (decBarA w)
  | .barWait => .barWait (decBarW w)
  | .boset => .boset (decNB w)
  | .boadd => .boadd (decNB w)
  | .bowait => .bowait (decNB w)
  | .fence => .fence (decFence w)
  | .qtake => .qtake (decUD w)
  | .qpost => .qpost (decU w)
  | .taskend => .taskend (decNG w)
  | .finit => .finit (decFin w)
  | .finitFull => .finitFull (decFin w)
  | .fget => .fget (decN w)
  | .ffill => .ffill (decNB w)
  | .cpy => .cpy (decE w)
  | .cpyx => .cpyx (decE w)
  | .coll => .coll (decE w)
  | .estat => .estat (decEst w)
  | .mma => .mma (decMma w)
  | .mmaRa => .mmaRa (decMmaR w)
  | .mmaRb => .mmaRb (decMmaR w)
  | .dzero => .dzero (decZ w)
  | .dzeroFree => .dzeroFree (decZ w)
  | .drdrow => .drdrow (decRow w)
  | .drdcol => .drdcol (decRow w)
  | .dwrrow => .dwrrow (decRow w)
  | .drestart => .drestart (decUO w)
  | .twait => .twait (decTR w)
  | .twaitany => .twaitany (decNA w)
  | .tmin => .tmin (decN w)
  | .tmov => .tmov (decTM w)
  | .tstat => .tstat (decTD w)
  | .tset => .tset (decTS w)
  | .tsetClr => .tsetClr (decTS w)
  | .tnow => .tnow (decND w)
  | .tdiff => .tdiff (decTD w)
  | .yieldt => .yieldt (decTR w)
  | .trap => .trap (decK w)
  | .bkpt => .bkpt (decK w)
  | .eret => .eret (decKA w)
  | .eretFail => .eretFail (decKA w)
  | .srd => .srd (decSrd w)
  | .srdV => .srdV (decSrdV w)
  | .swr => .swr (decSwr w)
  | .swrV => .swrV (decSwrV w)
  | .idemb => .idemb (decNK w)
  | .ideme => .ideme (decNK w)
  | .cbind => .cbind (decCb w)
  | .cunbind => .cunbind (decCu w)

/-- The number the bytes spell, the lowest first (R3). -/
def leNat : List Byte → Nat
  | [] => 0
  | b :: bs => b.toNat + 256 * leNat bs

/-- The size in bytes that bit 0 of the first halfword selects (R102). -/
def wordSize (w : Nat) : Nat := if w % 2 = 0 then 2 else 4

/-- The instruction at the head of the bytes, its size in bytes and the remaining bytes (R102). -/
noncomputable def decode (bs : List Byte) : Option (Instr × Nat × List Byte) :=
  let n := wordSize (leNat (bs.take 1))
  if bs.length < n ∨ bs = [] then none
  else (rowOf (leNat (bs.take n))).map fun r => (rowInstr r (leNat (bs.take n)), n, bs.drop n)

/-- The bytes of the word `w` of `n` bytes, the lowest first (R3, R102). -/
def wordBytes (n w : Nat) : List Byte :=
  match n with
  | 0 => []
  | k + 1 => BitVec.ofNat 8 w :: wordBytes k (w / 256)

/-- The instruction the decoder reads from a word whose bits are numbered as spec/opcode_table.json numbers them. -/
noncomputable def decodeTableWord (_nbits w : Nat) : Option Instr := (decode (wordBytes 4 w)).map (·.1)

/-- The size in bits and the word of an instruction; a step of the table without an encoding has none. -/
def encode : Instr → Option (Nat × Nat)
  | .add16 o => some (16, 0 + o.d.toNat * 2 ^ 5 + b16Code o.b * 2 ^ 11)
  | .sub16 o => some (16, 2 + o.d.toNat * 2 ^ 5 + b16Code o.b * 2 ^ 11)
  | .and16 o => some (16, 4 + o.d.toNat * 2 ^ 5 + b16Code o.b * 2 ^ 11)
  | .or16 o => some (16, 6 + o.d.toNat * 2 ^ 5 + b16Code o.b * 2 ^ 11)
  | .xor16 o => some (16, 8 + o.d.toNat * 2 ^ 5 + b16Code o.b * 2 ^ 11)
  | .shl16 o => some (16, 10 + o.d.toNat * 2 ^ 5 + b16Code o.b * 2 ^ 11)
  | .shr16 o => some (16, 12 + o.d.toNat * 2 ^ 5 + b16Code o.b * 2 ^ 11)
  | .min16 o => some (16, 14 + o.d.toNat * 2 ^ 5 + b16Code o.b * 2 ^ 11)
  | .max16 o => some (16, 16 + o.d.toNat * 2 ^ 5 + b16Code o.b * 2 ^ 11)
  | .mov16 o => some (16, 18 + o.d.toNat * 2 ^ 5 + b16Code o.b * 2 ^ 11)
  | .fadd16 o => some (16, 20 + o.d.toNat * 2 ^ 5 + b16Code o.b * 2 ^ 11)
  | .fmul16 o => some (16, 22 + o.d.toNat * 2 ^ 5 + b16Code o.b * 2 ^ 11)
  | .fmac16 o => some (16, 24 + o.d.toNat * 2 ^ 5 + b16Code o.b * 2 ^ 11)
  | .padd2s16 o => some (16, 26 + o.d.toNat * 2 ^ 5 + b16Code o.b * 2 ^ 11)
  | .pfma2s16 o => some (16, 28 + o.d.toNat * 2 ^ 5 + b16Code o.b * 2 ^ 11)
  | .fmax16 o => some (16, 30 + o.d.toNat * 2 ^ 5 + b16Code o.b * 2 ^ 11)
  | .add o => some (32, 0x00000001 + encA o)
  | .sub o => some (32, 0x00000081 + encA o)
  | .mullo o => some (32, 0x00000101 + encA o)
  | .mulhi o => some (32, 0x00000181 + encA o)
  | .mulhiu o => some (32, 0x00000003 + encA o)
  | .mad o => some (32, 0x00000083 + encA o)
  | .absdiff o => some (32, 0x00000103 + encA o)
  | .avg o => some (32, 0x00000183 + encA o)
  | .min o => some (32, 0x00000005 + encA o)
  | .max o => some (32, 0x00000085 + encA o)
  | .minu o => some (32, 0x00000105 + encA o)
  | .maxu o => some (32, 0x00000185 + encA o)
  | .and o => some (32, 0x00000007 + encA o)
  | .or o => some (32, 0x00000087 + encA o)
  | .xor o => some (32, 0x00000107 + encA o)
  | .andn o => some (32, 0x00000187 + encA o)
  | .shl o => some (32, 0x00000009 + encA o)
  | .shr o => some (32, 0x00000089 + encA o)
  | .sar o => some (32, 0x00000109 + encA o)
  | .rotl o => some (32, 0x00000189 + encA o)
  | .bfx o => some (32, 0x0000000B + encA o)
  | .bfi o => some (32, 0x0000008B + encA o)
  | .lea2 o => some (32, 0x0000010B + encA o)
  | .lea3 o => some (32, 0x0000018B + encA o)
  | .selp o => some (32, 0x0000000D + encSel o)
  | .add64 o => some (32, 0x0000000F + encA o)
  | .sub64 o => some (32, 0x0000008F + encA o)
  | .shl64 o => some (32, 0x0000010F + encA o)
  | .shr64 o => some (32, 0x0000018F + encA o)
  | .icmp o => some (32, 0x00000011 + encIC o)
  | .fcmp o => some (32, 0x00000013 + encFC o)
  | .addi o => some (32, 0x00000015 + encI o)
  | .andi o => some (32, 0x00000017 + encI o)
  | .ori o => some (32, 0x00000019 + encI o)
  | .xori o => some (32, 0x0000001B + encI o)
  | .shifti o => some (32, 0x0000001D + encShift o)
  | .muli o => some (32, 0x0000001F + encI o)
  | .saddi o => some (32, 0x00000065 + encUI o)
  | .lui o => some (32, 0x00000021 + encL o)
  | .llo o => some (32, 0x00000023 + encLo o)
  | .adr o => some (32, 0x00000025 + encL o)
  | .slui o => some (32, 0x00000069 + encUL o)
  | .sllo o => some (32, 0x0000006B + encULo o)
  | .mov o => some (32, 0x00000027 + encN o)
  | .not o => some (32, 0x02000027 + encN o)
  | .neg o => some (32, 0x04000027 + encN o)
  | .abs o => some (32, 0x06000027 + encN o)
  | .clz o => some (32, 0x08000027 + encN o)
  | .ctz o => some (32, 0x0A000027 + encN o)
  | .popc o => some (32, 0x0C000027 + encN o)
  | .brev o => some (32, 0x0E000027 + encN o)
  | .bswap o => some (32, 0x10000027 + encN o)
  | .sext8 o => some (32, 0x12000027 + encN o)
  | .sext16 o => some (32, 0x14000027 + encN o)
  | .mov64 o => some (32, 0x16000027 + encN o)
  | .movx o => some (32, 0x20000027 + encIdx o)
  | .movxw o => some (32, 0x22000027 + encIdxA o)
  | .iset o => some (32, 0x24000027 + encIdxA o)
  | .iget o => some (32, 0x26000027 + encIdx o)
  | .scan o => some (32, 0x00000029 + encScan o)
  | .delay o => some (32, 0x40000029 + encN o)
  | .perm o => some (32, 0x42000029 + encN o)
  | .bfirst o => some (32, 0x44000029 + encN o)
  | .blast o => some (32, 0x46000029 + encN o)
  | .rank o => some (32, 0x48000029 + encN o)
  | .matchLanes o => some (32, 0x4A000029 + encN o)
  | .reduce o => some (32, 0x50000029 + encRed o)
  | .vote o => some (32, 0x60000029 + encVote o)
  | .pand o => some (32, 0x0000002B + encPL o)
  | .por o => some (32, 0x0200002B + encPL o)
  | .pxor o => some (32, 0x0400002B + encPL o)
  | .ptest o => some (32, 0x1000002B + encPA o)
  | .pbit o => some (32, 0x1200002B + encPA o)
  | .pget o => some (32, 0x1400002B + encPG o)
  | .sadd o => some (32, 0x00000061 + encUA o)
  | .ssub o => some (32, 0x000000E1 + encUA o)
  | .smul o => some (32, 0x00000161 + encUA o)
  | .sand o => some (32, 0x000001E1 + encUA o)
  | .sor o => some (32, 0x00000063 + encUA o)
  | .sxor o => some (32, 0x000000E3 + encUA o)
  | .sshl o => some (32, 0x00000163 + encUA o)
  | .sshr o => some (32, 0x000001E3 + encUA o)
  | .smov o => some (32, 0x00000067 + encU o)
  | .sfromv o => some (32, 0x02000067 + encUV o)
  | .sld o => some (32, 0x04000067 + encU o)
  | .sldd o => some (32, 0x06000067 + encU o)
  | .sread o => some (32, 0x08000067 + encUV o)
  | .swrite o => some (32, 0x0A000067 + encVU o)
  | .spopc o => some (32, 0x0C000067 + encU o)
  | .sctz o => some (32, 0x0E000067 + encU o)
  | .sclz o => some (32, 0x10000067 + encU o)
  | .braAlways o => some (32, 0x00000071 + encJ o)
  | .braThr o => some (32, 0x00000271 + encB o)
  | .braThrNot o => some (32, 0x00000471 + encB o)
  | .braAny o => some (32, 0x00000671 + encB o)
  | .braAll o => some (32, 0x00000871 + encB o)
  | .braNone o => some (32, 0x00000A71 + encB o)
  | .brt o => some (32, 0x00000073 + encBT o)
  | .loop o => some (32, 0x00000075 + encLoop o)
  | .call o => some (32, 0x00000077 + encJ o)
  | .nop o => some (32, 0x00000079 + encNG o)
  | .jmp o => some (32, 0x02000079 + encNA o)
  | .callr o => some (32, 0x04000079 + encUO o)
  | .ret o => some (32, 0x06000079 + encUO o)
  | .brkloop o => some (32, 0x08000079 + encNG o)
  | .endturn o => some (32, 0x0A000079 + encNK o)
  | .yield o => some (32, 0x0C000079 + encNK o)
  | .fadd o => some (32, 0x00000031 + encA o)
  | .fsub o => some (32, 0x000000B1 + encA o)
  | .fmul o => some (32, 0x00000131 + encA o)
  | .ffma o => some (32, 0x000001B1 + encA o)
  | .fmin o => some (32, 0x00000033 + encA o)
  | .fmax o => some (32, 0x000000B3 + encA o)
  | .ffmal o => some (32, 0x00000133 + encA o)
  | .fnma o => some (32, 0x000001B3 + encA o)
  | .padd2 o => some (32, 0x00000035 + encA o)
  | .pmul2 o => some (32, 0x000000B5 + encA o)
  | .pfma2 o => some (32, 0x00000135 + encA o)
  | .pmax2 o => some (32, 0x000001B5 + encA o)
  | .dadd o => some (32, 0x00000037 + encA o)
  | .dsub o => some (32, 0x000000B7 + encA o)
  | .dmul o => some (32, 0x00000137 + encA o)
  | .dfma o => some (32, 0x000001B7 + encA o)
  | .dmin o => some (32, 0x00000039 + encA o)
  | .dmax o => some (32, 0x000000B9 + encA o)
  | .fneg o => some (32, 0x0000003B + encN o)
  | .fabs o => some (32, 0x0200003B + encN o)
  | .fsqrt o => some (32, 0x0400003B + encN o)
  | .frcp o => some (32, 0x0600003B + encN o)
  | .frsq o => some (32, 0x0800003B + encN o)
  | .fexp2 o => some (32, 0x0A00003B + encN o)
  | .flog2 o => some (32, 0x0C00003B + encN o)
  | .fsinpi o => some (32, 0x0E00003B + encN o)
  | .fcospi o => some (32, 0x1000003B + encN o)
  | .frint o => some (32, 0x1200003B + encN o)
  | .fclass o => some (32, 0x1400003B + encN o)
  | .dneg o => some (32, 0x2000003B + encN o)
  | .dabs o => some (32, 0x2200003B + encN o)
  | .dsqrt o => some (32, 0x2400003B + encN o)
  | .drcp o => some (32, 0x2600003B + encN o)
  | .drint o => some (32, 0x2800003B + encN o)
  | .dclass o => some (32, 0x2A00003B + encN o)
  | .pneg2 o => some (32, 0x3000003B + encN o)
  | .pabs2 o => some (32, 0x3200003B + encN o)
  | .cvtF32I32 o => some (32, 0x0000003D + encCvt o)
  | .cvtF32N32 o => some (32, 0x1000003D + encCvt o)
  | .cvtI32F32 o => some (32, 0x2000003D + encCvt o)
  | .cvtN32F32 o => some (32, 0x3000003D + encCvt o)
  | .cvtF64F32 o => some (32, 0x4000003D + encCvt o)
  | .cvtF32F64 o => some (32, 0x5000003D + encCvt o)
  | .cvtF64I32 o => some (32, 0x6000003D + encCvt o)
  | .cvtI32F64 o => some (32, 0x7000003D + encCvt o)
  | .cvtF32F16 o => some (32, 0x8000003D + encCvt o)
  | .cvtF16x2F32x2 o => some (32, 0x9000003D + encCvt o)
  | .cvtBf16x2F32x2 o => some (32, 0xA000003D + encCvt o)
  | .cvtBf16x4E8x4 o => some (32, 0xB000003D + encCvt o)
  | .cvtE4m3x4Bf16x4 o => some (32, 0xC000003D + encCvt o)
  | .cvtE5m2x4Bf16x4 o => some (32, 0xD000003D + encCvt o)
  | .cvtBf16x2B4 o => some (32, 0xE000003D + encCvt o)
  | .cvtB4F32 o => some (32, 0xF000003D + encCvt o)
  | .ldw o => some (32, 0x00000041 + encLd o)
  | .ldd o => some (32, 0x00000043 + encLd o)
  | .ldq o => some (32, 0x00000045 + encLd o)
  | .ldsub o => some (32, 0x00000047 + encLdSub o)
  | .stw o => some (32, 0x00000049 + encSt o)
  | .std o => some (32, 0x0000004B + encSt o)
  | .stq o => some (32, 0x0000004D + encSt o)
  | .stsub o => some (32, 0x0000004F + encStSub o)
  | .atom32AddI32 o => some (32, 0x00000051 + encT o)
  | .atom32AddF32 o => some (32, 0x10000051 + encT o)
  | .atom32MinI32 o => some (32, 0x20000051 + encT o)
  | .atom32MinN32 o => some (32, 0x30000051 + encT o)
  | .atom32MinF32 o => some (32, 0x40000051 + encT o)
  | .atom32MaxI32 o => some (32, 0x50000051 + encT o)
  | .atom32MaxN32 o => some (32, 0x60000051 + encT o)
  | .atom32MaxF32 o => some (32, 0x70000051 + encT o)
  | .atom32AndB32 o => some (32, 0x80000051 + encT o)
  | .atom32OrB32 o => some (32, 0x90000051 + encT o)
  | .atom32XorB32 o => some (32, 0xA0000051 + encT o)
  | .atom32ExchB32 o => some (32, 0xB0000051 + encT o)
  | .atom32CasB32 o => some (32, 0xC0000051 + encT o)
  | .atom64AddI64 o => some (32, 0x00000053 + encT o)
  | .atom64AddF64 o => some (32, 0x10000053 + encT o)
  | .atom64MinI64 o => some (32, 0x20000053 + encT o)
  | .atom64MinN64 o => some (32, 0x30000053 + encT o)
  | .atom64MinF64 o => some (32, 0x40000053 + encT o)
  | .atom64MaxI64 o => some (32, 0x50000053 + encT o)
  | .atom64MaxN64 o => some (32, 0x60000053 + encT o)
  | .atom64MaxF64 o => some (32, 0x70000053 + encT o)
  | .atom64AndB64 o => some (32, 0x80000053 + encT o)
  | .atom64OrB64 o => some (32, 0x90000053 + encT o)
  | .atom64XorB64 o => some (32, 0xA0000053 + encT o)
  | .atom64ExchB64 o => some (32, 0xB0000053 + encT o)
  | .atom64CasB64 o => some (32, 0xC0000053 + encT o)
  | .atomxAddBf16 o => some (32, 0x00000055 + encT o)
  | .atomxMinBf16 o => some (32, 0x10000055 + encT o)
  | .atomxMaxBf16 o => some (32, 0x20000055 + encT o)
  | .atomxAddBf16x2 o => some (32, 0x30000055 + encT o)
  | .atomxMinBf16x2 o => some (32, 0x40000055 + encT o)
  | .atomxMaxBf16x2 o => some (32, 0x50000055 + encT o)
  | .atomxAddF16x2 o => some (32, 0x60000055 + encT o)
  | .atomxMinF16x2 o => some (32, 0x70000055 + encT o)
  | .atomxMaxF16x2 o => some (32, 0x80000055 + encT o)
  | .atomxExchB128 o => some (32, 0x90000055 + encT o)
  | .atomxCasB128 o => some (32, 0xA0000055 + encT o)
  | .pin o => some (32, 0x00000057 + encN o)
  | .unpin o => some (32, 0x02000057 + encNA o)
  | .cflush o => some (32, 0x04000057 + encNA o)
  | .cinv o => some (32, 0x06000057 + encNA o)
  | .mcrd o => some (32, 0x08000057 + encE o)
  | .mcst o => some (32, 0x0A000057 + encNB o)
  | .msend o => some (32, 0x0C000057 + encNB o)
  | .mwait o => some (32, 0x0E000057 + encNA o)
  | .barArrive o => some (32, 0x00000059 + encBarA o)
  | .barWait o => some (32, 0x02000059 + encBarW o)
  | .boset o => some (32, 0x08000059 + encNB o)
  | .boadd o => some (32, 0x0A000059 + encNB o)
  | .bowait o => some (32, 0x0C000059 + encNB o)
  | .fence o => some (32, 0x10000059 + encFence o)
  | .qtake o => some (32, 0x20000059 + encUD o)
  | .qpost o => some (32, 0x22000059 + encU o)
  | .taskend o => some (32, 0x24000059 + encNG o)
  | .finit o => some (32, 0x30000059 + encFin o)
  | .finitFull o => some (32, 0x30000459 + encFin o)
  | .fget o => some (32, 0x32000059 + encN o)
  | .ffill o => some (32, 0x34000059 + encNB o)
  | .cpy o => some (32, 0x0000005B + encE o)
  | .cpyx o => some (32, 0x0200005B + encE o)
  | .coll o => some (32, 0x0400005B + encE o)
  | .estat o => some (32, 0x0600005B + encEst o)
  | .mma o => some (32, 0x0000005D + encMma o)
  | .mmaRa o => some (32, 0x0200005D + encMmaR o)
  | .mmaRb o => some (32, 0x0400005D + encMmaR o)
  | .dzero o => some (32, 0x1000005D + encZ o)
  | .dzeroFree o => some (32, 0x1000405D + encZ o)
  | .drdrow o => some (32, 0x2000005D + encRow o)
  | .drdcol o => some (32, 0x2200005D + encRow o)
  | .dwrrow o => some (32, 0x2400005D + encRow o)
  | .drestart o => some (32, 0x3000005D + encUO o)
  | .twait o => some (32, 0x0000005F + encTR o)
  | .twaitany o => some (32, 0x0200005F + encNA o)
  | .tmin o => some (32, 0x0400005F + encN o)
  | .tmov o => some (32, 0x0600005F + encTM o)
  | .tstat o => some (32, 0x0800005F + encTD o)
  | .tset o => some (32, 0x0A00005F + encTS o)
  | .tsetClr o => some (32, 0x0A00045F + encTS o)
  | .tnow o => some (32, 0x0C00005F + encND o)
  | .tdiff o => some (32, 0x0E00005F + encTD o)
  | .yieldt o => some (32, 0x1000005F + encTR o)
  | .trap o => some (32, 0x0000007B + encK o)
  | .bkpt o => some (32, 0x0200007B + encK o)
  | .eret o => some (32, 0x0400007B + encKA o)
  | .eretFail o => some (32, 0x0400047B + encKA o)
  | .srd o => some (32, 0x0600007B + encSrd o)
  | .srdV o => some (32, 0x0600047B + encSrdV o)
  | .swr o => some (32, 0x0800007B + 8 * 2 ^ 11 + encSwr o)
  | .swrV o => some (32, 0x0800047B + 32 * 2 ^ 11 + encSwrV o)
  | .idemb o => some (32, 0x0A00007B + encNK o)
  | .ideme o => some (32, 0x0C00007B + encNK o)
  | .cbind o => some (32, 0x0E00007B + encCb o)
  | .cunbind o => some (32, 0x1000007B + encCu o)
  | .qpostStatus _ => none
  | .fgetAnswer _ => none
  | .heldEntryEnqueue _ _ => none
  | .turnStart _ _ => none
  | .codeFetchReturn _ => none
  | .probeAnswer _ _ => none
  | .loadValueArrival _ => none
  | .breachNotice _ _ => none
  | .promiseWithdrawal _ _ => none
  | .promiseLate _ => none
  | .translationWalk _ => none
  | .sliceAdmit _ _ => none
  | .lineReadServe _ => none
  | .homeWriteApply _ => none
  | .markerProcess _ _ => none
  | .atomicHomeStep _ => none
  | .atomicReply _ => none
  | .pinOutcome _ => none
  | .messageAppend _ => none
  | .reductionEntryLeave _ _ => none
  | .overflowDrain _ _ => none
  | .taskEndUpdate _ => none
  | .hostEnqueue _ _ _ _ => none
  | .depCounterNotice _ => none
  | .agingTick _ => none
  | .entryPull _ => none
  | .taskStart _ => none
  | .engineQuote _ _ => none
  | .engineStart _ => none
  | .engineComplete _ => none
  | .mcrdReceiverDelivery _ _ => none
  | .collInstanceForm _ _ => none
  | .deckOpStart _ => none
  | .deckReadReady _ => none
  | .deckOpComplete _ => none
  | .dzeroWaitTimeout _ => none
  | .quantumExpiry _ _ => none
  | .groupSave _ => none
  | .groupResident _ => none
  | .compaction _ _ => none
  | .detRoundStart _ => none
  | .registerScrub _ _ _ _ => none
  | .dieFence _ => none
  | .linkRetry _ _ _ => none
  | .correctedMemoryError _ _ _ => none
  | .clockStepDown _ => none
  | .clockStepUp _ => none
  | .emergencyThrottle _ _ _ => none
  | .refreshDouble _ => none
  | .sensorOvertempFence _ => none
  | .frequencySwitch _ => none
  | .linkWidthReduce _ _ => none
  | .linkWidthIncrease _ => none
  | .viaductPathChange _ _ => none
  | .powerOn _ => none
  | .ueInboundRequest _ => none
  | .remoteWriteAck _ => none
  | .getVersion _ => none
  | .getCapabilities _ _ => none
  | .negotiateAlgorithms _ _ => none
  | .getDigests _ => none
  | .getCertificate _ _ _ _ => none
  | .challenge _ _ _ => none
  | .getMeasurements _ _ => none
  | .keyExchange _ _ _ => none
  | .finish _ _ => none
  | .heartbeat _ => none
  | .keyUpdate _ => none
  | .endSession _ => none
  | .spdmUnsupported _ _ => none
  | .mgmtMalformed _ _ _ => none
  | .ctxstart _ _ => none
  | .ctxend _ => none
  | .ctxendComplete _ => none
  | .suspend _ => none
  | .resume _ => none
  | .tlbinv _ _ _ _ => none
  | .tlbinvComplete _ => none
  | .hwinset _ _ => none
  | .hwinsetComplete _ => none
  | .keyset _ _ _ => none
  | .keyerase _ _ _ => none
  | .modset _ _ => none
  | .fwupdate _ _ _ => none
  | .dbgattach _ => none
  | .dbghalt _ _ => none
  | .dbghaltDie _ _ => none
  | .dbgrun _ _ => none
  | .dbgstep _ _ _ => none
  | .dbgread _ _ _ => none
  | .dbgwrite _ _ _ _ => none
  | .trcstart _ _ => none
  | .trcstop _ => none
  | .monread _ _ => none
  | .linkset _ _ => none
  | .portmode _ _ _ => none
  | .portRetrainDone _ => none
  | .stallSample _ _ => none
  | .podModuleLoss _ => none

/-- The bytes of an instruction, as they lie in memory. -/
def encodeBytes (i : Instr) : List Byte :=
  match encode i with
  | some (n, w) => wordBytes (n / 8) w
  | none => []

end Sys2Proof
end

