-- ==== Sys2Proof/Machine/State.lean ====
section
/-! DEFINITION. The state of a Shejor-4 module as plain data, and the state after reset. `State` is memory and the
device; the device holds threads, groups, spans, dies, contexts, queues, requests and messages in flight, caches,
translations, engines, decks, the Keystone, links, debug and trace, and the model's own input list. -/

namespace Sys2Proof.Machine

/-- Memory: (key, byte) pairs, keys strictly rising, no zero byte listed. A key names a byte of this module (its
physical address modulo 2^39), of another module (2^50 + PA), of a core's scratchpad (2^52 + core * 2^24 + byte, a region of
a context at each multiple of 2^18), or of a host (2^80 * (1 + endpoint) + its address there, R438). -/
abbrev Memory := List Host.Cell

/-- Why the machine itself stops. No step of the model does: every fault of the spec is a trap, a withdrawal, a failed
task, a notice or a response, which are next states (R365). -/
inductive Fault
  /-- raised by nobody; safe -/
  | none
deriving DecidableEq, Repr

/-- Why an instruction has no meaning. -/
inductive Refusal
  /-- raised by `exec` for an instruction the model has not reached; safe: nothing can be proved of the run -/
  | notModelled (mnemonic : String)
deriving DecidableEq, Repr

/-- States of a time register (R83, R227). -/
inductive TState
  | pending | promised | arrived | breached | withdrawn
deriving DecidableEq, Repr

/-- What a withdrawal carries (R230): cause, access class, address. -/
structure Why where
  cause : Cause
  acc : Nat := 0
  addr : DWord := 0
deriving DecidableEq, Repr

/-- A time register (R83): value, state, sticky breach bit; the request it follows (0: none), whether that request is an engine
command or MCRD (R257), and what withdrew it. -/
structure TimeReg where
  value : Word := 0
  st : TState := .arrived
  sticky : Bool := false
  req : Nat := 0
  engine : Bool := false
  why : Option Why := none
  bad : Bool := false
deriving DecidableEq, Repr

/-- What a WAIT thread waits for (R39, R252, R254, R333). -/
inductive Wait
  /-- TWAIT -/
  | time (t : TReg)
  /-- TWAITANY -/
  | anyOf (mask : Word)
  /-- YIELDT -/
  | due (t : TReg)
  /-- MWAIT on the ring whose header stands at this memory key -/
  | ring (key : Nat)
  /-- BOWAIT on the object at this memory key -/
  | object (key : Nat) (target : DWord)
deriving DecidableEq, Repr

/-- R39. -/
inductive ThreadSt
  | run
  | wait (w : Wait)
  | done
deriving DecidableEq, Repr

/-- A thread (R39, R79): program counter, state, V0-V63, the indexed window V64-V191, I0-I3, P1-P3 (bits 1 to 3),
T0-T15, and the dead marks of V0-V63 (R93). -/
structure Thread where
  pc : DWord := 0
  st : ThreadSt := .run
  v : Vector Word 64 := Vector.replicate 64 0
  x : Vector Word 128 := Vector.replicate 128 0
  i : Vector Word 4 := Vector.replicate 4 0
  p : BitVec 4 := 0
  t : Vector TimeReg 16 := Vector.replicate 16 {}
  dead : BitVec 64 := 0
deriving DecidableEq, Repr

/-- The registers the scoreboard, the poison marks and debug name; for the marks alone (R393), an operand-cache entry's copy of a
register, a latch (`true`: L1) and the queue window. -/
inductive Reg
  | v (r : VReg)
  | x (k : BitVec 7)
  | i (r : IReg)
  | p (r : PReg)
  | s (r : SReg)
  | t (r : TReg)
  | flags
  | c (k : CReg) (r : VReg)
  | l (one : Bool)
  | q
deriving DecidableEq, Repr

/-- A register's value is ready in the lanes of a mask from a tick on (R95). -/
structure Ready where
  reg : Reg
  lanes : Word
  at_ : Nat
  pc : Word := 0
deriving DecidableEq, Repr

/-- A level of the loop stack (R52). -/
structure Level where
  counter : Word
  start : DWord
  stop : DWord
deriving DecidableEq, Repr

/-- A last-result latch: 32 lanes of 64 bits, its void mark, the tick from which it may be read and the code offset of the
pass that gave it (R88, R89, R95, R448). -/
structure Latch where
  lanes : Vector DWord 32 := Vector.replicate 32 0
  void : Bool := true
  at_ : Nat := 0
  pc : Word := 0
  bad : Word := 0
deriving DecidableEq, Repr

/-- A private instruction buffer (R49): the slot, the address of its first byte, its bytes. -/
structure PrivBuf where
  slot : Nat
  start : DWord
  bytes : List Byte
deriving DecidableEq, Repr

/-- A pass that is issued again after ERET (R402), or that a debugger steps (R446): the threads that may run, the broadcast
address, the lanes kept; `lone` marks a step of private threads alone. -/
structure Reissue where
  only : Word
  pc : DWord
  kept : List (Nat × DWord) := []
  lone : Bool := false
deriving DecidableEq, Repr

/-- A turn in progress (R45, R46). -/
structure Turn where
  pos : Nat := 0
  l0 : Latch := {}
  l1 : Latch := {}
  priv : List PrivBuf := []
  reissue : Option Reissue := none
  stalled : Bool := false
deriving DecidableEq, Repr

/-- What the trap frame keeps of a thread (R370): state, EPC, EPC as it was at entry, resume bit, EADDR. -/
structure SavedThread where
  st : ThreadSt := .run
  epc : Word := 0
  epc0 : Word := 0
  resume : Bool := false
  addr : DWord := 0
deriving DecidableEq, Repr

/-- The trap frame (R90, R370). -/
structure Frame where
  kind : Nat
  threads : Vector SavedThread 32 := Vector.replicate 32 {}
  pc : DWord := 0
  pos : Nat := 0
  l0 : Latch := {}
  l1 : Latch := {}
  kept : List (Nat × DWord) := []
  loops : List Level := []
deriving DecidableEq, Repr

/-- Where a request's value goes. -/
inductive Dest
  | none
  /-- `n` V registers from `r` on -/
  | v (r : VReg) (n : Nat)
  /-- the entry of the slot's FIFO with this name -/
  | q (id : Nat)
  /-- `n` S registers from `r` on -/
  | s (r : SReg) (n : Nat)
deriving DecidableEq, Repr

/-- A pending fault of a thread (R230, R312), with the request it comes from and that request's destination; for an SLD its code
offset, for it is the faulting instruction (R167). -/
structure PendFault where
  slot : Nat
  cause : Cause
  acc : Nat
  addr : DWord
  req : Nat := 0
  dst : Dest := .none
  pc : Option Word := none
deriving DecidableEq, Repr

/-- A rectangle of cores of one cluster: die, cluster, north-west corner, size. -/
structure Rect where
  die : Nat
  clus : Nat
  x : Nat
  y : Nat
  w : Nat
  h : Nat
deriving DecidableEq, Repr

/-- The task a group runs (R58, R68): the entry's identity and its eight words, the queue it came from, its gang, its
granted rectangle, and whether it has committed. -/
structure Task where
  entry : Nat
  words : List Word
  queue : Nat
  gang : Option Nat := none
  rect : Rect
  committed : Bool := false
deriving DecidableEq, Repr

/-- An operand-cache entry (R91, R92). While valid, an entry's lanes are those of its register. -/
structure CEntry where
  reg : VReg
  valid : Bool
deriving DecidableEq, Repr

/-- An open idempotent region (R383). -/
structure Region where
  entry : DWord
  s : Vector Word 64
  mode : Byte
  flags : BitVec 6
  loops : List Level
  mask : Word
deriving DecidableEq, Repr

/-- R40. -/
inductive Cond
  | idle | busy | handler
deriving DecidableEq, Repr

/-- A group-level wait (R41). -/
inductive Hold
  | none
  /-- BAR.WAIT (R329) -/
  | barrier (sc : Scope) (k : BitVec 4)
  /-- QTAKE naming the first of eight scalar registers (R334) -/
  | qtake (s : SReg)
  /-- YIELD: not ready at the next turn opportunity (R174) -/
  | yielded
deriving DecidableEq, Repr

/-- An entry of a queue-window FIFO (R72, R73): its name, its value once arrived, the tick it is ready at. -/
structure QEntry where
  id : Nat
  value : Option Word
  at_ : Nat := 0
  bad : Bool := false
deriving DecidableEq, Repr

/-- A group (R40). `partner` is the task's group of a shadow group; `place` is none while not resident; `wanted`
marks a requested deschedule (R374), `gang` the gang whose member has ended here and that has not ended (R75).
Ticks are sixtieths of a reference cycle of the group's die. `poison` are the uncorrectable words (R393, R394), `unmet`
those that no scrub has met (R395), `cClean` the operand-cache lanes that still hold their register's good value;
a latch, a time register and a queue entry keep their own mark, and `poison` names them as well. `moveTo` is where
a moving block goes (R418), `waitTick` when the wait for residency began, `quantumAt` the group's last quantum boundary
(R420), `asked` the age of its request (R413), `yieldAt` the round of its YIELD (R426), `dzeroAt` when a DZERO
of it was first cut before a tile (R345). -/
structure Group where
  gid : Nat
  ctx : Nat
  core : Nat
  gidx : Nat
  partner : Option Nat := none
  d : Nat := 64
  x : Nat := 0
  base : Nat := 0
  place : Option (BitVec 4 × BitVec 3) := none
  cond : Cond := .busy
  threads : Vector Thread 32 := Vector.replicate 32 {}
  s : Vector Word 64 := Vector.replicate 64 0
  c : Vector (Option CEntry) 8 := Vector.replicate 8 none
  loops : List Level := []
  mode : Byte := 0
  flags : BitVec 6 := 0
  fmask : Word := 0
  tcause : Word := 0
  tframe : Word := 0
  frame : Option Frame := none
  task : Option Task := none
  dispatch : DWord := 0
  restart : Option (Word × List Level) := none
  region : Option Region := none
  barPend : List (Scope × BitVec 4) := []
  barBroken : List (Scope × BitVec 4) := []
  barPc : List (Scope × BitVec 4 × Word) := []
  hold : Hold := .none
  gang : Option Nat := none
  pendFaults : List PendFault := []
  ordPasses : Nat := 0
  pendLate : Word := 0
  pendBreach : Word := 0
  qwin : Vector (List QEntry) 32 := Vector.replicate 32 []
  rc : Word := 0
  sb : List Ready := []
  poison : List (Nat × Reg) := []
  turn : Option Turn := none
  next : Option Turn := none
  wanted : Bool := false
  instantiated : Bool := false
  saved : Option Nat := none
  discarded : Bool := false
  halted : Bool := false
  moving : Nat := 0
  moveTo : Nat := 0
  residentAt : Nat := 0
  quantumAt : Nat := 0
  idleAt : Nat := 0
  asked : Nat := 0
  waitAt : Nat := 0
  waitTick : Nat := 0
  yieldAt : Nat := 0
  dzeroAt : Option Nat := none
  unmet : List (Nat × Reg) := []
  cClean : List (Nat × CReg) := []
deriving DecidableEq, Repr

/-- A line of a span's loop buffer (R48): its 64 bytes by context and aligned address. -/
structure LoopLine where
  ctx : Nat
  va : DWord
  bytes : List Byte
deriving DecidableEq, Repr

/-- A span (R48, R419, R420). The lines stand most recently used first; `last` orders the spans' turns (log 4);
`sampleAt` is the tick of its last stall sample (R448). -/
structure Span where
  core : Nat
  num : BitVec 4
  lines : List LoopLine := []
  slot : BitVec 3 := 0
  last : Nat := 0
  sampleAt : Nat := 0
deriving DecidableEq, Repr

/-- Status of a die (R396, R428). -/
inductive DieSt
  | inReset | running | fenced | halted
deriving DecidableEq, Repr

/-- A page of a trace unit's list (R449): its address, its size, and for each of its 4 KiB the key of the first byte and the
key domain. -/
structure TracePage where
  va : DWord
  size : Nat
  parts : List (Nat × Nat)
deriving DecidableEq, Repr

/-- A trace unit (R448 to R451), started at the tick `since`. -/
structure TraceUnit where
  on : Bool := false
  ctx : Nat := 0
  session : Nat := 0
  pages : List TracePage := []
  mask : Byte := 0
  wrap : Bool := false
  period : Option Nat := none
  at_ : Nat := 0
  lost : Nat := 0
  lostAt : Word := 0
  staged : List (List Byte) := []
  since : Nat := 0
deriving DecidableEq, Repr

/-- A compute die (R24, R213, R232, R279, R444). `tick` is the reference counter in sixtieths of a cycle; `wantMhz` is a
lower frequency asked for before request `wantAt`; `wantFabric` waits for a link's width; `heat` counts the steps down for
temperature that are not undone yet (R442); `haltedAt` are the reference counters of the dies when a debugger halted this one
(R447). -/
structure Die where
  st : DieSt := .inReset
  tick : Nat := 0
  mhz : Nat := 2100
  wantMhz : Option Nat := none
  wantAt : Nat := 0
  epoch : Nat := 0
  trace : TraceUnit := {}
  wantFabric : Option Nat := none
  heat : Nat := 0
  haltedAt : List Nat := []
deriving DecidableEq, Repr

/-- A vector clock of eight entries (R279). -/
abbrev Clock := Vector Nat 8

/-- A marker in flight (R280): from, to, the new value, and the stamp order it follows. -/
structure Marker where
  source : Nat
  sink : Nat
  value : Nat
  seq : Nat
deriving DecidableEq, Repr

/-- A hardware barrier of a context (R327, R328): scope, the unit it counts in, index; count, N, generation, broken, the
groups that arrived, and the clocks that their releases brought (R329). -/
structure Barrier where
  sc : Scope
  unit : Nat
  k : BitVec 4
  count : Nat
  n : Nat
  gen : Nat := 0
  broken : Bool := false
  members : List Nat := []
  clock : Clock := Vector.replicate 8 0
deriving DecidableEq, Repr

/-- A granted gang (R415, R416, R74): its entry and queue, rectangle, cores not started, members not ended. -/
structure Gang where
  id : Nat
  words : List Word
  queue : Nat
  rect : Rect
  toStart : List Nat
  running : Nat
  failed : Bool := false
deriving DecidableEq, Repr

/-- R406 to R408, R421, R422: the descriptor's fields and the context's own state. -/
structure Ctx where
  num : Nat
  host : Option Nat
  codeBase : DWord
  root : Nat
  procTab : DWord := 0
  nproc : Nat := 0
  resent : Word := 0
  handler : Option Word := none
  save : DWord := 0
  slotSize : Nat := 32768
  ovfl : DWord := 0
  ovflSize : Nat := 0
  ovflLogged : Bool := false
  rrTab : DWord := 0
  flog : DWord := 0
  drec : DWord := 0
  drecSize : Nat := 0
  cdom : Nat := 0
  gpc : Nat := 1
  resw : Nat := 1
  resh : Nat := 1
  rq : Nat := 0
  qdl : Nat := 4
  nq : Nat := 0
  z : Nat := 0
  det : Bool := false
  d : Nat := 64
  x : Nat := 0
  rects : List Rect := []
  regions : List (Nat × Nat) := []
  suspended : Bool := false
  ending : Option MgmtHead := none
  round : Nat := 0
  roundPos : Nat := 0
  roundBusy : Bool := false
  drecCount : Nat := 0
  drecOff : Bool := false
  bars : List Barrier := []
  gangs : List Gang := []
  attached : Option Nat := none
deriving DecidableEq, Repr

/-- A queue entry in the machine (R60, R409 to R411). `pulled` names the group it is on its way to (R412); `watch` is the
counter it waits for, `left` that counter's value as the watch at its home has it, `noted` says that a write has left it at zero
(R410); `agedAt` is when its last full millisecond began (R411); `pslot` its parking slot (R69). -/
structure Entry where
  id : Nat
  ctx : Nat
  queue : Nat
  words : List Word
  runnable : Bool
  ageMs : Nat := 0
  since : Nat := 0
  watch : Option Nat := none
  left : Nat := 0
  noted : Bool := false
  agedAt : Nat := 0
  parked : Option Nat := none
  parkCount : Nat := 0
  pslot : Nat := 0
  pulled : Option Nat := none
  held : Bool := false
deriving DecidableEq, Repr

/-- How a loaded value is extended (R242). -/
inductive Ext
  | none | s8 | u8 | s16 | u16
deriving DecidableEq, Repr

/-- Atomic operations at a home (R306). -/
inductive AtomOp
  | addI | addF | minS | minU | minF | maxS | maxU | maxF | and | or | xor | exch | cas
deriving DecidableEq, Repr

/-- Elements of an atomic's location: integers or bits of the whole location, or floating elements. -/
inductive AtomTy
  | int | f32 | f64 | bf16 | bf16x2 | f16x2
deriving DecidableEq, Repr

/-- An atomic operation with its operands, as sent to a home: location bytes, operand and compare value. -/
structure Atomic where
  op : AtomOp
  ty : AtomTy
  size : Nat
  x : Nat
  cmp : Nat := 0
deriving DecidableEq, Repr

/-- What a request in flight asks for. -/
inductive ReqKind
  | load (e : Ext)
  /-- SLD, SLDD -/
  | uload
  | atomic (a : Atomic)
  | pin
  | fget
  /-- QPOST: S(A+2); the images not enqueued yet, and the status word once they are -/
  | qpost (q : Word) (images : List Byte) (status : Option Word)
deriving DecidableEq, Repr

/-- Stages of a request: its translation is awaited; on its way to its supplier; admitted to a calendar slot; its value
is fixed; it was refused or withdrawn. -/
inductive ReqSt
  | walking | sent | admitted (slot : Nat) | served | refused (c : Cause)
deriving DecidableEq, Repr

/-- A valid sector of a core's private data cache (R209). The list of sectors stands most recently used first. -/
structure PSector where
  core : Nat
  key : Nat
  data : BitVec 256
  version : Nat
  region : Bool := false
deriving DecidableEq, Repr

/-- A request in flight (R223 to R230, R240, R245, R306, R335, R339): `lanes` are the threads a failure concerns, `keys`
the bytes it names, `region` whether they lie in a replica region, `fill` the sectors its value came with, `clock` the
requester's clock, `promise` its promised time once quoted, `at_` the tick of its pass; `noFill` marks a load that an acquire of
its core has overtaken, whose sectors are not cached (R277). -/
structure Req where
  id : Nat
  gid : Nat
  slot : Nat
  kind : ReqKind
  st : ReqSt
  core : Nat := 0
  ctx : Nat := 0
  lanes : Word := 0
  va : DWord := 0
  keys : List Nat := []
  size : Nat := 4
  region : Bool := false
  dst : Dest := .none
  value : Nat := 0
  fill : List PSector := []
  clock : Clock := Vector.replicate 8 0
  dom : Nat := 0
  dropped : Bool := false
  pc : Word := 0
  promise : Option Word := none
  at_ : Nat := 0
  noFill : Bool := false
deriving DecidableEq, Repr

/-- A write on its way to its home (R233, R280, R281, R283), or a reduction that has left its buffer (R316), whose cells
give its keys alone; `applied` marks a write to another module or a host that is performed but not acknowledged. `seq` is
its place in the order its source sends in; one that R313 or R318 holds in its core is not `sent` yet; `also` are the other
threads whose reductions are merged in it. -/
structure PWrite where
  id : Nat
  source : Nat
  core : Nat
  gid : Nat
  slot : Nat
  key : Nat
  cells : List Host.Cell
  stamp : Clock
  dom : Nat := 0
  atomic : Option Atomic := none
  record : Option (DWord × Nat) := none
  ctx : Nat := 0
  va : DWord := 0
  applied : Bool := false
  pc : Word := 0
  seq : Nat := 0
  sent : Bool := true
  also : List (Nat × Nat) := []
deriving DecidableEq, Repr

/-- A message on its way to a ring (R221, R251); `waits` marks one that has found its ring full. -/
structure Msg where
  id : Nat
  ctx : Nat
  from_ : Nat
  slot : Nat
  gid : Nat
  core : Nat
  key : Nat
  bytes : List Byte
  pc : Word := 0
  waits : Bool := false
deriving DecidableEq, Repr

/-- Kinds of engine command (R258, R248). -/
inductive CmdKind
  | cpy | cpyx | coll | mcrd
deriving DecidableEq, Repr

/-- Stages of a command (R261, R262). -/
inductive CmdSt
  | queued | quoted | started | withdrawn (c : Cause)
deriving DecidableEq, Repr

/-- A cached leaf translation (R390): a core's (`cluster = false`) or a cluster's. -/
structure Trans where
  cluster : Bool
  unit : Nat
  ctx : Nat
  va : DWord
  size : Nat
  pa : Nat
  r : Bool
  w : Bool
  x : Bool
  dom : Nat
deriving DecidableEq, Repr

/-- A page of a command: its 4 KiB-aligned address, the key of its first byte, its key domain. -/
structure EPage where
  va : DWord
  key : Nat
  dom : Nat
deriving DecidableEq, Repr

/-- An engine command (R259 to R269, R248, R249): its block, the pages it has translated, for MCRD the receivers and the
lines delivered to each with the bytes that left the slice, the task's record, and what each step since its start has
replaced, newest first (R262); `dropped` once its group has been squashed or discarded (R271). -/
structure Cmd where
  id : Nat
  kind : CmdKind
  gid : Nat
  core : Nat
  ctx : Nat
  lead : Nat
  lanes : Word
  t : TReg
  block : List Byte
  rot : Nat := 0
  st : CmdSt := .queued
  pages : List EPage := []
  receivers : List Nat := []
  delivered : List (Nat × Nat) := []
  lines : List (List Byte) := []
  formed : Bool := false
  pc : Word := 0
  rect : Option Rect := none
  record : Option DWord := none
  hist : List (List Host.Cell) := []
  dropped : Bool := false
deriving DecidableEq, Repr

/-- A page-table walk in progress (R390): the page's address, the cores that wait, its die. -/
structure Walk where
  id : Nat
  ctx : Nat
  va : DWord
  cores : List Nat
deriving DecidableEq, Repr

/-- A walk that failed and whose failure the waiting instruction has not yet taken (R202, R390). -/
structure WalkFail where
  core : Nat
  ctx : Nat
  va : DWord
  cause : Cause
deriving DecidableEq, Repr

/-- A code fetch that missed the private data cache (R48). -/
structure Fetch where
  id : Nat
  core : Nat
  key : Nat
  dom : Nat := 0
  ctx : Nat
  va : DWord
deriving DecidableEq, Repr

/-- A replica of a line in a slice (R213, R284). -/
structure Replica where
  die : Nat
  slice : Nat
  line : Nat
  data : BitVec 1024
  valid : BitVec 4
  version : Nat
  epoch : Nat
deriving DecidableEq, Repr

/-- A way of a slice (R210): a home line, or a replica of a line homed elsewhere (R213). -/
structure Way where
  die : Nat
  slice : Nat
  line : Nat
  replica : Bool := false
deriving DecidableEq, Repr

/-- The newest version of a line that the cores of a slice have had (R288; log 76). -/
structure Seen where
  die : Nat
  slice : Nat
  line : Nat
  version : Nat
deriving DecidableEq, Repr

/-- A sector's writer record (R286). -/
structure WRec where
  sector : Nat
  stamp : Clock
  source : Nat
  core : Nat
  mask : BitVec 32
deriving DecidableEq, Repr

/-- A future's state beside its dword (R67). -/
structure Future where
  key : Nat
  full : Bool
  parked : List Nat := []
deriving DecidableEq, Repr

/-- A reduction buffered at a core (R316) or spilled (R317), or held by the ordered mode (R319, R320); `also` are the other
threads (group and slot) whose reductions are merged in it (R318); `cell` is a spilled one's place in its overflow area. -/
structure Red where
  id : Nat
  core : Nat
  ctx : Nat
  record : Option (DWord × Nat)
  keys : List Nat
  atomic : Atomic
  dom : Nat := 0
  at_ : Nat := 0
  spilled : Bool := false
  va : DWord := 0
  gid : Nat := 0
  order : Option (Word × Nat × Nat × Nat) := none
  atHome : Bool := false
  slot : Nat := 0
  pc : Word := 0
  also : List (Nat × Nat) := []
  cell : Nat := 0
deriving DecidableEq, Repr

/-- A completion-record update that waits for the task's reductions and writes, of the cores it ran on (R65, R318, R320). -/
structure EndUpdate where
  id : Nat
  ctx : Nat
  record : DWord
  tidx : Word
  entry : Nat
  failed : Bool
  core : Nat
  cores : List Nat := []
deriving DecidableEq, Repr

/-- A deck tile that a group owns (R343, R344). Elements not listed are +0. `gone` marks one that a later DZERO has
replaced and that queued operations still read (R358). -/
structure Tile where
  quad : Nat
  z : ZReg
  owner : Nat
  f64 : Bool
  elems : List (Nat × DWord) := []
  gone : Bool := false
deriving DecidableEq, Repr

/-- Operations of a deck (R354 to R358). -/
inductive DeckKind
  | mma | mmaRa | mmaRb | dzero | rdRow | rdCol | wrRow
deriving DecidableEq, Repr

/-- An accepted deck operation (R362): its operands as read in its pass; `readDone` marks a read whose values stand in
`regs`; `hist` holds, newest first, the bytes of the quad's scratchpads that each step since has replaced (R363). -/
structure DeckOp where
  id : Nat
  quad : Nat
  gid : Nat
  kind : DeckKind
  z : ZReg
  f64 : Bool := false
  ctl : List Word := []
  regs : List Word := []
  index : Nat := 0
  dst : VReg := 0
  started : Option Nat := none
  readDone : Bool := false
  core : Nat := 0
  ctx : Nat := 0
  hist : List (List Host.Cell) := []
deriving DecidableEq, Repr

/-- A host window's configuration (R438). -/
structure Window where
  endpoint : Nat
  base : Nat
  len : Nat
  r : Bool
  w : Bool
  a : Bool
deriving DecidableEq, Repr

/-- A command whose response waits for a later step. -/
inductive PendCmd
  | suspend (h : MgmtHead)
  | ctxEnd (h : MgmtHead)
  | tlbInv (id : Nat) (h : MgmtHead) (base : DWord) (len : Nat)
  /-- `since` is the first request after the command began -/
  | hwinSet (h : MgmtHead) (since : Nat) (w : WindowSetting)
  /-- `h` is none where the response has been sent before -/
  | portMode (h : Option MgmtHead) (port : Nat) (mode : Nat)
deriving DecidableEq, Repr

/-- Notices (R435). -/
inductive NoticeKind
  | flogNote | recFail | logLost | dieFence | dbgEvent | trcInt | linkEvent | monAlert
deriving DecidableEq, Repr

/-- What the module has sent to outside parties. -/
inductive Out
  /-- the response to a management command: header, STATUS, payload words -/
  | response (h : MgmtHead) (status : Nat) (payload : List Nat)
  /-- a notice to a session, of a context (0xFFFF: none) -/
  | notice (session : Option Nat) (kind : NoticeKind) (ctx : Nat) (payload : List Nat)
  /-- an SPDM response: the connection, its code, its fields -/
  | spdm (conn : Nat) (code : Nat) (fields : List Nat)
  /-- an answer over Ultra Ethernet: data or status; `ok = false` is an error response -/
  | ue (ok : Bool) (data : List Nat)
  /-- the status word of a host's enqueue (R335, R409) -/
  | enqueued (session : Nat) (status : Word)
deriving DecidableEq, Repr

/-- States of an SPDM connection (R431). -/
structure SpdmConn where
  conn : Nat
  stage : Nat
  version : Nat := 0
deriving DecidableEq, Repr

/-- An SPDM session (R431): its connection, whether the handshake is finished, its key generation. -/
structure Session where
  id : Nat
  conn : Nat
  ready : Bool
  keyGen : Nat := 0
deriving DecidableEq, Repr

/-- A Viaduct link (R443, R444): link n joins dies n and n + 1 modulo 4. `since` is the first request after the pending
width request; `degraded` sends the clockwise diagonal traffic over the other path (R20). -/
structure Link where
  full : Bool := true
  wantFull : Option Bool := none
  since : Nat := 0
  degraded : Bool := false
deriving DecidableEq, Repr

/-- A port (R21, R440). -/
structure Port where
  mode : Nat := 0
  up : Bool := true
deriving DecidableEq, Repr

/-- Monitor counts since power-on (R442); retries by link, 0 to 3 a Viaduct link, others a Trestle link. -/
structure Monitors where
  correctedWords : Nat := 0
  correctedReads : Nat := 0
  retries : List (Nat × Nat) := []
  breaches : Nat := 0
  throttles : Nat := 0
  dropped : Nat := 0
  saveFails : Nat := 0
deriving DecidableEq, Repr

/-- Everything but memory. `ways` are the slices' lines, the most recently used first; `bad` the sectors whose stored check
value differs from that of their bytes, with the difference (R236, R441); `seen` is the
model's own (log 76), and so are the last six fields: `inbox` (the steps that outside parties and the timing of the hardware put
next), `steps` (a counter for free values), `turns` (turn opportunities so far), `focus` (the
group whose turn is being run), `log` (bytes written by the step in progress), `nextId` (names of requests and objects). -/
structure Device where
  booted : Bool := false
  fwImage : List Byte := []
  fwPieces : List Byte := []
  meas : Vector Nat 9 := Vector.replicate 9 0
  keys : List (Nat × Nat × Nat) := []
  keyGen : Nat := 0
  linkKeys : List (Nat × Nat) := []
  bootReport : List Nat := []
  modnum : BitVec 6 := 0
  standalone : Bool := true
  dies : Vector Die 4 := Vector.replicate 4 {}
  portDies : Vector DieSt 2 := Vector.replicate 2 .inReset
  vclock : Vector Clock 8 := Vector.replicate 8 (Vector.replicate 8 0)
  applied : Vector Clock 8 := Vector.replicate 8 (Vector.replicate 8 0)
  markers : List Marker := []
  ctxs : List Ctx := []
  groups : List Group := []
  spans : List Span := []
  entries : List Entry := []
  reqs : List Req := []
  writes : List PWrite := []
  msgs : List Msg := []
  cmds : List Cmd := []
  walks : List Walk := []
  walkFails : List WalkFail := []
  fetches : List Fetch := []
  tlb : List Trans := []
  pcache : List PSector := []
  replicas : List Replica := []
  ways : List Way := []
  seen : List Seen := []
  pins : List (Nat × Nat) := []
  wrecs : List WRec := []
  versions : List (Nat × Nat) := []
  bad : List (Nat × BitVec 16) := []
  sectorKeys : List (Nat × Nat × Nat) := []
  futures : List Future := []
  reds : List Red := []
  ends : List EndUpdate := []
  tiles : List Tile := []
  deckOps : List DeckOp := []
  hwin : Vector (Option Window) 8 := Vector.replicate 8 none
  pendCmds : List PendCmd := []
  outbox : List Out := []
  heldNotices : List Out := []
  conns : List SpdmConn := []
  sessions : List Session := []
  links : Vector Link 4 := Vector.replicate 4 {}
  ports : Vector Port 8 := Vector.replicate 8 {}
  mon : Monitors := {}
  refresh2 : List Nat := []
  lostModules : List Nat := []
  inbox : List Instr := []
  steps : Nat := 0
  turns : Nat := 0
  focus : Option Nat := none
  log : List Host.Cell := []
  nextId : Nat := 1
deriving DecidableEq, Repr

/-- The whole machine. -/
structure State where
  mem : Memory := []
  dev : Device := {}
deriving DecidableEq, Repr

/-- The module right after power-on: only the Keystone has left reset (R428); vector clocks are zero (R279), the module
is standalone and number 0 (R38), memory lists nothing, and no context exists. -/
def State.reset : State := {}

end Sys2Proof.Machine
end

