-- ==== Sys2Proof/Machine/Ops.lean ====
section
/-! DEFINITION. The named operations over memory, registers, time and the device's lists. -/

namespace Sys2Proof.Machine

/-! ## Memory -/

/-- What a key reads as: an unlisted byte reads 0 (log 2). -/
def memGet (m : Memory) (k : Nat) : Byte :=
  match m with
  | [] => 0
  | (a, b) :: rest => if a = k then b else memGet rest k

/-- Writes one byte and keeps the canonical form: rising keys, no zero byte listed. -/
def memSet (m : Memory) (k : Nat) (b : Byte) : Memory :=
  match m with
  | [] => if b = 0 then [] else [(k, b)]
  | (a, c) :: rest =>
    if k < a then (if b = 0 then (a, c) :: rest else (k, b) :: (a, c) :: rest)
    else if k = a then (if b = 0 then rest else (k, b) :: rest)
    else (a, c) :: memSet rest k b

/-- Writes the cells of a step's log, the oldest (last) first. -/
def memWriteAll (m : Memory) (log : List Host.Cell) : Memory :=
  match log with
  | [] => m
  | (k, b) :: older => memSet (memWriteAll m older) k b

/-- Every key of the list lies above `k`, keys rise strictly, and no byte is zero. -/
def memWfFrom (k : Nat) (m : Memory) : Bool :=
  match m with
  | [] => true
  | (a, b) :: rest => decide (k ≤ a) && b != 0 && memWfFrom (a + 1) rest

/-- The canonical form. -/
def Memory.wf (m : Memory) : Bool := memWfFrom 0 m

/-- The byte a step sees: its own writes first, then memory. -/
def peek (m : Memory) (dv : Device) (k : Nat) : Byte :=
  match dv.log.find? (fun c => c.1 == k) with
  | some c => c.2
  | none => memGet m k

/-- The number in `n` bytes from `k` on, the lowest address least significant (R3). -/
def peekN (m : Memory) (dv : Device) (k n : Nat) : Nat :=
  match n with
  | 0 => 0
  | j + 1 => (peek m dv k).toNat + 256 * peekN m dv (k + 1) j

/-- `n` bytes from `k` on. -/
def peekBytes (m : Memory) (dv : Device) (k n : Nat) : List Byte :=
  match n with
  | 0 => []
  | j + 1 => peek m dv k :: peekBytes m dv (k + 1) j

/-- Stores bytes at consecutive keys. -/
def pokeBytes (dv : Device) (k : Nat) (bs : List Byte) : Device :=
  match bs with
  | [] => dv
  | b :: rest => pokeBytes { dv with log := (k, b) :: dv.log } (k + 1) rest

/-- Stores the low `n` bytes of `v` at `k` (R3). -/
def pokeN (dv : Device) (k n v : Nat) : Device := pokeBytes dv k (wordBytes n v)

/-! ## Lists kept by name -/

/-- The group of a name. -/
def findGroup (gs : List Group) (gid : Nat) : Option Group :=
  match gs with
  | [] => none
  | g :: rest => if g.gid = gid then some g else findGroup rest gid

/-- Replaces the group of that name. -/
def putGroup (gs : List Group) (g : Group) : List Group :=
  match gs with
  | [] => []
  | h :: rest => if h.gid = g.gid then g :: rest else h :: putGroup rest g

def Device.group? (dv : Device) (gid : Nat) : Option Group := findGroup dv.groups gid

def Device.setGroup (dv : Device) (g : Group) : Device := { dv with groups := putGroup dv.groups g }

def Device.onGroup (dv : Device) (gid : Nat) (f : Group → Group) : Device :=
  match dv.group? gid with
  | some g => dv.setGroup (f g)
  | none => dv

def Device.ctx? (dv : Device) (n : Nat) : Option Ctx := dv.ctxs.find? (·.num == n)

def Device.setCtx (dv : Device) (c : Ctx) : Device :=
  { dv with ctxs := dv.ctxs.map fun x => if x.num = c.num then c else x }

def Device.req? (dv : Device) (id : Nat) : Option Req := dv.reqs.find? (·.id == id)

def Device.setReq (dv : Device) (r : Req) : Device :=
  { dv with reqs := dv.reqs.map fun x => if x.id = r.id then r else x }

def Device.dropReq (dv : Device) (id : Nat) : Device := { dv with reqs := dv.reqs.filter (·.id != id) }

def Device.cmd? (dv : Device) (id : Nat) : Option Cmd := dv.cmds.find? (·.id == id)

def Device.setCmd (dv : Device) (c : Cmd) : Device :=
  { dv with cmds := dv.cmds.map fun x => if x.id = c.id then c else x }

def Device.entry? (dv : Device) (id : Nat) : Option Entry := dv.entries.find? (·.id == id)

def Device.setEntry (dv : Device) (e : Entry) : Device :=
  { dv with entries := dv.entries.map fun x => if x.id = e.id then e else x }

def Device.span? (dv : Device) (core : Nat) (n : BitVec 4) : Option Span :=
  dv.spans.find? fun s => s.core == core && s.num == n

/-- Puts a span's state, adding the span where it has none yet. -/
def Device.setSpan (dv : Device) (s : Span) : Device :=
  if dv.spans.any (fun x => x.core == s.core && x.num == s.num) then
    { dv with spans := dv.spans.map fun x => if x.core = s.core ∧ x.num = s.num then s else x }
  else { dv with spans := dv.spans ++ [s] }

def Device.spanOf (dv : Device) (core : Nat) (n : BitVec 4) : Span :=
  (dv.span? core n).getD { core := core, num := n }

/-- A fresh name. -/
def Device.fresh (dv : Device) : Nat × Device := (dv.nextId, { dv with nextId := dv.nextId + 1 })

/-- A fresh index for free values. -/
def Device.draw (dv : Device) : Nat × Device := (dv.steps, { dv with steps := dv.steps + 1 })

def Device.send (dv : Device) (o : Out) : Device := { dv with outbox := dv.outbox ++ [o] }

/-! ## Places (R14, R17, R29) -/

/-- The die of a core identifier. -/
def dieOf (core : Nat) : Nat := core / 256 % 4

/-- The cluster within the module, 0 to 7. -/
def clusOf (core : Nat) : Nat := core / 128 % 8

def coreX (core : Nat) : Nat := core % 128 % 12

def coreY (core : Nat) : Nat := core % 128 / 12

/-- The identifier of the core at (x, y) of a cluster. -/
def coreAt (clus x y : Nat) : Nat := clus * 128 + y * 12 + x

/-- The quad of a core, 0 to 191: 24 in a cluster. -/
def quadOf (core : Nat) : Nat := clusOf core * 24 + coreY core / 2 * 6 + coreX core / 2

/-- The die of a quad. -/
def quadDie (q : Nat) : Nat := q / 48

/-- The four cores of a quad. -/
def quadCores (q : Nat) : List Nat :=
  let c := q / 24
  let x := 2 * (q % 24 % 6)
  let y := 2 * (q % 24 / 6)
  [coreAt c x y, coreAt c (x + 1) y, coreAt c x (y + 1), coreAt c (x + 1) (y + 1)]

def inRect (r : Rect) (core : Nat) : Bool :=
  clusOf core == r.die * 2 + r.clus && decide (r.x ≤ coreX core) && decide (coreX core < r.x + r.w)
    && decide (r.y ≤ coreY core) && decide (coreY core < r.y + r.h)

/-- The cores of a rectangle, y first, then x. -/
def rectCores (r : Rect) : List Nat :=
  (List.range r.h).flatMap fun j => (List.range r.w).map fun i => coreAt (r.die * 2 + r.clus) (r.x + i) (r.y + j)

/-- The 2 by 2 rectangle of a core's quad (R34). -/
def quadRect (core : Nat) : Rect :=
  { die := dieOf core, clus := clusOf core % 2, x := coreX core / 2 * 2, y := coreY core / 2 * 2, w := 2, h := 2 }

/-! ## The end of a step -/

/-- The core whose scratchpad a key lies in (R204). -/
def scratchCore (k : Nat) : Nat := k % 2 ^ 51 / 2 ^ 24 % 1024

/-- What the cells of a step's log replace. -/
def replaced (m : Memory) (log : List Host.Cell) : List Host.Cell := log.map fun c => (c.1, memGet m c.1)

/-- Those in the scratchpads of a quad. -/
def inQuad (quad : Nat) (cs : List Host.Cell) : List Host.Cell :=
  cs.filter fun c => decide (2 ^ 52 ≤ c.1 ∧ c.1 < 2 ^ 80) && quadOf (scratchCore c.1) == quad

/-- Adds what a step has replaced to a history. -/
def addHist (cs : List Host.Cell) (h : List (List Host.Cell)) : List (List Host.Cell) :=
  match cs with
  | [] => h
  | _ => cs :: h

/-- A deck operation, and an engine command that has started, keep what a step replaces (R262, R363). -/
def noteDeck (cs : List Host.Cell) (o : DeckOp) : DeckOp := { o with hist := addHist (inQuad o.quad cs) o.hist }

def noteCmd (cs : List Host.Cell) (c : Cmd) : Cmd :=
  match c.st with
  | .started => { c with hist := addHist cs c.hist }
  | _ => c

/-- The byte of a key that a history and memory give: as it stood before the `n` newest steps of the history. -/
def histByte (m : Memory) (h : List (List Host.Cell)) (n key : Nat) : Byte :=
  match (h.take n).reverse.findSome? fun cs => cs.find? (·.1 == key) with
  | some c => c.2
  | none => memGet m key

/-- Ends a step: its log enters memory. -/
def commit (s : State) (dv : Device) : State :=
  { mem := memWriteAll s.mem dv.log
    dev := { dv with
      log := []
      deckOps := dv.deckOps.map (noteDeck (replaced s.mem dv.log))
      cmds := dv.cmds.map (noteCmd (replaced s.mem dv.log)) } }

/-! ## Time (R24, R100, R227, R424) -/

/-- Sixtieths of a reference cycle in one span cycle of a die. -/
def spanTicks (mhz : Nat) : Nat := if mhz = 0 then 60 else 2100 * 60 / mhz

def Device.die (dv : Device) (n : Nat) : Die := dv.dies.toArray.getD n {}

def Device.setDie (dv : Device) (n : Nat) (x : Die) : Device := { dv with dies := dv.dies.set! n x }

def Device.tickOf (dv : Device) (core : Nat) : Nat := (dv.die (dieOf core)).tick

/-- The die's reference counter. -/
def Device.refNow (dv : Device) (core : Nat) : Word := BitVec.ofNat 32 (dv.tickOf core / 60)

/-- The time of the queue managers: the reference counter that is furthest on (log 81). -/
def Device.elapsed (dv : Device) : Nat := (List.range 4).foldl (fun n k => max n (dv.die k).tick) 0

/-- Ticks in a microsecond. -/
def microTicks : Nat := 2100 * 60

/-- Lets `cycles` span cycles of the core's die pass. -/
def Device.spend (dv : Device) (core cycles : Nat) : Device :=
  let d := dv.die (dieOf core)
  dv.setDie (dieOf core) { d with tick := d.tick + cycles * spanTicks d.mhz }

def Device.isDet (dv : Device) (g : Group) : Bool := ((dv.ctx? g.ctx).map (·.det)).getD false

/-- "Now" as the TIME family reads it: RC in a deterministic context (R424). -/
def Device.now (dv : Device) (g : Group) : Word := if dv.isDet g then g.rc else dv.refNow g.core

/-- Whether `a` lies at or after `b`, modulo 2^32 (R231). -/
def timeGe (a b : Word) : Bool := decide ((a - b).toNat < 2 ^ 31)

/-- The core's lateness row (R227): a promise that has passed without its value moves on by 2^20 from the cycle after it,
as often as that has happened. -/
def lateValue (value now : Word) : Word :=
  let n := (now - value).toNat
  if n = 0 ∨ 2 ^ 31 ≤ n then value
  else value + BitVec.ofNat 32 ((n + Config.horizon) / (Config.horizon + 1) * (Config.horizon + 1))

/-- A time register as the core holds it at a cycle: late promises are BREACHED (R227). -/
def lateTime (x : TimeReg) (now : Word) : TimeReg :=
  match x.st with
  | .promised | .breached =>
    if lateValue x.value now = x.value then x
    else { x with value := lateValue x.value now, st := .breached, sticky := true }
  | _ => x

/-! ## Registers of a group -/

def getV (g : Group) (t : Nat) (r : VReg) : Word := ((g.threads.toArray.getD t {}).v)[r.toNat]'(r.isLt)

def thread (g : Group) (t : Nat) : Thread := g.threads.toArray.getD t {}

def setThread (g : Group) (t : Nat) (th : Thread) : Group := { g with threads := g.threads.set! t th }

def onThread (g : Group) (t : Nat) (f : Thread → Thread) : Group := setThread g t (f (thread g t))

def onThreads (g : Group) (f : Thread → Thread) : Group := { g with threads := g.threads.map f }

def getS (g : Group) (r : SReg) : Word := g.s[r.toNat]'(r.isLt)

def setS (g : Group) (r : SReg) (x : Word) : Group :=
  { g with s := g.s.set r.toNat x r.isLt, poison := g.poison.filter fun p => p.2 != .s r }

/-- The marks of a lane of Vr: the register's own, and those of the operand-cache lanes that a write to it renews (R91). -/
def markOf (t : Nat) (r : VReg) (p : Nat × Reg) : Bool :=
  p.1 == t && match p.2 with
    | .v q => q == r
    | .c _ q => q == r
    | _ => false

/-- Writes Vr of a thread: a write makes a dead-marked lane defined (R93) and clears a poison mark (R394). -/
def setV (g : Group) (t : Nat) (r : VReg) (x : Word) : Group :=
  let th := thread g t
  { setThread g t { th with v := th.v.set r.toNat x r.isLt, dead := th.dead &&& ~~~(1#64 <<< r.toNat) } with
    poison := g.poison.filter fun p => !markOf t r p }

/-- P0 is true in every thread and has no storage (R79). -/
def predOf (th : Thread) (p : PReg) : Bool := p == 0 || th.p.getLsbD p.toNat

def setPred (th : Thread) (p : PReg) (b : Bool) : Thread :=
  if p = 0 then th else
  { th with p := if b then th.p ||| (1#4 <<< p.toNat) else th.p &&& ~~~(1#4 <<< p.toNat) }

/-- T0 reads as ARRIVED at time 0 (R83). -/
def timeOf (th : Thread) (t : TReg) : TimeReg := if t = 0 then {} else th.t[t.toNat]'(t.isLt)

/-- Writes to T0 are discarded (R83). -/
def setTime (th : Thread) (t : TReg) (x : TimeReg) : Thread :=
  if t = 0 then th else { th with t := th.t.set t.toNat x t.isLt }

/-- Bits 31:24 of an index register read as zero (R81). -/
def idxMask (x : Word) : Word := x &&& 0x00FFFFFF#32

def idxOf (th : Thread) (i : IReg) : Word := th.i[i.toNat]'(i.isLt)

def setIdx (th : Thread) (i : IReg) (x : Word) : Thread := { th with i := th.i.set i.toNat x i.isLt }

def xOf (th : Thread) (k : BitVec 7) : Word := th.x[k.toNat]'(k.isLt)

def setX (th : Thread) (k : BitVec 7) (x : Word) : Thread := { th with x := th.x.set k.toNat x k.isLt }

def isRun (th : Thread) : Bool := th.st == .run

/-- The 64-bit value of a pair, the low word first (R118). -/
def pair (lo hi : Word) : DWord := BitVec.ofNat 64 (hi.toNat * 2 ^ 32 + lo.toNat)

/-- The low and the high word of a 64-bit value. -/
def lowWord (x : DWord) : Word := x.truncate 32

def highWord (x : DWord) : Word := (x >>> 32).truncate 32

/-- The slots 0 to 31. -/
def slots : List Nat := List.range 32

/-- The mask of a list of slots. -/
def maskOf (ts : List Nat) : Word := ts.foldl (fun m t => m ||| (1#32 <<< t)) 0

/-- The slots of a mask, ascending. -/
def slotsOf (m : Word) : List Nat := slots.filter fun t => m.getLsbD t

/-- The lowest of the addresses, if there is one. -/
def lowest (l : List DWord) : Option DWord :=
  match l with
  | [] => none
  | a :: rest => match lowest rest with
    | none => some a
    | some b => if a.toNat ≤ b.toNat then some a else some b

/-- The broadcast PC: the lowest PC of the RUN threads (R47). -/
def broadcastPc (g : Group) : Option DWord :=
  lowest ((slots.map (thread g)).filterMap fun th => if isRun th then some th.pc else none)

/-- The core's region of a context and its base (R205). -/
def regionBase (c : Ctx) (core : Nat) : Option Nat := (c.regions.find? (·.1 == core)).map (·.2)

def codeBaseOf (dv : Device) (g : Group) : DWord := ((dv.ctx? g.ctx).map (·.codeBase)).getD 0

/-- A code offset of a context as an address: zero-extended, then added (R174). -/
def codeAddr (base : DWord) (o : Word) : DWord := base + o.zeroExtend 64

/-- The code offset of an address. -/
def codeOff (base pc : DWord) : Word := (pc - base).truncate 32

/-- R365. -/
def causeCode : Cause → Nat
  | .illegalInstr => 1
  | .illegalOperand => 2
  | .index => 3
  | .place => 4
  | .page => 5
  | .perm => 6
  | .align => 7
  | .atomType => 8
  | .timeBreach => 9
  | .engineLate => 10
  | .futureOrder => 11
  | .idemViolation => 12
  | .deckNoRestart => 13
  | .uncorrectable => 14
  | .barrierBroken => 15
  | .breakpoint => 16
  | .trap => 17

/-- The access class that a fault carries: zero for every cause that names no access (R367). -/
def accOf : Cause → Nat → Nat
  | .page, k | .perm, k | .align, k | .place, k | .atomType, k | .uncorrectable, k => k
  | _, _ => 0

/-- R30. -/
def scopeNum (s : Scope) : Nat := scopeCode s

end Sys2Proof.Machine
end

