-- ==== Sys2Proof/Machine/Format.lean ====
section
/-! DEFINITION. Floating-point formats as numbers (R176 to R179), one exact rounding (R182 to R185), the flags (R186),
and the 4-bit block codes (R180, R181, R200). A finite value is (-1)^neg * man * 2^exp. -/

namespace Sys2Proof.Machine

/-- A floating-point format (R176): exponent and fraction bits; `e4m3` has no infinity and one NaN per sign. -/
structure Format where
  eb : Nat
  fb : Nat
  e4m3 : Bool := false
deriving DecidableEq, Repr

def f64 : Format := { eb := 11, fb := 52 }
def f32 : Format := { eb := 8, fb := 23 }
def f16 : Format := { eb := 5, fb := 10 }
def bf16 : Format := { eb := 8, fb := 7 }
def e4m3 : Format := { eb := 4, fb := 3, e4m3 := true }
def e5m2 : Format := { eb := 5, fb := 2 }

def Format.width (f : Format) : Nat := 1 + f.eb + f.fb

def Format.bias (f : Format) : Int := 2 ^ (f.eb - 1) - 1

/-- The exponent field. -/
def Format.expo (f : Format) (x : Nat) : Nat := x / 2 ^ f.fb % 2 ^ f.eb

def Format.frac (f : Format) (x : Nat) : Nat := x % 2 ^ f.fb

def Format.neg (f : Format) (x : Nat) : Bool := bit x (f.eb + f.fb)

/-- Kinds of datum. -/
inductive Kind
  | zero | sub | norm | inf | qnan | snan
deriving DecidableEq, Repr

def Format.kind (f : Format) (x : Nat) : Kind :=
  let e := f.expo x
  let m := f.frac x
  if e = 0 then (if m = 0 then .zero else .sub)
  else if e + 1 < 2 ^ f.eb then .norm
  else if f.e4m3 then (if m + 1 = 2 ^ f.fb then .qnan else .norm)
  else if m = 0 then .inf
  -- every NaN of the 8-bit formats is quiet (R177)
  else if f.width = 8 ∨ bit m (f.fb - 1) then .qnan else .snan

/-- The sticky flags (R84): NV, DZ, OF, UF, NX, DI from bit 0 up. -/
abbrev Flags := BitVec 6

def flagNV : Flags := 1
def flagDZ : Flags := 2
def flagOF : Flags := 4
def flagUF : Flags := 8
def flagNX : Flags := 16
def flagDI : Flags := 32

/-- A value: not a number, an infinity, or finite. -/
inductive Num
  | nan
  | inf (neg : Bool)
  | fin (neg : Bool) (man : Nat) (exp : Int)
deriving DecidableEq, Repr

/-- The value of a datum. -/
def Format.num (f : Format) (x : Nat) : Num :=
  match f.kind x with
  | .qnan | .snan => .nan
  | .inf => .inf (f.neg x)
  | .zero | .sub => .fin (f.neg x) (f.frac x) (1 - f.bias - f.fb)
  | .norm => .fin (f.neg x) (f.frac x + 2 ^ f.fb) (f.expo x - f.bias - f.fb)

def Num.negate : Num → Num
  | .nan => .nan
  | .inf s => .inf (!s)
  | .fin s m e => .fin (!s) m e

def Format.signBit (f : Format) (neg : Bool) : Nat := if neg then 2 ^ (f.eb + f.fb) else 0

/-- The default NaN (R177). -/
def Format.nan (f : Format) : Nat :=
  if f.e4m3 then 0x7F else (2 ^ f.eb - 1) * 2 ^ f.fb + 2 ^ (f.fb - 1)

def Format.infinity (f : Format) (neg : Bool) : Nat := f.signBit neg + (2 ^ f.eb - 1) * 2 ^ f.fb

/-- The largest finite datum (R176). -/
def Format.largest (f : Format) (neg : Bool) : Nat :=
  f.signBit neg + (if f.e4m3 then 2 ^ (f.eb + f.fb) - 2 else (2 ^ f.eb - 1) * 2 ^ f.fb - 1)

def Format.zero (f : Format) (neg : Bool) : Nat := f.signBit neg

/-- n / d as a whole number in a rounding direction (R182), and whether it is inexact. -/
def roundQuot (r : Rnd) (neg : Bool) (n d : Nat) : Nat × Bool :=
  let q := n / d
  let rem := n % d
  let up := match r with
    | .rne => decide (d < 2 * rem) || (2 * rem == d && q % 2 == 1)
    | .rz => false
    | .ru => rem != 0 && !neg
    | .rd => rem != 0 && neg
  (if up then q + 1 else q, rem != 0)

/-- n / d * 2^k as a fraction. -/
def scaled (n d : Nat) (k : Int) : Nat × Nat := if 0 ≤ k then (n * 2 ^ k.toNat, d) else (n, d * 2 ^ (-k).toNat)

/-- floor(log2(n / d)) for positive n and d. -/
def log2Quot (n d : Nat) : Int :=
  let e : Int := (n.log2 : Int) - d.log2
  let (a, b) := scaled n d (-e)
  if a < b then e - 1 else e

/-- What an overflowing result becomes, with OF and NX (R183, R185). -/
def overflow (f : Format) (r : Rnd) (sat neg : Bool) : Nat :=
  if sat then f.largest neg
  else if f.e4m3 then f.nan
  else match r with
    | .rne => f.infinity neg
    | .rz => f.largest neg
    | .ru => if neg then f.largest neg else f.infinity neg
    | .rd => if neg then f.infinity neg else f.largest neg

/-- (-1)^neg * man / den * 2^exp rounded once to a format (R182), with overflow and tininess after rounding (R183),
subnormals kept (R184). -/
def roundTo (f : Format) (r : Rnd) (sat neg : Bool) (man den : Nat) (exp : Int) : Nat × Flags :=
  if man = 0 then (f.zero neg, 0)
  else
    let e := log2Quot man den + exp
    let emin := 1 - f.bias
    let q := max e emin
    let (n, d) := scaled man den (exp - (q - f.fb))
    let (m, inexact) := roundQuot r neg n d
    -- the datum's magnitude, with the carry into the next binade
    let mag := if m < 2 ^ f.fb then m else ((q + f.bias).toNat - 1) * 2 ^ f.fb + m
    if f.largest false < mag then (overflow f r sat neg, flagOF ||| flagNX)
    else
      let (n', d') := scaled man den (exp - (e - f.fb))
      let unbounded := (roundQuot r neg n' d').1
      let tiny := decide (e < emin) && !(decide (e + 1 = emin) && decide (2 ^ (f.fb + 1) ≤ unbounded))
      (f.signBit neg + mag, (if inexact then flagNX else 0) ||| (if tiny && inexact then flagUF else 0))

/-- An integer encoded exactly (R179), or rounded (R198). -/
def ofInt (f : Format) (r : Rnd) (i : Int) : Nat × Flags := roundTo f r false (decide (i < 0)) i.natAbs 1 0

/-! ## Sums and products (R182, R183) -/

def Num.isNan : Num → Bool
  | .nan => true
  | _ => false

/-- An exact product; 0 times an infinity raises NV, also beside a NaN addend (R186). -/
def mulNum (a b : Num) : Num × Flags :=
  match a, b with
  | .nan, _ => (.nan, 0)
  | _, .nan => (.nan, 0)
  | .inf s, .inf t => (.inf (s != t), 0)
  | .inf s, .fin t m _ => if m = 0 then (.nan, flagNV) else (.inf (s != t), 0)
  | .fin s m _, .inf t => if m = 0 then (.nan, flagNV) else (.inf (s != t), 0)
  | .fin s m e, .fin t n k => (.fin (s != t) (m * n) (e + k), 0)

def signedMan (neg : Bool) (m : Nat) : Int := if neg then -(m : Int) else m

/-- An exact sum rounded once. -/
def addRound (f : Format) (r : Rnd) (a b : Num) : Nat × Flags :=
  match a, b with
  | .nan, _ => (f.nan, 0)
  | _, .nan => (f.nan, 0)
  | .inf s, .inf t => if s = t then (f.infinity s, 0) else (f.nan, flagNV)
  | .inf s, .fin _ _ _ => (f.infinity s, 0)
  | .fin _ _ _, .inf t => (f.infinity t, 0)
  | .fin s m e, .fin t n k =>
    let lo := min e k
    let total := signedMan s m * 2 ^ (e - lo).toNat + signedMan t n * 2 ^ (k - lo).toNat
    if total = 0 then
      -- an exact zero sum of opposite signs is +0, and -0 in RD (R183)
      (f.zero (if s = t then s else r == .rd), 0)
    else roundTo f r false (decide (total < 0)) total.natAbs 1 lo

/-- A value rounded to a format. -/
def roundNum (f : Format) (r : Rnd) (a : Num) : Nat × Flags :=
  match a with
  | .nan => (f.nan, 0)
  | .inf s => (f.infinity s, 0)
  | .fin s m e => roundTo f r false s m 1 e

/-- NV for a signaling operand, DI for a subnormal one (R186). -/
def operandFlags (f : Format) (xs : List Nat) : Flags :=
  xs.foldl (fun fl x => fl ||| match f.kind x with
    | .snan => flagNV
    | .sub => flagDI
    | _ => 0) 0

/-- NV for a signaling operand alone. -/
def nanFlags (f : Format) (xs : List Nat) : Flags :=
  xs.foldl (fun fl x => if f.kind x = .snan then fl ||| flagNV else fl) 0

def fpAdd (f : Format) (r : Rnd) (a b : Nat) : Nat × Flags :=
  let (x, fl) := addRound f r (f.num a) (f.num b)
  (x, fl ||| operandFlags f [a, b])

def fpSub (f : Format) (r : Rnd) (a b : Nat) : Nat × Flags :=
  let (x, fl) := addRound f r (f.num a) (f.num b).negate
  (x, fl ||| operandFlags f [a, b])

def fpMul (f : Format) (r : Rnd) (a b : Nat) : Nat × Flags :=
  let (p, fp) := mulNum (f.num a) (f.num b)
  let (x, fl) := roundNum f r p
  (x, fl ||| fp ||| operandFlags f [a, b])

/-- c + a * b, or c - a * b, fused. -/
def fpFma (f : Format) (r : Rnd) (sub : Bool) (a b c : Nat) : Nat × Flags :=
  let (p, fp) := mulNum (f.num a) (f.num b)
  let (x, fl) := addRound f r (f.num c) (if sub then p.negate else p)
  (x, fl ||| fp ||| operandFlags f [a, b, c])

/-! ## BF16 flush (R184) -/

/-- A subnormal read as zero of its sign, with DI. -/
def flushIn (x : Nat) : Nat × Flags :=
  if bf16.kind x = .sub then (x / 2 ^ 15 * 2 ^ 15, flagDI) else (x, 0)

/-- A subnormal result replaced by zero of its sign, with UF and NX. -/
def flushOut (r : Nat × Flags) : Nat × Flags :=
  if bf16.kind r.1 = .sub then (r.1 / 2 ^ 15 * 2 ^ 15, r.2 ||| flagUF ||| flagNX) else r

/-- A BF16 operation with flushed operands and result. -/
def flushed (g : Nat → Nat → Nat → Nat × Flags) (a b c : Nat) : Nat × Flags :=
  let (a', fa) := flushIn a
  let (b', fb) := flushIn b
  let (c', fc) := flushIn c
  let (x, fl) := flushOut (g a' b' c')
  (x, fl ||| fa ||| fb ||| fc)

/-! ## Order (R192, R193) -/

/-- A key that orders data that are not NaN; -0 and +0 share 0. -/
def Format.key (f : Format) (x : Nat) : Int :=
  let mag : Nat := x % 2 ^ (f.eb + f.fb)
  if f.neg x then -(mag : Int) else mag

def Format.isNan (f : Format) (x : Nat) : Bool := f.kind x == .qnan || f.kind x == .snan

/-- -0 orders below +0 (R192). -/
def Format.below (f : Format) (a b : Nat) : Bool :=
  decide (f.key a < f.key b) || (f.key a == f.key b && f.neg a && !f.neg b)

/-- FMIN and FMAX (R192). -/
def fpMinMax (f : Format) (max : Bool) (a b : Nat) : Nat × Flags :=
  let fl := nanFlags f [a, b]
  if f.isNan a then (if f.isNan b then f.nan else b, fl)
  else if f.isNan b then (a, fl)
  else (if max then (if f.below a b then b else a) else (if f.below b a then b else a), fl)

/-- A condition of FCMP (R193). -/
def fpCompare (f : Format) (c : FCond) (a b : Nat) : Bool × Flags :=
  let fl := nanFlags f [a, b]
  let un := f.isNan a || f.isNan b
  let quiet := if un then flagNV else 0
  match c with
  | .eq => (!un && f.key a == f.key b, fl)
  | .ne => (un || f.key a != f.key b, fl)
  | .lt => (!un && decide (f.key a < f.key b), fl ||| quiet)
  | .le => (!un && decide (f.key a ≤ f.key b), fl ||| quiet)
  | .gt => (!un && decide (f.key b < f.key a), fl ||| quiet)
  | .ge => (!un && decide (f.key b ≤ f.key a), fl ||| quiet)
  | .un => (un, fl)
  | .ord => (!un, fl)

/-! ## Square root, reciprocal, rounding to an integer, classes (R195) -/

/-- The whole part of a square root, by bits from `n` down. -/
def isqrtAux (x r : Nat) : Nat → Nat
  | 0 => r
  | n + 1 => let r' := r + 2 ^ n
      isqrtAux x (if r' * r' ≤ x then r' else r) n

/-- The whole part of the square root of a number below 2^(2n). -/
def isqrt (x n : Nat) : Nat := isqrtAux x 0 n

/-- NaN operands give the default NaN, NV if signaling. -/
def nanOf (f : Format) (x : Nat) : Nat × Flags := (f.nan, nanFlags f [x])

def fpSqrt (f : Format) (r : Rnd) (x : Nat) : Nat × Flags :=
  match f.num x with
  | .nan => nanOf f x
  | .inf s => if s then (f.nan, flagNV) else (x, 0)
  | .fin s m e =>
    if m = 0 then (x, 0)
    else if s then (f.nan, flagNV ||| operandFlags f [x])
    else
      -- an even exponent and at least two bits of root beyond the format; the rest of the root is a sticky half bit
      let sh := 2 * f.fb + 8 + ((e - (2 * f.fb + 8)) % 2).toNat
      let n := m * 2 ^ sh
      let root := isqrt n (n.log2 / 2 + 1)
      let half : Int := (e - sh) / 2
      let (y, fl) := if root * root = n then roundTo f r false false root 1 half
        else roundTo f r false false (2 * root + 1) 1 (half - 1)
      (y, fl ||| operandFlags f [x])

def fpRcp (f : Format) (r : Rnd) (x : Nat) : Nat × Flags :=
  match f.num x with
  | .nan => nanOf f x
  | .inf s => (f.zero s, 0)
  | .fin s m e =>
    if m = 0 then (f.infinity s, flagDZ)
    else
      let (y, fl) := roundTo f r false s 1 m (-e)
      (y, fl ||| operandFlags f [x])

def fpRint (f : Format) (r : Rnd) (x : Nat) : Nat × Flags :=
  match f.num x with
  | .nan => nanOf f x
  | .inf _ => (x, 0)
  | .fin s m e =>
    if m = 0 ∨ 0 ≤ e then (x, 0)
    else
      let (q, inexact) := roundQuot r s m (2 ^ (-e).toNat)
      ((roundTo f .rne false s q 1 0).1, (if inexact then flagNX else 0) ||| operandFlags f [x])

/-- The class mask of FCLASS. -/
def fpClass (f : Format) (x : Nat) : Nat :=
  match f.kind x, f.neg x with
  | .inf, true => 1
  | .norm, true => 2
  | .sub, true => 4
  | .zero, true => 8
  | .zero, false => 16
  | .sub, false => 32
  | .norm, false => 64
  | .inf, false => 128
  | .snan, _ => 256
  | .qnan, _ => 512

/-! ## Conversions (R185, R198) -/

/-- From one floating-point format to another. `exact` conversions raise NV alone. -/
def fpConvert (src dst : Format) (r : Rnd) (sat exact : Bool) (x : Nat) : Nat × Flags :=
  match src.num x with
  | .nan => (dst.nan, nanFlags src [x])
  | .inf s =>
    if sat then (dst.largest s, flagOF ||| flagNX)
    else if dst.e4m3 then (dst.nan, flagNV) else (dst.infinity s, 0)
  | .fin s m e =>
    let (y, fl) := roundTo dst r sat s m 1 e
    (y, fl ||| (if exact then 0 else operandFlags src [x]))

/-- To an integer in `lo .. hi` (R198). -/
def fpToInt (f : Format) (r : Rnd) (lo hi : Int) (x : Nat) : Word × Flags :=
  let clip (i : Int) (fl : Flags) : Word × Flags :=
    if hi < i then (BitVec.ofInt 32 hi, flagNV ||| (fl &&& flagDI))
    else if i < lo then (BitVec.ofInt 32 lo, flagNV ||| (fl &&& flagDI))
    else (BitVec.ofInt 32 i, fl)
  match f.num x with
  | .nan => (0, flagNV)
  | .inf s => clip (if s then lo - 1 else hi + 1) 0
  | .fin s m e =>
    let (q, inexact) := if 0 ≤ e then (m * 2 ^ e.toNat, false) else roundQuot r s m (2 ^ (-e).toNat)
    clip (signedMan s q) ((if inexact then flagNX else 0) ||| operandFlags f [x])

/-! ## 4-bit block codes (R180, R181, R200) -/

/-- A code's value in eighths. -/
def b4Eighths (ty c : Nat) : Int :=
  let i := c % 8
  let mag : Nat :=
    if ty = 1 then [0, 4, 8, 12, 16, 24, 32, 48].getD i 0
    else if ty = 2 then [0, 1, 2, 4, 8, 16, 32, 64].getD i 0
    else [0, 8, 16, 24, 32, 48, 64, 96].getD i 0
  if ty = 0 then 8 * (if 8 ≤ c % 16 then (c % 16 : Int) - 16 else c % 16)
  else if 8 ≤ c % 16 then -(mag : Int) else mag

/-- The value of an element: code and scale byte (R180). -/
def b4Num (scale c : Nat) : Num :=
  let v := b4Eighths (scale / 64 % 4) c
  .fin (decide (v < 0)) v.natAbs ((scale % 64 : Nat) - 35)

/-- The codes that quantisation delivers, in rising order of value (R200). -/
def b4Codes (ty : Nat) : List Nat :=
  if ty = 0 then [8, 9, 10, 11, 12, 13, 14, 15, 0, 1, 2, 3, 4, 5, 6, 7]
  else [15, 14, 13, 12, 11, 10, 9, 0, 1, 2, 3, 4, 5, 6, 7]

/-- The largest code at or below a value of n / d eighths, and the smallest at or above it. -/
def b4Below (ty : Nat) (n : Int) (d : Nat) : Option Nat :=
  ((b4Codes ty).filter fun c => decide (b4Eighths ty c * d ≤ n)).getLast?

def b4Above (ty : Nat) (n : Int) (d : Nat) : Option Nat :=
  (b4Codes ty).find? fun c => decide (n ≤ b4Eighths ty c * d)

/-- CVT.B4.F32's code and flags (R200) for a binary32 datum, a scale byte and a mode; the largest magnitude of type 00 is
taken as 8 for both signs (log 88). -/
def b4Quantise (x scale : Nat) (r : Rnd) : Nat × Flags :=
  let ty := scale / 64 % 4
  let top := if ty = 0 then 64 else b4Eighths ty 7
  match f32.num x with
  | .nan => (0, flagNV)
  | .inf s => ((if s then (b4Codes ty).headD 0 else 7), flagOF ||| flagNX)
  | .fin s m e =>
    -- y in eighths is n / d
    let (a, d) := scaled m 1 (e + 35 - (scale % 64 : Nat))
    let n := signedMan s a
    let di := operandFlags f32 [x]
    let big := if top * d < a then flagOF ||| flagNX else 0
    match b4Below ty n d, b4Above ty n d with
    | some lo, some hi =>
      if lo = hi then (lo, di)
      else
        let vl := b4Eighths ty lo * d
        let vh := b4Eighths ty hi * d
        let c := match r with
          | .rz => if s then hi else lo
          | .ru => hi
          | .rd => lo
          | .rne => if n - vl < vh - n then lo else if vh - n < n - vl then hi else if lo % 2 = 0 then lo else hi
        (c, di ||| flagNX ||| (if c = 0 then flagUF else 0))
    | some lo, none => (lo, di ||| flagNX ||| big)
    | none, some hi => (hi, di ||| flagNX ||| big)
    | none, none => (0, di)

end Sys2Proof.Machine
end

