-- ==== Sys2Proof/Machine/Approx.lean ====
section
/-! DEFINITION. FRSQ, FEXP2, FLOG2, FSINPI and FCOSPI (R196). Each function is computed as a fixed-point number with 200
bits or more after the point; the delivered value is the free value of Config where that is a finite number within the
bound, else the function's value rounded to nearest (log 12). -/

namespace Sys2Proof.Machine

/-- 1, pi and the natural logarithm of 2, times 2^200. -/
def fixOne : Nat := 2 ^ 200
def fixPi : Nat := 5048344754617993871973410141242436836214643421488662971535368
def fixLn2 : Nat := 1113844574712631719546256151097547306333272293549090750737802

/-- The exponential series, from term `n` down, of y / 2^200. -/
def expSeries (y acc : Nat) : Nat → Nat
  | 0 => acc
  | n + 1 => expSeries y (fixOne + y * acc / (fixOne * (n + 1))) n

/-- 2^f for f / 2^200 in [0, 1), times 2^200. -/
def fixExp2 (f : Nat) : Nat := expSeries (f * fixLn2 / fixOne) fixOne 64

/-- The series of atanh(z) / z in w = z^2. -/
def atanhSeries (w acc : Nat) : Nat → Nat
  | 0 => acc
  | n + 1 => atanhSeries w (fixOne / (2 * n + 1) + w * acc / fixOne) n

/-- log2 of m / 2^200 in [1, 2), times 2^200. -/
def fixLog2 (m : Nat) : Nat :=
  let z := (m - fixOne) * fixOne / (m + fixOne)
  2 * z * atanhSeries (z * z / fixOne) 0 80 / fixLn2

/-- The series of sin(y) / y in y^2. -/
def sinSeries (w acc : Nat) : Nat → Nat
  | 0 => acc
  | n + 1 => sinSeries w (fixOne - w * acc / (fixOne * (2 * (n + 1) * (2 * (n + 1) + 1)))) n

/-- sin(pi * t) for t / 2^200 in [0, 1/2], times 2^200. -/
def fixSinPi (t : Nat) : Nat :=
  let y := t * fixPi / fixOne
  y * sinSeries (y * y / fixOne) fixOne 40 / fixOne

/-- A real number v * 2^k. -/
structure Fixed where
  v : Int
  k : Int
deriving DecidableEq, Repr

/-- |datum - value| as n * 2^lo, for a finite binary32 datum. -/
def distance (x : Nat) (r : Fixed) : Option (Nat × Int) :=
  match f32.num x with
  | .fin s m e =>
    let lo := min e r.k
    some ((signedMan s m * 2 ^ (e - lo).toNat - r.v * 2 ^ (r.k - lo).toNat).natAbs, lo)
  | _ => none

/-- n * 2^lo ≤ b * 2^k. -/
def leScaled (n : Nat) (lo : Int) (b : Nat) (k : Int) : Bool :=
  let z := min lo k
  decide (n * 2 ^ (lo - z).toNat ≤ b * 2 ^ (k - z).toNat)

/-- The exponent of the binary32 unit in the last place of a value. -/
def ulpExp (r : Fixed) : Int := max ((r.v.natAbs.log2 : Int) + r.k) (-126) - 23

/-- The delivered datum: the free value within `b` units of 2^k, else the value rounded to nearest. -/
def choose (code x : Nat) (r : Fixed) (b : Nat) (k : Int) : Nat :=
  let c := Config.approx code x % 2 ^ 32
  let ok := match distance c r with
    | some (n, lo) => leScaled n lo b k
    | none => false
  if ok then c else (roundTo f32 .rne false (decide (r.v < 0)) r.v.natAbs 1 r.k).1

/-- A result that is not exact: NX, and UF where it is tiny. -/
def inexactFlags (y : Nat) : Flags := flagNX ||| (if f32.expo y = 0 then flagUF else 0)

def approxOut (x y : Nat) : Nat × Flags := (y, inexactFlags y ||| operandFlags f32 [x])

/-- 1, and an exact value, with DI for a subnormal operand. -/
def exactOut (x y : Nat) : Nat × Flags := (y, operandFlags f32 [x])

/-- Whether a positive number is a power of two. -/
def isPow2 (m : Nat) : Bool := m == 2 ^ m.log2

def fpRsq (x : Nat) : Nat × Flags :=
  match f32.num x with
  | .nan => nanOf f32 x
  | .inf s => if s then (f32.nan, flagNV) else (0, 0)
  | .fin s m e =>
    if m = 0 then (f32.infinity s, flagDZ)
    else if s then (f32.nan, flagNV ||| operandFlags f32 [x])
    else
      let top := e + m.log2
      if isPow2 m ∧ top % 2 = 0 then exactOut x (roundTo f32 .rne false false 1 1 (-(top / 2))).1
      else
        let n := 2 ^ (520 - e).toNat / m
        let r : Fixed := { v := isqrt n (n.log2 / 2 + 1), k := -260 }
        approxOut x (choose 0 x r 1 (ulpExp r))

def fpExp2 (x : Nat) : Nat × Flags :=
  match f32.num x with
  | .nan => nanOf f32 x
  | .inf s => (if s then 0 else f32.infinity false, 0)
  | .fin s m e =>
    -- the operand in units of 2^-200, exact
    let a := signedMan s (m * 2 ^ (200 + e).toNat)
    if 128 * (fixOne : Int) ≤ a then (f32.infinity false, flagOF ||| flagNX ||| operandFlags f32 [x])
    else if a < -149 * (fixOne : Int) then (0, flagUF ||| flagNX ||| operandFlags f32 [x])
    else
      let n := a / fixOne
      let f := (a % fixOne).toNat
      if f = 0 then exactOut x (roundTo f32 .rne false false 1 1 n).1
      else
        let r : Fixed := { v := fixExp2 f, k := n - 200 }
        approxOut x (choose 1 x r 2 (ulpExp r))

def fpLog2 (x : Nat) : Nat × Flags :=
  match f32.num x with
  | .nan => nanOf f32 x
  | .inf s => if s then (f32.nan, flagNV) else (x, 0)
  | .fin s m e =>
    if m = 0 then (f32.infinity true, flagDZ)
    else if s then (f32.nan, flagNV ||| operandFlags f32 [x])
    else
      let n := e + m.log2
      if isPow2 m then exactOut x (ofInt f32 .rne n).1
      else
        let r : Fixed := { v := n * fixOne + fixLog2 (m * 2 ^ (200 - m.log2)), k := -200 }
        -- inside [0.5, 2] the bound is absolute
        if n = -1 ∨ n = 0 then approxOut x (choose 2 x r 1 (-22)) else approxOut x (choose 2 x r 2 (ulpExp r))

/-- Twice the magnitude of a multiple of 1/2, if the operand is one. -/
def halves (m : Nat) (e : Int) : Option Nat :=
  if -1 ≤ e then some (m * 2 ^ (e + 1).toNat)
  else
    let d := 2 ^ (-1 - e).toNat
    if m % d = 0 then some (m / d) else none

/-- sin(pi * t) of t / 2^200 in [0, 2). -/
def sinPiOf (t : Nat) : Fixed :=
  let neg := decide (fixOne ≤ t)
  let u := t % fixOne
  let u := if fixOne < 2 * u then fixOne - u else u
  { v := signedMan neg (fixSinPi u), k := -200 }

def oneF32 (neg : Bool) : Nat := f32.signBit neg + 0x3F800000

def fpSinPi (x : Nat) : Nat × Flags :=
  match f32.num x with
  | .nan => nanOf f32 x
  | .inf _ => (f32.nan, flagNV)
  | .fin s m e =>
    if m = 0 then (x, 0)
    else match halves m e with
      | some h =>
        if h % 2 = 0 then exactOut x 0 else exactOut x (oneF32 (s != (h % 4 == 3)))
      | none =>
        let r := sinPiOf (m * 2 ^ (200 + e).toNat % (2 * fixOne))
        let r : Fixed := { r with v := if s then -r.v else r.v }
        approxOut x (choose 3 x r 1 (-22))

def fpCosPi (x : Nat) : Nat × Flags :=
  match f32.num x with
  | .nan => nanOf f32 x
  | .inf _ => (f32.nan, flagNV)
  | .fin _ m e =>
    match halves m e with
    | some h => if h % 2 = 1 then exactOut x 0 else exactOut x (oneF32 (h % 4 == 2))
    | none =>
      -- cos(pi * t) = sin(pi * (t + 1/2))
      let r := sinPiOf ((m * 2 ^ (200 + e).toNat + fixOne / 2) % (2 * fixOne))
      approxOut x (choose 4 x r 1 (-22))

end Sys2Proof.Machine
end

