-- ==== Sys2Proof/Machine/Addr.lean ====
section
/-! DEFINITION. Addresses: the classes of R201, the scratchpad window (R204 to R206), physical addresses and homes
(R207, R208), the page-table walk (R386 to R389), translation buffers (R390), replica regions (R214, R215), the check
value of a sector (R441), and the device's own accesses (R379). -/

namespace Sys2Proof.Machine

/-- What an access needs of a leaf (R389). -/
inductive Need
  | r | w | rw | x
deriving DecidableEq, Repr

/-- The classes of R201. -/
inductive VaClass
  | scratch | canonical | nonCanonical
deriving DecidableEq, Repr

def vaClass (va : DWord) : VaClass :=
  if va.toNat / 2 ^ 48 = 0xFFFE then .scratch
  else if va.toNat / 2 ^ 56 = 0 ∨ va.toNat / 2 ^ 56 = 0xFF then .canonical
  else .nonCanonical

/-- The signed DX and DY of a scratchpad address (R204). -/
def vaDx (va : DWord) : Int := ((va >>> 40).truncate 8 : BitVec 8).toInt

def vaDy (va : DWord) : Int := ((va >>> 32).truncate 8 : BitVec 8).toInt

/-- The core at a signed offset from a core, inside its cluster (R33). -/
def coreOffset (core : Nat) (dx dy : Int) : Option Nat :=
  let x := (coreX core : Int) + dx
  let y := (coreY core : Int) + dy
  if 0 ≤ x ∧ x < 12 ∧ 0 ≤ y ∧ y < 8 then some (coreAt (clusOf core) x.toNat y.toNat) else none

/-- The granted rectangle of a group's task (R34); a group outside a task has none. -/
def grantOf (g : Group) : Option Rect := g.task.map (·.rect)

/-- The place check (R36): the core named, or none where it fails; an offset of (0, 0) always passes. -/
def placeCheck (g : Group) (dx dy : Int) : Option Nat :=
  if dx = 0 ∧ dy = 0 then some g.core
  else match coreOffset g.core dx dy, grantOf g with
    | some c, some r => if inRect r c then some c else none
    | _, _ => none

/-- The start check (R76): the named core's member of the group's gang has not started. -/
def notStarted (dv : Device) (g : Group) (core : Nat) : Bool :=
  match g.task.bind (·.gang) with
  | none => false
  | some id => match (dv.ctx? g.ctx).bind fun c => c.gangs.find? (·.id == id) with
    | none => false
    | some gang => gang.toStart.contains core

/-- The key of byte `b` of a core's scratchpad. -/
def scratchKey (core b : Nat) : Nat := 2 ^ 52 + core * 2 ^ 24 + b

/-- The location of a scratchpad access (R205, R206): offset modulo Z, low bits ignored, banks rotated within the row. -/
def rotate (o rot : Nat) : Nat :=
  o / 256 * 256 + (o / 8 % 32 + rot * (o / 256)) % 32 * 8 + o % 8

/-- The bank of a scratchpad location. -/
def bankOf (o rot : Nat) : Nat := (o / 8 % 32 + rot * (o / 256)) % 32

/-- The scratchpad key of an access of `size` bytes at offset `off` of the context's region on `core`; none where
Z = 0. The rotation keeps a naturally aligned access of up to 8 bytes together; wider accesses go by their 8-byte
words. -/
def regionKey (c : Ctx) (core off size rot : Nat) : Option Nat :=
  if c.z = 0 then none else
    (regionBase c core).map fun base =>
      let o := off % c.z
      scratchKey core (base + rotate (o - o % size) rot)

/-- The keys of the bytes of a scratchpad access, by 8-byte words (R206). -/
def regionKeys (c : Ctx) (core off size rot : Nat) : List Nat :=
  if c.z = 0 then [] else
    match regionBase c core with
    | none => []
    | some base =>
      let o := off % c.z
      let o := o - o % size
      (List.range size).map fun i => scratchKey core (base + rotate (o + i) rot)

/-! ## Physical addresses (R207, R208) -/

/-- The memory die of a key of this module's memory (R18). -/
def mdieOf (key : Nat) : Nat := key / 2 ^ 33 % 64

/-- The compute die where a key of this module's memory is homed. -/
def homeDie (key : Nat) : Nat := mdieOf key / 16

/-- The home slice of a line (R208). -/
def homeSlice (key : Nat) : Nat := 3 * (mdieOf key % 16) + key % 2 ^ 33 / 128 % 3

/-- The set of a line in its home slice (R208). -/
def homeSet (key : Nat) : Nat := key % 2 ^ 33 / 128 / 3 % 1024

/-- Kinds of memory a key lies in. -/
inductive KeyKind
  | own | other | host | scratch
deriving DecidableEq, Repr

def keyKind (k : Nat) : KeyKind :=
  if k < 2 ^ 50 then .own else if k < 2 ^ 51 then .other else if 2 ^ 80 ≤ k then .host else .scratch

/-- The key of a host's byte: its endpoint and its address there (R438). -/
def hostKey (w : Window) (off : Nat) : Nat := 2 ^ 80 * (1 + w.endpoint) + w.base + off

/-- The ordering source that is home to a key (R273, R279): its compute die; the port die of a host window or another
module is taken as A (log 18). -/
def homeSource (k : Nat) : Nat := if keyKind k = .own then homeDie k else 4

/-- Checks a physical address (R207, R387, R437, R438, R397) and answers its key. -/
def physKey (dv : Device) (pa dom : Nat) (need : Need) : Except Cause Nat :=
  if pa / 2 ^ 51 % 2 = 1 then
    let n := pa / 2 ^ 48 % 8
    match dv.hwin.toArray.getD n none with
    | none => .error .page
    | some w =>
      if dom ≠ 0 ∨ w.len ≤ pa % 2 ^ 48 ∨ need = .x then .error .page
      else if (need = .r ∧ !w.r) ∨ (need = .w ∧ !w.w) ∨ (need = .rw ∧ !w.a) then .error .perm
      else .ok (hostKey w (pa % 2 ^ 48))
  else if pa / 2 ^ 47 % 16 ≠ 0 ∨ 64 ≤ pa / 2 ^ 39 % 256 ∨ 0x180000000 ≤ pa % 2 ^ 33 then .error .page
  else if pa / 2 ^ 39 % 256 ≠ dv.modnum.toNat then
    if dv.standalone then .error .page else .ok (2 ^ 50 + pa % 2 ^ 47)
  else
    let key := pa % 2 ^ 39
    if !(dv.keys.any fun k => k.1 == mdieOf key && k.2.1 == dom) then .error .page
    else if (dv.die (homeDie key)).st = .fenced then .error .uncorrectable
    else .ok key

/-- The sector of a key (32 bytes). -/
def sectorOf (key : Nat) : Nat := key / 32

/-- The current generation of a domain's key on a memory die (R437). -/
def keyGenOf (dv : Device) (mdie dom : Nat) : Option Nat :=
  (dv.keys.find? fun k => k.1 == mdie && k.2.1 == dom).map (·.2.2)

/-- CRC-16 of R441 over one byte, most significant bit first. -/
def crcByte (crc : BitVec 16) (b : Byte) : BitVec 16 :=
  (List.range 8).foldl (fun c i =>
    let top := c.getLsbD 15 != b.getLsbD (7 - i)
    if top then (c <<< 1) ^^^ 0x8BB7#16 else c <<< 1) crc

/-- The check value of a sector's bytes (R441). -/
def checkValue (bs : List Byte) : BitVec 16 := bs.foldl crcByte 0

/-- How a sector's stored check value differs from that of its bytes; writing a sector forms it, so that they agree. -/
def checkDiff (dv : Device) (sector : Nat) : BitVec 16 :=
  match dv.bad.find? (·.1 == sector) with
  | some p => p.2
  | none => 0

/-- The check value stored beside a sector (R236, R441). -/
def storedCheck (m : Memory) (dv : Device) (sector : Nat) : BitVec 16 :=
  checkValue (peekBytes m dv (sector * 32) 32) ^^^ checkDiff dv sector

/-- A sector that reads as uncorrectable: its check value does not match (R236, R441), or it was last written under a
key that is not the one it is read with (R437). -/
def badSector (dv : Device) (key dom : Nat) : Bool :=
  checkDiff dv (sectorOf key) != 0 ||
  (keyKind key = .own && match dv.sectorKeys.find? (·.1 == sectorOf key) with
    | some (_, d, n) => !(d == dom && keyGenOf dv (mdieOf key) d == some n)
    | none => false)

/-! ## The walk (R386 to R389) -/

/-- A leaf translation: the page's first physical address and size, permissions, key domain. -/
structure Leaf where
  pa : Nat
  size : Nat
  r : Bool
  w : Bool
  x : Bool
  dom : Nat
deriving DecidableEq, Repr

/-- Bytes mapped by a leaf at a level (R386). -/
def pageSize (level : Nat) (ps : Bool) : Nat :=
  if level = 2 then 2 ^ 30 else if level = 1 then 2 ^ 21 else if ps then 2 ^ 16 else 2 ^ 12

/-- Populated memory of this module (R207, R388). -/
def populated (dv : Device) (pa : Nat) : Bool :=
  pa / 2 ^ 47 == 0 && pa / 2 ^ 39 == dv.modnum.toNat && decide (pa % 2 ^ 33 < 0x180000000)

/-- A table entry cannot be read: its die is fenced off (R397), or its data is uncorrectable. -/
def entryLost (dv : Device) (key : Nat) : Bool := (dv.die (homeDie key)).st == .fenced || badSector dv key 0

/-- The keys of the table entries that a walk reads, down to where it ends. -/
def walkPath (m : Memory) (dv : Device) (va table : Nat) : Nat → List Nat
  | 0 => [(table + 8 * (va / 2 ^ 12 % 512)) % 2 ^ 39]
  | level + 1 =>
    let key := (table + 8 * (va / 2 ^ (12 + 9 * (level + 1)) % 512)) % 2 ^ 39
    let e := peekN m dv key 8
    if !bit e 0 || bit e 1 then [key] else key :: walkPath m dv va (bits e 12 40 * 2 ^ 12) level

/-- The walk from the table at `table`, level by level down (R386, R388). -/
def walkFrom (m : Memory) (dv : Device) (va : Nat) (table : Nat) : Nat → Except Cause Leaf
  | 0 =>
    let i := va / 2 ^ 12 % 512
    let e0 := peekN m dv ((table + 8 * i) % 2 ^ 39) 8
    -- a 64 KiB page is translated by whichever of its 16 entries the walk reads (R388, log 11)
    let i := if bit e0 5 then i / 16 * 16 + (Config.pageEntry dv.steps).toNat else i
    let key := (table + 8 * i) % 2 ^ 39
    let e := peekN m dv key 8
    let ps := bit e 5
    let pa := bits e 12 40 * 2 ^ 12
    if entryLost dv key then .error .uncorrectable
    else if !bit e 0 || !bit e 1 || bits e 60 4 ≠ 0 || bits e 52 4 ≠ 0 || bits e 6 6 ≠ 0 then .error .page
    else if ps && pa % 2 ^ 16 ≠ 0 then .error .page
    else .ok { pa := pa, size := pageSize 0 ps, r := bit e 2, w := bit e 3, x := bit e 4, dom := bits e 56 4 }
  | level + 1 =>
    let i := va / 2 ^ (12 + 9 * (level + 1)) % 512
    let key := (table + 8 * i) % 2 ^ 39
    let e := peekN m dv key 8
    let pa := bits e 12 40 * 2 ^ 12
    if entryLost dv key then .error .uncorrectable
    else if !bit e 0 || bits e 60 4 ≠ 0 || bits e 52 4 ≠ 0 || bits e 6 6 ≠ 0 || bit e 5 then .error .page
    else if bit e 1 then
      if 3 ≤ level + 1 then .error .page
      else
        let size := pageSize (level + 1) false
        if pa % size ≠ 0 then .error .page
        else .ok { pa := pa, size := size, r := bit e 2, w := bit e 3, x := bit e 4, dom := bits e 56 4 }
    else if bits e 2 3 ≠ 0 || bits e 56 4 ≠ 0 || !populated dv pa then .error .page
    else walkFrom m dv va pa level

/-- The walk of a context's tables (R386). -/
def walk (m : Memory) (dv : Device) (c : Ctx) (va : DWord) : Except Cause Leaf := walkFrom m dv va.toNat c.root 4

/-- Whether a leaf grants an access (R389). -/
def granted (l : Leaf) (need : Need) : Bool :=
  match need with
  | .r => l.r
  | .w => l.w
  | .rw => l.r && l.w
  | .x => l.x

/-- The device's own access to a context's memory, 16 bytes or less within an aligned 16 (R379): translated by a walk,
with the permission needed, refused as R207 says. The key, and the leaf's key domain. -/
def deviceSite (m : Memory) (dv : Device) (c : Ctx) (va : DWord) (need : Need) : Except Cause (Nat × Nat) :=
  if vaClass va ≠ .canonical then .error .page
  else match walk m dv c va with
    | .error e => .error e
    | .ok l =>
      if !granted l need then .error .perm
      else match physKey dv (l.pa + va.toNat % l.size) l.dom need with
        | .error e => .error e
        | .ok k => if need ≠ .w && badSector dv k l.dom then .error .uncorrectable else .ok (k, l.dom)

def deviceKey (m : Memory) (dv : Device) (c : Ctx) (va : DWord) (need : Need) : Except Cause Nat :=
  (deviceSite m dv c va need).map (·.1)

/-- The sites of `n` sixteenths of a device access from a 16-aligned address on. -/
def deviceSites (m : Memory) (dv : Device) (c : Ctx) (va : DWord) (need : Need) : Nat → Except Cause (List (Nat × Nat))
  | 0 => .ok []
  | n + 1 => match deviceSite m dv c va need with
    | .error e => .error e
    | .ok k => (deviceSites m dv c (va + 16) need n).map fun ks => k :: ks

/-- A device read of `n` times 16 bytes. -/
def deviceRead (m : Memory) (dv : Device) (c : Ctx) (va : DWord) (n : Nat) : Except Cause (List Byte) :=
  (deviceSites m dv c va .r n).map fun ks => ks.flatMap fun k => peekBytes m dv k.1 16

/-- A device write of some sixteenths meets uncorrectable data: it covers one half of such a sector alone (R441). -/
def halfBad (dv : Device) (ks : List (Nat × Nat)) : Bool :=
  ks.any fun k => badSector dv k.1 k.2 && !ks.any fun j => j.1 != k.1 && sectorOf j.1 == sectorOf k.1

/-! ## Replica regions (R214, R215) -/

/-- Viaduct hops from die `a` to die `b`. -/
def dieHops (a b : Nat) : Nat := min ((b + 4 - a) % 4) ((a + 4 - b) % 4)

/-- The copy a die's access selects: the lowest name on the die itself, else on the die fewest hops away, ties to the
clockwise neighbour (R215). -/
def selectCopy (names : Nat) (die : Nat) : Option Nat :=
  let on := fun d => (List.range 16).find? fun q => bit names (16 * d + q)
  let pick := fun d => (on d).map fun q => 16 * d + q
  match pick die, pick ((die + 1) % 4), pick ((die + 3) % 4), pick ((die + 2) % 4) with
  | some k, _, _, _ => some k
  | none, some k, _, _ => some k
  | none, none, some k, _ => some k
  | none, none, none, k => k

/-- The NAMES of the replica region an address lies in: the lowest-numbered of 16 entries that hold it (R214). -/
def replicaNames (m : Memory) (dv : Device) (c : Ctx) (va : DWord) : Option Nat :=
  if c.rrTab = 0 then none
  else (List.range 16).findSome? fun i =>
    match deviceRead m dv c (c.rrTab + BitVec.ofNat 64 (32 * i)) 2 with
    | .error _ => none
    | .ok bs =>
      let e := leNat bs
      let base := bits e 0 64
      let len := bits e 64 64
      if bits e 192 64 = 0 ∧ base % 2 ^ 21 = 0 ∧ len ≠ 0 ∧ len % 2 ^ 21 = 0 ∧ base ≤ va.toNat ∧ va.toNat < base + len
      then some (bits e 128 64) else none

/-- The physical address of the copy an access of a die uses; a mapping whose die is not in NAMES is refused (R214). -/
def replicaPa (m : Memory) (dv : Device) (c : Ctx) (va : DWord) (die pa : Nat) : Except Cause Nat :=
  match replicaNames m dv c va with
  | none => .ok pa
  | some names =>
    if !bit names (pa / 2 ^ 33 % 64) then .error .page
    else match selectCopy names die with
      | some k => .ok (pa - pa / 2 ^ 33 % 64 * 2 ^ 33 + k * 2 ^ 33)
      | none => .error .page

/-! ## Translation buffers (R390) -/

def transHit (t : Trans) (cluster : Bool) (unit ctx : Nat) (va : DWord) : Bool :=
  t.cluster == cluster && t.unit == unit && t.ctx == ctx && decide (t.va.toNat ≤ va.toNat)
    && decide (va.toNat < t.va.toNat + t.size)

def tlbFind (dv : Device) (cluster : Bool) (unit ctx : Nat) (va : DWord) : Option Trans :=
  dv.tlb.find? fun t => transHit t cluster unit ctx va

def transLeaf (t : Trans) : Leaf := { pa := t.pa, size := t.size, r := t.r, w := t.w, x := t.x, dom := t.dom }

/-- Puts a translation into a buffer of `cap` entries; the oldest of that buffer leaves when it is full (log 19). -/
def tlbPut (dv : Device) (t : Trans) (cap : Nat) : Device :=
  let mine := dv.tlb.filter fun x => x.cluster == t.cluster && x.unit == t.unit
  let rest := dv.tlb.filter fun x => !(x.cluster == t.cluster && x.unit == t.unit)
  { dv with tlb := rest ++ (t :: mine).take cap }

def leafTrans (cluster : Bool) (unit ctx : Nat) (va : DWord) (l : Leaf) : Trans :=
  { cluster := cluster, unit := unit, ctx := ctx, va := BitVec.ofNat 64 (va.toNat - va.toNat % l.size), size := l.size,
    pa := l.pa, r := l.r, w := l.w, x := l.x, dom := l.dom }

/-- A leaf enters a core's buffer and its cluster's (R390). -/
def tlbFill (dv : Device) (core ctx : Nat) (va : DWord) (l : Leaf) : Device :=
  tlbPut (tlbPut dv (leafTrans true (clusOf core) ctx va l) 4096) (leafTrans false core ctx va l) 64

/-- The leaf that the buffers have for an access of a core: its own, else its cluster's (R390). -/
def tlbLeaf (dv : Device) (core ctx : Nat) (va : DWord) : Option Leaf :=
  ((tlbFind dv false core ctx va).or (tlbFind dv true (clusOf core) ctx va)).map transLeaf

/-- Starts a walk, or joins the walk of the same 4 KiB of the context (R390). -/
def startWalk (dv : Device) (core ctx : Nat) (va : DWord) : Device :=
  let page := BitVec.ofNat 64 (va.toNat - va.toNat % 4096)
  if dv.walks.any fun w => w.ctx == ctx && w.va == page && dieOf (w.cores.headD 0) == dieOf core then
    { dv with walks := dv.walks.map fun w =>
        if w.ctx = ctx ∧ w.va = page ∧ dieOf (w.cores.headD 0) = dieOf core ∧ !w.cores.contains core
        then { w with cores := w.cores ++ [core] } else w }
  else
    { dv with walks := dv.walks ++ [{ id := dv.nextId, ctx := ctx, va := page, cores := [core] }],
              nextId := dv.nextId + 1 }

/-- What the core TLB says of an address: its leaf, a failure a walk has brought back, or nothing yet. -/
inductive Lookup
  | leaf (l : Leaf)
  | failed (c : Cause)
  | miss
deriving DecidableEq, Repr

/-- A key that a host window leads to, as it is configured. -/
def inWindow (dv : Device) (n key : Nat) : Bool :=
  match dv.hwin.toArray.getD n none with
  | some w => decide (hostKey w 0 ≤ key ∧ key < hostKey w w.len)
  | none => false

/-- HWINSET is being executed for the host window that a physical address names: the first request after it began (R438). -/
def windowHeld (dv : Device) (pa : Nat) : Option Nat :=
  if pa / 2 ^ 51 % 2 = 1 then
    dv.pendCmds.findSome? fun p => match p with
      | .hwinSet _ since w => if w.window.toNat = pa / 2 ^ 48 % 8 then some since else none
      | _ => none
  else none

def lookup (dv : Device) (core ctx : Nat) (va : DWord) : Lookup :=
  match tlbFind dv false core ctx va with
  | some t => if (windowHeld dv t.pa).isSome then .miss else .leaf (transLeaf t)
  | none =>
    match dv.walkFails.find? fun f =>
        f.core == core && f.ctx == ctx && f.va.toNat / 4096 == va.toNat / 4096 with
    | some f => .failed f.cause
    | none => .miss

/-- The instruction that waited takes the failure; the next access walks again (R390). -/
def takeFail (dv : Device) (core ctx : Nat) (va : DWord) : Device :=
  { dv with walkFails := dv.walkFails.filter fun f =>
      !(f.core == core && f.ctx == ctx && f.va.toNat / 4096 == va.toNat / 4096) }

/-- The key of an access through a leaf: permission (R389), the copy of a replica region (R215), the physical check
(R207). -/
def leafKey (m : Memory) (dv : Device) (c : Ctx) (core : Nat) (va : DWord) (l : Leaf) (need : Need) :
    Except Cause Nat :=
  if !granted l need then .error .perm
  else match replicaPa m dv c va (dieOf core) (l.pa + va.toNat % l.size) with
    | .error e => .error e
    | .ok pa => physKey dv pa l.dom need

/-! ## Private data cache and write path (R209, R283) -/

def sectorHit (dv : Device) (core key : Nat) : Option PSector :=
  dv.pcache.find? fun s => s.core == core && s.key == sectorOf key

/-- A byte of a cached sector. -/
def sectorByte (s : PSector) (key : Nat) : Byte := (s.data >>> (8 * (key % 32))).truncate 8

def setSectorByte (s : PSector) (key : Nat) (b : Byte) : PSector :=
  let sh := 8 * (key % 32)
  { s with data := (s.data &&& ~~~((0xFF#256) <<< sh)) ||| (b.zeroExtend 256 <<< sh) }

/-- A byte of a write in flight, if it covers the key. -/
def writeByte (w : PWrite) (key : Nat) : Option Byte :=
  if w.atomic.isSome ∨ w.applied then none else (w.cells.find? (·.1 == key)).map (·.2)

/-- The youngest byte for a key in a core's write path among the writes issued before a request (R283); the path stands
oldest first. -/
def forwarded (dv : Device) (core key before : Nat) : Option Byte :=
  dv.writes.foldl (fun acc w => if w.core = core ∧ w.id < before then (writeByte w key).or acc else acc) none

/-- A byte as a load of the core takes it from its home: its own earlier writes in the path first (R283, R289). -/
def homeByte (m : Memory) (dv : Device) (core before key : Nat) : Byte :=
  (forwarded dv core key before).getD (peek m dv key)

def homeBytes (m : Memory) (dv : Device) (core key : Nat) : Nat → Nat
  | 0 => 0
  | n + 1 => (homeByte m dv core dv.nextId key).toNat + 256 * homeBytes m dv core (key + 1) n

/-- The number in the bytes at some keys. -/
def natAt (m : Memory) (dv : Device) (core before : Nat) (keys : List Nat) : Nat :=
  leNat (keys.map (homeByte m dv core before))

/-- `n` bytes from the private cache, which holds them all. -/
def cachedBytes (dv : Device) (core key : Nat) : Nat → Nat
  | 0 => 0
  | n + 1 => ((sectorHit dv core key).map fun s => (sectorByte s key).toNat).getD 0
      + 256 * cachedBytes dv core (key + 1) n

/-- The number in cached bytes at some keys. -/
def cachedNat (dv : Device) (core : Nat) (keys : List Nat) : Nat :=
  leNat (keys.map fun k => ((sectorHit dv core k).map fun s => sectorByte s k).getD 0)

/-- All sectors of an access are valid in the core's private cache (an access of 16 bytes lies in one sector). -/
def cacheHolds (dv : Device) (core key size : Nat) : Bool :=
  (sectorHit dv core key).isSome && (sectorHit dv core (key + size - 1)).isSome

/-- A sector's bytes as the core sees them at its home, as cache data. -/
def sectorData (m : Memory) (dv : Device) (core before sector : Nat) : BitVec 256 :=
  BitVec.ofNat 256 (natAt m dv core before ((List.range 32).map (sector * 32 + ·)))

def lineVersion (dv : Device) (key : Nat) : Nat :=
  ((dv.versions.find? (·.1 == key / 128)).map (·.2)).getD 0

def bumpVersion (dv : Device) (key : Nat) : Device :=
  let l := key / 128
  if dv.versions.any (·.1 == l) then
    { dv with versions := dv.versions.map fun v => if v.1 = l then (l, (v.2 + 1) % 2 ^ 32) else v }
  else { dv with versions := (l, 1) :: dv.versions }

end Sys2Proof.Machine
end

