-- ==== Sys2Proof/Machine/Store.lean ====
section
/-! DEFINITION. What stands at the homes: clocks and stamps (R279 to R282, R285), plain writes (R233, R236, R284, R286, R437,
R441), the ways of a slice and its replicas (R210, R211, R213, R284), the private cache (R209), and the device's own writes
(R379). -/

namespace Sys2Proof.Machine

/-! ## Clocks and stamps (R279 to R282, R285, R286) -/

def clockOf (dv : Device) (source : Nat) : Clock := dv.vclock.toArray.getD source (Vector.replicate 8 0)

def appliedOf (dv : Device) (source : Nat) : Clock := dv.applied.toArray.getD source (Vector.replicate 8 0)

def Clock.at_ (c : Clock) (k : Nat) : Nat := c.toArray.getD k 0

/-- Entry by entry, the larger (R282). -/
def Clock.join (a b : Clock) : Clock := Vector.zipWith max a b

/-- A source takes another clock into its own (R282). -/
def mergeClock (dv : Device) (source : Nat) (c : Clock) : Device :=
  { dv with vclock := dv.vclock.set! source ((clockOf dv source).join c) }

/-- A source reads at a home: the home merges the source's clock, and the answer brings the home's (R282). -/
def meetHome (dv : Device) (source home : Nat) : Device :=
  if source = home then dv
  else
    let d := mergeClock dv home (clockOf dv source)
    mergeClock d source (clockOf d home)

/-- A compute die that the Keystone has fenced off (R396). -/
def fencedDie (dv : Device) (k : Nat) : Bool := decide (k < 4) && (dv.die k).st == .fenced

/-- The applied counts at a source have reached a clock in every entry but some (R281); entry 7 is ignored, and so is that
of a fenced die (R396). -/
def caughtUp (dv : Device) (source : Nat) (c : Clock) (but : List Nat) : Bool :=
  (List.range 7).all fun k => but.contains k || fencedDie dv k || decide (c.at_ k ≤ (appliedOf dv source).at_ k)

/-- A compute die that a debugger has halted: its slices, memory controllers and engines stand still (R447). -/
def haltedDie (dv : Device) (k : Nat) : Bool := decide (k < 4) && (dv.die k).st == .halted

/-- A byte homed on a halted die. -/
def haltedKey (dv : Device) (key : Nat) : Bool := keyKind key == .own && haltedDie dv (homeDie key)

/-- A byte homed on a fenced die (R397). -/
def lostKey (dv : Device) (key : Nat) : Bool := keyKind key == .own && fencedDie dv (homeDie key)

/-- R285: `a`, from source `sa`, precedes `b`. -/
def precedes (sa : Nat) (a b : Clock) : Bool :=
  (List.range 7).all (fun k => decide (a.at_ k ≤ b.at_ k)) && decide (a.at_ sa < b.at_ sa)

/-- Two writes are concurrent (R285). -/
def concurrent (sa : Nat) (a : Clock) (sb : Nat) (b : Clock) : Bool :=
  sa != sb && !precedes sa a b && !precedes sb b a

/-- The mask of a sector's bytes that cells cover. -/
def sectorMask (sector : Nat) (cells : List Host.Cell) : BitVec 32 :=
  (cells.filter fun c => sectorOf c.1 == sector).foldl (fun m c => m ||| (1#32 <<< (c.1 % 32))) 0

/-- The cells of a plain write that take effect in one sector, and its record after it (R286). -/
def recordWrite (w : PWrite) (stamp : Clock) (dv : Device) (sector : Nat) : List Host.Cell × Device :=
  let mine := w.cells.filter fun c => sectorOf c.1 == sector
  match dv.wrecs.find? (·.sector == sector) with
  | some r =>
    if concurrent r.source r.stamp w.source stamp ∧ w.core < r.core then
      (mine.filter fun c => !r.mask.getLsbD (c.1 % 32), dv)
    else
      let n : WRec := { sector := sector, stamp := stamp, source := w.source, core := w.core, mask := sectorMask sector mine }
      (mine, { dv with wrecs := n :: dv.wrecs.filter (·.sector != sector) })
  | none =>
    let n : WRec := { sector := sector, stamp := stamp, source := w.source, core := w.core, mask := sectorMask sector mine }
    (mine, { dv with wrecs := n :: dv.wrecs })

/-- The active sources (R278, R280): running compute dies and the port dies and Keystone. -/
def activeSource (dv : Device) (k : Nat) : Bool :=
  if k < 4 then (dv.die k).st == .running || (dv.die k).st == .halted
  else if k < 6 then (dv.portDies.toArray.getD (k - 4) .inReset) == .running else k == 6

/-- A source's own entry increases and markers go to the other active sources (R278, R280). -/
def releaseClock (source : Nat) (dv : Device) : Device :=
  let v := clockOf dv source
  let n := v.at_ source + 1
  let d := { dv with vclock := dv.vclock.set! source (v.set! source n) }
  let ms := ((List.range 7).filter fun k => k != source && activeSource d k).map fun k =>
    { source := source, sink := k, value := n, seq := d.nextId : Marker }
  { d with markers := d.markers ++ ms, nextId := d.nextId + 1 }

/-! ## Slices (R208, R210 to R213) -/

/-- The pier columns and rows of R208. -/
def slicePier (s : Nat) : Nat × Nat := (s % 12, 2 * (s / 12) + 1)

def quadPier (core : Nat) : Nat × Nat := (6 * (clusOf core % 2) + coreX core / 2, 2 * (coreY core / 2))

/-- Hops of dimension-order routing on the 12 by 8 torus (R216, R217). -/
def pierHops (a b : Nat × Nat) : Nat :=
  min ((b.1 + 12 - a.1) % 12) ((a.1 + 12 - b.1) % 12) + min ((b.2 + 8 - a.2) % 8) ((a.2 + 8 - b.2) % 8)

/-- The slice fewest hops from the core's quad pier, ties to the lower index (R213). -/
def nearestSlice (core : Nat) : Nat :=
  (List.range 48).foldl (fun best s =>
    if pierHops (quadPier core) (slicePier s) < pierHops (quadPier core) (slicePier best) then s else best) 0

/-- A load, as against the other requests. -/
def isLoad (k : ReqKind) : Bool :=
  match k with
  | .load _ | .uload => true
  | _ => false

/-- A read has been admitted to a home line and is not served yet (R225). -/
def admittedTo (dv : Device) (line : Nat) : Bool :=
  dv.reqs.any fun r => isLoad r.kind && (match r.st with
    | .admitted _ => true
    | _ => false) && r.keys.headD 0 / 128 == line

/-- A way that the slice may replace: not pinned, and with no admitted read (R210, R211). A replica's reads are served as they
are admitted. -/
def replaceable (dv : Device) (w : Way) : Bool :=
  w.replica || !((dv.pins.any fun p => p.2 == w.line) || admittedTo dv w.line)

/-- The ways of a line's set in a slice (R208; a replica goes to the set of its line's number, log 76). -/
def setWays (dv : Device) (die slice line : Nat) : List Way :=
  dv.ways.filter fun w => w.die == die && w.slice == slice && homeSet (w.line * 128) == homeSet (line * 128)

/-- A replica of a slice goes, with its way. -/
def dropReplicas (p : Nat → Nat → Nat → Bool) (dv : Device) : Device :=
  { dv with
    replicas := dv.replicas.filter fun r => !p r.die r.slice r.line
    ways := dv.ways.filter fun w => !(w.replica && p w.die w.slice w.line) }

/-- A slice uses a line: it becomes the most recently used of its set, in a way of its own, for which the least recently used
replaceable way is given up; none where no way is free (R210). -/
def useWay (w : Way) (dv : Device) : Option Device :=
  if dv.ways.contains w then some { dv with ways := w :: dv.ways.filter fun x => x != w }
  else
    let mine := setWays dv w.die w.slice w.line
    if mine.length < 16 then some { dv with ways := w :: dv.ways }
    else match (mine.filter (replaceable dv)).getLast? with
      | none => none
      | some v => some
          { dv with
            ways := w :: dv.ways.filter fun x => x != v
            replicas := dv.replicas.filter fun r => !(v.replica && r.die == v.die && r.slice == v.slice && r.line == v.line) }

/-- A line of this module's memory is used in its home slice; where no way is free the access goes past it (R210, R212). -/
def touchLine (dv : Device) (line : Nat) : Device :=
  let key := line * 128
  (useWay { die := homeDie key, slice := homeSlice key, line := line } dv).getD dv

/-- The lines of some cells. -/
def linesOf (cells : List Host.Cell) : List Nat := (cells.map fun c => c.1 / 128).eraseDups

/-- Whether version `a` is later than `b`, modulo 2^32 (R284). -/
def newer (a b : Nat) : Bool := let x := (a + 2 ^ 32 - b) % 2 ^ 32; decide (0 < x) && decide (x < 2 ^ 31)

/-- The newest version of a line that the cores of a slice have had. -/
def seenOf (dv : Device) (die slice line : Nat) : Option Nat :=
  (dv.seen.find? fun x => x.die == die && x.slice == slice && x.line == line).map (·.version)

/-- A version would take the cores of a slice back behind one they have had (R288; log 76). -/
def staleFor (dv : Device) (die slice line version : Nat) : Bool :=
  match seenOf dv die slice line with
  | some v => newer v version
  | none => false

/-- The cores of a slice have had a version of a line homed on another die of the module. -/
def noteVersion (core line version : Nat) (dv : Device) : Device :=
  let die := dieOf core
  let sl := nearestSlice core
  if 1023 ≤ core ∨ keyKind (line * 128) ≠ .own ∨ homeDie (line * 128) = die ∨ staleFor dv die sl line version then dv
  else
    { dv with seen := { die := die, slice := sl, line := line, version := version } ::
        dv.seen.filter fun x => !(x.die == die && x.slice == sl && x.line == line) }

/-- A core has read or written a line at its home. -/
def noteSeen (core line : Nat) (dv : Device) : Device := noteVersion core line (lineVersion dv (line * 128)) dv

/-! ## Applying at a home -/

/-- Stores cells. -/
def pokeCells (dv : Device) (cells : List Host.Cell) : Device :=
  match cells with
  | [] => dv
  | c :: rest => pokeCells { dv with log := c :: dv.log } rest

/-- The bytes of a number at some keys. -/
def cellsOf (keys : List Nat) (v : Nat) : List Host.Cell := keys.zip (wordBytes keys.length v)

/-- A sector of this module's memory after a write to it (R437, R441): one that read as uncorrectable stays so until all
32 bytes are covered; any other is now held under its domain's present key. -/
def sealSector (dom : Nat) (cells : List Host.Cell) (dv : Device) (sector : Nat) : Device :=
  let key := sector * 32
  let covered := (cells.filter fun c => sectorOf c.1 == sector).length
  if badSector dv key dom ∧ covered < 32 then dv
  else
    { dv with
      bad := dv.bad.filter (·.1 != sector)
      sectorKeys := (sector, dom, (keyGenOf dv (mdieOf key) dom).getD 0) ::
        dv.sectorKeys.filter (·.1 != sector) }

/-- A dword at a key after some cells have been written. -/
def patched (k n : Nat) (cells : List Host.Cell) : Nat :=
  leNat (cells.foldl (fun bs c => if k ≤ c.1 ∧ c.1 < k + 8 then bs.set (c.1 - k) c.2 else bs) (wordBytes 8 n))

/-- The watch on an entry's counter sees a write (R410): one that leaves the counter at zero notifies the queue manager. -/
def watchStore (cells : List Host.Cell) (e : Entry) : Entry :=
  match e.watch with
  | none => e
  | some k =>
    if cells.any fun c => decide (k ≤ c.1) && decide (c.1 < k + 8) then
      let n := patched k e.left cells
      { e with left := n, noted := e.noted || n == 0 }
    else e

/-- Cells enter their home: module memory of this module keeps its check values, keys and line versions; its lines stand in
their slices; the watches on its counters see them. -/
def homeStore (dom : Nat) (cells : List Host.Cell) (dv : Device) : Device :=
  let own := cells.filter fun c => keyKind c.1 == .own
  let d := ((own.map fun c => sectorOf c.1).eraseDups).foldl (sealSector dom own) (pokeCells dv cells)
  let d := { d with entries := d.entries.map (watchStore own) }
  (linesOf own).foldl (fun d l => touchLine (bumpVersion d (l * 128)) l) d

/-- An RMW clears its sectors' writer records (R286, R309). -/
def clearRecords (keys : List Nat) (dv : Device) : Device :=
  { dv with wrecs := dv.wrecs.filter fun r => !keys.any fun k => sectorOf k == r.sector }

/-- A plain write at its home. A write homed at its own source takes V on arrival (R280). Where R286 keeps all of its bytes of
a line out, the line's version counts it all the same (R284). -/
def applyPlain (w : PWrite) (dv : Device) : Device :=
  let home := homeSource w.key
  let stamp := if home = w.source then clockOf dv home else w.stamp
  let own := w.cells.filter fun c => keyKind c.1 == .own
  let (cells, d) := ((own.map fun c => sectorOf c.1).eraseDups).foldl
    (fun (acc : List Host.Cell × Device) s =>
      let (cs, d) := recordWrite w stamp acc.2 s
      (acc.1 ++ cs, d)) (w.cells.filter fun c => keyKind c.1 != .own, dv)
  let d := homeStore w.dom cells (mergeClock d home stamp)
  let hidden := (linesOf own).filter fun l => !(linesOf cells).contains l
  (linesOf own).foldl (fun d l => noteSeen w.core l d) (hidden.foldl (fun d l => bumpVersion d (l * 128)) d)

/-! ## Replicas and the private cache (R209, R213, R284) -/

/-- Every replica on a die becomes invalid (R213). -/
def advanceEpoch (die : Nat) (dv : Device) : Device :=
  let x := dv.die die
  dropReplicas (fun n _ _ => n == die) (dv.setDie die { x with epoch := x.epoch + 1 })

/-- A store or atomic to a line homed on another die discards its replica in the core's nearest slice (R213). -/
def dropReplica (dv : Device) (core key : Nat) : Device :=
  dropReplicas (fun n s l => n == dieOf core && s == nearestSlice core && l == key / 128) dv

/-- The replica of a line in a slice of a die. -/
def replicaOf (dv : Device) (die slice line : Nat) : Option Replica :=
  dv.replicas.find? fun r => r.die == die && r.slice == slice && r.line == line

/-- One sector of a replica's line set from an evicted sector. -/
def withSector (r : Replica) (s : PSector) : Replica :=
  let sh := 256 * (s.key % 4)
  { r with
    data := (r.data &&& ~~~((BitVec.allOnes 256).zeroExtend 1024 <<< sh)) ||| (s.data.zeroExtend 1024 <<< sh)
    valid := r.valid ||| (1#4 <<< (s.key % 4)) }

/-- The latest version among some sectors. -/
def topVersion (v : Nat) (ss : List PSector) : Nat := ss.foldl (fun v s => if newer s.version v then s.version else v) v

/-- The replica that a line's evicted sectors make: those of the latest version (log 76). -/
def replicaFrom (dv : Device) (s : PSector) (ss : List PSector) : Replica :=
  let die := dieOf s.core
  let top := topVersion s.version ss
  ((s :: ss).filter (·.version == top)).foldl withSector
    { die := die, slice := nearestSlice s.core, line := s.key / 4, data := 0, valid := 0, version := top
      epoch := (dv.die die).epoch }

/-- Places the evicted sectors of a line as a replica in the nearest slice (R213, R284): homed on another die of the module
and not in a replica region. It is refused where a replica of its version or a later one stands there, where the cores of the
slice have had a later version (log 76), and where the set has no way for it (R210). -/
def placeReplica (dv : Device) (ss : List PSector) : Device :=
  match ss with
  | [] => dv
  | s :: rest =>
    if keyKind (s.key * 32) ≠ .own ∨ homeDie (s.key * 32) = dieOf s.core ∨ ss.any (·.region) then dv
    else
      let r := replicaFrom dv s rest
      let kept := match replicaOf dv r.die r.slice r.line with
        | some o => !newer r.version o.version
        | none => false
      if kept || staleFor dv r.die r.slice r.line r.version then dv
      else match useWay { die := r.die, slice := r.slice, line := r.line, replica := true } dv with
        | none => dv
        | some d =>
          { d with replicas := r :: d.replicas.filter fun o => !(o.die == r.die && o.slice == r.slice && o.line == r.line) }

/-- Fills a sector into a core's private cache (R209): 128 sets of 8 lines, the set of a line its number modulo 128 (log 77),
the least recently used line replaced. -/
def fillSector (dv : Device) (s : PSector) : Device :=
  let line := s.key / 4
  let others := dv.pcache.filter fun x => !(x.core == s.core && x.key == s.key)
  let setLines := ((others.filter fun x => x.core == s.core && x.key / 4 % 128 == line % 128 && x.key / 4 != line).map
    (·.key / 4)).eraseDups
  let gone := setLines.drop 7
  let keep := others.filter fun x => !(x.core == s.core && gone.contains (x.key / 4))
  gone.foldl (fun d l => placeReplica d (others.filter fun x => x.core == s.core && x.key / 4 == l)) { dv with pcache := s :: keep }

/-- A hit makes the sector the most recently used. -/
def touchSector (dv : Device) (core key : Nat) : Device :=
  match sectorHit dv core key with
  | none => dv
  | some s => { dv with pcache := s :: dv.pcache.filter fun x => x != s }

/-- The private cache of a core loses the sectors of some bytes, with the fills on their way to it (R309). -/
def dropSectors (dv : Device) (core : Nat) (keys : List Nat) : Device :=
  let here := fun (s : PSector) => s.core == core && keys.any fun k => sectorOf k == s.key
  { dv with
    pcache := dv.pcache.filter fun s => !here s
    reqs := dv.reqs.map fun q => if q.core = core then { q with fill := q.fill.filter fun s => !here s } else q }

/-! ## The device's own writes (R286, R379) -/

/-- Cells that the device writes as plain writes: identifier 1023, and the stamp of the home that admits them (R286). -/
def deviceCells (dom key : Nat) (cells : List Host.Cell) (dv : Device) : Device :=
  applyPlain { id := 0, source := homeSource key, core := 1023, gid := 0, slot := 0, key := key, cells := cells
               stamp := clockOf dv (homeSource key), dom := dom } dv

/-- The cells that bytes make at some sites, with the site's domain. -/
def siteCells (ks : List (Nat × Nat)) (bs : List Byte) : List (Nat × Host.Cell) :=
  match ks with
  | [] => []
  | (k, dom) :: rest =>
    ((List.range 16).zip bs).map (fun x => (dom, (k + x.1, x.2))) ++ siteCells rest (bs.drop 16)

/-- Writes bytes at some sites: a piece for each domain and home. -/
def storeSites (dv : Device) (ks : List (Nat × Nat)) (bs : List Byte) : Device :=
  let cs := siteCells ks bs
  ((cs.map fun c => (c.1, homeSource c.2.1)).eraseDups).foldl (fun d p =>
    let mine := (cs.filter fun c => c.1 == p.1 && homeSource c.2.1 == p.2).map (·.2)
    deviceCells p.1 ((mine.map (·.1)).headD 0) mine d) dv

/-- A device write of bytes, 16 at a time (R379). -/
def deviceWrite (m : Memory) (dv : Device) (c : Ctx) (va : DWord) (bs : List Byte) : Except Cause Device :=
  match deviceSites m dv c va .w (bs.length / 16) with
  | .error e => .error e
  | .ok ks => if halfBad dv ks then .error .uncorrectable else .ok (storeSites dv ks bs)

/-- The cells of an RMW enter their home (R284, R286, R309). -/
def homeRmw (dom : Nat) (cells : List Host.Cell) (dv : Device) : Device :=
  clearRecords (cells.map (·.1)) (homeStore dom cells dv)

end Sys2Proof.Machine
end

