-- ==== Sys2Proof/Machine/Report.lean ====
section
/-! DEFINITION. Reports: notices to sessions (R432, R435), the fault log (R398), trace records (R448 to R451). -/

namespace Sys2Proof.Machine

/-- A held notice is one of a context. -/
def noticeOf (ctx : Nat) (o : Out) : Bool :=
  match o with
  | .notice _ _ n _ => n == ctx
  | _ => false

/-- Holds a notice of a context: up to 256 of its own, the oldest of which goes (R432). -/
def holdNotice (ctx : Nat) (kind : NoticeKind) (payload : List Nat) (dv : Device) : Device :=
  let l := if 256 ≤ (dv.heldNotices.filter (noticeOf ctx)).length then dv.heldNotices.eraseP (noticeOf ctx) else dv.heldNotices
  { dv with heldNotices := l ++ [.notice none kind ctx payload] }

/-- A notice to a context's host; it is held while that session does not exist (R432). -/
def notifyHost (dv : Device) (ctx : Nat) (kind : NoticeKind) (payload : List Nat) : Device :=
  match (dv.ctx? ctx).bind (·.host) with
  | some s =>
    if dv.sessions.any (fun x => x.id == s && x.ready) then dv.send (.notice (some s) kind ctx payload)
    else holdNotice ctx kind payload dv
  | none => holdNotice ctx kind payload dv

/-- A notice to every session (R435). -/
def notifyAll (dv : Device) (kind : NoticeKind) (payload : List Nat) : Device :=
  (dv.sessions.filter (·.ready)).foldl (fun d s => d.send (.notice (some s.id) kind 0xFFFF payload)) dv

/-! ## The fault log (R398) -/

/-- The fields of a fault-log record. -/
structure LogRec where
  kind : Nat
  cause : Nat := 0
  core : Nat := 0x3FF
  place : Nat := 0
  reg : Nat := 0
  mask : Word := 0
  pc : Word := 0
  addr : DWord := 0
  record : DWord := 0
deriving DecidableEq, Repr

def logBytes (r : LogRec) : List Byte :=
  wordBytes 1 r.kind ++ wordBytes 1 r.cause ++ wordBytes 2 r.core ++ wordBytes 1 r.place ++ wordBytes 1 r.reg
    ++ wordBytes 2 0 ++ wordBytes 4 r.mask.toNat ++ wordBytes 4 r.pc.toNat ++ wordBytes 8 r.addr.toNat
    ++ wordBytes 8 r.record.toNat

/-- Span and rotation slot as WHERE codes them (R398, R400). -/
def placeCode (g : Group) : Nat :=
  match g.place with
  | some (s, r) => s.toNat + 16 * r.toNat
  | none => 0

/-- Appends a record to a context's fault log (R398, R379). A full ring raises LOST; a ring that cannot be used sends
LOGLOST with the record; an append that finds TAIL = HEAD sends FLOGNOTE. -/
def logAppend (m : Memory) (ctx : Nat) (r : LogRec) (dv : Device) : Device :=
  match dv.ctx? ctx with
  | none => dv
  | some c =>
    let lost := fun d => notifyHost d ctx .logLost ((logBytes r).map (·.toNat))
    let fails := fun (d : Device) => lost { d with mon := { d.mon with saveFails := d.mon.saveFails + 1 } }
    match deviceRead m dv c c.flog 1 with
    | .error _ => fails dv
    | .ok hd =>
      let h := leNat hd
      let lcap := bits h 80 4
      let head := bits h 0 32
      let tail := bits h 32 32
      if lcap < 4 ∨ bits h 84 12 ≠ 0 ∨ bits h 64 16 ≠ 0 then lost dv
      else if 2 ^ lcap ≤ (tail + 2 ^ 32 - head) % 2 ^ 32 then
        let lostN := min (bits h 96 32 + 1) (2 ^ 32 - 1)
        match deviceWrite m dv c c.flog (wordBytes 16 (h % 2 ^ 96 + lostN * 2 ^ 96)) with
        | .error _ => fails dv
        | .ok d => d
      else
        let at_ := c.flog + 16 + BitVec.ofNat 64 (32 * (tail % 2 ^ lcap))
        match deviceWrite m dv c at_ (logBytes r) with
        | .error _ => fails dv
        | .ok d =>
          let h' := h - tail * 2 ^ 32 + (tail + 1) % 2 ^ 32 * 2 ^ 32
          match deviceWrite m d c c.flog (wordBytes 16 h') with
          | .error _ => fails dv
          | .ok d => if tail = head then notifyHost d ctx .flogNote [tail] else d

/-- A context's fault log is lost with a fenced die (R397). -/
def flogGone (m : Memory) (dv : Device) (c : Ctx) : Bool :=
  match deviceSite m dv c c.flog .r with
  | .error .uncorrectable => true
  | _ => false

/-- An item that depended on a fenced die is reported, where the context's log survives (R397). -/
def lostItem (m : Memory) (ctx core : Nat) (addr record : DWord) (dv : Device) : Device :=
  match dv.ctx? ctx with
  | none => dv
  | some c => if flogGone m dv c then dv else logAppend m ctx { kind := 8, core := core, addr := addr, record := record } dv

/-- An address of a context leads to a fenced die. -/
def leadsLost (m : Memory) (dv : Device) (c : Ctx) (va : DWord) : Bool :=
  match walk m dv c va with
  | .ok l => match physKey dv (l.pa + va.toNat % l.size) l.dom .rw with
    | .error .uncorrectable => true
    | _ => false
  | .error _ => false

/-! ## Trace (R449, R451) -/

/-- The fields of a trace record. -/
structure TraceRec where
  kind : Nat
  data0 : Nat := 0
  core : Nat
  place : Nat := 0
  slot : Nat := 0xFF
  gidx : Nat := 0
  time : Word := 0
  pc : Word := 0
  bpc : Word := 0xFFFFFFFF
  tidx : Word := 0
  aux : DWord := 0
deriving DecidableEq, Repr

def traceBytes (r : TraceRec) : List Byte :=
  wordBytes 1 r.kind ++ wordBytes 1 r.data0 ++ wordBytes 2 r.core ++ wordBytes 1 r.place ++ wordBytes 1 r.slot
    ++ wordBytes 2 r.gidx ++ wordBytes 4 r.time.toNat ++ wordBytes 4 r.pc.toNat ++ wordBytes 4 r.bpc.toNat
    ++ wordBytes 4 r.tidx.toNat ++ wordBytes 8 r.aux.toNat

/-- Records that a page list holds. -/
def traceCap (pages : List TracePage) : Nat := (pages.map fun p => p.size / 32).sum

/-- The key of record `n` of a page, and the key domain. -/
def pageKey (p : TracePage) (n : Nat) : Option (Nat × Nat) := (p.parts[n / 128]?).map fun x => (x.1 + 32 * (n % 128), x.2)

/-- The key of record `n` of a page list, and the key domain. -/
def traceKey (pages : List TracePage) (n : Nat) : Option (Nat × Nat) :=
  match pages with
  | [] => none
  | p :: rest => if n < p.size / 32 then pageKey p n else traceKey rest (n - p.size / 32)

/-- A trace record enters memory as a write of the device (R286, R436, R441). -/
def traceStore (key dom : Nat) (bs : List Byte) (dv : Device) : Device :=
  deviceCells dom key (((List.range bs.length).map (key + ·)).zip bs) dv

/-- Writes one staged record into the page list: in list order; a full list stops or wraps; TRCINT at half and at full
(R449). -/
def traceWrite (die : Nat) (bs : List Byte) (dv : Device) : Device :=
  let t := (dv.die die).trace
  let cap := traceCap t.pages
  if cap ≤ t.at_ ∧ !t.wrap then dv
  else match traceKey t.pages (t.at_ % (max cap 1)) with
    | none => dv
    | some (key, dom) =>
      let d := traceStore key dom bs dv
      let d := d.setDie die { d.die die with trace := { t with at_ := t.at_ + 1, staged := (d.die die).trace.staged } }
      let n := (t.at_ + 1) % (max cap 1)
      if n = 0 ∨ n = cap / 2 then d.send (.notice (some t.session) .trcInt t.ctx [t.at_ + 1]) else d

/-- Empties the staging buffer of a die's trace unit into the pages. -/
def traceFlush (die : Nat) (dv : Device) : Device :=
  let t := (dv.die die).trace
  let d := dv.setDie die { dv.die die with trace := { t with staged := [] } }
  t.staged.foldl (fun d bs => traceWrite die bs d) d

/-- Records an event of a context, where its kind is in the record mask; the staging buffer of 64 records is written
out when it is full (R449; log 21). -/
def trace (ctx : Nat) (r : TraceRec) (dv : Device) : Device :=
  let die := dieOf r.core
  let t := (dv.die die).trace
  if !t.on ∨ t.ctx ≠ ctx ∨ !t.mask.getLsbD r.kind then dv
  else
    let d := dv.setDie die { dv.die die with trace := { t with staged := t.staged ++ [traceBytes r] } }
    if 64 ≤ t.staged.length + 1 then traceFlush die d else d

def tidxOf (g : Group) : Word := (g.task.map fun t => t.words.getD 6 0).getD 0

/-- A record about a group. -/
def traceGroup (dv : Device) (g : Group) (kind data0 : Nat) (slot : Nat) (pc : Word) (aux : DWord) : Device :=
  let r : TraceRec :=
    { kind := kind, data0 := data0, core := g.core, place := placeCode g, slot := slot, gidx := g.gidx,
      time := dv.now g, pc := pc, tidx := tidxOf g, aux := aux }
  trace g.ctx r dv

/-- The trap that a group has entered since it stood so: its TCAUSE and TFRAME. -/
def newTrap (old g : Group) : List Nat :=
  if g.cond = .handler ∧ (old.cond ≠ .handler ∨ old.tcause ≠ g.tcause) then [g.tcause.toNat, g.tframe.toNat] else []

/-- A DBGEVENT to the debugger of a group's context, with a trace record for each thread (R435, R445, R446, R451): core,
place, group index, then slots with their code offsets; a trap behind them (log 83). -/
def dbgEvent (old : Group) (ts : List Nat) (dv : Device) : Device :=
  match dv.ctx? old.ctx with
  | none => dv
  | some c =>
    let g := (dv.group? old.gid).getD old
    let off := fun t => codeOff c.codeBase (thread g t).pc
    let d := ts.foldl (fun d t => traceGroup d g 7 0 t (off t) 0) dv
    d.send (.notice c.attached .dbgEvent g.ctx
      ([g.core, placeCode g, g.gidx] ++ (ts.flatMap fun t => [t, (off t).toNat]) ++ newTrap old g))

end Sys2Proof.Machine
end

