-- ==== Sys2Proof/Machine/Trap.lean ====
section
/-! DEFINITION. Taking an exception (R369, R370), returning from one (R402), the end, squash and failure of a task
(R59, R65, R68, R372), and the instantiation of a group (R57). -/

namespace Sys2Proof.Machine

/-- The state of a group at instantiation (R57, R84, R91, R424): its name, place and allocation are kept. -/
def instantiate (dv : Device) (g : Group) : Group :=
  let c := dv.ctx? g.ctx
  let pc := codeAddr ((c.map (·.codeBase)).getD 0) ((c.map (·.resent)).getD 0)
  { gid := g.gid, ctx := g.ctx, core := g.core, gidx := g.gidx, d := g.d, x := g.x, base := g.base, place := g.place,
    residentAt := g.residentAt, quantumAt := g.quantumAt, asked := g.asked, gang := g.gang, wanted := g.wanted,
    moving := g.moving, moveTo := g.moveTo, threads := Vector.replicate 32 { pc := pc }, dispatch := pc,
    instantiated := true, halted := g.halted }

/-- The tiles of a group are freed and its deck operations discarded (R344, R360). -/
def freeTiles (dv : Device) (gid : Nat) : Device :=
  { dv with tiles := dv.tiles.filter (·.owner != gid), deckOps := dv.deckOps.filter (·.gid != gid) }

/-- Outstanding values of a group are dropped on arrival, and so are the faults and breaches of its engine commands; each time
register still follows its request (R68, R271). -/
def dropLoads (dv : Device) (gid : Nat) : Device :=
  { dv with
    reqs := dv.reqs.map fun r => if r.gid = gid then { r with dropped := true, dst := .none } else r
    cmds := dv.cmds.map fun c => if c.gid = gid then { c with dropped := true } else c }

/-- The shadow of a group, if it has one (R71). -/
def shadowOf (dv : Device) (gid : Nat) : Option Group := dv.groups.find? fun h => h.partner == some gid

/-- A group's shadow is discarded with its outstanding values and tiles (R59, R72; log 87). -/
def dropShadow (dv : Device) (gid : Nat) : Device :=
  match shadowOf dv gid with
  | none => dv
  | some h =>
    let d := freeTiles (dropLoads dv h.gid) h.gid
    { d with groups := d.groups.filter (·.gid != h.gid), focus := if d.focus = some h.gid then none else d.focus }

/-- What a squash and a failure discard of the group itself (R68, R372). -/
def clearTask (g : Group) : Group :=
  { g with loops := [], task := none, frame := none, region := none, fmask := 0, tcause := 0, tframe := 0,
           cond := .busy, qwin := Vector.replicate 32 [], hold := .none, turn := none, next := none,
           pendFaults := [], pendLate := 0, pendBreach := 0, ordPasses := 0,
           threads := g.threads.map fun th => { th with st := .run, pc := g.dispatch } }

/-- DONE_REC of an entry's words (R60). -/
def recordOf (words : List Word) : DWord := pair (words.getD 4 0) (words.getD 5 0)

/-- The completion row of R65 for a task falls due: it waits for the task's reductions (R318). -/
def dueUpdate (dv : Device) (ctx core : Nat) (cores : List Nat) (words : List Word) (entry : Nat) (failed : Bool) :
    Device :=
  let rec_ := recordOf words
  let u : EndUpdate :=
    { id := dv.nextId, ctx := ctx, record := rec_, tidx := words.getD 6 0, entry := entry, failed := failed,
      core := core, cores := cores }
  { dv with ends := dv.ends ++ [u], nextId := dv.nextId + 1 }

/-- A task ends or fails: a gang's entry makes one update, when its last member ends (R74); a member's group takes no
new entry until then (R75). -/
def endOfTask (dv : Device) (g : Group) (failed : Bool) : Device :=
  match g.task with
  | none => dv
  | some t =>
    match t.gang, dv.ctx? g.ctx with
    | some id, some c =>
      match c.gangs.find? (·.id == id) with
      | none => dueUpdate dv g.ctx g.core [g.core] t.words t.entry failed
      | some gang =>
        let gang := { gang with running := gang.running - 1, failed := gang.failed || failed }
        if gang.running = 0 ∧ gang.toStart = [] then
          let d := dv.setCtx { c with gangs := c.gangs.filter (·.id != id) }
          let d := { d with groups := d.groups.map fun h => if h.gang = some id then { h with gang := none } else h }
          dueUpdate d g.ctx g.core (rectCores gang.rect) t.words t.entry gang.failed
        else
          (dv.setCtx { c with gangs := c.gangs.map fun x => if x.id = id then gang else x }).onGroup g.gid
            fun h => { h with gang := some id }
    | _, _ => dueUpdate dv g.ctx g.core [g.core] t.words t.entry failed

/-- A task fails (R372): the log record, the discard, the failure row, the dispatch PC. Outside a task the record has
kind 2 and the group is instantiated again. The group of `gid` is the task's own group. -/
def failTask (m : Memory) (gid : Nat) (cause : Nat) (mask pc : Word) (addr : DWord) (dv : Device) : Device :=
  match dv.group? gid with
  | none => dv
  | some g =>
    let rec_ := (g.task.map fun t => recordOf t.words).getD 0
    let r : LogRec :=
      { kind := if g.task.isSome then 1 else 2, cause := cause, core := g.core, place := placeCode g, mask := mask,
        pc := pc, addr := addr, record := rec_ }
    let d := logAppend m g.ctx r dv
    let d := dropShadow (freeTiles (dropLoads d gid) gid) gid
    let d := d.onGroup gid fun h => if g.task.isSome then clearTask h else instantiate d h
    let d := traceGroup d g 2 0 0xFF pc 0
    endOfTask d g true

/-- The group that a failure of a group concerns: a shadow's failure is its partner's (R71, R371). -/
def taskGroup (g : Group) : Nat := g.partner.getD g.gid

/-- What arises at a trap (R366, R370): `pc` is the interrupted instruction, `own` that of the thread at fault. -/
structure TrapInfo where
  kind : Nat
  cause : Cause
  acc : Nat := 0
  code : Nat := 0
  fmask : Word
  slot : Nat
  pc : DWord := 0
  own : DWord := pc
  pos : Nat := 0
  resume : Word := 0
  addrs : List (Nat × DWord) := []
  l0 : Latch := {}
  l1 : Latch := {}
  kept : List (Nat × DWord) := []
  /-- the task fails with it (R340) -/
  fails : Bool := false
deriving DecidableEq, Repr

/-- TCAUSE (R366). -/
def tcauseWord (t : TrapInfo) : Word := BitVec.ofNat 32 (t.code * 2 ^ 16 + t.acc * 2 ^ 8 + causeCode t.cause)

/-- TFRAME (R366). -/
def tframeWord (t : TrapInfo) : Word :=
  BitVec.ofNat 32 (t.slot * 2 ^ 8 + t.kind * 2 ^ 6 + (if t.kind = 2 ∨ t.kind = 3 then 0 else t.pos))

/-- What the frame keeps of a thread. -/
def saveThread (base : DWord) (t : TrapInfo) (slot : Nat) (th : Thread) : SavedThread :=
  { st := th.st, epc := codeOff base th.pc, epc0 := codeOff base th.pc, resume := t.resume.getLsbD slot,
    addr := ((t.addrs.find? (·.1 == slot)).map (·.2)).getD 0 }

/-- Handler entry (R369, R370): the turn ends, the frame is filled, the loop stack moves into it, every thread that is
not DONE runs at the handler, FMASK, TCAUSE and TFRAME are written, the condition becomes HANDLER. -/
def enterHandler (base : DWord) (handler : Word) (t : TrapInfo) (g : Group) : Group :=
  let frame : Frame :=
    { kind := t.kind, threads := Vector.ofFn fun i : Fin 32 => saveThread base t i.val (thread g i.val), pc := t.pc,
      pos := t.pos, l0 := t.l0, l1 := t.l1, kept := t.kept, loops := g.loops }
  { g with frame := some frame, loops := [], fmask := t.fmask, tcause := tcauseWord t, tframe := tframeWord t,
           cond := .handler, turn := none, next := none,
           threads := g.threads.map fun th =>
             if th.st = .done then th else { th with st := .run, pc := codeAddr base handler } }

/-- A trap is raised in a group (R369, R371, R372): a fault in HANDLER, or where the context names no handler, or one that
ends its task (R340), fails the task. -/
def raiseTrap (m : Memory) (gid : Nat) (t : TrapInfo) (dv : Device) : Device :=
  match dv.group? gid with
  | none => dv
  | some g =>
    let c := dv.ctx? g.ctx
    let base := (c.map (·.codeBase)).getD 0
    match c.bind (·.handler) with
    | some h =>
      if g.cond = .handler ∨ t.fails then
        failTask m (taskGroup g) (causeCode t.cause) t.fmask (codeOff base t.own)
          (((t.addrs.head?).map (·.2)).getD 0) dv
      else
        traceGroup (dv.setGroup (enterHandler base h t g)) g 3 (causeCode t.cause) t.slot (codeOff base t.own) 0
    | none =>
      failTask m (taskGroup g) (causeCode t.cause) t.fmask (codeOff base t.own)
        (((t.addrs.head?).map (·.2)).getD 0) dv

/-- The threads ERET's re-issued pass runs: resume threads whose EPC still names the instruction of entry (R402). -/
def resumeMask (f : Frame) : Word :=
  maskOf (slots.filter fun t => let s := f.threads.toArray.getD t {}; s.resume && s.epc == s.epc0)

/-- ERET without .FAIL (R402): states and PCs come back, the loop stack leaves the frame, FMASK, TCAUSE and TFRAME
become 0, the condition BUSY; for kinds 0 and 1 the next turn begins with the re-issued pass. -/
def leaveHandler (base : DWord) (f : Frame) (g : Group) : Group :=
  let mask := resumeMask f
  let next : Option Turn :=
    if f.kind ≤ 1 ∧ mask ≠ 0 then
      some { pos := f.pos, l0 := f.l0, l1 := f.l1, reissue := some { only := mask, pc := f.pc, kept := f.kept } }
    else none
  { g with loops := f.loops, fmask := 0, tcause := 0, tframe := 0, cond := .busy, frame := none, turn := none,
           next := next,
           threads := Vector.ofFn fun i : Fin 32 =>
             let s := f.threads[i]
             let th := thread g i.val
             { th with st := s.st, pc := codeAddr base s.epc } }

/-- A task ends normally (R59): its shadow goes, the completion row falls due, every thread runs at the dispatch PC;
its tiles are freed (R344) and its region closes (R383); `pc` is that of the pass that ended it (R451). -/
def finishTask (gid : Nat) (pc : Word) (dv : Device) : Device :=
  match dv.group? gid with
  | none => dv
  | some g =>
    let d := dropShadow (freeTiles dv gid) gid
    let d := traceGroup d g 2 0 0xFF pc 0
    let d := d.onGroup gid fun h =>
      { clearTask h with
        loops := h.loops, pendFaults := h.pendFaults, pendLate := h.pendLate, pendBreach := h.pendBreach }
    endOfTask d g false

/-- A squash (R68): no completion update; the group continues at its dispatch PC. A gang member never parks (R74). -/
def squashTask (gid : Nat) (dv : Device) : Device :=
  (dropShadow (freeTiles (dropLoads dv gid) gid) gid).onGroup gid clearTask

end Sys2Proof.Machine
end

