-- ==== Sys2Proof/Machine/Operands.lean ====
section
/-! DEFINITION. Operand positions of an instruction and the checks on them (R80, R87, R89, R91, R116 to R119, R121),
reading sources and writing destinations (R79, R88, R91 to R93), readiness (R95, R96), bank conflicts (R99). -/

namespace Sys2Proof.Machine

/-- One operand position of an instruction. `n` counts registers; `cyc` is the read cycle of R99. -/
inductive Pos
  /-- a source code (R116), `n` = 1, 2 or 4 registers wide (R118) -/
  | src (s : Src) (n : Nat) (dead : Bool) (cyc : Nat)
  /-- a vector field: V codes alone, the number a multiple of `align`; `all` reads every lane -/
  | vec (s : Src) (n align : Nat) (dead : Bool) (cyc : Nat) (all : Bool)
  /-- a destination (R87); `sup` and `q` say whether 0x40 and 0x42 are accepted -/
  | dst (d : Dst) (n : Nat) (sup q : Bool)
  /-- the destination read as an accumulator (R138) -/
  | acc (d : Dst) (n cyc : Nat)
  /-- a uniform source (R117) of `n` registers from a multiple of `align`; `other` accepts ZERO and immediates -/
  | usrc (s : USrc) (n align : Nat) (other : Bool)
  /-- a uniform destination -/
  | udst (d : UDst) (n align : Nat)
  /-- a latch read implicitly; `one` is L1 -/
  | latch (one : Bool)
  /-- a predicate source: a forwarded operand (R96) -/
  | pred (p : PReg)
  /-- a predicate destination: P0 is refused -/
  | pdst (p : PReg)
  /-- an index register, and with `window` the window register it names (R153) -/
  | idx (i : IReg) (window : Bool)
  /-- FLAGS as a register operand (R188) -/
  | flags
  /-- a time register that must not be awaiting (R227) -/
  | time (t : TReg)
  /-- a V register that is named and not read (R405) -/
  | bind (s : Src)
  /-- a bit that must be 0 (R119) -/
  | no (b : Bool)
deriving DecidableEq, Repr

def isVSrc : Src → Bool
  | .v _ => true
  | _ => false

/-- A source code as a position of `n` registers accepts it (R116, R118). -/
def srcOk (s : Src) (n : Nat) : Bool :=
  match s with
  | .rsv _ => false
  | .v r => decide (r.toNat % n = 0)
  | .zero => true
  | .l0 | .l1 | .imm _ => decide (n ≤ 2)
  | .s r => decide (n = 1) || (decide (n = 2) && decide (r.toNat % 2 = 0))
  | .q | .c _ => decide (n = 1)

/-- The checks that need no state: the static rows of R121. -/
def posOk : Pos → Bool
  | .src s n dead _ => srcOk s n && (!dead || isVSrc s)
  | .vec (.v r) _ align _ _ _ => decide (r.toNat % align = 0)
  | .vec _ _ _ _ _ _ => false
  | .dst (.v r) n _ _ => decide (r.toNat % n = 0)
  | .dst .sup _ sup _ => sup
  | .dst .q n _ q => q && decide (n = 1)
  | .dst (.rsv _) _ _ _ => false
  | .usrc (.s r) n align _ => decide (r.toNat % align = 0) && decide (r.toNat + n ≤ 64)
  | .usrc .zero _ _ other => other
  | .usrc (.imm _) _ _ other => other
  | .usrc (.rsv _) _ _ _ => false
  | .udst (.s r) n align => decide (r.toNat % align = 0) && decide (r.toNat + n ≤ 64)
  | .udst (.rsv _) _ _ => false
  | .pdst p => p != 0
  | .no b => !b
  | .bind s => isVSrc s
  | .acc _ _ _ | .latch _ | .pred _ | .idx _ _ | .flags | .time _ => true

/-- Positions that name Q (R72: at most one). -/
def namesQ : Pos → Bool
  | .src .q _ _ _ => true
  | .dst .q _ _ _ => true
  | _ => false

/-- Static legality of a list of positions. -/
def operandsOk (ps : List Pos) : Bool := ps.all posOk && decide ((ps.filter namesQ).length ≤ 1)

/-- `n` consecutive V registers from `r` on. -/
def vRange (r : VReg) (n : Nat) : List Nat := (List.range n).map (r.toNat + ·)

/-- The V registers a position reads, by number. -/
def vReads : Pos → List Nat
  | .src (.v r) n _ _ => vRange r n
  | .vec (.v r) n _ _ _ _ => vRange r n
  | .acc (.v r) n _ => vRange r n
  | _ => []

/-- The V registers a position names in any role. -/
def vNames : Pos → List Nat
  | .dst (.v r) n _ _ => vRange r n
  | .bind (.v r) => vRange r 1
  | p => vReads p

/-- The V registers marked dead by a position (R93). -/
def deadRegs : Pos → List Nat
  | .src (.v r) n true _ => vRange r n
  | .vec (.v r) n _ true _ _ => vRange r n
  | _ => []

/-- The latch a position reads (`true`: L1). -/
def latchRead : Pos → Option Bool
  | .src .l0 _ _ _ => some false
  | .src .l1 _ _ _ => some true
  | .latch one => some one
  | _ => none

/-- The operand-cache entry a position reads. -/
def cRead : Pos → Option CReg
  | .src (.c k) _ _ _ => some k
  | _ => none

/-- The scalar registers a position reads. -/
def sReads : Pos → List Nat
  | .src (.s r) n _ _ => (List.range n).map (r.toNat + ·)
  | .usrc (.s r) n _ _ => (List.range n).map (r.toNat + ·)
  | _ => []

/-- The read cycle of a position's registers (R99). -/
def readCycle : Pos → Nat
  | .src _ _ _ c => c
  | .vec _ _ _ _ c _ => c
  | .acc _ _ c => c
  | _ => 0

/-! ## Checks that read the group (R72, R80, R89, R91) -/

/-- Whether a group has a shadow, and whether it is one. -/
structure QRole where
  hasShadow : Bool
  isShadow : Bool
deriving DecidableEq, Repr

def qRole (dv : Device) (g : Group) : QRole :=
  { hasShadow := (shadowOf dv g.gid).isSome, isShadow := g.partner.isSome }

/-- A direct register a group may name: below d (R80) and not in the queue window while a shadow exists (R72). -/
def vAllowed (q : QRole) (g : Group) (n : Nat) : Bool :=
  decide (n < g.d) && !(q.hasShadow && decide (g.d ≤ n + 8))

def posAllowed (q : QRole) (g : Group) (turn : Turn) (p : Pos) : Bool :=
  (vNames p).all (vAllowed q g) &&
  (match p with
    | .src .q _ _ _ => q.hasShadow
    | .dst .q _ _ _ => q.isShadow
    | _ => true) &&
  (match cRead p with
    | some k => (g.c[k.toNat]'(k.isLt)).isSome
    | none => true) &&
  (match latchRead p with
    | some false => !turn.l0.void && decide (1 ≤ turn.pos)
    | some true => !turn.l1.void && decide (2 ≤ turn.pos)
    | none => true)

/-- Every check of R121 that raises ILLEGAL_OPERAND. -/
def operandsAllowed (q : QRole) (g : Group) (turn : Turn) (ps : List Pos) : Bool :=
  operandsOk ps && ps.all (posAllowed q g turn)

/-! ## Reading sources -/

/-- What sources are read from: the group before the pass (R137), the turn's latches, the queue-window FIFOs and whether
the shadow has executed TASKEND in every thread (R73), and the index of free values. -/
structure Rd where
  g : Group
  turn : Turn
  fifo : Vector (List QEntry) 32
  shadowDone : Bool
  steps : Nat
deriving DecidableEq, Repr

/-- A V lane; a dead-marked lane reads its value before the mark or zero (R93, log 10). -/
def readV (rd : Rd) (t : Nat) (r : VReg) : Word :=
  let th := thread rd.g t
  if th.dead.getLsbD r.toNat ∧ !Config.deadKeeps (rd.steps * 2048 + t * 64 + r.toNat) then 0
  else th.v[r.toNat]'(r.isLt)

/-- A 32-bit source (R116). -/
def src32 (rd : Rd) (t : Nat) (s : Src) : Word :=
  match s with
  | .v r => readV rd t r
  | .l0 => lowWord (rd.turn.l0.lanes.toArray.getD t 0)
  | .l1 => lowWord (rd.turn.l1.lanes.toArray.getD t 0)
  | .q => ((rd.fifo.toArray.getD t []).head?.bind (·.value)).getD 0
  | .zero => 0
  | .rsv _ => 0
  | .c k => match rd.g.c[k.toNat]'(k.isLt) with
    | some e => readV rd t e.reg
    | none => 0
  | .s r => getS rd.g (r.zeroExtend 6)
  | .imm i => i.signExtend 32

/-- A 64-bit source (R118). -/
def src64 (rd : Rd) (t : Nat) (s : Src) : DWord :=
  match s with
  | .v r => pair (readV rd t r) (readV rd t (r + 1))
  | .l0 => rd.turn.l0.lanes.toArray.getD t 0
  | .l1 => rd.turn.l1.lanes.toArray.getD t 0
  | .s r => pair (getS rd.g (r.zeroExtend 6)) (getS rd.g (r.zeroExtend 6 + 1))
  | .imm i => i.signExtend 64
  | .zero | .q | .rsv _ | .c _ => 0

/-- `n` words from a V register on, or zeros. -/
def srcWords (rd : Rd) (t : Nat) (s : Src) (n : Nat) : List Word :=
  match s with
  | .v r => (List.range n).map fun i => readV rd t (r + BitVec.ofNat 6 i)
  | _ => List.replicate n 0

/-- A uniform source (R117). -/
def usrc32 (g : Group) (s : USrc) : Word :=
  match s with
  | .s r => getS g r
  | .zero | .rsv _ => 0
  | .imm i => i.signExtend 32

/-- A uniform pair. -/
def usrc64 (g : Group) (s : USrc) : DWord :=
  match s with
  | .s r => pair (getS g r) (getS g (r + 1))
  | _ => 0

/-- `n` scalar registers from the one a uniform source names. -/
def usrcWords (g : Group) (s : USrc) (n : Nat) : List Word :=
  match s with
  | .s r => (List.range n).map fun i => getS g (r + BitVec.ofNat 6 i)
  | _ => List.replicate n 0

/-- The accumulator (R138): zero where D names no register. -/
def acc32 (rd : Rd) (t : Nat) (d : Dst) : Word :=
  match d with
  | .v r => readV rd t r
  | _ => 0

def acc64 (rd : Rd) (t : Nat) (d : Dst) : DWord :=
  match d with
  | .v r => pair (readV rd t r) (readV rd t (r + 1))
  | _ => 0

/-! ## Writing destinations -/

/-- Writes words into consecutive V registers of a thread. -/
def putWords (g : Group) (t : Nat) (r : VReg) (ws : List Word) : Group :=
  match ws with
  | [] => g
  | w :: rest => putWords (setV g t r w) t (r + 1) rest

/-- Pushes an entry onto a slot's FIFO (R72). -/
def pushQ (g : Group) (t : Nat) (e : QEntry) : Group :=
  { g with qwin := g.qwin.set! t (g.qwin.toArray.getD t [] ++ [e]) }

/-- A result goes to its destination (R87): V registers, nothing, or the queue window; an entry pushed is made ready
when the pass's length is known. -/
def putDst (g : Group) (t : Nat) (d : Dst) (ws : List Word) : Group :=
  match d with
  | .v r => putWords g t r ws
  | .q => pushQ g t { id := 0, value := ws.head? }
  | .sup | .rsv _ => g

/-- Writes words into consecutive scalar registers. -/
def putScalars (g : Group) (r : SReg) (ws : List Word) : Group :=
  match ws with
  | [] => g
  | w :: rest => putScalars (setS g r w) (r + 1) rest

def putU (g : Group) (d : UDst) (ws : List Word) : Group :=
  match d with
  | .s r => putScalars g r ws
  | .rsv _ => g

/-- Marks a lane of a V register dead (R93). -/
def markDead (g : Group) (t n : Nat) : Group :=
  onThread g t fun th => { th with dead := th.dead ||| (1#64 <<< n) }

/-! ## Readiness (R95, R96) -/

/-- When a lane of a register is ready; an entry of the scoreboard holds until its tick. -/
def sbReady (g : Group) (r : Reg) (t : Nat) : Nat :=
  g.sb.foldl (fun m e => if e.reg = r ∧ e.lanes.getLsbD t then max m e.at_ else m) 0

/-- A deck read whose values are not yet written covers a register of every lane (R358). -/
def deckAwaits (dv : Device) (gid n : Nat) : Bool :=
  dv.deckOps.any fun o => o.gid == gid && (o.kind == .rdRow || o.kind == .rdCol) && decide (o.dst.toNat ≤ n)
    && decide (n < o.dst.toNat + (if o.f64 then 8 else 4))

/-- A register that awaits the arrival of a load, an atomic or another request (R96). -/
def awaits (dv : Device) (gid t : Nat) (n : Nat) : Bool :=
  (dv.reqs.any fun q => q.gid == gid && q.slot == t && match q.dst with
    | .v r k => decide (r.toNat ≤ n) && decide (n < r.toNat + k)
    | _ => false) || deckAwaits dv gid n

/-- A scalar register that awaits an arrival. -/
def awaitsS (dv : Device) (gid n : Nat) : Bool :=
  dv.reqs.any fun q => q.gid == gid && match q.dst with
    | .s r k => decide (r.toNat ≤ n) && decide (n < r.toNat + k)
    | _ => false

/-- Readiness of an operand: at a known tick (0: at once), or at an arrival. -/
inductive When
  | at_ (tick : Nat)
  | arrival
deriving DecidableEq, Repr

def latest (a b : When) : When :=
  match a, b with
  | .at_ x, .at_ y => .at_ (max x y)
  | _, _ => .arrival

/-- A V lane as a register operand. -/
def vWhen (dv : Device) (g : Group) (t n : Nat) : When :=
  if awaits dv g.gid t n then .arrival else .at_ (sbReady g (.v (BitVec.ofNat 6 n)) t)

/-- The window register that an index register names (R81). -/
def windowIndex (th : Thread) (i : IReg) : Nat := (idxOf th i).toNat % 256 + (idxOf th i).toNat / 2 ^ 16 % 256

/-- When a position's register operands are ready for a thread: V, C, S, I and Q sources, FLAGS, an awaiting time
register, and a destination with an outstanding load or atomic (R96, R227). -/
def regWhen (dv : Device) (rd : Rd) (t : Nat) (p : Pos) : When :=
  let g := rd.g
  let vs := (vReads p).foldl (fun w n => latest w (vWhen dv g t n)) (.at_ 0)
  match p with
  | .vec (.v r) n _ _ _ true =>
    slots.foldl (fun w u => (vRange r n).foldl (fun w k => latest w (vWhen dv g u k)) w) (.at_ 0)
  | .src (.c k) _ _ _ => match g.c[k.toNat]'(k.isLt) with
    | some e => vWhen dv g t e.reg.toNat
    | none => .at_ 0
  | .src .q _ _ _ => match rd.fifo.toArray.getD t [] with
    | e :: _ => if e.value.isSome then .at_ e.at_ else .arrival
    | [] => if rd.shadowDone then .at_ 0 else .arrival
  | .src (.s _) _ _ _ => (sReads p).foldl (fun w n =>
      latest w (if awaitsS dv g.gid n then .arrival else .at_ (sbReady g (.s (BitVec.ofNat 6 n)) 0))) (.at_ 0)
  | .usrc _ _ _ _ => (sReads p).foldl (fun w n =>
      latest w (if awaitsS dv g.gid n then .arrival else .at_ (sbReady g (.s (BitVec.ofNat 6 n)) 0))) (.at_ 0)
  | .dst (.v r) n _ _ => if (vRange r n).any (awaits dv g.gid t) then .arrival else .at_ 0
  | .udst (.s r) n _ =>
      if (List.range n).any (fun i => awaitsS dv g.gid (r.toNat + i)) then .arrival else .at_ 0
  | .idx i window => latest (.at_ (sbReady g (.i i) t))
      (if window then .at_ (sbReady g (.x (BitVec.ofNat 7 (windowIndex (thread g t) i))) t) else .at_ 0)
  | .flags => .at_ (sbReady g .flags 0)
  | .time tr => match (timeOf (thread g t) tr).st with
    | .pending | .promised | .breached => .arrival
    | .arrived | .withdrawn => .at_ 0
  | _ => vs

/-- When the forwarded operands are ready: latches, P sources and the guard (R96). -/
def fwdWhen (rd : Rd) (t : Nat) (p : Pos) : Nat :=
  match latchRead p, p with
  | some false, _ => rd.turn.l0.at_
  | some true, _ => rd.turn.l1.at_
  | none, .pred q => if q = 0 then 0 else sbReady rd.g (.p q) t
  | none, _ => 0

/-! ## Bank extra and refills (R92, R99) -/

/-- Registers over one in a bank, in one read cycle. -/
def bankExtra (ps : List Pos) : Nat :=
  [0, 1].foldl (fun acc c =>
    let regs := ((ps.filter fun p => readCycle p == c).flatMap vReads).eraseDups
    [0, 1, 2, 3].foldl (fun a k => a + ((regs.filter fun r => r % 4 == k).length - 1)) acc) 0

/-- The operand-cache entries a pass refills: those read that are invalid. -/
def refills (g : Group) (ps : List Pos) : List CReg :=
  (ps.filterMap cRead).eraseDups.filter fun k =>
    match g.c[k.toNat]'(k.isLt) with
    | some e => !e.valid
    | none => false

def validate (g : Group) (ks : List CReg) : Group :=
  ks.foldl (fun h k => { h with c := h.c.set k.toNat ((h.c[k.toNat]'(k.isLt)).map fun e => { e with valid := true }) k.isLt }) g

/-! ## Poison (R394) -/

/-- A latch lane is uncorrectable. -/
def latchBad (rd : Rd) (t : Nat) (one : Bool) : Bool := (if one then rd.turn.l1 else rd.turn.l0).bad.getLsbD t

/-- A word marked uncorrectable that a position reads for a thread. -/
def readsPoison (rd : Rd) (t : Nat) (p : Pos) : Bool :=
  let bad := fun (u : Nat) (r : Reg) => rd.g.poison.contains (u, r)
  (vReads p).any (fun n => bad t (.v (BitVec.ofNat 6 n))) ||
  (sReads p).any (fun n => rd.g.poison.any fun q => q.2 == .s (BitVec.ofNat 6 n)) ||
  (match p with
    | .src (.c k) _ _ _ => match rd.g.c[k.toNat]'(k.isLt) with
      | some e => bad t (.c k e.reg) || (bad t (.v e.reg) && !(e.valid && rd.g.cClean.contains (t, k)))
      | none => false
    | .src .l0 _ _ _ => latchBad rd t false
    | .src .l1 _ _ _ => latchBad rd t true
    | .latch one => latchBad rd t one
    | .src .q _ _ _ => (((rd.fifo.toArray.getD t []).head?).map (·.bad)).getD false
    | .idx i window => bad t (.i i) || (window && bad t (.x (BitVec.ofNat 7 (windowIndex (thread rd.g t) i))))
    | _ => false)

/-! ## Withdrawn operands (R230, R312) -/

/-- Whether a number lies in a run of registers. -/
def inRun (first count n : Nat) : Bool := decide (first ≤ n) && decide (n < first + count)

/-- Whether a position reads the destination of a request. -/
def readsDest (rd : Rd) (d : Dest) (p : Pos) : Bool :=
  match d with
  | .v r n => (vReads p).any (inRun r.toNat n) || (match p with
      | .src (.c k) _ _ _ => match rd.g.c[k.toNat]'(k.isLt) with
        | some e => inRun r.toNat n e.reg.toNat
        | none => false
      | _ => false)
  | .s r n => (sReads p).any (inRun r.toNat n)
  | _ => false

/-- A pending fault that threads meet in a pass that reads its destination. -/
def pendHit (rd : Rd) (ps : List Pos) (ts : List Nat) : Option PendFault :=
  rd.g.pendFaults.find? fun f =>
    (ts.contains f.slot || match f.dst with
      | .s _ _ => true
      | _ => false) && ps.any (readsDest rd f.dst)

/-- A pending fault is taken, with the others of its request. -/
def takePend (f : PendFault) (g : Group) : Group :=
  { g with pendFaults := g.pendFaults.filter fun x => x != f && (f.req == 0 || x.req != f.req) }

end Sys2Proof.Machine
end

