-- ==== Sys2Proof/Machine/Pass.lean ====
section
/-! DEFINITION. One pass of a group (R42, R43): its thread set, the checks before it (R121, R122), readiness, cuts and
idle cycles (R95, R96, R423), threads in slot order with private execution (R44, R49, R50), and what follows it: PCs
(R168), loops (R54 to R56), latches (R88), the scoreboard (R95), cost (R97), the end of the turn (R45) and of the task
(R59). -/

namespace Sys2Proof.Machine

/-! ## Code bytes (R392) -/

/-- The translation of a code address: the core TLB's, else the cluster's, else a walk's, whose time lies outside the
contract (R390). -/
def codeLeaf (m : Memory) (dv : Device) (c : Ctx) (core : Nat) (va : DWord) : Except Cause Leaf :=
  match tlbLeaf dv core c.num va with
  | some l => .ok l
  | none => walk m dv c va

/-- The key of a code byte through a leaf, with X required. -/
def leafCode (m : Memory) (dv : Device) (c : Ctx) (core : Nat) (va : DWord) (l : Leaf) : Except Cause Nat :=
  match leafKey m dv c core va l .x with
  | .error e => .error e
  | .ok k => if keyKind k = .host then .error .page
      else if badSector dv k l.dom then .error .uncorrectable else .ok k

/-- The key of a code byte. -/
def codeKey (m : Memory) (dv : Device) (c : Ctx) (core : Nat) (va : DWord) : Except Cause Nat :=
  if vaClass va ≠ .canonical then .error .page
  else match codeLeaf m dv c core va with
    | .error e => .error e
    | .ok l => leafCode m dv c core va l

/-- What a private fetch of an address leaves in the buffers (R390). -/
def noteCode (m : Memory) (g : Group) (va : DWord) (dv : Device) : Device :=
  match (dv.ctx? g.ctx).map fun c => codeLeaf m dv c g.core va with
  | some (.ok l) => if (tlbFind dv false g.core g.ctx va).isSome then dv else tlbFill dv g.core g.ctx va l
  | _ => dv

/-- `n` code bytes as the core sees them, as a number. -/
def codeNat (m : Memory) (dv : Device) (core key n : Nat) : Nat :=
  if cacheHolds dv core key n then cachedBytes dv core key n else homeBytes m dv core key n

/-- The instruction word at a code address: a halfword, and the next one where bit 0 says 32 bits (R102). -/
def codeWord (m : Memory) (dv : Device) (g : Group) (va : DWord) : Except Cause Nat :=
  match dv.ctx? g.ctx with
  | none => .error .page
  | some c => match codeKey m dv c g.core va with
    | .error e => .error e
    | .ok k =>
      let lo := codeNat m dv g.core k 2
      if lo % 2 = 0 then .ok lo
      else match codeKey m dv c g.core (va + 2) with
        | .error e => .error e
        | .ok k2 => .ok (lo + 2 ^ 16 * codeNat m dv g.core k2 2)

/-- The size in bytes of the instruction a word begins (R102). -/
def instrBytes (w : Nat) : Nat := if w % 2 = 0 then 2 else 4

/-- Control-transfer instructions: majors 0x38 to 0x3B, and JMP, CALLR, RET, BRKLOOP (R49). -/
def isControl (w : Nat) : Bool :=
  w % 2 == 1 &&
    (decide (0x38 ≤ w / 2 % 64 ∧ w / 2 % 64 ≤ 0x3B) ||
      (w / 2 % 64 == 0x3C && decide (1 ≤ w / 2 ^ 25 ∧ w / 2 ^ 25 ≤ 4)))

/-- The bytes of a private fill (R49): straight on from an address, up to `n` instructions, ending after a control
transfer, or where a later fetch fails. -/
def fillBytes (m : Memory) (dv : Device) (g : Group) (va : DWord) : Nat → List Byte
  | 0 => []
  | n + 1 => match codeWord m dv g va with
    | .error _ => []
    | .ok w =>
      let size := instrBytes w
      wordBytes size w ++
        (if isControl w then [] else fillBytes m dv g (va + BitVec.ofNat 64 size) n)

/-- The instruction word a private buffer holds at an address, if it holds it whole. -/
def bufWord (b : PrivBuf) (va : DWord) : Option Nat :=
  let o := (va - b.start).toNat
  let lo := leNat ((b.bytes.drop o).take 2)
  if b.bytes.length < o + 2 then none
  else if lo % 2 = 0 then some lo
  else if b.bytes.length < o + 4 then none
  else some (leNat ((b.bytes.drop o).take 4))

/-! ## Instructions as operations of a pass -/

/-- The group in focus, taken out of the device for the length of a pass. -/
structure Work where
  d : Device
  g : Group
deriving DecidableEq, Repr

/-- Acts on the whole device. -/
def Work.on (w : Work) (f : Device → Device) : Work :=
  let d := f (w.d.setGroup w.g)
  { d := d, g := (d.group? w.g.gid).getD w.g }

/-- What an instruction knows of its pass: what sources read, its own address, CODE_BASE, the chain of R155, the tick
of its cycle, and "now" (R253, R424). -/
structure PassInfo where
  rd : Rd
  pc : DWord
  base : DWord
  chain : List Nat
  tick : Nat
  now : Word
deriving DecidableEq, Repr

/-- A fault raised in a pass: cause, class of access (R367), address (R370). -/
structure Raise where
  cause : Cause
  acc : Nat := 0
  addr : DWord := 0
  /-- the instruction had committed the task before it failed (R311) -/
  commits : Bool := false
  /-- the faulting instruction, where it is not the one that runs (R167) -/
  own : Option DWord := none
  /-- the task fails with it (R340) -/
  fails : Bool := false
deriving DecidableEq, Repr

/-- What remains to be done once the pass is over. -/
inductive Post
  | none
  /-- TRAP, BKPT (R401) -/
  | request (c : Cause) (code : Nat)
  /-- BKPT in a group that a debugger holds (R445) -/
  | halt
  /-- ERET (R402) -/
  | eret
  /-- ERET.FAIL (R372) -/
  | failTask
  /-- FGET found its future EMPTY in this slot: no later thread runs before the answer (R68, R339) -/
  | split (t : Nat)
deriving DecidableEq, Repr

/-- What an instruction did for one thread, or for the group: the result that enters L0 (R88), the taken target, the
fault raised. -/
structure LaneOut where
  w : Work
  res : Option DWord := none
  target : Option DWord := none
  raise : Option Raise := none
  post : Post := .none
deriving DecidableEq, Repr

/-- A wait before a pass: what it does to the device (a walk it starts), and whether it cuts in a deterministic context
too, because other groups' turns end it (R423): a member that has not started (R76), a barrier, threads in WAIT. -/
structure Gate where
  w : Work
  hard : Bool := false
deriving DecidableEq, Repr

/-- An instruction as a pass runs it. -/
structure Op where
  /-- bytes -/
  size : Nat := 4
  /-- runs once for the group (R43) -/
  uniform : Bool := false
  guard : PReg := 0
  /-- the guard is read inverted (BRA.THR of kind 2) -/
  negated : Bool := false
  pos : List Pos := []
  /-- conditions on the group for which decode raises ILLEGAL_INSTR (R171, R174) -/
  illegal : Group → DWord → Bool := fun _ _ => false
  /-- base cost per active thread (R97) -/
  cost : Nat := 1
  /-- the new L0 is void (R88) -/
  void : Bool := false
  /-- ends the turn where an active thread executes it (R45) -/
  ends : Bool := false
  /-- ends the turn whatever threads are active (R169) -/
  always : Bool := false
  /-- pops levels it leaves (R55) -/
  pops : Bool := false
  /-- commits the task (R68) -/
  commits : Bool := false
  /-- the group is treated as after YIELD where the pass leaves no thread RUN (R254) -/
  yields : Bool := false
  /-- may raise a flag (R188) -/
  flagger : Bool := false
  /-- its destination becomes ready at an arrival (R95) -/
  arrives : Bool := false
  /-- raises FUTURE_ORDER where an earlier thread of the pass has committed the task (R68) -/
  uncommitted : Bool := false
  /-- a further wait before the pass for a thread -/
  gate : Memory → PassInfo → Nat → Work → Option Gate := fun _ _ _ _ => none
  /-- other threads whose lanes of the source a thread reads (R394) -/
  others : PassInfo → Nat → List Nat := fun _ _ => []
  /-- it reads those lanes alone (R166) -/
  aside : Bool := false
  /-- the time registers a thread reads without waiting for them (R394) -/
  times : PassInfo → Nat → List TReg := fun _ _ => []
  /-- registers written beside the destination position -/
  also : PassInfo → Nat → List Reg := fun _ _ => []
  /-- the effect for one thread; of a uniform instruction, for the group (with the lowest active slot) -/
  lane : Memory → PassInfo → Nat → Work → LaneOut
  /-- what follows the last thread of the chain (R160) -/
  fin : PassInfo → Work → Work := fun _ w => w

/-- A pass's effect on a thread that only computes. -/
def laneOk (w : Work) (res : Option DWord) : LaneOut := { w := w, res := res }

def laneRaise (w : Work) (r : Raise) : LaneOut := { w := w, raise := some r }

/-- A thread's guard (R42). -/
def guardOf (op : Op) (th : Thread) : Bool := predOf th op.guard != op.negated

/-! ## Before the pass -/

/-- The address of the pass (R47, R402). -/
def passPc (g : Group) (turn : Turn) : Option DWord :=
  match turn.reissue with
  | some r => some r.pc
  | none => broadcastPc g

/-- Whether a slot may run in this pass (R402). -/
def mayRun (turn : Turn) (t : Nat) : Bool :=
  match turn.reissue with
  | some r => r.only.getLsbD t
  | none => true

/-- The present threads (R42). -/
def presentOf (g : Group) (turn : Turn) (pc : DWord) : List Nat :=
  slots.filter fun t => isRun (thread g t) && (thread g t).pc == pc && mayRun turn t

/-- The active threads among the present (R42). -/
def activeOf (op : Op) (g : Group) (present : List Nat) : List Nat :=
  present.filter fun t => guardOf op (thread g t)

/-- The FIFOs that source Q reads: those of the group's shadow (R72). -/
def fifosOf (dv : Device) (g : Group) : Vector (List QEntry) 32 :=
  match shadowOf dv g.gid with
  | some h => h.qwin
  | none => Vector.replicate 32 []

/-- Every thread is DONE. -/
def allDone (g : Group) : Bool := g.threads.all fun th => th.st == .done

def rdOf (dv : Device) (g : Group) (turn : Turn) : Rd :=
  { g := g, turn := turn, fifo := fifosOf dv g, steps := dv.steps
    shadowDone := ((shadowOf dv g.gid).map allDone).getD false }

/-- Whether an instruction names a latch source. -/
def namesLatch (op : Op) : Bool := op.pos.any fun p => (latchRead p).isSome

/-- When the register operands of a list of threads are ready. -/
def regsWhen (dv : Device) (rd : Rd) (ps : List Pos) (ts : List Nat) : When :=
  ts.foldl (fun w t => ps.foldl (fun w p => latest w (regWhen dv rd t p)) w) (.at_ 0)

/-- When the forwarded operands of the active threads, and the guard in the present threads, are ready. -/
def fwdsWhen (rd : Rd) (op : Op) (present active : List Nat) : Nat :=
  present.foldl (fun m t => max m (if op.guard = 0 then 0 else sbReady rd.g (.p op.guard) t))
    (active.foldl (fun m t => op.pos.foldl (fun m p => max m (fwdWhen rd t p)) m) 0)

/-- Ends the group's turn. -/
def endTurn (g : Group) : Group := { g with turn := none }

/-- Puts the group back and, where its turn has ended, leaves it. -/
def Work.close (w : Work) : Device :=
  let d := w.d.setGroup w.g
  if w.g.turn.isNone then { d with focus := none } else d

/-- A cut (R45, R96): the turn ends before the instruction, at the cost of one empty cycle where it has issued no
pass; a pass that was to be re-issued still is. -/
def cutTurn (turn : Turn) (w : Work) : Device :=
  let d := if turn.pos = 0 ∨ turn.reissue.isSome then w.d.spend w.g.core 1 else w.d
  let keep := if turn.reissue.isSome then some { turn with priv := [], stalled := false } else none
  Work.close { d := d, g := { w.g with turn := none, next := keep } }

/-- An idle cycle before an event whose time is not known (R96): the span issues nothing. -/
def idleTurn (turn : Turn) (w : Work) : Device :=
  Work.close { d := w.d.spend w.g.core 1, g := { w.g with turn := some { turn with stalled := true } } }

/-- Cycles of a span until a tick. -/
def cyclesUntil (dv : Device) (core tick : Nat) : Nat :=
  let n := spanTicks (dv.die (dieOf core)).mhz
  (tick - dv.tickOf core + n - 1) / n

/-- The base of a group's code. -/
def infoOf (dv : Device) (rd : Rd) (g : Group) (pc : DWord) (chain : List Nat) : PassInfo :=
  { rd := rd, pc := pc, base := codeBaseOf dv g, chain := chain, tick := dv.tickOf g.core, now := dv.now g }

/-- The gates of a list of threads: none where every one is open. -/
def gates (m : Memory) (op : Op) (info : PassInfo) (ts : List Nat) (w : Work) : Option Gate :=
  ts.foldl (fun acc t =>
    match op.gate m info t ((acc.map (·.w)).getD w) with
    | some q => some { w := q.w, hard := q.hard || ((acc.map (·.hard)).getD false) }
    | none => acc) none

/-! ## The pass -/

/-- What the pass has done so far: results by slot, threads that took a branch, threads that have executed, cycles,
addresses of control transfers executed, whether the turn ends, registers to be ready at b + n + 10 and at b + 10, a
fault and its thread, what follows. -/
structure Run where
  w : Work
  lanes : List (Nat × DWord) := []
  took : List Nat := []
  did : List Nat := []
  cyc : Nat := 0
  ctl : List DWord := []
  ends : Bool := false
  slow : List (Reg × Word) := []
  fast : List (Reg × Word) := []
  pushed : Bool := false
  flags : Bool := false
  commits : Bool := false
  yields : Bool := false
  fault : Option (Nat × Raise) := none
  post : Post := .none
deriving DecidableEq, Repr

/-- The registers that a position writes and that become ready at b + n + 10. -/
def slowRegs (p : Pos) : List Reg :=
  match p with
  | .dst (.v r) n _ _ => (vRange r n).map fun k => .v (BitVec.ofNat 6 k)
  | .udst (.s r) n _ => (List.range n).map fun i => .s (r + BitVec.ofNat 6 i)
  | _ => []

/-- Predicates written, ready at b + 10. -/
def fastRegs (p : Pos) : List Reg :=
  match p with
  | .pdst p => [.p p]
  | _ => []

/-- Reading Q removes the head of the slot's FIFO (R72). -/
def popQ (t : Nat) (w : Work) : Work :=
  match shadowOf w.d w.g.gid with
  | none => w
  | some h => { w with d := w.d.setGroup { h with qwin := h.qwin.set! t ((h.qwin.toArray.getD t []).drop 1) } }

/-- Whether a position reads Q. -/
def readsQ : Pos → Bool
  | .src .q _ _ _ => true
  | _ => false

/-- Whether a position pushes to Q. -/
def pushesQ : Pos → Bool
  | .dst .q _ _ _ => true
  | _ => false

/-- A push finds its FIFO full (R73). -/
def fifoFull (op : Op) (g : Group) (t : Nat) : Bool :=
  op.pos.any pushesQ && decide (8 ≤ (g.qwin.toArray.getD t []).length)

/-- The threads whose lanes a thread reads. -/
def readers (op : Op) (info : PassInfo) (t : Nat) : List Nat :=
  if op.aside then op.others info t else t :: op.others info t

/-- Poison that a thread meets (R394): in its own operands, or in the lanes of other threads it reads. -/
def poisoned (op : Op) (info : PassInfo) (t : Nat) : Bool :=
  !info.rd.g.poison.isEmpty && ((readers op info t).any (fun u => op.pos.any fun p => readsPoison info.rd u p)
    || (op.times info t).any fun k => (timeOf (thread info.rd.g t) k).bad)

/-- A fault that threads meet at their operands: a word marked uncorrectable (R394), a withdrawn destination (R230,
R312), an empty FIFO whose shadow has ended (R73). -/
def operandFault (op : Op) (info : PassInfo) (t : Nat) (g : Group) : Option (Raise × Group) :=
  if poisoned op info t then some ({ cause := .uncorrectable }, g)
  else match pendHit { info.rd with g := g } op.pos (readers op info t) with
    | some f =>
      some ({ cause := f.cause, acc := f.acc, addr := f.addr, own := f.pc.map (codeAddr info.base) }, takePend f g)
    | none =>
      if op.pos.any readsQ ∧ info.rd.fifo.toArray.getD t [] = [] then some ({ cause := .illegalOperand }, g)
      else none

/-- A fault before the effect of a thread (R68, R230, R394): where an earlier thread of the pass has committed the task,
an instruction that must precede a commit raises FUTURE_ORDER. -/
def beforeFault (op : Op) (info : PassInfo) (t : Nat) (committed : Bool) (g : Group) : Option (Raise × Group) :=
  match operandFault op info t g with
  | some f => some f
  | none => if op.uncommitted && committed then some ({ cause := .futureOrder }, g) else none

/-- The cost of one thread (R97). -/
def laneCost (op : Op) (g : Group) : Nat := op.cost + bankExtra op.pos + (refills g op.pos).length

def bitOf (t : Nat) : Word := 1#32 <<< t

/-- Marks a source dead in a thread (R93). -/
def markAll (op : Op) (t : Nat) (g : Group) : Group :=
  (op.pos.flatMap deadRegs).foldl (fun h n => markDead h t n) g

/-- One thread executes an instruction at its own address: poison, dead marks, the effect, the pop of Q, the new PC. -/
def runLane (m : Memory) (op : Op) (info : PassInfo) (t : Nat) (r : Run) : Run :=
  let info := { info with tick := info.tick + r.cyc * spanTicks (r.w.d.die (dieOf r.w.g.core)).mhz }
  let cyc := r.cyc + laneCost op info.rd.g
  match beforeFault op info t r.commits r.w.g with
  | some (f, g) => { r with w := { r.w with g := g }, cyc := cyc, fault := some (t, f) }
  | none =>
    let out := op.lane m info t { r.w with g := markAll op t r.w.g }
    match out.raise with
    | some f =>
      { r with w := { out.w with g := { r.w.g with pendFaults := out.w.g.pendFaults, barBroken := out.w.g.barBroken } }, cyc := cyc
               commits := r.commits || f.commits, fault := some (t, f) }
    | none =>
      let w := if op.pos.any readsQ then popQ t out.w else out.w
      let pc := out.target.getD (info.pc + BitVec.ofNat 64 op.size)
      { r with
        w := { w with g := onThread w.g t fun th => { th with pc := pc } }
        lanes := match out.res with
          | some x => r.lanes ++ [(t, x)]
          | none => r.lanes
        took := if out.target.isSome then r.took ++ [t] else r.took
        cyc := cyc
        ctl := if op.pops then info.pc :: r.ctl else r.ctl
        ends := r.ends || op.ends
        slow := r.slow ++ ((if op.arrives then [] else op.pos.flatMap slowRegs) ++ op.also info t).map
          fun x => (x, bitOf t)
        fast := r.fast ++ (op.pos.flatMap fastRegs).map fun x => (x, bitOf t)
        pushed := r.pushed || op.pos.any pushesQ
        flags := r.flags || op.flagger
        commits := r.commits || op.commits
        yields := r.yields || op.yields
        post := out.post }

/-- The last instruction of the innermost active body begins at its end address, or holds it (R171). -/
def isLoopEnd (g : Group) (pc : DWord) (size : Nat) : Bool :=
  match g.loops with
  | [] => false
  | l :: _ => pc == l.stop || (size == 4 && pc + 2 == l.stop)

/-- The slot's private buffer, where it holds the instruction at an address; else the fill (R49). -/
def privWord (m : Memory) (w : Work) (t : Nat) (pc : DWord) : Except Cause (Nat × Option PrivBuf) :=
  let held := match w.g.turn with
    | some turn => (turn.priv.find? (·.slot == t)).bind fun b => bufWord b pc
    | none => none
  match held with
  | some x => .ok (x, none)
  | none => match codeWord m w.d w.g pc with
    | .error e => .error e
    | .ok x => .ok (x, some { slot := t, start := pc, bytes := fillBytes m w.d w.g pc Config.privInstrs })

/-- Puts a private buffer into the turn. -/
def putBuf (b : PrivBuf) (g : Group) : Group :=
  match g.turn with
  | some turn => { g with turn := some { turn with priv := b :: turn.priv.filter (·.slot != b.slot) } }
  | none => g

/-- A stop point that the address alone shows: the end address of the innermost active level (R50). -/
def stopsAt (g : Group) (pc : DWord) : Bool := (g.loops.head?.map fun l => pc == l.stop).getD false

/-- A diverged thread in its own cycle of the pass (R49, R50, R122). `dec` decodes a word. The end of the innermost body
stops it before its word is decoded, and at the end address before it is fetched (log 74); where its fetch or decode
fails it pays its fill and its own cycles (R44; log 75). -/
def runPrivate (m : Memory) (dec : Nat → Option Op) (info : PassInfo) (t : Nat) (r : Run) : Run :=
  let g0 := info.rd.g
  let th := thread g0 t
  if stopsAt g0 th.pc then r
  else match privWord m r.w t th.pc with
  | .error e =>
    { r with cyc := r.cyc + Config.fillCost + 1, fault := some (t, { cause := e, acc := 4, addr := th.pc }) }
  | .ok (x, fill) =>
    let filled : Run := match fill with
      | some b =>
        { r with
          w := { d := noteCode m g0 (th.pc + BitVec.ofNat 64 (b.bytes.length - 1)) (noteCode m g0 th.pc r.w.d), g := putBuf b r.w.g }
          cyc := r.cyc + Config.fillCost }
      | none => r
    if isLoopEnd g0 th.pc (instrBytes x) then r
    else match dec x with
    | none => { filled with cyc := filled.cyc + 1, fault := some (t, { cause := .illegalInstr }) }
    | some op =>
      let info := { info with pc := th.pc, chain := [t] }
      if op.uniform then r
      else if op.illegal g0 th.pc then
        { filled with cyc := filled.cyc + op.cost, fault := some (t, { cause := .illegalInstr }) }
      else if !operandsAllowed (qRole r.w.d g0) g0 info.rd.turn op.pos then
        { filled with cyc := filled.cyc + op.cost, fault := some (t, { cause := .illegalOperand }) }
      else
        let tick := info.tick + filled.cyc * spanTicks (r.w.d.die (dieOf g0.core)).mhz
        if op.guard ≠ 0 ∧ tick < sbReady g0 (.p op.guard) t then filled
        else if !guardOf op th then
          { filled with
            w := { filled.w with g := onThread filled.w.g t fun th => { th with pc := th.pc + BitVec.ofNat 64 op.size } } }
        else if fifoFull op g0 t then filled
        else
          match regsWhen r.w.d info.rd op.pos [t] with
          | .arrival => filled
          | .at_ k =>
            if tick < max k (fwdsWhen info.rd op [] [t]) then filled
            else match op.gate m info t filled.w with
              | some q => { filled with w := q.w }
              | none =>
                let q := runLane m op info t filled
                if q.fault.isSome then { q with w := { q.w with g := validate q.w.g (refills g0 op.pos) } }
                else
                  let w := op.fin info q.w
                  { q with w := { w with g := validate w.g (refills g0 op.pos) } }

/-- One slot of a non-uniform pass, in slot order; after a fault no later thread begins (R44). -/
def runSlot (m : Memory) (dec : Nat → Option Op) (op : Op) (info : PassInfo) (t : Nat) (r : Run) : Run :=
  let th := thread info.rd.g t
  if r.fault.isSome ∨ r.post ≠ .none ∨ !isRun th ∨ !mayRun info.rd.turn t then r
  else if th.pc = info.pc then
    if guardOf op th then
      let q := runLane m op info t r
      if q.fault.isNone then { q with did := q.did ++ [t] } else q
    else r
  else runPrivate m dec info t r

/-- A thread after a slot may still run in this pass. -/
def laterRuns (info : PassInfo) (t : Nat) : Bool :=
  slots.any fun u => decide (t < u) && isRun (thread info.rd.g u) && mayRun info.rd.turn u

/-- The slot after which a pass waits for an answer. -/
def splitAt (info : PassInfo) (post : Post) : Option Nat :=
  match post with
  | .split t => if laterRuns info t then some t else none
  | _ => none

/-- A pass stands where no later thread of it runs and what follows its last thread is not due. -/
def stopsPass (info : PassInfo) (post : Post) : Bool :=
  match post with
  | .none => false
  | .split _ => (splitAt info post).isSome
  | _ => true

/-- The threads of a pass: a uniform instruction once (R43), any other in every slot. -/
def runThreads (m : Memory) (dec : Nat → Option Op) (op : Op) (info : PassInfo) (present active : List Nat)
    (w : Work) : Run :=
  if op.uniform then
    match active with
    | [] => { w := w, cyc := 1, ends := op.always }
    | t :: _ =>
      match operandFault op info t w.g with
      | some (f, g) => { w := { w with g := g }, cyc := 1, fault := some (t, f) }
      | none =>
        let out := op.lane m info t w
        match out.raise with
        | some f =>
          { w := { out.w with g := { w.g with pendFaults := out.w.g.pendFaults, barBroken := out.w.g.barBroken } }, cyc := 1, commits := f.commits
            fault := some (t, f) }
        | none =>
          let pc := out.target.getD (info.pc + BitVec.ofNat 64 op.size)
          { w := { out.w with g := present.foldl (fun g u => onThread g u fun th => { th with pc := pc }) out.w.g }
            took := if out.target.isSome then present else []
            did := active
            cyc := 1
            ctl := if op.pops then [info.pc] else []
            ends := op.ends || op.always
            slow := (op.also info t).map fun x => (x, bitOf t)
            fast := []
            commits := op.commits
            post := out.post }
  else
    let r := slots.foldl (fun r t => runSlot m dec op info t r) { w := w, ends := op.always }
    if r.fault.isSome ∨ stopsPass info r.post then r
    else { r with w := if r.did = [] then r.w else op.fin info r.w }

/-! ## After the pass -/

/-- Whether a core has an admitted group that is not resident (R174). -/
def othersWait (dv : Device) (core : Nat) : Bool :=
  dv.groups.any fun h => h.core == core && h.place.isNone && h.partner.isNone

/-- YIELD: not ready at the next turn opportunity; descheduled there where other groups wait, outside deterministic
contexts (R174, R426). -/
def yieldHold (dv : Device) (g : Group) : Group :=
  { g with hold := .yielded, wanted := g.wanted || (othersWait dv g.core && !dv.isDet g)
           yieldAt := ((dv.ctx? g.ctx).map (·.round)).getD 0 }

/-- The continuation of threads of an end instruction (R54): the start while the counter stays positive. -/
def loopBack (g : Group) (ts : List Nat) : Group :=
  match g.loops with
  | [] => g
  | l :: _ => if l.counter.toNat ≤ 1 then g
      else ts.foldl (fun h t => onThread h t fun th => { th with pc := l.start }) g

/-- The loop-back step (R54, R56): `stay` are the threads that did not take a branch. -/
def loopStep (g : Group) (stay : List Nat) : Group :=
  match g.loops with
  | [] => g
  | l :: rest =>
    if stay = [] then g
    else
      let g := loopBack g stay
      { g with loops := if l.counter.toNat ≤ 1 then rest else { l with counter := l.counter - 1 } :: rest }

/-- Whether a level's body holds an address. -/
def inBody (l : Level) (a : DWord) : Bool := decide (l.start.toNat ≤ a.toNat) && decide (a.toNat ≤ l.stop.toNat)

/-- Levels that control transfers have left, with every level inner to one (R55). Innermost first. -/
def popLevels (ctl : List DWord) (pc : DWord) (ls : List Level) : List Level :=
  match ls with
  | [] => []
  | l :: rest =>
    let rest' := popLevels ctl pc rest
    if rest'.length < rest.length then rest'
    else if ctl.any (inBody l) && !inBody l pc then rest else ls

/-- The broadcast PC for R55: the lowest RUN thread's, else the lowest WAIT thread's. -/
def levelPc (g : Group) : Option DWord :=
  match broadcastPc g with
  | some pc => some pc
  | none => lowest ((slots.map (thread g)).filterMap fun th => if th.st = .done then none else some th.pc)

def popLoops (ctl : List DWord) (g : Group) : Group :=
  match levelPc g with
  | some pc => { g with loops := popLevels ctl pc g.loops }
  | none => g

/-- The latch shift (R88): lanes that executed hold their results, every other lane zero. -/
def shiftLatch (turn : Turn) (lanes : List (Nat × DWord)) (void : Bool) (at_ : Nat) (pc : Word) : Turn :=
  { turn with
    l1 := turn.l0,
    l0 :=
      { lanes := Vector.ofFn fun i : Fin 32 => ((lanes.find? (·.1 == i.val)).map (·.2)).getD 0, void := void,
        at_ := at_, pc := pc } }

/-- A scalar register belongs to the whole group. -/
def sbLanes (r : Reg) (m : Word) : Word :=
  match r with
  | .s _ => BitVec.allOnes 32
  | _ => m

/-- Scoreboard entries of a pass (R95, R188); entries that have passed leave, and those of a register that a uniform pass
writes anew. -/
def scoreboard (op : Op) (r : Run) (b n span now : Nat) (pc : Word) (sb : List Ready) : List Ready :=
  let slow := b + (n + Config.pipeDepth) * span
  let uni := if op.uniform then op.pos.flatMap fun p => (slowRegs p).map fun x => match x with
      | .s s => { reg := .s s, lanes := BitVec.allOnes 32, at_ := b + span, pc := pc : Ready }
      | x => { reg := x, lanes := BitVec.allOnes 32, at_ := slow, pc := pc }
    else []
  let uni := if r.did = [] ∨ op.arrives then [] else uni
  let newer := fun (e : Ready) => uni.any fun x => x.reg == e.reg
  (sb.filter fun e => decide (now < e.at_) && !newer e) ++ uni
    ++ r.slow.map (fun x => { reg := x.1, lanes := sbLanes x.1 x.2, at_ := slow, pc := pc })
    ++ r.fast.map (fun x => { reg := x.1, lanes := x.2, at_ := b + Config.pipeDepth * span, pc := pc })
    ++ (if r.flags ∨ (op.uniform ∧ op.flagger ∧ r.did ≠ []) then
          [{ reg := .flags, lanes := BitVec.allOnes 32, at_ := slow, pc := pc }] else [])

/-- Entries pushed to Q in this pass become ready at b + n + 10 (R95): they are those without a name and without a tick. -/
def readyQ (at_ : Nat) (g : Group) : Group :=
  { g with qwin := g.qwin.map fun l => l.map fun e => if e.id = 0 ∧ e.at_ = 0 then { e with at_ := at_ } else e }

/-- The task of a group, or of a shadow's partner, is committed (R68). -/
def commitTask (gid : Nat) (dv : Device) : Device :=
  match dv.group? gid with
  | none => dv
  | some g => dv.onGroup (taskGroup g) fun h =>
      { h with task := h.task.map fun t => { t with committed := true } }

/-- A fault raised at a thread of a pass, or under R139 (R366, R370). -/
def faultInfo (op : Op) (turn : Turn) (pc thPc : DWord) (active later : List Nat) (r : Run) (t : Nat) (f : Raise) :
    TrapInfo :=
  let kept := (turn.reissue.map (·.kept)).getD [] ++ r.lanes
  let who := if op.uniform then active else [t]
  { kind := 0, cause := f.cause, acc := f.acc, fmask := maskOf who, slot := t
    pc := pc, own := f.own.getD thPc, pos := turn.pos, resume := maskOf (if op.uniform then active else t :: later)
    addrs := who.map fun u => (u, f.addr)
    l0 := turn.l0, l1 := turn.l1, kept := kept, fails := f.fails }

/-- Threads after the faulting one that would have been active: the broadcast ones with a true guard, and private
ones (R370). -/
def laterActive (dec : Nat → Option Op) (m : Memory) (op : Op) (info : PassInfo) (w : Work) (t : Nat) : List Nat :=
  slots.filter fun u =>
    let th := thread info.rd.g u
    decide (t < u) && isRun th && mayRun info.rd.turn u &&
      (if th.pc = info.pc then guardOf op th
       else !stopsAt info.rd.g th.pc && match privWord m w u th.pc with
        | .error _ => true
        | .ok (x, _) => !isLoopEnd info.rd.g th.pc (instrBytes x) && match dec x with
          | none => true
          | some p => !p.uniform && guardOf p th)

/-- Threads present and not active go on to the next instruction (R168); with a fault, those before its thread. -/
def passBy (op : Op) (pc : DWord) (ts : List Nat) (g : Group) : Group :=
  ts.foldl (fun h t => onThread h t fun th => { th with pc := pc + BitVec.ofNat 64 op.size }) g

/-- What every pass counts: RC (R424) and the scoreboard (R95). -/
def countPass (op : Op) (r : Run) (info : PassInfo) (span : Nat) (g : Group) : Group :=
  { g with
    rc := g.rc + 1
    sb := scoreboard op r info.tick (max r.cyc 1) span info.tick (codeOff info.base info.pc) g.sb }

/-- Entries pushed to Q get their tick. -/
def pushPass (r : Run) (at_ : Nat) (g : Group) : Group := if r.pushed then readyQ at_ g else g

/-- The threads whose guard is false go on, and refilled operand-cache entries are valid (R92). -/
def quietPass (op : Op) (pc : DWord) (quiet active : List Nat) (before g : Group) : Group :=
  let g := if op.uniform ∧ active ≠ [] then g else passBy op pc quiet g
  if active = [] ∨ op.uniform then g else validate g (refills before op.pos)

/-- The loop-back of an end instruction and the levels that control transfers have left (R54 to R56). -/
def loopPass (isEnd : Bool) (stay : List Nat) (r : Run) (g : Group) : Group :=
  popLoops r.ctl (if isEnd ∧ r.post ≠ .eret then loopStep g stay else g)

/-- A pass that leaves no thread RUN counts as YIELD where the instruction says so (R254). -/
def yieldPass (r : Run) (d : Device) (g : Group) : Group :=
  if r.yields ∧ (broadcastPc g).isNone then yieldHold d g else g

/-- The turn after a pass: its position and its latches (R88). -/
def turnPass (op : Op) (turn : Turn) (info : PassInfo) (r : Run) (span : Nat) (g : Group) : Turn :=
  shiftLatch { turn with pos := turn.pos + 1, priv := (g.turn.map (·.priv)).getD [], reissue := none, stalled := false }
    ((turn.reissue.map (·.kept)).getD [] ++ r.lanes) (op.void || op.uniform) (info.tick + Config.pipeDepth * span)
    (codeOff info.base info.pc)

/-- Whether the turn ends with the pass (R45). -/
def overPass (r : Run) (turn' : Turn) (g : Group) : Bool :=
  r.ends || decide (Config.turnPasses ≤ turn'.pos) || (broadcastPc g).isNone

/-- What remains to be done once the group stands as the pass leaves it. -/
def postPass (m : Memory) (turn' : Turn) (info : PassInfo) (active : List Nat) (post : Post) (g : Group) (d : Device) : Device :=
  match post with
  | .none | .split _ => if allDone g ∧ g.cond = .busy ∧ g.partner.isNone then finishTask g.gid (codeOff info.base info.pc) d else d
  | .request c code =>
    let t : TrapInfo :=
      { kind := 3, cause := c, code := code, fmask := maskOf active, slot := active.headD 0, pc := info.pc }
    raiseTrap m g.gid t { d with focus := none }
  | .halt =>
    let keep := if turn'.pos < Config.turnPasses then some { turn' with priv := [] } else none
    let d := { d.onGroup g.gid fun h => { h with halted := true, turn := none, next := keep } with focus := none }
    dbgEvent g active d
  | .eret => match g.frame with
    | some f => { d.onGroup g.gid fun h => leaveHandler info.base f h with focus := none }
    | none => d
  | .failTask => failTask m (taskGroup g) (g.tcause.toNat % 256) g.fmask (codeOff info.base info.pc) 0 { d with focus := none }

/-- A pass that no fault ends. -/
def donePass (m : Memory) (op : Op) (turn : Turn) (info : PassInfo) (present active quiet : List Nat) (isEnd : Bool) (w : Work)
    (r : Run) (span : Nat) (d : Device) (g : Group) : Device :=
  let stopped := slots.filter fun t => isRun (thread w.g t) && (thread w.g t).pc == info.pc && !present.contains t
  let g := quietPass op info.pc quiet active w.g g
  let g := yieldPass r d (loopPass isEnd ((present.filter fun t => !r.took.contains t) ++ stopped) r g)
  let turn' := turnPass op turn info r span g
  let g := { g with turn := if overPass r turn' g then none else some turn' }
  let d := Work.close { d := d, g := g }
  postPass m turn' info active r.post g (if r.commits then commitTask g.gid d else d)

/-- A thread of the broadcast instruction has begun its cycles, and with them its refills (R44, R92). -/
def reached (active : List Nat) (t : Nat) : Bool := active.any fun u => decide (u ≤ t)

/-- A pass that FGET in slot `t` has ended before threads that come after it: once the future's answer has come, the pass
is issued again for those (R339; log 73). -/
def splitPass (op : Op) (turn : Turn) (info : PassInfo) (present active quiet : List Nat) (isEnd : Bool) (w : Work)
    (r : Run) (t : Nat) (d : Device) (g : Group) : Device :=
  let g := passBy op info.pc (quiet.filter (· < t)) g
  let g := if reached active t then validate g (refills w.g op.pos) else g
  let g := if isEnd then loopBack g ((present.filter (· ≤ t)).filter fun u => !r.took.contains u) else g
  let keep : Turn :=
    { pos := turn.pos, l0 := turn.l0, l1 := turn.l1
      reissue := some { only := maskOf (slots.filter (t < ·)), pc := info.pc, kept := (turn.reissue.map (·.kept)).getD [] ++ r.lanes } }
  let d := Work.close { d := d, g := { g with turn := none, next := some keep } }
  if r.commits then commitTask g.gid d else d

/-- A pass that a fault of a thread ends (R44, R369). -/
def faultPass (m : Memory) (dec : Nat → Option Op) (op : Op) (turn : Turn) (info : PassInfo) (present active quiet : List Nat)
    (isEnd : Bool) (w : Work) (r : Run) (t : Nat) (f : Raise) (d : Device) (g : Group) : Device :=
  let g := if op.uniform then g else passBy op info.pc (quiet.filter (· < t)) g
  let g := if op.uniform ∨ !reached active t then g else validate g (refills w.g op.pos)
  let g := if isEnd ∧ !op.uniform then loopBack g ((present.filter (· < t)).filter fun u => !r.took.contains u) else g
  let d := Work.close { d := d, g := endTurn g }
  let d := if r.commits then commitTask g.gid d else d
  raiseTrap m g.gid (faultInfo op turn info.pc (thread w.g t).pc active (laterActive dec m op info w t) r t f) d

/-- The pass takes place: its threads, then what follows. -/
def takePass (m : Memory) (dec : Nat → Option Op) (op : Op) (turn : Turn) (info : PassInfo) (present active : List Nat)
    (w : Work) : Device :=
  let span := spanTicks (w.d.die (dieOf w.g.core)).mhz
  let isEnd := isLoopEnd w.g info.pc op.size && !((turn.reissue.map (·.lone)).getD false)
  let r := runThreads m dec op info present active w
  let d := r.w.d.spend w.g.core (max r.cyc 1)
  let d := { d with steps := d.steps + 1 }
  let quiet := present.filter fun t => !active.contains t
  let g := pushPass r (info.tick + (max r.cyc 1 + Config.pipeDepth) * span) (countPass op r info span r.w.g)
  match r.fault with
  | some (t, f) => faultPass m dec op turn info present active quiet isEnd w r t f d g
  | none => match splitAt info r.post with
    | some t => splitPass op turn info present active quiet isEnd w r t d g
    | none => donePass m op turn info present active quiet isEnd w r span d g

/-- The fault of a broadcast instruction at decode or at fetch (R122, R392): before the pass, once per group; one
empty cycle where the turn has issued no pass (R369). The pass keeps no result lanes (R90); those that a pass issued again
brought with it stay (log 80). -/
def decodeTrap (m : Memory) (turn : Turn) (pc : DWord) (present : List Nat) (f : Raise) (w : Work) : Device :=
  let fresh := decide (turn.pos = 0) || turn.reissue.isSome
  let d := if fresh then w.d.spend w.g.core 1 else w.d
  let t : TrapInfo :=
    { kind := 1, cause := f.cause, acc := f.acc, fmask := maskOf present, slot := present.headD 0, pc := pc
      pos := turn.pos, resume := maskOf present, addrs := present.map fun u => (u, f.addr)
      l0 := turn.l0, l1 := turn.l1, kept := (turn.reissue.map (·.kept)).getD [] }
  raiseTrap m w.g.gid t (Work.close { d := d, g := endTurn w.g })

/-- An FGET of the group has not resolved (R339). -/
def fgetOpen (d : Device) (g : Group) : Bool :=
  d.reqs.any fun q => q.gid == g.gid && q.kind == .fget && !q.dropped

/-- Waits, then the pass; which waits cut an instruction that names a latch (R45, R73, R76) is log 86. -/
def issue (m : Memory) (dec : Nat → Option Op) (op : Op) (turn : Turn) (pc : DWord) (present active : List Nat)
    (w : Work) : Device :=
  let rd := rdOf w.d w.g turn
  let det := w.d.isDet w.g
  if active.any (fifoFull op w.g) || fgetOpen w.d w.g then cutTurn turn w
  else match regsWhen w.d rd op.pos active with
  | .arrival => if !namesLatch op ∨ det then cutTurn turn w else idleTurn turn w
  | .at_ k =>
    if w.d.tickOf w.g.core < k ∧ !namesLatch op then cutTurn turn w
    else
      let till := max k (fwdsWhen rd op present active)
      let w := { w with d := w.d.spend w.g.core (cyclesUntil w.d w.g.core till) }
      let info := infoOf w.d rd w.g pc active
      match gates m op info (if op.uniform then active.take 1 else active) w with
      | some q => if (namesLatch op || det) && !q.hard then idleTurn turn q.w else cutTurn turn q.w
      | none => takePass m dec op turn info present active w

/-- One pass of the group in focus with a given instruction as the broadcast instruction. -/
def passDev (dec : Nat → Option Op) (op : Op) (m : Memory) (dv : Device) : Device :=
  match dv.focus.bind dv.group? with
  | none => dv
  | some g => match g.turn with
    | none => dv
    | some turn => match passPc g turn with
      | none => dv
      | some pc =>
        let present := presentOf g turn pc
        let w : Work := { d := dv, g := g }
        if op.illegal g pc then decodeTrap m turn pc present { cause := .illegalInstr } w
        else if !operandsAllowed (qRole dv g) g turn op.pos then
          decodeTrap m turn pc present { cause := .illegalOperand } w
        else issue m dec op turn pc present (activeOf op g present) w

/-- `passDev` as a step: the writes of the pass enter memory. -/
def runPass (dec : Nat → Option Op) (op : Op) (s : State) : Host.Outcome State Fault Refusal :=
  .next (commit s (passDev dec op s.mem s.dev))

end Sys2Proof.Machine
end

