-- ==== Sys2Proof/Machine/Integer.lean ====
section
/-! DEFINITION. Integer instructions: majors 0x00 to 0x08 and 0x0A to 0x13 and their 16-bit forms (R104 to R106, R143 to
R154). Each `op<Name>` is one instruction as a pass runs it. -/

namespace Sys2Proof.Machine

/-! ## Shapes of operation -/

/-- A 32-bit result goes to D and into L0 (R88, R140). -/
def put32 (t : Nat) (w : Work) (d : Dst) (x : Word) : LaneOut :=
  laneOk { w with g := putDst w.g t d [x] } (some (x.zeroExtend 64))

/-- A 64-bit result goes to the pair D and into L0. -/
def put64 (t : Nat) (w : Work) (d : Dst) (x : DWord) : LaneOut :=
  laneOk { w with g := putDst w.g t d [lowWord x, highWord x] } (some x)

/-- The positions of format A on operands of `n` registers. -/
def posA (o : FmtA) (n : Nat) : List Pos := [.src o.a n o.ka 0, .src o.b n o.kb 0, .dst o.d n true true]

/-- Format A with a 32-bit result. -/
def opA32 (o : FmtA) (f : Word → Word → Word) : Op :=
  { pos := posA o 1, lane := fun _ i t w => put32 t w o.d (f (src32 i.rd t o.a) (src32 i.rd t o.b)) }

/-- Format A with D as an accumulator (R138). -/
def opAcc32 (o : FmtA) (f : Word → Word → Word → Word) : Op :=
  { pos := .acc o.d 1 0 :: posA o 1
    lane := fun _ i t w => put32 t w o.d (f (src32 i.rd t o.a) (src32 i.rd t o.b) (acc32 i.rd t o.d)) }

/-- Format A on pairs (R146). -/
def opA64 (o : FmtA) (f : DWord → DWord → DWord) : Op :=
  { pos := posA o 2, cost := 2
    lane := fun _ i t w => put64 t w o.d (f (src64 i.rd t o.a) (src64 i.rd t o.b)) }

/-- The equivalent of a 16-bit instruction (R106): D = A = d. -/
def wide (o : Fmt16) : FmtA := { b := o.b, a := .v o.d, d := .v o.d, kb := false, ka := false }

/-- Format I with a 32-bit result. -/
def opI32 (o : FmtI) (f : Word → Word → Word) : Op :=
  { pos := [.src o.a 1 false 0, .dst o.d 1 true true]
    lane := fun _ i t w => put32 t w o.d (f (src32 i.rd t o.a) (o.imm.signExtend 32)) }

/-- Format N, one source, with a 32-bit result. -/
def opN32 (o : FmtN) (f : Word → Word) : Op :=
  { guard := o.g, pos := [.src o.a 1 o.ka 0, .dst o.d 1 true true, .no o.k1]
    lane := fun _ i t w => put32 t w o.d (f (src32 i.rd t o.a)) }

/-! ## Results (R143, R144, R146, R149, R152) -/

def mulhiS (a b : Word) : Word := BitVec.ofInt 32 (a.toInt * b.toInt / 2 ^ 32)

def mulhiU (a b : Word) : Word := BitVec.ofNat 32 (a.toNat * b.toNat / 2 ^ 32)

def absDiff (a b : Word) : Word := BitVec.ofNat 32 (a.toInt - b.toInt).natAbs

def avg (a b : Word) : Word := BitVec.ofInt 32 ((a.toInt + b.toInt + 1) / 2)

def minS (a b : Word) : Word := if b.toInt < a.toInt then b else a

def maxS (a b : Word) : Word := if a.toInt < b.toInt then b else a

def minU (a b : Word) : Word := if b.toNat < a.toNat then b else a

def maxU (a b : Word) : Word := if a.toNat < b.toNat then b else a

def shl (a b : Word) : Word := if b.toNat < 32 then a <<< b.toNat else 0

def shr (a b : Word) : Word := if b.toNat < 32 then a >>> b.toNat else 0

def sar (a b : Word) : Word := a.sshiftRight (min b.toNat 31)

def rotl (a b : Word) : Word := a.rotateLeft (b.toNat % 32)

def shl64 (a b : DWord) : DWord := if b.toNat < 64 then a <<< b.toNat else 0

def shr64 (a b : DWord) : DWord := if b.toNat < 64 then a >>> b.toNat else 0

/-- The length field of BFX and BFI. -/
def bfLen (b : Word) : Nat := min (bits b.toNat 8 6) 32

/-- BFX (R144). -/
def bfx (a b : Word) : Word :=
  let n := bfLen b
  let v := a.toNat / 2 ^ (b.toNat % 32) % 2 ^ n
  if bit b.toNat 16 ∧ 0 < n ∧ 2 ^ (n - 1) ≤ v then BitVec.ofInt 32 ((v : Int) - 2 ^ n) else BitVec.ofNat 32 v

/-- BFI (R144). -/
def bfi (a b acc : Word) : Word :=
  let p := b.toNat % 32
  let m := BitVec.ofNat 32 ((2 ^ bfLen b - 1) * 2 ^ p)
  (acc &&& ~~~m) ||| (a <<< p &&& m)

/-- Leading zero bits of the low `n` bits. -/
def clzAux (a : Word) : Nat → Nat
  | 0 => 0
  | n + 1 => if a.getLsbD n then 0 else 1 + clzAux a n

def clz (a : Word) : Word := BitVec.ofNat 32 (clzAux a 32)

/-- Trailing zero bits from bit `32 - n` on. -/
def ctzAux (a : Word) : Nat → Nat
  | 0 => 0
  | n + 1 => if a.getLsbD (31 - n) then 0 else 1 + ctzAux a n

def ctz (a : Word) : Word := BitVec.ofNat 32 (ctzAux a 32)

def popc (a : Word) : Word := BitVec.ofNat 32 ((slots.filter fun i => a.getLsbD i).length)

def brev (a : Word) : Word := a.reverse

def bswap (a : Word) : Word :=
  (a <<< 24) ||| ((a &&& 0xFF00#32) <<< 8) ||| ((a >>> 8) &&& 0xFF00#32) ||| (a >>> 24)

def sext8 (a : Word) : Word := (a.truncate 8).signExtend 32

def sext16 (a : Word) : Word := (a.truncate 16).signExtend 32

def absW (a : Word) : Word := BitVec.ofNat 32 a.toInt.natAbs

/-! ## Register-register operations (R143 to R146) -/

def opAdd (o : FmtA) : Op := opA32 o fun a b => a + b
def opSub (o : FmtA) : Op := opA32 o fun a b => a - b
def opMullo (o : FmtA) : Op := opA32 o fun a b => a * b
def opMulhi (o : FmtA) : Op := opA32 o mulhiS
def opMulhiu (o : FmtA) : Op := opA32 o mulhiU
def opMad (o : FmtA) : Op := opAcc32 o fun a b c => a * b + c
def opAbsdiff (o : FmtA) : Op := opA32 o absDiff
def opAvg (o : FmtA) : Op := opA32 o avg
def opMin (o : FmtA) : Op := opA32 o minS
def opMax (o : FmtA) : Op := opA32 o maxS
def opMinu (o : FmtA) : Op := opA32 o minU
def opMaxu (o : FmtA) : Op := opA32 o maxU
def opAnd (o : FmtA) : Op := opA32 o fun a b => a &&& b
def opOr (o : FmtA) : Op := opA32 o fun a b => a ||| b
def opXor (o : FmtA) : Op := opA32 o fun a b => a ^^^ b
def opAndn (o : FmtA) : Op := opA32 o fun a b => a &&& ~~~b
def opShl (o : FmtA) : Op := opA32 o shl
def opShr (o : FmtA) : Op := opA32 o shr
def opSar (o : FmtA) : Op := opA32 o sar
def opRotl (o : FmtA) : Op := opA32 o rotl
def opBfx (o : FmtA) : Op := opA32 o bfx
def opBfi (o : FmtA) : Op := opAcc32 o bfi
def opLea2 (o : FmtA) : Op := opA32 o fun a b => a + 4 * b
def opLea3 (o : FmtA) : Op := opA32 o fun a b => a + 8 * b

/-- SELP (R145); X = 0, P0, is reserved. -/
def opSelp (o : FmtSel) : Op :=
  { pos := [.src o.a 1 o.ka 0, .src o.b 1 o.kb 0, .pred o.p, .dst o.d 1 true true, .no (o.p == 0)]
    lane := fun _ i t w =>
      put32 t w o.d (if predOf (thread i.rd.g t) o.p then src32 i.rd t o.a else src32 i.rd t o.b) }

def opAdd64 (o : FmtA) : Op := opA64 o fun a b => a + b
def opSub64 (o : FmtA) : Op := opA64 o fun a b => a - b
def opShl64 (o : FmtA) : Op := opA64 o shl64
def opShr64 (o : FmtA) : Op := opA64 o shr64

/-! ## The 16-bit forms of integer operations (R106) -/

def opAdd16 (o : Fmt16) : Op := { opAdd (wide o) with size := 2 }
def opSub16 (o : Fmt16) : Op := { opSub (wide o) with size := 2 }
def opAnd16 (o : Fmt16) : Op := { opAnd (wide o) with size := 2 }
def opOr16 (o : Fmt16) : Op := { opOr (wide o) with size := 2 }
def opXor16 (o : Fmt16) : Op := { opXor (wide o) with size := 2 }
def opShl16 (o : Fmt16) : Op := { opShl (wide o) with size := 2 }
def opShr16 (o : Fmt16) : Op := { opShr (wide o) with size := 2 }
def opMin16 (o : Fmt16) : Op := { opMin (wide o) with size := 2 }
def opMax16 (o : Fmt16) : Op := { opMax (wide o) with size := 2 }

/-! ## Compare (R147) -/

/-- A condition on mathematical integers and on the bits. -/
def icond (c : ICond) (a b : Int) (both : DWord) : Bool :=
  match c with
  | .eq => a == b
  | .ne => a != b
  | .lt => decide (a < b)
  | .le => decide (a ≤ b)
  | .gt => decide (b < a)
  | .ge => decide (b ≤ a)
  | .test => both != 0
  | .ntest => both == 0

/-- The condition of an ICMP on its operands. -/
def icmpTest (ty : ICmpTy) (c : ICond) (a b : DWord) : Bool :=
  match ty with
  | .i32 => icond c (lowWord a).toInt (lowWord b).toInt ((lowWord a &&& lowWord b).zeroExtend 64)
  | .n32 => icond c (lowWord a).toNat (lowWord b).toNat ((lowWord a &&& lowWord b).zeroExtend 64)
  | .i64 => icond c a.toInt b.toInt (a &&& b)
  | .n64 => icond c a.toNat b.toNat (a &&& b)

/-- Registers in an operand of a compare type. -/
def icmpRegs (ty : ICmpTy) : Nat :=
  match ty with
  | .i32 | .n32 => 1
  | .i64 | .n64 => 2

/-- A source of either width as 64 bits. -/
def srcBy (rd : Rd) (t : Nat) (s : Src) (n : Nat) : DWord :=
  if n = 1 then (src32 rd t s).zeroExtend 64 else src64 rd t s

/-- Writes a predicate of a thread. -/
def putPred (t : Nat) (w : Work) (p : PReg) (b : Bool) : LaneOut :=
  laneOk { w with g := onThread w.g t fun th => setPred th p b } none

def opIcmp (o : FmtIC) : Op :=
  let n := icmpRegs o.ty
  { pos := [.src o.a n o.ka 0, .src o.b n o.kb 0, .pdst o.p] ++ (if o.conj then [.pred o.p] else [])
    cost := n, void := true
    lane := fun _ i t w =>
      let c := icmpTest o.ty o.cond (srcBy i.rd t o.a n) (srcBy i.rd t o.b n)
      putPred t w o.p (c && (!o.conj || predOf (thread i.rd.g t) o.p)) }

/-! ## Immediate forms (R148 to R150) -/

def opAddi (o : FmtI) : Op := opI32 o fun a i => a + i
def opAndi (o : FmtI) : Op := opI32 o fun a i => a &&& i
def opOri (o : FmtI) : Op := opI32 o fun a i => a ||| i
def opXori (o : FmtI) : Op := opI32 o fun a i => a ^^^ i
def opMuli (o : FmtI) : Op := opI32 o fun a i => a * i

def shiftBy (k : ShiftKind) (a b : Word) : Word :=
  match k with
  | .shl => shl a b
  | .shr => shr a b
  | .sar => sar a b
  | .rotl => rotl a b

def opShifti (o : FmtShift) : Op :=
  { pos := [.src o.a 1 false 0, .dst o.d 1 true true]
    lane := fun _ i t w => put32 t w o.d (shiftBy o.kind (src32 i.rd t o.a) (o.amt.zeroExtend 32)) }

def opLui (o : FmtL) : Op :=
  { pos := [.dst o.d 1 true true], lane := fun _ _ t w => put32 t w o.d (o.imm.zeroExtend 32 <<< 14) }

/-- The low 14 bits of a value replaced (LLO, SLLO). -/
def lowPart (acc : Word) (k : BitVec 14) : Word := (acc >>> 14) <<< 14 ||| k.zeroExtend 32

def opLlo (o : FmtLo) : Op :=
  { pos := [.acc o.d 1 0, .dst o.d 1 true true]
    lane := fun _ i t w => put32 t w o.d (lowPart (acc32 i.rd t o.d) o.imm) }

/-- ADR: a code offset relative to the thread's own PC. -/
def opAdr (o : FmtL) : Op :=
  { pos := [.dst o.d 1 true true]
    lane := fun _ i t w => put32 t w o.d (codeOff i.base i.pc + 2 * o.imm.signExtend 32) }

/-! ## Unary operations (R151, R152) -/

def opMov (o : FmtN) : Op := opN32 o fun a => a
def opNot (o : FmtN) : Op := opN32 o fun a => ~~~a
def opNeg (o : FmtN) : Op := opN32 o fun a => 0 - a
def opAbs (o : FmtN) : Op := opN32 o absW
def opClz (o : FmtN) : Op := opN32 o clz
def opCtz (o : FmtN) : Op := opN32 o ctz
def opPopc (o : FmtN) : Op := opN32 o popc
def opBrev (o : FmtN) : Op := opN32 o brev
def opBswap (o : FmtN) : Op := opN32 o bswap
def opSext8 (o : FmtN) : Op := opN32 o sext8
def opSext16 (o : FmtN) : Op := opN32 o sext16

def opMov64 (o : FmtN) : Op :=
  { guard := o.g, pos := [.src o.a 2 o.ka 0, .dst o.d 2 true true, .no o.k1], cost := 2
    lane := fun _ i t w => put64 t w o.d (src64 i.rd t o.a) }

def opMov16 (o : Fmt16) : Op :=
  { opMov { a := o.b, d := .v o.d, k1 := false, ka := false, g := 0 } with size := 2 }

/-! ## The indexed window (R81, R153, R154) -/

/-- The window register an index register reaches, if its check passes (R81). -/
def indexOf (g : Group) (th : Thread) (i : IReg) : Option (BitVec 7) :=
  let v := (idxOf th i).toNat
  let base := v % 256
  let len := v / 2 ^ 8 % 256
  let idx := v / 2 ^ 16 % 256
  if 128 ≤ base ∨ 128 < len ∨ len ≤ idx ∨ g.x < base + len then none else some (BitVec.ofNat 7 (base + idx))

/-- The post-increment of IDX, modulo 256. -/
def bumpIdx (v : Word) : Word :=
  BitVec.ofNat 32 (v.toNat % 2 ^ 16 + (v.toNat / 2 ^ 16 % 256 + 1) % 256 * 2 ^ 16)

def postInc (k1 : Bool) (t : Nat) (i : IReg) (g : Group) : Group :=
  if k1 then onThread g t fun th => setIdx th i (bumpIdx (idxOf th i)) else g

def opMovx (o : FmtIdx) : Op :=
  { guard := o.g, pos := [.idx o.i true, .dst o.d 1 true true, .no o.ka]
    also := fun _ _ => if o.k1 then [.i o.i] else []
    lane := fun _ i t w =>
      match indexOf i.rd.g (thread i.rd.g t) o.i with
      | none => laneRaise w { cause := .index }
      | some k => put32 t { w with g := postInc o.k1 t o.i w.g } o.d (xOf (thread i.rd.g t) k) }

def opMovxw (o : FmtIdxA) : Op :=
  { guard := o.g, pos := [.src o.a 1 o.ka 0, .idx o.i false]
    also := fun i t => .x (BitVec.ofNat 7 (windowIndex (thread i.rd.g t) o.i)) :: (if o.k1 then [.i o.i] else [])
    lane := fun _ i t w =>
      match indexOf i.rd.g (thread i.rd.g t) o.i with
      | none => laneRaise w { cause := .index }
      | some k =>
        let x := src32 i.rd t o.a
        let g := onThread w.g t fun th => setX th k x
        let g := { g with poison := g.poison.filter fun p => p != (t, .x k) }
        laneOk { w with g := postInc o.k1 t o.i g } (some (x.zeroExtend 64)) }

def opIset (o : FmtIdxA) : Op :=
  { guard := o.g, pos := [.src o.a 1 o.ka 0, .no o.k1], also := fun _ _ => [.i o.i]
    lane := fun _ i t w =>
      let x := idxMask (src32 i.rd t o.a)
      let g := onThread w.g t fun th => setIdx th o.i x
      laneOk { w with g := { g with poison := g.poison.filter fun p => p != (t, .i o.i) } }
        (some (x.zeroExtend 64)) }

def opIget (o : FmtIdx) : Op :=
  { guard := o.g, pos := [.idx o.i false, .dst o.d 1 true true, .no o.k1, .no o.ka]
    lane := fun _ i t w => put32 t w o.d (idxOf (thread i.rd.g t) o.i) }

end Sys2Proof.Machine
end

