-- ==== Sys2Proof/Machine/Flags.lean ====
section
/-! DEFINITION. How a thread step of a floating-point instruction reads its operands (R179), takes its rounding mode
(R182, R197), and raises the sticky flags of its group (R186, R187). -/

namespace Sys2Proof.Machine

/-- A rounding direction from its code (R84). -/
def rndOf (n : Nat) : Rnd :=
  if n % 4 = 0 then .rne else if n % 4 = 1 then .rz else if n % 4 = 2 then .ru else .rd

/-- MODE.RM. -/
def modeRnd (g : Group) : Rnd := rndOf g.mode.toNat

/-- The rounding direction of a conversion (R197). -/
def selRnd (g : Group) (r : RndSel) : Rnd :=
  match r with
  | .dyn => modeRnd g
  | .rne => .rne
  | .rz => .rz
  | .ru => .ru
  | .rd => .rd

/-- An immediate's value encoded in a format (R179). -/
def fpImm (f : Format) (i : BitVec 4) : Nat := (ofInt f .rne i.toInt).1

/-- `n` copies of an element side by side. -/
def repeatElem (f : Format) (x : Nat) : Nat → Nat
  | 0 => 0
  | n + 1 => x + 2 ^ f.width * repeatElem f x n

/-- A floating-point source of `n` elements in 32 bits (R178, R179). -/
def fpSrc32 (f : Format) (n : Nat) (rd : Rd) (t : Nat) (s : Src) : Nat :=
  match s with
  | .imm i => repeatElem f (fpImm f i) n
  | _ => (src32 rd t s).toNat

/-- A floating-point source of `n` elements in 64 bits. -/
def fpSrc64 (f : Format) (n : Nat) (rd : Rd) (t : Nat) (s : Src) : Nat :=
  match s with
  | .imm i => repeatElem f (fpImm f i) n
  | _ => (src64 rd t s).toNat

/-- Raises flags in the group (R186). -/
def raiseFlags (fl : Flags) (w : Work) : Work := { w with g := { w.g with flags := w.g.flags ||| fl } }

/-- A 32-bit result and its flags. -/
def putF32 (t : Nat) (w : Work) (d : Dst) (r : Nat × Flags) : LaneOut :=
  put32 t (raiseFlags r.2 w) d (BitVec.ofNat 32 r.1)

/-- A 64-bit result and its flags. -/
def putF64 (t : Nat) (w : Work) (d : Dst) (r : Nat × Flags) : LaneOut :=
  put64 t (raiseFlags r.2 w) d (BitVec.ofNat 64 r.1)

/-- Element `i` of a packed value. -/
def elem (f : Format) (x i : Nat) : Nat := x / 2 ^ (f.width * i) % 2 ^ f.width

/-- Applies an element operation to `n` elements and packs the results. -/
def packElems (f : Format) (g : Nat → Nat × Flags) : Nat → Nat × Flags
  | 0 => (0, 0)
  | n + 1 =>
    let (x, fx) := packElems f g n
    let (y, fy) := g n
    (x + y * 2 ^ (f.width * n), fx ||| fy)

end Sys2Proof.Machine
end

