-- ==== Sys2Proof/Machine/Home.lean ====
section
/-! DEFINITION. RMWs at a home: the new value (R306, R307, R309), and the updates of a completion record (R64, R65). -/

namespace Sys2Proof.Machine

/-! ## The operation of an RMW (R306, R307) -/

/-- The floating format of a location, and its number of elements; none for integers. -/
def atomFormat (ty : AtomTy) : Option (Format × Nat) :=
  match ty with
  | .int => none
  | .f32 => some (f32, 1)
  | .f64 => some (f64, 1)
  | .bf16 => some (bf16, 1)
  | .bf16x2 => some (bf16, 2)
  | .f16x2 => some (f16, 2)

/-- An element operation on every element of a location. -/
def atomElems (ty : AtomTy) (f : Format → Nat → Nat → Nat) (old x : Nat) : Nat :=
  match atomFormat ty with
  | none => old
  | some (fm, n) => (packElems fm (fun k => (f fm (elem fm old k) (elem fm x k), 0)) n).1

/-- The two's-complement value of `w` bits. -/
def signedOf (w x : Nat) : Int := if x % 2 ^ w < 2 ^ (w - 1) then (x % 2 ^ w : Nat) else (x % 2 ^ w : Nat) - 2 ^ w

/-- f(old, x) of R306, rounded by RNE whatever the group's mode, with no flag (R307). -/
def atomNew (a : Atomic) (old : Nat) : Nat :=
  let w := 8 * a.size
  let x := a.x % 2 ^ w
  match a.op with
  | .addI => (old + x) % 2 ^ w
  | .addF => atomElems a.ty (fun f p q => (fpAdd f .rne p q).1) old x
  | .minS => if signedOf w x < signedOf w old then x else old
  | .maxS => if signedOf w old < signedOf w x then x else old
  | .minU => min old x
  | .maxU => max old x
  | .minF => atomElems a.ty (fun f p q => (fpMinMax f false p q).1) old x
  | .maxF => atomElems a.ty (fun f p q => (fpMinMax f true p q).1) old x
  | .and => old &&& x
  | .or => old ||| x
  | .xor => old ^^^ x
  | .exch => x
  | .cas => if old = a.cmp % 2 ^ w then x else old

/-- What one buffered reduction becomes when another of its kind arrives (R316); none where they never merge. -/
def atomMerge (y x : Atomic) : Option Atomic :=
  match y.op with
  | .cas => none
  | .exch => some x
  | _ => some { y with x := atomNew x (y.x % 2 ^ (8 * y.size)) }

/-! ## An RMW at its home -/

/-- The clock of an update that no core's accesses precede. -/
def noClock : Clock := Vector.replicate 8 0

/-- The number a home holds at some keys. -/
def natHome (m : Memory) (dv : Device) (keys : List Nat) : Nat := leNat (keys.map (peek m dv))

/-- An RMW at its home: the old value and what follows; none where the location's data is uncorrectable (R312). -/
def applyAtomic (m : Memory) (keys : List Nat) (dom : Nat) (a : Atomic) (dv : Device) : Option (Nat × Device) :=
  if keys.any (badSector dv · dom) then none
  else
    let old := natHome m dv keys
    some (old, homeRmw dom (cellsOf keys (atomNew a old)) dv)

/-! ## Completion records (R64, R65) -/

/-- The key of a record and its key domain: R and W needed, in module memory (R60). -/
def recordKey (m : Memory) (dv : Device) (c : Ctx) (record : DWord) : Except Cause (Nat × Nat) :=
  match deviceSite m dv c record .rw with
  | .error e => .error e
  | .ok k => if keyKind k.1 = .host then .error .page else .ok k

/-- A record's OUT, FAILED and PARENT. -/
structure Record where
  out : Nat
  failed : Bool
  parent : DWord
deriving DecidableEq, Repr

def readRecord (m : Memory) (dv : Device) (k : Nat) : Record :=
  let v := peekN m dv k 16
  { out := bits v 0 48, failed := bit v 63, parent := BitVec.ofNat 64 (bits v 64 64) }

/-- Writes OUT and FAILED; bits 62:48 are written as zero (R64). -/
def writeRecord (dv : Device) (k : Nat × Nat) (r : Record) : Device :=
  homeRmw k.2 (cellsOf ((List.range 16).map (k.1 + ·))
    (r.out % 2 ^ 48 + (if r.failed then 2 ^ 63 else 0) + r.parent.toNat * 2 ^ 64)) dv

/-- How far a chain of records can lead: each holds a byte that is not zero. -/
def chainBound (m : Memory) (dv : Device) : Nat := m.length + dv.log.length + 1

/-- An update that cannot be applied (R65): a notice and a kind-10 record; one of kind 8 where the record is lost with a fenced
die (R397). -/
def recordFails (m : Memory) (ctx core : Nat) (record : DWord) (failed : Bool) (cause : Cause) (dv : Device) : Device :=
  let d := notifyHost dv ctx .recFail [record.toNat, if failed then 1 else 0]
  let d := logAppend m ctx { kind := 10, cause := causeCode cause, core := core, record := record } d
  match d.ctx? ctx with
  | some c => if leadsLost m d c record then lostItem m ctx core 0 record d else d
  | none => d

/-- The enqueue row: the parent first where OUT is 0 (R65). An error is the cause for which nothing is counted. -/
def enqueueRow (m : Memory) (c : Ctx) (record : DWord) (dv : Device) : Nat → Except Cause Device
  | 0 => .ok dv
  | n + 1 => match recordKey m dv c record with
    | .error e => .error e
    | .ok k =>
      let r := readRecord m dv k.1
      let first := if r.out = 0 ∧ r.parent ≠ 0 then enqueueRow m c r.parent dv n else .ok dv
      match first with
      | .error e => .error e
      | .ok d => match recordKey m d c record with
        | .error e => .error e
        | .ok k =>
          let r := readRecord m d k.1
          .ok (writeRecord d k { r with out := r.out + 1 })

/-- The key order of ordered reductions (R319, R320). -/
def redBefore (a b : Red) : Bool :=
  match a.order, b.order with
  | some (t, g, p, s), some (t', g', p', s') =>
    decide (t.toNat < t'.toNat) || (t == t' && (decide (g < g') || (g == g' && (decide (p < p') || (p == p' &&
      decide (s ≤ s'))))))
  | _, _ => true

/-- Puts a reduction into its place. -/
def insertRed (r : Red) (l : List Red) : List Red :=
  match l with
  | [] => [r]
  | x :: rest => if redBefore r x then r :: x :: rest else x :: insertRed r rest

/-- The ordered reductions that a record holds, in key order (R320). -/
def orderedOf (dv : Device) (ctx : Nat) (record : DWord) : List Red :=
  (dv.reds.filter fun r => r.order.isSome && r.record == some (record, ctx)).foldr insertRed []

/-- A no-return atomic that fails (R312): a kind-4 record, whose PC names the instruction and so its major and OP (R398 gives
them no bytes of their own; log 78); FAILED in the record its entry carries. -/
def reductionFails (m : Memory) (r : Red) (dv : Device) : Device :=
  let d := logAppend m r.ctx { kind := 4, core := r.core, addr := r.va, record := (r.record.map (·.1)).getD 0
                               reg := 0, pc := r.pc } dv
  match r.record, d.ctx? r.ctx with
  | some (rec_, _), some c => match recordKey m d c rec_ with
    | .error e => recordFails m r.ctx r.core rec_ true e d
    | .ok k => writeRecord d k { readRecord m d k.1 with failed := true }
  | _, _ => d

/-- A reduction is performed at its home. -/
def performRed (m : Memory) (dv : Device) (r : Red) : Device :=
  match applyAtomic m r.keys r.dom r.atomic dv with
  | some (_, d) => noteSeen r.core (r.keys.headD 0 / 128) d
  | none => reductionFails m r dv

/-- An update that would set OUT to 0 first applies the grid's ordered reductions (R320). -/
def applyOrdered (m : Memory) (ctx : Nat) (record : DWord) (dv : Device) : Device :=
  let rs := orderedOf dv ctx record
  let d := rs.foldl (performRed m) dv
  { d with reds := d.reds.filter fun r => !(r.order.isSome && r.record == some (record, ctx)) }

/-- The end row and the failure row, carried to the parent when OUT reaches 0 (R65). The update brings a clock, which each
record's home merges and hands on (R282, R302). -/
def endRow (m : Memory) (ctx core : Nat) (record : DWord) (failed : Bool) (clk : Clock) (dv : Device) : Nat → Device
  | 0 => dv
  | n + 1 => match dv.ctx? ctx with
    | none => dv
    | some c => match recordKey m dv c record with
      | .error e => recordFails m ctx core record failed e dv
      | .ok k =>
        let dv := mergeClock dv (homeSource k.1) clk
        let r := readRecord m dv k.1
        if r.out = 0 then
          logAppend m ctx { kind := 7, core := core, record := record } (writeRecord dv k { r with failed := true })
        else
          let d := if r.out = 1 then applyOrdered m ctx record dv else dv
          let r := readRecord m d k.1
          let r' := { r with out := r.out - 1, failed := r.failed || failed }
          let d := writeRecord d k r'
          if r'.out = 0 ∧ r'.parent ≠ 0 then endRow m ctx core r'.parent r'.failed (clockOf d (homeSource k.1)) d n else d

/-- FAILED alone is set (R312, R318, R379). -/
def markFailed (m : Memory) (ctx core : Nat) (record : DWord) (dv : Device) : Device :=
  match dv.ctx? ctx with
  | none => dv
  | some c => match recordKey m dv c record with
    | .error e => recordFails m ctx core record true e dv
    | .ok k => writeRecord dv k { readRecord m dv k.1 with failed := true }

end Sys2Proof.Machine
end

