-- ==== Sys2Proof/Machine/Uniform.lean ====
section
/-! DEFINITION. Predicate logic (R162, R163), uniform scalar instructions (R164 to R166), branches, loops and the CTRL
family (R168 to R175). -/

namespace Sys2Proof.Machine

/-! ## Predicates (R162, R163) -/

/-- PAND, POR and PXOR. -/
def opPred (o : FmtPL) (f : Bool → Bool → Bool) : Op :=
  { guard := o.g, pos := [.pred o.pa, .pred o.pb, .pdst o.pd, .no o.k1, .no o.ka], void := true
    lane := fun _ i t w =>
      let th := thread i.rd.g t
      putPred t w o.pd (f (predOf th o.pa != o.na) (predOf th o.pb != o.nb)) }

def opPand (o : FmtPL) : Op := opPred o fun a b => a && b
def opPor (o : FmtPL) : Op := opPred o fun a b => a || b
def opPxor (o : FmtPL) : Op := opPred o fun a b => a != b

def opPtest (o : FmtPA) : Op :=
  { guard := o.g, pos := [.src o.a 1 o.ka 0, .pdst o.pd, .no o.k1], void := true
    lane := fun _ i t w => putPred t w o.pd (src32 i.rd t o.a != 0) }

def opPbit (o : FmtPA) : Op :=
  { guard := o.g, pos := [.src o.a 1 o.ka 0, .pdst o.pd, .no o.k1], void := true
    lane := fun _ i t w => putPred t w o.pd ((src32 i.rd t o.a).getLsbD t) }

def opPget (o : FmtPG) : Op :=
  { guard := o.g, pos := [.pred o.pa, .dst o.d 1 true true, .no o.k1, .no o.ka]
    lane := fun _ i t w => put32 t w o.d (if predOf (thread i.rd.g t) o.pa then 1 else 0) }

/-! ## Uniform scalar instructions (R164 to R166) -/

/-- A uniform result goes to S(D). -/
def putS (w : Work) (d : UDst) (x : Word) : LaneOut := laneOk { w with g := putU w.g d [x] } none

/-- Majors 0x30 and 0x31. -/
def opUA (o : FmtUA) (f : Word → Word → Word) : Op :=
  { uniform := true, void := true
    pos := [.usrc o.a 1 1 true, .usrc o.b 1 1 true, .udst o.d 1 1, .no o.ka, .no o.kb]
    lane := fun _ i _ w => putS w o.d (f (usrc32 i.rd.g o.a) (usrc32 i.rd.g o.b)) }

def opSadd (o : FmtUA) : Op := opUA o fun a b => a + b
def opSsub (o : FmtUA) : Op := opUA o fun a b => a - b
def opSmul (o : FmtUA) : Op := opUA o fun a b => a * b
def opSand (o : FmtUA) : Op := opUA o fun a b => a &&& b
def opSor (o : FmtUA) : Op := opUA o fun a b => a ||| b
def opSxor (o : FmtUA) : Op := opUA o fun a b => a ^^^ b
def opSshl (o : FmtUA) : Op := opUA o shl
def opSshr (o : FmtUA) : Op := opUA o shr

def opSaddi (o : FmtUI) : Op :=
  { uniform := true, void := true, pos := [.usrc o.a 1 1 true, .udst o.d 1 1]
    lane := fun _ i _ w => putS w o.d (usrc32 i.rd.g o.a + o.imm.signExtend 32) }

def opSlui (o : FmtUL) : Op :=
  { uniform := true, void := true, pos := [.udst o.d 1 1]
    lane := fun _ _ _ w => putS w o.d (o.imm.zeroExtend 32 <<< 14) }

/-- The scalar a uniform destination names, as a source (R138). -/
def uAcc (d : UDst) : USrc :=
  match d with
  | .s r => .s r
  | .rsv n => .rsv n

def opSllo (o : FmtULo) : Op :=
  { uniform := true, void := true, pos := [.usrc (uAcc o.d) 1 1 true, .udst o.d 1 1]
    lane := fun _ i _ w => putS w o.d (lowPart (usrc32 i.rd.g (uAcc o.d)) o.imm) }

/-- A uniform move of one scalar. -/
def opU (o : FmtU) (f : Word → Word) : Op :=
  { uniform := true, void := true, pos := [.usrc o.a 1 1 true, .udst o.d 1 1, .no o.k1, .no o.ka]
    lane := fun _ i _ w => putS w o.d (f (usrc32 i.rd.g o.a)) }

def opSmov (o : FmtU) : Op := opU o fun a => a
def opSpopc (o : FmtU) : Op := opU o popc
def opSctz (o : FmtU) : Op := opU o ctz
def opSclz (o : FmtU) : Op := opU o clz

/-- SFROMV: the lane of the lowest active thread. -/
def opSfromv (o : FmtUV) : Op :=
  { uniform := true, void := true, guard := o.g
    pos := [.vec o.a 1 1 false 0 false, .udst o.d 1 1, .no o.k1, .no o.ka]
    lane := fun _ i t w => putS w o.d (src32 i.rd t o.a) }

/-- The scalar after the one a destination names. -/
def uNext (d : UDst) : USrc :=
  match d with
  | .s r => .s (r + 1)
  | .rsv n => .rsv n

/-- The lane that a scalar selects. -/
def laneOf (x : Word) : Nat := x.toNat % 32

def opSread (o : FmtUV) : Op :=
  { uniform := true, void := true
    pos := [.vec o.a 1 1 false 0 true, .usrc (uNext o.d) 1 1 false, .udst o.d 1 2, .no o.k1, .no o.ka, .no (o.g != 0)]
    others := fun i _ => [laneOf (usrc32 i.rd.g (uNext o.d))], aside := true
    lane := fun _ i _ w => putS w o.d (src32 i.rd (laneOf (usrc32 i.rd.g (uNext o.d))) o.a) }

/-- A vector field in D (R165). -/
def dstLane (d : Dst) : Option VReg :=
  match d with
  | .v r => some r
  | _ => none

/-- The scalar after the one a source names. -/
def uAfter (s : USrc) : USrc :=
  match s with
  | .s r => .s (r + 1)
  | x => x

/-- SWRITE: cut while a load or atomic into Vn is outstanding in any lane (R166). -/
def opSwrite (o : FmtVU) : Op :=
  { uniform := true, void := true
    pos := [.usrc o.a 2 2 false, .dst o.d 1 false false, .no o.k1, .no o.ka]
    gate := fun _ _ _ w => match dstLane o.d with
      | some r => if slots.any fun u => awaits w.d w.g.gid u r.toNat then some { w := w } else none
      | none => none
    lane := fun _ i _ w =>
      laneOk { w with g := putDst w.g (laneOf (usrc32 i.rd.g (uAfter o.a))) o.d [usrc32 i.rd.g o.a] } none }

/-! ## Branches (R169, R170) -/

/-- The target of a branch: its own address + 2 * OFFSET (R115). -/
def branchTo (pc : DWord) (off : BitVec 19) : DWord := pc + 2 * off.signExtend 64

def jumpTo (w : Work) (a : DWord) : LaneOut := { w := w, target := some a }

/-- Taken or not. -/
def branchIf (w : Work) (b : Bool) (a : DWord) : LaneOut := { w := w, target := if b then some a else none }

def opBraAlways (o : FmtJ) : Op :=
  { uniform := true, void := true, ends := true, always := true, pops := true
    lane := fun _ i _ w => jumpTo w (branchTo i.pc o.off) }

def opBraThr (o : FmtB) : Op :=
  { guard := o.g, void := true, ends := true, always := true, pops := true
    lane := fun _ i _ w => jumpTo w (branchTo i.pc o.off) }

def opBraThrNot (o : FmtB) : Op :=
  { guard := o.g, negated := true, void := true, ends := true, always := true, pops := true, pos := [.no (o.g == 0)]
    lane := fun _ i _ w => jumpTo w (branchTo i.pc o.off) }

/-- BRA.ANY, .ALL and .NONE: uniform, on the predicate of the active threads. -/
def opBraVote (o : FmtB) (f : List Bool → Bool) : Op :=
  { uniform := true, void := true, ends := true, always := true, pops := true, pos := [.pred o.g, .no (o.g == 0)]
    lane := fun _ i _ w =>
      branchIf w (f (i.chain.map fun t => predOf (thread i.rd.g t) o.g)) (branchTo i.pc o.off) }

def opBraAny (o : FmtB) : Op := opBraVote o fun l => l.any id
def opBraAll (o : FmtB) : Op := opBraVote o fun l => l.all id
def opBraNone (o : FmtB) : Op := opBraVote o fun l => !l.any id

/-- The tests of BRT (R170); a PENDING register satisfies none. -/
def timeTest (k : TimeTest) (x : TimeReg) (now : Word) : Bool :=
  match k with
  | .arrived => x.st == .arrived
  | .due => x.st == .arrived || ((x.st == .promised || x.st == .breached) && timeGe now x.value)
  | .breached => x.st != .pending && x.sticky
  | .withdrawn => x.st == .withdrawn

/-- A thread's time register as an instruction reads it at a cycle; nothing is late in a deterministic context (R424). -/
def timeSeen (d : Device) (g : Group) (t : Nat) (tr : TReg) (now : Word) : TimeReg :=
  let x := timeOf (thread g t) tr
  if d.isDet g then x else lateTime x now

def opBrt (o : FmtBT) : Op :=
  { void := true, ends := true, pops := true, times := fun _ _ => [o.t]
    lane := fun _ i t w =>
      branchIf w (timeTest o.test (timeSeen w.d i.rd.g t o.t i.now) i.now) (branchTo i.pc o.off) }

/-! ## LOOP and CALL (R53, R171, R172) -/

/-- The size of the instruction at an address, as its first halfword gives it; no fetch check (R171). Where that halfword
cannot be fetched it is taken as 4 bytes (log 37). -/
def codeSize (m : Memory) (w : Work) (a : DWord) : Nat :=
  match codeWord m w.d w.g a with
  | .ok x => instrBytes x
  | .error _ => 4

/-- The address after the end instruction of a body (R171): from an address of the body on, instruction by instruction, to the
one that begins at the end address or contains it. -/
def codeAfter (m : Memory) (w : Work) (stop a : DWord) : Nat → DWord
  | 0 => stop + BitVec.ofNat 64 (codeSize m w stop)
  | n + 1 =>
    let next := a + BitVec.ofNat 64 (codeSize m w a)
    if stop.toNat < next.toNat then next else codeAfter m w stop next n

/-- Halfwords of a body. -/
def bodyHalves (start stop : DWord) : Nat := (stop.toNat - start.toNat) / 2 + 1

/-- LOOP. -/
def opLoop (o : FmtLoop) : Op :=
  let k : USrc := .s (o.s.zeroExtend 6)
  { uniform := true, void := true, ends := true, pos := [.usrc k 1 1 false]
    illegal := fun g pc => isLoopEnd g pc 4 || decide ((branchTo pc o.off).toNat < (pc + 4).toNat)
    lane := fun m i _ w =>
      let n := usrc32 i.rd.g k
      let last := branchTo i.pc o.off
      if n = 0 then jumpTo w (codeAfter m w last (i.pc + 4) (bodyHalves (i.pc + 4) last))
      else if 3 ≤ w.g.loops.length then laneRaise w { cause := .illegalInstr }
      else laneOk { w with g := { w.g with loops := { counter := n, start := i.pc + 4, stop := last } :: w.g.loops } }
        none }

/-- The return address goes to S62 (R82). -/
def link (i : PassInfo) (w : Work) : Work := { w with g := setS w.g 62 (codeOff i.base (i.pc + 4)) }

/-- Where a return address stands. -/
def linkPos : Pos := .udst (.s 62) 1 1

def opCall (o : FmtJ) : Op :=
  { uniform := true, void := true, ends := true, pos := [linkPos]
    illegal := fun g pc => isLoopEnd g pc 4
    lane := fun _ i _ w => jumpTo (link i w) (branchTo i.pc o.off) }

/-! ## The CTRL family (R173, R174) -/

def opNop (o : FmtNG) : Op :=
  { guard := o.g, void := true, pos := [.no o.k1, .no o.ka], lane := fun _ _ _ w => laneOk w none }

/-- A code offset with bit 0 set raises ALIGN and does not transfer (R102). -/
def jumpOff (w : Work) (i : PassInfo) (o : Word) : LaneOut :=
  if o.getLsbD 0 then laneRaise w { cause := .align } else jumpTo w (codeAddr i.base o)

def opJmp (o : FmtNA) : Op :=
  { guard := o.g, void := true, ends := true, pops := true, pos := [.src o.a 1 o.ka 0, .no o.k1]
    lane := fun _ i t w => jumpOff w i (src32 i.rd t o.a) }

def opCallr (o : FmtUO) : Op :=
  { uniform := true, void := true, ends := true, pos := [.usrc o.a 1 1 true, linkPos, .no o.k1, .no o.ka]
    illegal := fun g pc => isLoopEnd g pc 4
    lane := fun _ i _ w => jumpOff (link i w) i (usrc32 i.rd.g o.a) }

def opRet (o : FmtUO) : Op :=
  { uniform := true, void := true, ends := true, pos := [.usrc o.a 1 1 true, .no o.k1, .no o.ka]
    illegal := fun g pc => isLoopEnd g pc 4
    lane := fun _ i _ w => jumpOff w i (usrc32 i.rd.g o.a) }

/-- BRKLOOP: to the address after the end instruction of the innermost level, which pops by R55. -/
def opBrkloop (o : FmtNG) : Op :=
  { guard := o.g, void := true, ends := true, pops := true, pos := [.no o.k1, .no o.ka]
    illegal := fun g _ => g.loops.isEmpty
    lane := fun m i _ w => match i.rd.g.loops with
      | l :: _ => jumpTo w (codeAfter m w l.stop l.start (bodyHalves l.start l.stop))
      | [] => laneOk w none }

def opEndturn (o : FmtNK) : Op :=
  { uniform := true, void := true, ends := true, pos := [.no o.k1, .no o.ka], lane := fun _ _ _ w => laneOk w none }

/-- YIELD (R174, R426). -/
def opYield (o : FmtNK) : Op :=
  { uniform := true, void := true, ends := true, pos := [.no o.k1, .no o.ka]
    lane := fun _ _ _ w => laneOk { w with g := yieldHold w.d w.g } none }

end Sys2Proof.Machine
end

