-- ==== Sys2Proof/Machine/Access.lean ====
section
/-! DEFINITION. Accesses of a pass: sites and their checks (R201 to R207, R234, R240, R241), the waits before a pass (R76,
R202, R313, R318), time registers at issue (R227, R424), the write path (R209, R213, R283); then the loads and stores,
SLD and SLDD (R167, R239 to R243). -/

namespace Sys2Proof.Machine

/-! ## Sites and waits -/

/-- MODE.BROT (R84, R206). -/
def brot (g : Group) : Nat := bits g.mode.toNat 3 5

/-- Where an access goes: a core's scratchpad, or translated memory. -/
inductive Site
  | scratch (core : Nat)
  | mem
deriving DecidableEq, Repr

/-- The checks found in the pass (R240): a non-canonical address, the place check, alignment. -/
def site (g : Group) (va : DWord) (size acc : Nat) : Except Raise Site :=
  match vaClass va with
  | .nonCanonical => .error { cause := .page, acc := acc, addr := va }
  | .scratch => match placeCheck g (vaDx va) (vaDy va) with
    | some c => .ok (.scratch c)
    | none => .error { cause := .place, acc := acc, addr := va }
  | .canonical =>
    if va.toNat % size = 0 then .ok .mem else .error { cause := .align, acc := acc, addr := va }

/-- The start check (R76): a member that has not started is waited for. -/
def startGate (va : DWord) (w : Work) : Option Gate :=
  if vaClass va = .scratch then
    match placeCheck w.g (vaDx va) (vaDy va) with
    | some c => if notStarted w.d w.g c then some { w := w, hard := true } else none
    | none => none
  else none

/-- A translated address waits for the core TLB (R202); the first issue starts the walk. -/
def transGate (va : DWord) (size : Nat) (w : Work) : Option Gate :=
  match vaClass va with
  | .canonical =>
    if va.toNat % size ≠ 0 then none
    else match lookup w.d w.g.core w.g.ctx va with
      | .miss => some { w := { w with d := startWalk w.d w.g.core w.g.ctx va } }
      | _ => none
  | .scratch => startGate va w
  | .nonCanonical => none

/-- The leaf of an address whose wait is over. -/
def leafOf (m : Memory) (d : Device) (core : Nat) (c : Ctx) (va : DWord) : Except Cause Leaf :=
  match lookup d core c.num va with
  | .leaf l => .ok l
  | .failed e => .error e
  | .miss => walk m d c va

/-- An access that fails because its memory is lost with a die is reported (R397): a physical address fails as uncorrectable for
no other reason. -/
def missReport (m : Memory) (e : Cause) (va : DWord) (w : Work) : Work :=
  if e = .uncorrectable then { w with d := lostItem m w.g.ctx w.g.core va 0 w.d } else w

/-- The key and leaf of a translated access in the pass (R241, R311): a failure that a walk brought back is taken. -/
def memKey (m : Memory) (w : Work) (va : DWord) (need : Need) (acc : Nat) : Except Raise (Nat × Leaf) × Work :=
  match w.d.ctx? w.g.ctx with
  | none => (.error { cause := .page, acc := acc, addr := va }, w)
  | some c => match leafOf m w.d w.g.core c va with
    | .error e => (.error { cause := e, acc := acc, addr := va }, { w with d := takeFail w.d w.g.core w.g.ctx va })
    | .ok l => match leafKey m w.d c w.g.core va l need with
      | .error e => (.error { cause := e, acc := acc, addr := va }, missReport m e va w)
      | .ok k => (.ok (k, l), w)

/-- The keys of a scratchpad access of a group (R205, R206); none where Z = 0. -/
def scratchKeys (d : Device) (g : Group) (core : Nat) (va : DWord) (size : Nat) : List Nat :=
  match d.ctx? g.ctx with
  | some c => regionKeys c core (va.toNat % 2 ^ 32) size (brot g)
  | none => []

/-- `n` keys from one on. -/
def keysFrom (k n : Nat) : List Nat := (List.range n).map (k + ·)

/-- A request that returns an atomic's old value. -/
def isAtomicReq (q : Req) : Bool :=
  match q.kind with
  | .atomic _ => true
  | _ => false

/-- An earlier with-return atomic of the core is outstanding on a sector of these bytes (R313). In a deterministic
context, whose registers take their values at the end of the turn (R423), its performance ends the hold. -/
def heldByAtomic (d : Device) (core : Nat) (keys : List Nat) (before : Nat) : Bool :=
  d.reqs.any fun q => decide (q.id < before) && q.core == core && isAtomicReq q &&
    !(q.st == .served && ((d.ctx? q.ctx).map (·.det)).getD false) &&
    q.keys.any fun k => keys.any fun j => sectorOf k == sectorOf j

/-- An earlier reduction of the core on one of these bytes is still to be performed (R318); spilled and ordered ones are
not looked for. -/
def heldByRed (d : Device) (core : Nat) (keys : List Nat) (before : Nat) : Bool :=
  (d.reds.any fun r => decide (r.id < before) && r.core == core && !r.spilled && !r.atHome && r.keys.any keys.contains)
  || d.writes.any fun w => decide (w.id < before) && w.core == core && w.atomic.isSome &&
      w.cells.any fun c => keys.contains c.1

def held (d : Device) (core : Nat) (keys : List Nat) (before : Nat) : Bool :=
  heldByAtomic d core keys before || heldByRed d core keys before

/-! ## Requests -/

/-- What a request of a thread starts with. -/
def newReq (i : PassInfo) (t : Nat) (kind : ReqKind) (va : DWord) (size : Nat) (w : Work) : Req :=
  { id := w.d.nextId, gid := w.g.gid, slot := t, kind := kind, st := .sent, core := w.g.core, ctx := w.g.ctx
    lanes := bitOf t, va := va, size := size, clock := clockOf w.d (dieOf w.g.core), pc := codeOff i.base i.pc
    at_ := i.tick }

/-- Puts a request among those in flight. -/
def sendReq (r : Req) (w : Work) : Work :=
  { w with d := { w.d with reqs := w.d.reqs ++ [r], nextId := w.d.nextId + 1 } }

/-- The time register of a load or command at issue (R227): PROMISED where the quote is known in the pass, at most the
horizon away (R231), else PENDING since the issue cycle; in a deterministic context PROMISED at RC + 1 (R424). -/
def nameTime (i : PassInfo) (t : Nat) (tr : TReg) (id : Nat) (engine : Bool) (quote : Option Word) (w : Work) : Work :=
  let det := w.d.isDet w.g
  let send : Word := BitVec.ofNat 32 (i.tick / 60)
  let old := timeOf (thread w.g t) tr
  let new : TimeReg :=
    { value := if det then i.now + 1 else quote.getD send, st := if quote.isSome || det then .promised else .pending
      sticky := old.sticky, req := id, engine := engine }
  { w with g := onThread w.g t fun th => setTime th tr new }

/-- Whether a translated byte lies in a replica region of the context (R214). -/
def inReplica (m : Memory) (d : Device) (c : Ctx) (va : DWord) : Bool := (replicaNames m d c va).isSome

/-! ## Fixed quotes (R223) -/

/-- The bank of a scratchpad byte (R206). -/
def keyBank (k : Nat) : Nat := k / 8 % 32

/-- Two lists of scratchpad bytes have a bank in common. -/
def banksMeet (a b : List Nat) : Bool :=
  a.any fun x => b.any fun y => keyKind x == .scratch && scratchCore x == scratchCore y && keyBank x == keyBank y

/-- The earlier accesses of a load's pass to a bank of its own. -/
def bankWaits (d : Device) (r : Req) (keys : List Nat) : Nat :=
  (d.reqs.filter fun q => q.gid == r.gid && q.at_ == r.at_ && isLoad q.kind && banksMeet q.keys keys).length

/-- The quote of a scratchpad load: a fixed duration, a cycle for each earlier access of the pass to the bank, a term for each
hop to a peer. -/
def scratchQuote (d : Device) (r : Req) (core : Nat) (keys : List Nat) : Nat :=
  Config.ownQuote + bankWaits d r keys + Config.hopTerm * pierHops (quadPier r.core) (quadPier core)

/-- A promise formed in the pass: the cycle the probe leaves, and a quote of at most the horizon (R224, R231). -/
def promiseOf (r : Req) (quote : Nat) : Word := BitVec.ofNat 32 (r.at_ / 60) + BitVec.ofNat 32 (min quote Config.horizon)

/-! ## Loads that the core itself can serve (R209, R225) -/

/-- An earlier load of the core that is still on its way to one of these sectors; one whose translation is awaited may be. -/
def loadAhead (d : Device) (core : Nat) (keys : List Nat) (before : Nat) : Bool :=
  d.reqs.any fun q => q.core == core && isLoad q.kind && decide (q.id < before) && (match q.st with
    | .sent | .admitted _ => q.keys.any fun k => keys.any fun j => sectorOf k == sectorOf j
    | .walking => keys.any fun j => q.va.toNat % 4096 / 32 == j % 4096 / 32
    | .served | .refused _ => false)

/-- The sector that is on its way to the core with an earlier load's value: later requests join that fill (R225). -/
def fillOnWay (d : Device) (core key : Nat) : Option PSector :=
  d.reqs.findSome? fun q => if q.core = core then q.fill.find? fun s => s.key == sectorOf key else none

/-- A load that R313 and R318 do not hold and that no earlier one is ahead of takes its bytes at the core: from a fill on its
way, or from the private cache, with that hit's quote (log 6). -/
def probeCore (r : Req) (d : Device) : Req × Option Nat × Device :=
  let k := r.keys.headD 0
  if keyKind k = .host ∨ held d r.core r.keys r.id ∨ loadAhead d r.core r.keys r.id then (r, none, d)
  else match fillOnWay d r.core k with
    | some s => ({ r with st := .served, value := leNat (r.keys.map (sectorByte s)) }, none, d)
    | none =>
      if cacheHolds d r.core k r.size then
        ({ r with st := .served, value := cachedNat d r.core r.keys }, some Config.privateQuote, touchSector d r.core k)
      else (r, none, d)

/-- A load at its supplier (R223, R240): the request as it leaves the pass, what the lookup did, its quote where that is known.
Scratchpad values and hits of the private cache are fixed here (log 6), unless R313 or R318 holds the load. -/
def routeLoad (m : Memory) (s : Site) (r : Req) (w : Work) : Req × Option Nat × Work :=
  match s with
  | .scratch core =>
    let keys := scratchKeys w.d w.g core r.va r.size
    if held w.d r.core keys r.id then ({ r with keys := keys }, none, w)
    else ({ r with keys := keys, st := .served, value := natAt m w.d r.core r.id keys }, some (scratchQuote w.d r core keys), w)
  | .mem => match w.d.ctx? w.g.ctx with
    | none => ({ r with st := .refused .page }, none, w)
    | some c => match lookup w.d w.g.core w.g.ctx r.va with
      | .leaf l => match leafKey m w.d c w.g.core r.va l .r with
        | .error e => ({ r with st := .refused e }, none, w)
        | .ok k =>
          let (r, q, d) := probeCore { r with keys := keysFrom k r.size, dom := l.dom, region := inReplica m w.d c r.va } w.d
          (r, q, { w with d := d })
      | _ => ({ r with st := .walking }, none, { w with d := startWalk w.d w.g.core w.g.ctx r.va })

/-- A load is issued (R240): checks, the outstanding mark, the probe, the time register. -/
def issueLoad (m : Memory) (i : PassInfo) (t : Nat) (kind : ReqKind) (va : DWord) (size : Nat) (dst : Nat → Dest)
    (lanes : Word) (tr : TReg) (w : Work) : LaneOut :=
  match site w.g va size 1 with
  | .error r => laneRaise w r
  | .ok s =>
    let r0 := newReq i t kind va size w
    let (r, q, w) := routeLoad m s { r0 with dst := dst r0.id, lanes := lanes } w
    let p := if w.d.isDet w.g then none else q.map (promiseOf r)
    laneOk (nameTime i t tr r.id false p (sendReq { r with promise := p } w)) none

/-! ## The write path -/

/-- Bytes of a write reach the present sectors of its core's private cache, and the fills on their way to it (R209,
R233, R283). -/
def updateCache (d : Device) (core : Nat) (cells : List Host.Cell) : Device :=
  let put := fun (s : PSector) => cells.foldl (fun s c => if sectorOf c.1 = s.key then setSectorByte s c.1 c.2 else s) s
  { d with
    pcache := d.pcache.map fun s => if s.core = core then put s else s
    reqs := d.reqs.map fun q => if q.core = core then { q with fill := q.fill.map put } else q }

/-- A write enters the core's write path, stamped with its die's clock (R280, R283; log 22); one that R313 or R318 holds takes
its stamp when it leaves. -/
def queueWrite (t : Nat) (key : Nat) (cells : List Host.Cell) (dom : Nat) (va : DWord) (w : Work) : Work :=
  let p : PWrite :=
    { id := w.d.nextId, source := dieOf w.g.core, core := w.g.core, gid := w.g.gid, slot := t, key := key, cells := cells
      stamp := clockOf w.d (dieOf w.g.core), dom := dom, ctx := w.g.ctx, va := va, seq := w.d.nextId
      sent := !held w.d w.g.core (cells.map (·.1)) w.d.nextId }
  let d := { w.d with writes := w.d.writes ++ [p], nextId := w.d.nextId + 1 }
  { w with d := if cells = [] then d else dropReplica (updateCache d w.g.core cells) w.g.core key }

/-- An earlier write to one of these bytes waits in the core's path. -/
def pathHolds (d : Device) (core : Nat) (keys : List Nat) : Bool :=
  d.writes.any fun w => w.core == core && !w.applied && w.cells.any fun c => keys.contains c.1

/-- A store of a thread to a scratchpad is performed at issue, unless R313 or R318 holds it in the write path; a region
of size 0 takes nothing (R205). -/
def storeScratch (t core : Nat) (va : DWord) (size v : Nat) (w : Work) : Work :=
  let keys := scratchKeys w.d w.g core va size
  if keys = [] then w
  else if held w.d w.g.core keys w.d.nextId || pathHolds w.d w.g.core keys then
    queueWrite t (keys.headD 0) (cellsOf keys v) 0 va w
  else { w with d := pokeCells w.d (cellsOf keys v) }

/-- A store of the low `size` bytes of a value (R241). -/
def issueStore (m : Memory) (t : Nat) (va : DWord) (size v : Nat) (w : Work) : LaneOut :=
  match site w.g va size 2 with
  | .error r => laneRaise w r
  | .ok (.scratch core) => laneOk (storeScratch t core va size v w) none
  | .ok .mem =>
    match memKey m w va .w 2 with
    | (.error r, w) => laneRaise w r
    | (.ok (k, l), w) => laneOk (queueWrite t k (cellsOf (keysFrom k size) v) l.dom va w) none

/-! ## Loads and stores (R239 to R243) -/

/-- Destinations of a load of `n` registers. -/
def loadDst (d : Dst) (n id : Nat) : Dest :=
  match d with
  | .v r => .v r n
  | .q => .q id
  | .sup | .rsv _ => .none

/-- A load into Q allocates its entry at issue (R73). -/
def pushLoad (t : Nat) (d : Dst) (id : Nat) (w : Work) : Work :=
  match d with
  | .q => { w with g := pushQ w.g t { id := id, value := none } }
  | _ => w

/-- The address of an access (R234). -/
def addrOf (rd : Rd) (t : Nat) (b : Src) (off : Nat) : DWord := src64 rd t b + BitVec.ofNat 64 off

/-- A load in format M. -/
def opLoad (g : PReg) (b : Src) (off : Nat) (d : Dst) (tr : TReg) (size n cost : Nat) (e : Ext) : Op :=
  { guard := g, pos := [.src b 2 false 0, .dst d n false true, .time tr], cost := cost, void := true, arrives := true
    gate := fun _ i t w => startGate (addrOf i.rd t b off) w
    lane := fun m i t w =>
      let id := w.d.nextId
      let out := issueLoad m i t (.load e) (addrOf i.rd t b off) size (loadDst d n) (bitOf t) tr w
      if out.raise.isSome then out else { out with w := pushLoad t d id out.w } }

def opLdw (o : FmtLd) : Op := opLoad o.g o.b (4 * o.off.toNat) o.d o.t 4 1 1 .none
def opLdd (o : FmtLd) : Op := opLoad o.g o.b (8 * o.off.toNat) o.d o.t 8 2 2 .none
def opLdq (o : FmtLd) : Op := opLoad o.g o.b (16 * o.off.toNat) o.d o.t 16 4 2 .none

def subBytes (s : SubSize) : Nat :=
  match s with
  | .i8 | .n8 => 1
  | .i16 | .n16 => 2

def subExt (s : SubSize) : Ext :=
  match s with
  | .i8 => .s8
  | .n8 => .u8
  | .i16 => .s16
  | .n16 => .u16

def opLdsub (o : FmtLdSub) : Op :=
  opLoad o.g o.b (subBytes o.sz * o.off.toNat) o.d o.t (subBytes o.sz) 1 1 (subExt o.sz)

/-- A store in format M; `cyc` is the read cycle of its data (R99). -/
def opStore (g : PReg) (b : Src) (off : Nat) (x : Src) (tr : TReg) (size n cyc : Nat) (v : Rd → Nat → Nat) : Op :=
  { guard := g, pos := [.no (tr != 0), .src b 2 false 0, .src x n false cyc], cost := if n = 1 then 1 else 2
    void := true, commits := true
    gate := fun _ i t w => transGate (addrOf i.rd t b off) size w
    lane := fun m i t w => issueStore m t (addrOf i.rd t b off) size (v i.rd t) w }

/-- Words as a number, the first least significant (R118). -/
def wordsNat (ws : List Word) : Nat :=
  match ws with
  | [] => 0
  | x :: rest => x.toNat + 2 ^ 32 * wordsNat rest

def opStw (o : FmtSt) : Op := opStore o.g o.b (4 * o.off.toNat) o.x o.t 4 1 0 fun rd t => (src32 rd t o.x).toNat
def opStd (o : FmtSt) : Op := opStore o.g o.b (8 * o.off.toNat) o.x o.t 8 2 1 fun rd t => (src64 rd t o.x).toNat
def opStq (o : FmtSt) : Op := opStore o.g o.b (16 * o.off.toNat) o.x o.t 16 4 1 fun rd t => wordsNat (srcWords rd t o.x 4)

def opStsub (o : FmtStSub) : Op :=
  let size := if o.half then 2 else 1
  opStore o.g o.b (size * o.off.toNat) o.x o.t size 1 0 fun rd t => (src32 rd t o.x).toNat

/-! ## Uniform loads (R167) -/

def uDest (d : UDst) (n : Nat) : Dest :=
  match d with
  | .s r => .s r n
  | .rsv _ => .none

/-- SLD and SLDD: a load without a time register, whose failure concerns every active thread (R139). -/
def opUload (o : FmtU) (size n : Nat) : Op :=
  { uniform := true, void := true, arrives := true
    pos := [.usrc o.a 2 2 false, .udst o.d n n, .no o.k1, .no o.ka]
    gate := fun _ i _ w => startGate (usrc64 i.rd.g o.a) w
    lane := fun m i t w =>
      issueLoad m i t .uload (usrc64 i.rd.g o.a) size (fun _ => uDest o.d n) (maskOf i.chain) 0 w }

def opSld (o : FmtU) : Op := opUload o 4 1
def opSldd (o : FmtU) : Op := opUload o 8 2

end Sys2Proof.Machine
end

