-- ==== Sys2Proof/Machine/Order.lean ====
section
/-! DEFINITION. Releases and acquires of a thread (R275, R278, R314, R318). -/

namespace Sys2Proof.Machine

/-- The task a group works for: a shadow works for its partner's (R71). -/
def workTask (d : Device) (g : Group) : Option Task :=
  match g.partner with
  | some p => (d.group? p).bind (·.task)
  | none => g.task

/-- Scopes from QUAD outward act on the die (R278). -/
def wideScope (sc : Scope) : Bool := decide (3 ≤ scopeNum sc)

/-- A write of the core waits in its path, to be performed on this die or in a scratchpad (R278); one homed elsewhere has
its stamp unless it has not left the core (log 22). -/
def pathPending (d : Device) (core : Nat) : Bool :=
  d.writes.any fun w => w.core == core && !w.applied &&
    (!w.sent || keyKind w.key == .scratch || (keyKind w.key == .own && homeDie w.key == dieOf core))

/-- A with-return atomic of the thread is not performed yet (R314). -/
def atomicPending (d : Device) (gid t : Nat) : Bool :=
  d.reqs.any fun q => q.gid == gid && q.slot == t && isAtomicReq q && q.st != .served

/-- A reduction of the thread is not performed yet, merged and spilled ones included; ordered ones are not waited for
(R318). -/
def redPending (d : Device) (gid t : Nat) : Bool :=
  (d.reds.any fun r => r.order.isNone && ((r.gid, r.slot) :: r.also).contains (gid, t))
  || d.writes.any fun w => w.atomic.isSome && ((w.gid, w.slot) :: w.also).contains (gid, t)

/-- A write of the thread to another module or a host is not acknowledged (R278, R301). -/
def ackPending (d : Device) (gid t : Nat) : Bool :=
  d.writes.any fun w => w.gid == gid && w.slot == t && (keyKind w.key == .other || keyKind w.key == .host)

/-- A message of the thread is not appended; it is a write of the thread (R272; log 24). -/
def msgPending (d : Device) (gid t : Nat) : Bool := d.msgs.any fun x => x.gid == gid && x.slot == t

/-- A release of a thread at a scope can act (R278, R314, R318): any waits for the thread's with-return atomics. -/
def releaseReady (d : Device) (g : Group) (t : Nat) (sc : Scope) : Bool :=
  !atomicPending d g.gid t && (sc == .thread ||
    (!redPending d g.gid t &&
      (!wideScope sc || (!pathPending d g.core && !msgPending d g.gid t)) &&
      (sc != .pod || !ackPending d g.gid t)))

/-- The release acts: the die's own clock entry rises and markers are sent (R278, R280). -/
def releaseAct (core : Nat) (sc : Scope) (d : Device) : Device :=
  if wideScope sc then releaseClock (dieOf core) d else d

/-- A load of the thread, or of its group as a whole, has not arrived (R278). -/
def loadPending (d : Device) (gid t : Nat) : Bool :=
  d.reqs.any fun q => q.gid == gid && match q.kind with
    | .load _ => q.slot == t
    | .uload => true
    | _ => false

/-- An acquire of a thread at a scope can act (R278). -/
def acquireReady (d : Device) (g : Group) (t : Nat) (sc : Scope) : Bool :=
  sc == .thread ||
    (!loadPending d g.gid t &&
      (!wideScope sc || caughtUp d (dieOf g.core) (clockOf d (dieOf g.core)) [dieOf g.core]))

/-- The acquire acts: the core's private cache loses every sector, with what the loads on their way would fill it with; at
CLUS and wider the die's replicas become invalid (R213, R277, R278). -/
def acquireAct (core : Nat) (sc : Scope) (d : Device) : Device :=
  if wideScope sc then
    let d := { d with
      pcache := d.pcache.filter (·.core != core)
      reqs := d.reqs.map fun q => if q.core = core then { q with fill := [], noFill := true } else q }
    if 4 ≤ scopeNum sc then advanceEpoch (dieOf core) d else d
  else d

/-- An atomic request that has not been performed. -/
def unperformed (q : Req) : Bool := isAtomicReq q && q.st == .sent

/-- Everything that a source sent to a home before a place in its order has been applied there (R280, R281). -/
def sourceClear (d : Device) (source home before : Nat) : Bool :=
  !(d.writes.any fun x => x.source == source && x.sent && decide (x.seq < before) && !x.applied
      && keyKind x.key != .scratch && homeSource x.key == home)
    && !d.reqs.any fun q => unperformed q && dieOf q.core == source && decide (q.id < before)
        && keyKind (q.keys.headD 0) != .scratch && homeSource (q.keys.headD 0) == home

/-- An RMW of a source on a key, with a place in the source's order and a clock, can act at its home (R281). -/
def hopReady (d : Device) (source key before : Nat) (clock : Clock) : Bool :=
  !haltedKey d key && (keyKind key == .scratch || homeSource key == source
    || (sourceClear d source (homeSource key) before
        && caughtUp d (homeSource key) clock [homeSource key, source]))

/-- An RMW of a core. -/
def rmwReady (d : Device) (core key before : Nat) (clock : Clock) : Bool := hopReady d (dieOf core) key before clock

/-- Whether the home of a key serves a read of a core with a clock: on its own die, or once it has caught up with the clock
(R281). The home of a host window, and of what goes to another module, is the port die (log 18). -/
def readReady (d : Device) (core key : Nat) (clock : Clock) : Bool :=
  !haltedKey d key && (keyKind key == .scratch || homeSource key == dieOf core
    || caughtUp d (homeSource key) clock [homeSource key])

/-- A wait of one thread for its release, or its acquire. -/
def releaseGate (sc : Scope) (t : Nat) (w : Work) : Option Gate :=
  if releaseReady w.d w.g t sc then none else some { w := w }

def acquireGate (sc : Scope) (t : Nat) (w : Work) : Option Gate :=
  if acquireReady w.d w.g t sc then none else some { w := w }

/-- A wait for a release of every thread of the group. -/
def releaseAll (sc : Scope) (w : Work) : Option Gate :=
  if slots.all fun t => releaseReady w.d w.g t sc then none else some { w := w }

/-- Both directions of FENCE (R326). -/
def fenceRel (k : FenceKind) : Bool := k == .rel || k == .ar

def fenceAcq (k : FenceKind) : Bool := k == .acq || k == .ar

/-- FENCE (R326): cut until the release and the acquire of every active thread can act. -/
def opFence (o : FmtFence) : Op :=
  { guard := o.g, pos := [.no o.k1, .no o.ka], void := true
    gate := fun _ _ t w =>
      ((if fenceRel o.kind then releaseGate o.sc t w else none)).or
        (if fenceAcq o.kind then acquireGate o.sc t w else none)
    lane := fun _ _ _ w =>
      let d := if fenceRel o.kind then releaseAct w.g.core o.sc w.d else w.d
      laneOk { w with d := if fenceAcq o.kind then acquireAct w.g.core o.sc d else d } none }

end Sys2Proof.Machine
end

