-- ==== Sys2Proof/Machine/Queue.lean ====
section
/-! DEFINITION. Queue managers: an entry's fields (R60, R61), enqueue and its checks (R62, R335, R409), runnable entries
(R63, R410), parking and release (R67, R69, R70, R338), failure of an entry (R65, R410, R414). -/

namespace Sys2Proof.Machine

/-! ## Fields (R60, R61) -/

def entCode (ws : List Word) : Word := ws.getD 0 0

def entFlags (ws : List Word) : Nat := (ws.getD 1 0).toNat

def entArgs (ws : List Word) : DWord := pair (ws.getD 2 0) (ws.getD 3 0)

def entTidx (ws : List Word) : Word := ws.getD 6 0

def entPrio (ws : List Word) : Nat := bits (entFlags ws) 0 3

def entDet (ws : List Word) : Bool := bit (entFlags ws) 3

def entOrd (ws : List Word) : Bool := bit (entFlags ws) 4

def entShd (ws : List Word) : Bool := bit (entFlags ws) 5

def entDep (ws : List Word) : Bool := bit (entFlags ws) 6

def entGw (ws : List Word) : Nat := bits (entFlags ws) 8 4

def entGh (ws : List Word) : Nat := bits (entFlags ws) 12 4

/-- A gang entry (R74). -/
def entGang (ws : List Word) : Bool := entGw ws != 0 && entGh ws != 0

/-- The eight words of a 32-byte image. -/
def entWords (bs : List Byte) : List Word :=
  (List.range 8).map fun i => BitVec.ofNat 32 (leNat ((bs.drop (4 * i)).take 4))

/-! ## Checks at enqueue (R62, R335) -/

/-- Entries that stand in a queue: neither parked nor held. -/
def queueCount (dv : Device) (ctx queue : Nat) : Nat :=
  (dv.entries.filter fun e => e.ctx == ctx && e.queue == queue && e.parked.isNone && !e.held).length

def queueFull (dv : Device) (c : Ctx) (queue : Nat) : Bool := decide (2 ^ c.qdl ≤ queueCount dv c.num queue)

/-- DONE_REC as R60 asks: nonzero, 16-aligned, translating to module memory with R and W. -/
def recordOk (m : Memory) (dv : Device) (c : Ctx) (record : DWord) : Bool :=
  record != 0 && record.toNat % 16 == 0 && match recordKey m dv c record with
    | .ok _ => true
    | .error _ => false

/-- The enqueue increment can be applied (R65). -/
def countable (m : Memory) (dv : Device) (c : Ctx) (record : DWord) : Bool :=
  recordOk m dv c record && match enqueueRow m c record dv (chainBound m dv) with
    | .ok _ => true
    | .error _ => false

/-- WHY of R335: the lowest reason that applies, 0 where none does. `rsv` says that Sa+2 holds reserved bits. -/
def rejectWhy (m : Memory) (dv : Device) (c : Ctx) (queue : Nat) (rsv : Bool) (ws : List Word) : Nat :=
  let f := entFlags ws
  let gw := entGw ws
  let gh := entGh ws
  if bits f 16 16 ≠ 0 ∨ bit f 7 then 1
  else if 12 < gw ∨ 8 < gh ∨ (gw = 0) ≠ (gh = 0) then 2
  else if entDet ws ≠ c.det then 3
  else if bit (entCode ws).toNat 0 ∨ (entShd ws ∧ bit (entCode ws).toNat 1) then 4
  else if !countable m dv c (recordOf ws) then 5
  else if ws.getD 7 0 ≠ 0 then 6
  else if entDep ws ∧ (entArgs ws).toNat % 8 ≠ 0 then 7
  else if rsv ∨ c.nq < queue then 8
  else if queueFull dv c queue then 9
  else 0

/-! ## Runnable entries (R63, R410) -/

/-- An entry that never runs: the failure row at once, and a kind-1 record (R410, R414). -/
def failEntry (m : Memory) (ctx : Nat) (ws : List Word) (cause : Cause) (dv : Device) : Device :=
  let d := endRow m ctx 0x3FF (recordOf ws) true noClock dv (chainBound m dv)
  logAppend m ctx { kind := 1, cause := causeCode cause, record := recordOf ws } d

/-- The counter of an entry: its key in this module's memory and the key domain, or the cause for which the entry fails
(R410). -/
def counterKey (m : Memory) (dv : Device) (c : Ctx) (ws : List Word) : Except Cause (Nat × Nat) :=
  match deviceSite m dv c (entArgs ws) .r with
  | .error e => .error e
  | .ok k => if keyKind k.1 = .own then .ok k else .error .page

/-- An entry that becomes runnable: its age starts (R411). -/
def runnableFrom (dv : Device) (e : Entry) : Entry :=
  { e with runnable := true, ageMs := 0, agedAt := dv.elapsed, watch := none, noted := false }

/-- Puts an entry into its queue: last, with its age restarted; runnable at once, or watched for (R410, R411). -/
def fileEntry (m : Memory) (c : Ctx) (e : Entry) (dv : Device) : Device :=
  let e := { e with ageMs := 0, since := dv.nextId, parked := none, held := false, pulled := none, watch := none, noted := false }
  let d := { dv with nextId := dv.nextId + 1, entries := dv.entries.filter (·.id != e.id) }
  if !entDep e.words then { d with entries := d.entries ++ [runnableFrom d e] }
  else match counterKey m d c e.words with
    | .error er => failEntry m c.num e.words er d
    | .ok k =>
      let n := natHome m d (keysFrom k.1 8)
      if n = 0 then { d with entries := d.entries ++ [runnableFrom d e] }
      else { d with entries := d.entries ++ [{ e with runnable := false, watch := some k.1, left := n }] }

/-- One entry is enqueued (R62, R65, R409): WHY, and the device. -/
def enqueueOne (m : Memory) (ctx queue : Nat) (rsv : Bool) (ws : List Word) (dv : Device) : Nat × Device :=
  match dv.ctx? ctx with
  | none => (8, dv)
  | some c =>
    let why := rejectWhy m dv c queue rsv ws
    if why ≠ 0 then (why, dv)
    else match enqueueRow m c (recordOf ws) dv (chainBound m dv) with
      | .error _ => (5, dv)
      | .ok d =>
        let e : Entry := { id := d.nextId, ctx := ctx, queue := queue, words := ws, runnable := false }
        (0, fileEntry m c e { d with nextId := d.nextId + 1 })

/-- The status of a posting (R335): entries accepted, the first rejected one and its WHY. -/
structure PostStatus where
  acc : Nat := 0
  first : Option (Nat × Nat) := none
deriving DecidableEq, Repr

def statusWord (s : PostStatus) : Word :=
  BitVec.ofNat 32 (s.acc + ((s.first.map (·.1)).getD 0xFF) * 2 ^ 8 + ((s.first.map (·.2)).getD 0) * 2 ^ 16)

/-- Images enter one by one (R335). -/
def enqueueAll (m : Memory) (ctx queue : Nat) (rsv : Bool) (images : List (List Word)) (i : Nat) (s : PostStatus)
    (dv : Device) : PostStatus × Device :=
  match images with
  | [] => (s, dv)
  | ws :: rest =>
    let (why, d) := enqueueOne m ctx queue rsv ws dv
    let s := if why = 0 then { s with acc := s.acc + 1 } else { s with first := s.first.or (some (i, why)) }
    enqueueAll m ctx queue rsv rest (i + 1) s d

/-- The images in a run of bytes. -/
def imagesOf (bs : List Byte) : Nat → List (List Word)
  | 0 => []
  | n + 1 => entWords (bs.take 32) :: imagesOf (bs.drop 32) n

/-! ## Futures (R67 to R70, R338) -/

/-- The state of a future; one that nothing has initialised is EMPTY with an empty list (log 25). -/
def futureOf (dv : Device) (key : Nat) : Future := (dv.futures.find? (·.key == key)).getD { key := key, full := false }

def setFuture (dv : Device) (f : Future) : Device :=
  { dv with futures := f :: dv.futures.filter (·.key != f.key) }

/-- A device RMW on a dword of this module's memory. -/
def addCounter (m : Memory) (k : Nat × Nat) (x : Int) (dv : Device) : Device :=
  let old := natHome m dv (keysFrom k.1 8)
  homeRmw k.2 (cellsOf (keysFrom k.1 8) (((old : Int) + x) % 2 ^ 64).toNat) dv

/-- The lowest parking slot of a queue manager that no parked entry holds; queue managers share the queues by parity. -/
def freeParking (dv : Device) (queue : Nat) : Nat :=
  let used := (dv.entries.filter fun e => e.parked.isSome && e.queue % 2 == queue % 2).map (·.pslot)
  ((List.range (used.length + 1)).find? fun n => !used.contains n).getD 0

/-- The link of a parked entry: the parking slot of the one it goes before, 0xFFFF_FFFF at the end of the list (R69). -/
def parkLink (dv : Device) (f : Future) : Word :=
  match f.parked.head?.bind dv.entry? with
  | some e => BitVec.ofNat 32 e.pslot
  | none => BitVec.allOnes 32

/-- An entry is parked at the head of a future's list, its dependence count raised (R69). -/
def parkEntry (m : Memory) (c : Ctx) (t : Task) (key : Nat) (dv : Device) : Device :=
  let f := futureOf dv key
  let e : Entry :=
    { id := t.entry, ctx := c.num, queue := t.queue, words := t.words.set 7 (parkLink dv f), runnable := false
      parked := some key, parkCount := if entDep t.words then 0 else 1, pslot := freeParking dv t.queue }
  let d := setFuture { dv with entries := dv.entries.filter (·.id != e.id) ++ [e] } { f with parked := e.id :: f.parked }
  if entDep t.words then
    match counterKey m d c t.words with
    | .ok k => addCounter m k 1 d
    | .error _ => d
  else d

/-- PARK after an entry has been parked holds what hardware left there (R60; log 16). -/
def parkWord (n : Nat) : Word :=
  BitVec.ofNat 32 (leNat ((List.range 4).map fun i => Config.anyByte n i))

/-- A released entry goes back to its queue, or onto the held list where the queue is full (R70, R338). -/
def reenqueue (m : Memory) (e : Entry) (dv : Device) : Device :=
  match dv.ctx? e.ctx with
  | none => dv
  | some c =>
    let (n, d) := dv.draw
    let e := { e with words := e.words.set 7 (parkWord n), parked := none, parkCount := 0 }
    if queueFull d c e.queue then d.setEntry { e with held := true }
    else fileEntry m c e d

/-- One parked entry is released (R70): its count falls; it is re-enqueued. -/
def releaseEntry (m : Memory) (dv : Device) (id : Nat) : Device :=
  match dv.entry? id with
  | none => dv
  | some e => match dv.ctx? e.ctx with
    | none => dv
    | some c =>
      let d := if entDep e.words then
          match counterKey m dv c e.words with
          | .ok k => addCounter m k (-1) dv
          | .error _ => dv
        else dv
      if entDep e.words ∨ e.parkCount ≤ 1 then reenqueue m e d
      else d.setEntry { e with parkCount := e.parkCount - 1 }

/-- FINIT at the home (R338): none where the dword's data is uncorrectable. -/
def finitAt (m : Memory) (key dom : Nat) (v : DWord) (dv : Device) : Option Device :=
  (applyAtomic m (keysFrom key 8) dom { op := .exch, ty := .int, size := 8, x := v.toNat } dv).map fun r =>
    setFuture r.2 { futureOf r.2 key with full := false }

/-- FFILL at the home: the value, FULL, and the release of the list (R70, R338). -/
def ffillAt (m : Memory) (key dom : Nat) (v : DWord) (dv : Device) : Option Device :=
  (applyAtomic m (keysFrom key 8) dom { op := .exch, ty := .int, size := 8, x := v.toNat } dv).map fun r =>
    let f := futureOf r.2 key
    f.parked.foldl (releaseEntry m) (setFuture r.2 { f with full := true, parked := [] })

end Sys2Proof.Machine
end

