-- ==== Sys2Proof/Machine/Atomic.lean ====
section
/-! DEFINITION. Atomic instructions: majors 0x28 to 0x2A (R303 to R322), with the reduction buffer and its overflow area
(R316 to R319). -/

namespace Sys2Proof.Machine

/-! ## The reduction buffer (R316, R317, R319) -/

/-- Reductions of a core in its buffer. -/
def buffered (d : Device) (core : Nat) : List Red := d.reds.filter fun r => r.core == core && !r.spilled && !r.atHome

/-- A context's entries in its overflow area (R317, R320). -/
def areaReds (d : Device) (ctx : Nat) : List Red := d.reds.filter fun r => r.ctx == ctx && r.spilled

/-- Room of a context's overflow area, in entries of 32 bytes (R317). -/
def areaRoom (d : Device) (ctx : Nat) : Nat := ((d.ctx? ctx).map (·.ovflSize)).getD 0 / 32 - (areaReds d ctx).length

/-- The first free entry of the area. -/
def freeCell (d : Device) (ctx : Nat) : Nat :=
  let used := (areaReds d ctx).map (·.cell)
  ((List.range (used.length + 1)).find? fun n => !used.contains n).getD 0

/-- The address of an entry of an area. -/
def cellVa (c : Ctx) (n : Nat) : DWord := c.ovfl + BitVec.ofNat 64 (32 * n)

/-- Forms of ordered reductions (R319): floating ADD into module memory of the module. -/
def orderedForm (op : AtomOp) (key : Nat) : Bool := op == .addF && keyKind key == .own

/-- A spill to the overflow area that fails (R379): the entry is lost and reported. -/
def spillFails (m : Memory) (r : Red) (cause : Cause) (dv : Device) : Device :=
  let d := { dv with reds := dv.reds.filter (·.id != r.id), mon := { dv.mon with saveFails := dv.mon.saveFails + 1 } }
  let d := logAppend m r.ctx { kind := 6, cause := causeCode cause, core := r.core, addr := r.va } d
  match r.record with
  | some (rec_, ctx) => markFailed m ctx r.core rec_ d
  | none => d

/-- A buffer entry goes to a free entry of the overflow area (R317), through the context's page tables (R379); where the area
is full it stays. -/
def spill (m : Memory) (r : Red) (dv : Device) : Device :=
  match dv.ctx? r.ctx with
  | none => dv
  | some c =>
    let n := freeCell dv c.num
    if areaRoom dv c.num = 0 then dv
    else match deviceSites m dv c (cellVa c n) .w 2 with
      | .error e => spillFails m r e dv
      | .ok ks =>
        if halfBad dv ks then spillFails m r .uncorrectable dv
        else { dv with reds := dv.reds.map fun x => if x.id = r.id then { x with spilled := true, cell := n } else x }

/-- The oldest entry of a full buffer is spilled. -/
def spillOldest (m : Memory) (core : Nat) (dv : Device) : Device :=
  match buffered dv core with
  | r :: rest => if 512 ≤ (r :: rest).length then spill m r dv else dv
  | [] => dv

/-- An entry that an arriving reduction can merge into (R316). -/
def mergesWith (r x : Red) : Bool :=
  r.core == x.core && !r.spilled && !r.atHome && r.order.isNone && x.order.isNone && r.keys == x.keys
    && r.atomic.op == x.atomic.op && r.atomic.ty == x.atomic.ty && r.atomic.size == x.atomic.size && r.record == x.record
    && (atomMerge r.atomic x.atomic).isSome

/-- The entry that a reduction merges into: the core's youngest on its bytes, where R316 lets the two merge, so that one
thread's requests keep their order (R310; log 72). -/
def mergeInto (d : Device) (x : Red) : Option Red :=
  match ((buffered d x.core).filter fun r => r.keys.any x.keys.contains).getLast? with
  | some r => if mergesWith r x then some r else none
  | none => none

/-- A reduction enters its core's buffer: merged, or as a new entry behind a spill (R316, R317). -/
def enterRed (m : Memory) (x : Red) (dv : Device) : Device :=
  match mergeInto dv x with
  | some r =>
    { dv with reds := dv.reds.map fun y =>
        if y.id = r.id then
          { y with atomic := (atomMerge y.atomic x.atomic).getD y.atomic, also := (x.gid, x.slot) :: y.also }
        else y }
  | none =>
    let d := spillOldest m x.core dv
    { d with reds := d.reds ++ [x] }

/-! ## Shapes (R304) -/

/-- Operand registers, destination registers, bytes of the location, base cost, registers read in each of the two read
cycles. -/
structure AtomShape where
  opnd : Nat
  dst : Nat
  size : Nat
  cost : Nat
  first : Nat
  second : Nat
deriving DecidableEq, Repr

/-- Forms with `n` operand registers, other than CAS. -/
def atomShape (n size : Nat) : AtomShape :=
  { opnd := n, dst := n, size := size, cost := if n = 1 then 1 else 2, first := if n = 1 then 1 else 0
    second := if n = 1 then 0 else n }

def casShape32 : AtomShape := { opnd := 2, dst := 1, size := 4, cost := 2, first := 0, second := 2 }

def casShape64 : AtomShape := { opnd := 4, dst := 2, size := 8, cost := 2, first := 0, second := 4 }

def casShape128 : AtomShape := { opnd := 8, dst := 4, size := 16, cost := 2, first := 4, second := 4 }

/-- The operand positions of an atomic. -/
def atomPos (o : FmtT) (s : AtomShape) : List Pos :=
  [.vec (.v o.addr) 2 2 false 0 false, .vec (.v o.opnd) s.first s.opnd false 0 false,
   .vec (.v (o.opnd + BitVec.ofNat 6 s.first)) s.second (if s.first = 0 then s.opnd else 1) false 1 false,
   .dst o.d s.dst true false]

/-- The operands of a thread: the compare value stands in the low registers (R304). -/
def atomOf (op : AtomOp) (ty : AtomTy) (s : AtomShape) (ws : List Word) : Atomic :=
  let v := wordsNat ws
  if op = .cas then
    { op := op, ty := ty, size := s.size, x := v / 2 ^ (8 * s.size), cmp := v % 2 ^ (8 * s.size) }
  else { op := op, ty := ty, size := s.size, x := v % 2 ^ (8 * s.size) }

/-- Operations that the host window accepts (R308). -/
def hostAccepts (a : Atomic) : Bool :=
  (a.op == .addI || a.op == .exch || a.op == .cas) && (a.size == 4 || a.size == 8)

/-! ## Issue (R306, R311, R313) -/

/-- The bytes an atomic's address names, as far as they are known before the pass. -/
def atomKeys (m : Memory) (w : Work) (va : DWord) (size : Nat) : List Nat :=
  match site w.g va size 3 with
  | .ok (.scratch core) => scratchKeys w.d w.g core va size
  | .ok .mem => match memKey m w va .rw 3 with
    | (.ok (k, _), _) => keysFrom k size
    | _ => []
  | .error _ => []

/-- The entries of a core that `n` new ones would spill have no room: the context whose area is full. -/
def fullArea (d : Device) (core n : Nat) : Option Nat :=
  let l := buffered d core
  let out := l.take (l.length + n - 512)
  (out.map (·.ctx)).find? fun c => decide (areaRoom d c < (out.filter (·.ctx == c)).length)

/-- A reduction finds no room (R317): the buffer and the areas of the entries it would spill could not take every active
thread's. The condition is logged once. -/
def overflowGate (m : Memory) (n : Nat) (w : Work) : Option Gate :=
  match (fullArea w.d w.g.core n).bind w.d.ctx? with
  | none => none
  | some c =>
    if c.ovflLogged then some { w := w }
    else
      let d := logAppend m c.num { kind := 6, core := w.g.core } w.d
      some { w := { w with d := match d.ctx? c.num with
        | some c => d.setCtx { c with ovflLogged := true }
        | none => d } }

/-- The waits of an atomic: its start (R76), its translation (R202), the holds of R313 and R318, room (R317). Inside an
idempotent region only the start is waited for: the form faults (R311). -/
def atomGate (m : Memory) (i : PassInfo) (red : Bool) (va : DWord) (size : Nat) (w : Work) : Option Gate :=
  match startGate va w with
  | some q => some q
  | none =>
    if w.g.region.isSome then none
    else match transGate va size w with
      | some q => some q
      | none =>
        let keys := atomKeys m w va size
        if heldByAtomic w.d w.g.core keys w.d.nextId then some { w := w }
        else if !red && (heldByRed w.d w.g.core keys w.d.nextId || pathHolds w.d w.g.core keys) then some { w := w }
        else if red then overflowGate m i.chain.length w else none

/-- The key of an ordered reduction, where this one is ordered (R319): p counts the group's earlier passes of them. -/
def orderOf (i : PassInfo) (t : Nat) (op : AtomOp) (key : Nat) (w : Work) : Option (Word × Nat × Nat × Nat) :=
  match workTask w.d w.g with
  | none => none
  | some k =>
    if entOrd k.words && orderedForm op key then
      some (entTidx k.words, if w.g.partner.isSome then 1 else 0, i.rd.g.ordPasses, t)
    else none

/-- The request, or the entry of the reduction buffer, of one thread whose checks have passed. -/
def atomIssue (m : Memory) (i : PassInfo) (t : Nat) (o : FmtT) (s : AtomShape) (a : Atomic) (va : DWord)
    (keys : List Nat) (dom : Nat) (w : Work) : Work :=
  match o.d with
  | .v r =>
    let q := newReq i t (.atomic a) va s.size w
    let q := { q with keys := keys, dom := dom, dst := .v r s.dst, st := if keys = [] then .served else .sent }
    sendReq q { w with d := dropReplica (dropSectors w.d w.g.core keys) w.g.core (keys.headD 0) }
  | _ =>
    if keys = [] then w
    else
      let ord := orderOf i t a.op (keys.headD 0) w
      let x : Red :=
        { id := w.d.nextId, core := w.g.core, ctx := w.g.ctx
          record := (workTask w.d w.g).map fun k => (recordOf k.words, w.g.ctx)
          keys := keys, atomic := a, dom := dom, at_ := w.d.tickOf w.g.core / 60, va := va, gid := w.g.gid
          order := ord, slot := t, pc := codeOff i.base i.pc }
      let d := dropSectors { w.d with nextId := w.d.nextId + 1 } w.g.core keys
      { d := enterRed m x (dropReplica d w.g.core (keys.headD 0))
        g := if ord.isSome then { w.g with ordPasses := i.rd.g.ordPasses + 1 } else w.g }

/-- The checks of R311 in their order, then the issue. What fails after step 1 has committed the task. -/
def atomLane (m : Memory) (i : PassInfo) (t : Nat) (o : FmtT) (s : AtomShape) (a : Atomic) (va : DWord) (w : Work) :
    LaneOut :=
  if w.g.region.isSome then laneRaise w { cause := .idemViolation }
  else match site w.g va s.size 3 with
    | .error r => laneRaise w { r with commits := true }
    | .ok (.scratch core) => laneOk (atomIssue m i t o s a va (scratchKeys w.d w.g core va s.size) 0 w) none
    | .ok .mem => match memKey m w va .rw 3 with
      | (.error r, w) => laneRaise w { r with commits := true }
      | (.ok (k, l), w) =>
        if keyKind k = .host ∧ !hostAccepts a then
          laneRaise w { cause := .atomType, acc := 3, addr := va, commits := true }
        else laneOk (atomIssue m i t o s a va (keysFrom k s.size) l.dom w) none

/-- The address of an atomic. -/
def atomAddr (rd : Rd) (t : Nat) (o : FmtT) : DWord := pair (readV rd t o.addr) (readV rd t (o.addr + 1))

def opAtom (o : FmtT) (s : AtomShape) (op : AtomOp) (ty : AtomTy) : Op :=
  { guard := o.g, pos := atomPos o s, cost := s.cost, void := true, commits := true, arrives := true
    gate := fun m i t w => atomGate m i (o.d == .sup) (atomAddr i.rd t o) s.size w
    lane := fun m i t w =>
      atomLane m i t o s (atomOf op ty s (srcWords i.rd t (.v o.opnd) s.opnd)) (atomAddr i.rd t o) w }

/-! ## The forms (R303) -/

def opAtom32AddI32 (o : FmtT) : Op := opAtom o (atomShape 1 4) .addI .int
def opAtom32AddF32 (o : FmtT) : Op := opAtom o (atomShape 1 4) .addF .f32
def opAtom32MinI32 (o : FmtT) : Op := opAtom o (atomShape 1 4) .minS .int
def opAtom32MinN32 (o : FmtT) : Op := opAtom o (atomShape 1 4) .minU .int
def opAtom32MinF32 (o : FmtT) : Op := opAtom o (atomShape 1 4) .minF .f32
def opAtom32MaxI32 (o : FmtT) : Op := opAtom o (atomShape 1 4) .maxS .int
def opAtom32MaxN32 (o : FmtT) : Op := opAtom o (atomShape 1 4) .maxU .int
def opAtom32MaxF32 (o : FmtT) : Op := opAtom o (atomShape 1 4) .maxF .f32
def opAtom32AndB32 (o : FmtT) : Op := opAtom o (atomShape 1 4) .and .int
def opAtom32OrB32 (o : FmtT) : Op := opAtom o (atomShape 1 4) .or .int
def opAtom32XorB32 (o : FmtT) : Op := opAtom o (atomShape 1 4) .xor .int
def opAtom32ExchB32 (o : FmtT) : Op := opAtom o (atomShape 1 4) .exch .int
def opAtom32CasB32 (o : FmtT) : Op := opAtom o casShape32 .cas .int

def opAtom64AddI64 (o : FmtT) : Op := opAtom o (atomShape 2 8) .addI .int
def opAtom64AddF64 (o : FmtT) : Op := opAtom o (atomShape 2 8) .addF .f64
def opAtom64MinI64 (o : FmtT) : Op := opAtom o (atomShape 2 8) .minS .int
def opAtom64MinN64 (o : FmtT) : Op := opAtom o (atomShape 2 8) .minU .int
def opAtom64MinF64 (o : FmtT) : Op := opAtom o (atomShape 2 8) .minF .f64
def opAtom64MaxI64 (o : FmtT) : Op := opAtom o (atomShape 2 8) .maxS .int
def opAtom64MaxN64 (o : FmtT) : Op := opAtom o (atomShape 2 8) .maxU .int
def opAtom64MaxF64 (o : FmtT) : Op := opAtom o (atomShape 2 8) .maxF .f64
def opAtom64AndB64 (o : FmtT) : Op := opAtom o (atomShape 2 8) .and .int
def opAtom64OrB64 (o : FmtT) : Op := opAtom o (atomShape 2 8) .or .int
def opAtom64XorB64 (o : FmtT) : Op := opAtom o (atomShape 2 8) .xor .int
def opAtom64ExchB64 (o : FmtT) : Op := opAtom o (atomShape 2 8) .exch .int
def opAtom64CasB64 (o : FmtT) : Op := opAtom o casShape64 .cas .int

def opAtomxAddBf16 (o : FmtT) : Op := opAtom o (atomShape 1 2) .addF .bf16
def opAtomxMinBf16 (o : FmtT) : Op := opAtom o (atomShape 1 2) .minF .bf16
def opAtomxMaxBf16 (o : FmtT) : Op := opAtom o (atomShape 1 2) .maxF .bf16
def opAtomxAddBf16x2 (o : FmtT) : Op := opAtom o (atomShape 1 4) .addF .bf16x2
def opAtomxMinBf16x2 (o : FmtT) : Op := opAtom o (atomShape 1 4) .minF .bf16x2
def opAtomxMaxBf16x2 (o : FmtT) : Op := opAtom o (atomShape 1 4) .maxF .bf16x2
def opAtomxAddF16x2 (o : FmtT) : Op := opAtom o (atomShape 1 4) .addF .f16x2
def opAtomxMinF16x2 (o : FmtT) : Op := opAtom o (atomShape 1 4) .minF .f16x2
def opAtomxMaxF16x2 (o : FmtT) : Op := opAtom o (atomShape 1 4) .maxF .f16x2
def opAtomxExchB128 (o : FmtT) : Op := opAtom o (atomShape 4 16) .exch .int
def opAtomxCasB128 (o : FmtT) : Op := opAtom o casShape128 .cas .int

end Sys2Proof.Machine
end

