-- ==== Sys2Proof/Machine/Memx.lean ====
section
/-! DEFINITION. The MEMX family but MCRD (R244 to R247, R251, R252). -/

namespace Sys2Proof.Machine

/-- The line of a key (128 bytes). -/
def lineOf (key : Nat) : Nat := key / 128

/-- What PIN, UNPIN, CFLUSH and CINV act on: nothing for a scratchpad or host-window address, else a line (R245, R246). -/
def lineKey (m : Memory) (va : DWord) (w : Work) : Except Raise (Option (Nat × Leaf)) × Work :=
  match vaClass va with
  | .nonCanonical => (.error { cause := .page, acc := 1, addr := va }, w)
  | .scratch => (.ok none, w)
  | .canonical => match memKey m w va .r 1 with
    | (.error r, w) => (.error r, w)
    | (.ok (k, l), w) => (.ok (if keyKind k = .host then none else some (lineOf k * 128, l)), w)

/-- The wait for the translation of a line's address; a scratchpad address waits for nothing. -/
def lineGate (va : DWord) (w : Work) : Option Gate :=
  if vaClass va = .canonical then transGate va 1 w else none

/-- Positions of a MEMX instruction whose one field is its address. -/
def memxPos (o : FmtNA) : List Pos := [.src o.a 2 o.ka 0, .no o.k1]

/-- An instruction on the line of an address. -/
def opLine (o : FmtNA) (f : Nat → Option (Nat × Leaf) → DWord → Work → Work) : Op :=
  { guard := o.g, pos := memxPos o, void := true, commits := true
    gate := fun _ i t w => lineGate (src64 i.rd t o.a) w
    lane := fun m i t w =>
      let va := src64 i.rd t o.a
      match lineKey m va w with
      | (.error r, w) => laneRaise w r
      | (.ok k, w) => laneOk (f t k va w) none }

/-- PIN: the outcome is written when the slice answers (R245). -/
def opPin (o : FmtN) : Op :=
  { guard := o.g, pos := [.src o.a 2 o.ka 0, .dst o.d 1 true false, .no o.k1], void := true, commits := true, arrives := true
    gate := fun _ i t w => lineGate (src64 i.rd t o.a) w
    lane := fun m i t w =>
      let va := src64 i.rd t o.a
      match lineKey m va w with
      | (.error r, w) => laneRaise w r
      | (.ok k, w) =>
        let r := newReq i t .pin va 4 w
        laneOk (sendReq { r with keys := (k.map (·.1)).toList, dst := loadDst o.d 1 r.id } w) none }

/-- UNPIN releases the context's pin (R211, R245). -/
def opUnpin (o : FmtNA) : Op :=
  opLine o fun _ k _ w => match k with
    | some (key, _) => { w with d := { w.d with pins := w.d.pins.filter (· != (w.g.ctx, lineOf key)) } }
    | none => w

/-- CFLUSH counts as a store to its line for fences, and changes no byte (R246). -/
def opCflush (o : FmtNA) : Op :=
  opLine o fun t k va w => match k with
    | some (key, l) => queueWrite t key [] l.dom va w
    | none => w

/-- CINV discards the line from the private cache and the nearest slice (R246). -/
def opCinv (o : FmtNA) : Op :=
  opLine o fun _ k _ w => match k with
    | some (key, _) =>
      { w with d := dropReplica (dropSectors w.d w.g.core ((List.range 4).map fun i => lineOf key * 128 + 32 * i)) w.g.core key }
    | none => w

/-- The keys of an access at every copy of a replica region; the one key elsewhere (R215, R247). -/
def copyKeys (m : Memory) (d : Device) (c : Ctx) (va : DWord) (l : Leaf) : Except Cause (List Nat) :=
  let pa := l.pa + va.toNat % l.size
  match replicaNames m d c va with
  | none => (physKey d pa l.dom .w).map fun k => [k]
  | some names =>
    if !bit names (pa / 2 ^ 33 % 64) then .error .page
    else ((List.range 64).filter (bit names ·)).foldr (fun k acc =>
      match acc, physKey d (pa - pa / 2 ^ 33 % 64 * 2 ^ 33 + k * 2 ^ 33) l.dom .w with
      | .error e, _ => .error e
      | _, .error e => .error e
      | .ok ks, .ok key => .ok (key :: ks)) (.ok [])

/-- MCST: a store into every copy (R247). -/
def storeCopies (m : Memory) (t : Nat) (va : DWord) (size v : Nat) (w : Work) : LaneOut :=
  match site w.g va size 2 with
  | .ok .mem =>
    match memKey m w va .w 2, w.d.ctx? w.g.ctx with
    | (.error r, w), _ => laneRaise w r
    | (.ok (_, l), w), some c => match copyKeys m w.d c va l with
      | .error e => laneRaise w { cause := e, acc := 2, addr := va }
      | .ok ks => laneOk (ks.foldl (fun w k => queueWrite t k (cellsOf (keysFrom k size) v) l.dom va w) w) none
    | (.ok _, w), none => laneOk w none
  | _ => issueStore m t va size v w

def opMcst (o : FmtNB) : Op :=
  let n := if o.k1 then 2 else 1
  { guard := o.g, pos := [.src o.a 2 o.ka 0, .src o.b n false (n - 1)], cost := n, void := true, commits := true
    gate := fun _ i t w => transGate (src64 i.rd t o.a) (4 * n) w
    lane := fun m i t w =>
      let v := if o.k1 then (src64 i.rd t o.b).toNat else (src32 i.rd t o.b).toNat
      storeCopies m t (src64 i.rd t o.a) (4 * n) v w }

/-! ## Messages (R251, R252) -/

/-- The key of a ring header in a core's region of the group's context, at rotation 0; none where Z = 0. -/
def headerKey (d : Device) (g : Group) (core : Nat) (va : DWord) : Option Nat :=
  (d.ctx? g.ctx).bind fun c => regionKey c core (va.toNat % 2 ^ 32) 16 0

/-- MSEND: cut while the core's 32 outbound messages leave too little room for the active threads (R251). -/
def opMsend (o : FmtNB) : Op :=
  let n := if o.k1 then 8 else 4
  { guard := o.g, pos := [.src o.a 2 o.ka 0, .vec o.b n n false 1 false], cost := 2, void := true, commits := true
    gate := fun _ i t w =>
      if 32 < (w.d.msgs.filter (·.core == w.g.core)).length + i.chain.length then some { w := w }
      else startGate (src64 i.rd t o.a) w
    lane := fun _ i t w =>
      let va := src64 i.rd t o.a
      if w.g.region.isSome then laneRaise w { cause := .idemViolation }
      else if vaClass va ≠ .scratch then laneRaise w { cause := .illegalOperand }
      else match site w.g va 16 2 with
        | .error r => laneRaise w r
        | .ok .mem => laneOk w none
        | .ok (.scratch core) => match headerKey w.d w.g core va with
          | none => laneOk w none
          | some key =>
            let msg : Msg :=
              { id := w.d.nextId, ctx := w.g.ctx, from_ := w.g.core, slot := t, gid := w.g.gid, core := w.g.core, key := key
                bytes := wordBytes (4 * n) (wordsNat (srcWords i.rd t o.b n)), pc := codeOff i.base i.pc }
            laneOk { w with d := { w.d with msgs := w.d.msgs ++ [msg], nextId := w.d.nextId + 1 } } none }

/-- A thread waits (R39). -/
def waitFor (t : Nat) (wt : Wait) (w : Work) : Work :=
  { w with g := onThread w.g t fun th => { th with st := .wait wt } }

/-- A ring holds messages: TAIL and HEAD differ (R220, R252). -/
def ringFull (m : Memory) (d : Device) (core key : Nat) : Bool :=
  natAt m d core d.nextId (keysFrom key 4) != natAt m d core d.nextId (keysFrom (key + 4) 4)

/-- MWAIT: a ring header of the executing core (R252). An address outside the scratchpad window raises ILLEGAL_OPERAND
(log 23). -/
def opMwait (o : FmtNA) : Op :=
  { guard := o.g, pos := memxPos o, void := true, commits := true
    lane := fun m i t w =>
      let va := src64 i.rd t o.a
      match vaClass va with
      | .nonCanonical => laneRaise w { cause := .page, acc := 1, addr := va }
      | .canonical => laneRaise w { cause := .illegalOperand }
      | .scratch =>
        if vaDx va ≠ 0 ∨ vaDy va ≠ 0 then laneRaise w { cause := .place, acc := 1, addr := va }
        else match headerKey w.d w.g w.g.core va with
          | none => laneOk (waitFor t (.ring 0) w) none
          | some key => if ringFull m w.d w.g.core key then laneOk w none else laneOk (waitFor t (.ring key) w) none }

end Sys2Proof.Machine
end

