-- ==== Sys2Proof/Machine/Sync.lean ====
section
/-! DEFINITION. Major 0x2C but FENCE: barriers (R327 to R329), byte-count barrier objects (R331 to R333), QTAKE, QPOST and
TASKEND (R334 to R336), futures (R337 to R339). -/

namespace Sys2Proof.Machine

/-! ## Barriers -/

/-- The unit of a scope in which a core's barriers count (R32, R327); PKG and POD have one each in a module. -/
def barUnit (sc : Scope) (core : Nat) : Nat :=
  match sc with
  | .thread | .group | .core => core
  | .quad => quadOf core
  | .clus => clusOf core
  | .die => dieOf core
  | .pkg | .pod => 0

def barMatch (b : Barrier) (sc : Scope) (unit : Nat) (k : BitVec 4) : Bool := b.sc == sc && b.unit == unit && b.k == k

def barOf (c : Ctx) (sc : Scope) (unit : Nat) (k : BitVec 4) : Barrier :=
  (c.bars.find? (barMatch · sc unit k)).getD { sc := sc, unit := unit, k := k, count := 0, n := 0 }

def putBar (c : Ctx) (b : Barrier) : Ctx :=
  { c with bars := b :: c.bars.filter fun x => !barMatch x b.sc b.unit b.k }

/-- A generation completes for a group that arrived in it: its pending bit clears, its broken bit is set where the
generation was broken (R328), and a wait for it ends (R329). -/
def barClear (b : Barrier) (g : Group) : Group :=
  if b.members.contains g.gid then
    { g with
      barPend := g.barPend.filter (· != (b.sc, b.k))
      barBroken := if b.broken then (b.sc, b.k) :: g.barBroken.filter (· != (b.sc, b.k)) else g.barBroken
      hold := if g.hold = .barrier b.sc b.k then .none else g.hold }
  else g

/-- The releases of a generation reach the die of a group that arrived in it, so that an acquire there waits for them
(R276, R329). -/
def barMerge (b : Barrier) (dv : Device) (gid : Nat) : Device :=
  match dv.group? gid with
  | some g => mergeClock dv (dieOf g.core) b.clock
  | none => dv

/-- The generation of a barrier completes (R328, R329). -/
def barComplete (b : Barrier) (c : Ctx) (dv : Device) : Device :=
  let d := b.members.foldl (barMerge b) { dv with groups := dv.groups.map (barClear b) }
  d.setCtx (putBar c { b with count := 0, gen := b.gen + 1, broken := false, members := [], clock := noClock })

/-- An arrival at the network (R328). -/
def barArrive (c : Ctx) (sc : Scope) (k : BitVec 4) (n : Nat) (g : Group) (dv : Device) : Device :=
  let b := barOf c sc (barUnit sc g.core) k
  let b := if b.count = 0 then { b with n := n } else if n ≠ b.n then { b with broken := true } else b
  let b := { b with count := b.count + 1, members := g.gid :: b.members, clock := b.clock.join (clockOf dv (dieOf g.core)) }
  if b.count = b.n ∨ b.broken then barComplete b c dv else dv.setCtx (putBar c b)

def opBarArrive (o : FmtBarA) : Op :=
  { uniform := true, void := true, commits := true, pos := [.usrc o.a 1 1 true, .no o.k1, .no o.ka]
    gate := fun _ i _ w =>
      let k : BitVec 4 := (usrc32 i.rd.g o.a).truncate 4
      if w.g.region.isSome then none
      else if w.g.barPend.contains (o.sc, k) then some { w := w, hard := true }
      else if w.g.barBroken.contains (o.sc, k) then none
      else releaseAll o.sc w
    lane := fun _ i _ w =>
      let x := usrc32 i.rd.g o.a
      let k : BitVec 4 := x.truncate 4
      if w.g.region.isSome then laneRaise w { cause := .idemViolation }
      else if bits x.toNat 4 4 ≠ 0 ∨ x.toNat / 2 ^ 8 = 0 then laneRaise w { cause := .illegalOperand }
      else if w.g.barBroken.contains (o.sc, k) then
        laneRaise { w with g := { w.g with barBroken := w.g.barBroken.filter (· != (o.sc, k)) } }
          { cause := .barrierBroken }
      else
        let at_ := (o.sc, k, codeOff i.base i.pc)
        let w := { w with d := releaseAct w.g.core o.sc w.d
                          g := { w.g with barPend := (o.sc, k) :: w.g.barPend
                                          barPc := at_ :: w.g.barPc.filter fun x => !(x.1 == o.sc && x.2.1 == k) } }
        match w.d.ctx? w.g.ctx with
        | some c => laneOk (w.on (barArrive c o.sc k (x.toNat / 2 ^ 8) w.g)) none
        | none => laneOk w none }

/-- BAR.WAIT: a group whose pending bit is set is held before it (R41, R329). -/
def opBarWait (o : FmtBarW) : Op :=
  { uniform := true, void := true, ends := true, pos := [.no o.k1, .no o.ka]
    gate := fun _ _ _ w =>
      if w.g.barPend.contains (o.sc, o.k) then
        some { w := { w with g := { w.g with hold := .barrier o.sc o.k } }, hard := true }
      else if w.g.barBroken.contains (o.sc, o.k) then none
      else if slots.all fun t => acquireReady w.d w.g t o.sc then none
      else some { w := w }
    lane := fun _ _ _ w =>
      if w.g.barBroken.contains (o.sc, o.k) then
        laneRaise { w with g := { w.g with barBroken := w.g.barBroken.filter (· != (o.sc, o.k)) } }
          { cause := .barrierBroken }
      else laneOk { w with d := acquireAct w.g.core o.sc w.d } none }

/-! ## Byte-count barrier objects -/

/-- The object at an offset of a core's region, at rotation 0 (R331); none where Z = 0. -/
def objectKey (d : Device) (ctx core off : Nat) : Option Nat :=
  (d.ctx? ctx).bind fun c => regionKey c core off 8 0

def countOf (m : Memory) (d : Device) (key : Nat) : Nat := natHome m d (keysFrom key 8)

/-- Threads of a resident group that wait on an object and whose target it has reached become RUN; those of another are looked
at when it is restored (R333). -/
def wakeObject (key count : Nat) (g : Group) : Group :=
  if g.place.isNone then g
  else onThreads g fun th => match th.st with
    | .wait (.object k target) => if k = key ∧ target.toNat ≤ count then { th with st := .run } else th
    | _ => th

/-- An update of an object, one step of its home order. -/
def updateObject (m : Memory) (key : Nat) (f : Nat → Nat) (d : Device) : Device :=
  let n := f (countOf m d key) % 2 ^ 64
  let d := pokeCells d (cellsOf (keysFrom key 8) n)
  { d with groups := d.groups.map (wakeObject key n) }

/-- An update of an object waits for the core's earlier atomics, reductions and queued stores on its bytes (R310, R313,
R318). -/
def objectGate (core off : Nat) (w : Work) : Option Gate :=
  match objectKey w.d w.g.ctx core off with
  | none => none
  | some key =>
    let keys := keysFrom key 8
    if held w.d w.g.core keys w.d.nextId || pathHolds w.d w.g.core keys then some { w := w } else none

/-- BOSET, at R325's cost (log 90). -/
def opBoset (o : FmtNB) : Op :=
  { guard := o.g, void := true, commits := true, pos := [.src o.a 1 o.ka 0, .src o.b 2 false 0, .no o.k1]
    gate := fun _ i t w => if w.g.region.isSome then none else objectGate w.g.core (src32 i.rd t o.a).toNat w
    lane := fun m i t w =>
      if w.g.region.isSome then laneRaise w { cause := .idemViolation }
      else match objectKey w.d w.g.ctx w.g.core (src32 i.rd t o.a).toNat with
        | none => laneOk w none
        | some key => laneOk (w.on (updateObject m key fun _ => (src64 i.rd t o.b).toNat)) none }

def opBoadd (o : FmtNB) : Op :=
  { guard := o.g, void := true, commits := true, pos := [.src o.a 2 o.ka 0, .src o.b 1 false 0]
    gate := fun _ i t w =>
      let va := src64 i.rd t o.a
      match startGate va w with
      | some q => some q
      | none =>
        if w.g.region.isSome then none
        else match site w.g va 8 2 with
          | .ok (.scratch core) =>
            (if o.k1 then releaseGate .clus t w else none).or (objectGate core (va.toNat % 2 ^ 32) w)
          | _ => none
    lane := fun m i t w =>
      let va := src64 i.rd t o.a
      if w.g.region.isSome then laneRaise w { cause := .idemViolation }
      else if vaClass va ≠ .scratch then laneRaise w { cause := .illegalOperand }
      else match site w.g va 8 2 with
        | .error r => laneRaise w r
        | .ok .mem => laneOk w none
        | .ok (.scratch core) =>
          let w := if o.k1 then { w with d := releaseAct w.g.core .clus w.d } else w
          match objectKey w.d w.g.ctx core (va.toNat % 2 ^ 32) with
          | none => laneOk w none
          | some key => laneOk (w.on (updateObject m key fun n => n + (src32 i.rd t o.b).toNat)) none }

/-- BOWAIT: the acquire at CORE scope of a thread that goes on waits for its loads before the comparison (R333; log 26); its cost is
R325's (log 90). -/
def opBowait (o : FmtNB) : Op :=
  { guard := o.g, void := true, pos := [.src o.a 1 o.ka 0, .src o.b 2 false 0, .no o.k1]
    gate := fun _ _ t w => acquireGate .core t w
    lane := fun m i t w =>
      let target := src64 i.rd t o.b
      match objectKey w.d w.g.ctx w.g.core (src32 i.rd t o.a).toNat with
      | none => if target = 0 then laneOk w none else laneOk (waitFor t (.object 0 target) w) none
      | some key =>
        if target.toNat ≤ countOf m w.d key then laneOk w none else laneOk (waitFor t (.object key target) w) none }

/-! ## Tasks (R334 to R336) -/

/-- Where QTAKE raises ILLEGAL_INSTR (R334). -/
def qtakeBad (i : PassInfo) (g : Group) : Bool :=
  g.task.isSome || g.partner.isSome || g.cond == .handler
    || slots.any fun t => isRun (thread g t) && (thread g t).pc != i.pc

def opQtake (o : FmtUD) : Op :=
  { uniform := true, void := true, ends := true, pos := [.udst o.d 8 8, .no o.k1, .no o.ka]
    gate := fun _ i _ w =>
      if !qtakeBad i w.g && slots.any (fun t => match (thread w.g t).st with
        | .wait _ => true
        | _ => false) then some { w := w, hard := true } else none
    lane := fun _ i _ w =>
      if qtakeBad i w.g then laneRaise w { cause := .illegalInstr }
      else match o.d with
        | .s r =>
          laneOk { w with g := { w.g with cond := .idle, hold := .qtake r, dispatch := i.pc, idleAt := w.d.nextId, asked := w.d.nextId }
                          d := { w.d with nextId := w.d.nextId + 1 } } none
        | .rsv _ => laneOk w none }

/-- The pages that a run of bytes touches, by an address in each. -/
def pagesOf (va : DWord) (n : Nat) : List DWord :=
  (List.range (n / 4096 + 2)).filterMap fun i =>
    let a := if i = 0 then va.toNat else (va.toNat / 4096 + i) * 4096
    if a < va.toNat + n then some (BitVec.ofNat 64 a) else none

/-- The translated pages of a run of bytes are waited for (R202). -/
def rangeGate (ps : List DWord) (w : Work) : Option Gate :=
  match ps with
  | [] => none
  | p :: rest => match transGate p 1 w with
    | some q => some { w := ((rangeGate rest q.w).map (·.w)).getD q.w, hard := q.hard }
    | none => rangeGate rest w

/-- The homes of a run of dwords serve its reads, and no earlier access of the core holds them (R281, R313, R318, R225). -/
def runReady (m : Memory) (va : DWord) (n : Nat) (w : Work) : Bool :=
  match n with
  | 0 => true
  | n + 1 =>
    let here := fun (keys : List Nat) => !held w.d w.g.core keys w.d.nextId && !loadAhead w.d w.g.core keys w.d.nextId
      && keys.all fun k => readReady w.d w.g.core k (clockOf w.d (dieOf w.g.core))
    (match site w.g va 8 1 with
      | .ok (.scratch core) => here (scratchKeys w.d w.g core va 8)
      | .ok .mem => match memKey m w va .r 1 with
        | (.ok (k, _), _) => here (keysFrom k 8)
        | _ => true
      | .error _ => true)
    && runReady m (va + 8) n w

/-- The dwords of a run of bytes, read as loads of this core would read them; an error raises (R335). -/
def readRun (m : Memory) (va : DWord) (n : Nat) (w : Work) : Except Raise (List Byte) × Work :=
  match n with
  | 0 => (.ok [], w)
  | n + 1 => match site w.g va 8 1 with
    | .error r => (.error r, w)
    | .ok (.scratch core) =>
      let keys := scratchKeys w.d w.g core va 8
      let bs := if keys = [] then List.replicate 8 0 else keys.map (homeByte m w.d w.g.core w.d.nextId)
      let (r, w) := readRun m (va + 8) n w
      (r.map (bs ++ ·), w)
    | .ok .mem => match memKey m w va .r 1 with
      | (.error r, w) => (.error r, w)
      | (.ok (k, l), w) =>
        if keyKind k = .host then (.error { cause := .illegalOperand }, w)
        else if badSector w.d k l.dom then (.error { cause := .uncorrectable, acc := 1, addr := va }, w)
        else
          let bs := (keysFrom k 8).map (homeByte m w.d w.g.core w.d.nextId)
          let d := noteSeen w.g.core (k / 128) (meetHome w.d (dieOf w.g.core) (homeSource k))
          let (r, w) := readRun m (va + 8) n { w with d := d }
          (r.map (bs ++ ·), w)

/-- The address and count of a QPOST descriptor. -/
def qpostVa (ws : List Word) : DWord := pair (ws.getD 0 0) (ws.getD 1 0)

def qpostN (ws : List Word) : Nat := (ws.getD 3 0).toNat

/-- The descriptor's own faults (R335). -/
def qpostFault (ws : List Word) : Option Raise :=
  if qpostN ws = 0 ∨ 128 < qpostN ws ∨ (qpostVa ws).toNat % 8 ≠ 0 then some { cause := .illegalOperand }
  else if vaClass (qpostVa ws) = .nonCanonical then some { cause := .page, acc := 1, addr := qpostVa ws }
  else none

/-- Posts the images of a request: enqueued, with the status word to deliver (R335). -/
def postImages (m : Memory) (ctx : Nat) (q : Word) (images : List Byte) (dv : Device) : Word × Device :=
  let (s, d) := enqueueAll m ctx (q.toNat % 256) (q.toNat / 256 != 0) (imagesOf images (images.length / 32)) 0 {} dv
  (statusWord s, d)

/-- QPOST: a release, the images read, the entries enqueued, the answer on its way to S(D); in a deterministic context
the enqueue waits for the end of the turn (R425). -/
def opQpost (o : FmtU) : Op :=
  { uniform := true, void := true, commits := true, arrives := true
    pos := [.usrc o.a 4 4 false, .udst o.d 1 1, .no o.k1, .no o.ka]
    gate := fun m i _ w =>
      let ws := usrcWords i.rd.g o.a 4
      if (qpostFault ws).isSome then none
      else match startGate (qpostVa ws) w with
        | some q => some q
        | none =>
          if w.g.region.isSome then none
          else match (rangeGate (pagesOf (qpostVa ws) (32 * qpostN ws)) w).or (releaseAll .pkg w) with
            | some q => some q
            | none => if runReady m (qpostVa ws) (4 * qpostN ws) w then none else some { w := w }
    lane := fun m i t w =>
      let ws := usrcWords i.rd.g o.a 4
      if w.g.region.isSome then laneRaise w { cause := .idemViolation }
      else match qpostFault ws with
        | some r => laneRaise w r
        | none => match readRun m (qpostVa ws) (4 * qpostN ws) w with
          | (.error r, w) => laneRaise w r
          | (.ok bs, w) =>
            let w := { w with d := releaseAct w.g.core .pkg w.d }
            let q := ws.getD 2 0
            let (st, d) := if w.d.isDet w.g then (none, w.d) else
              let (s, d) := postImages m w.g.ctx q bs w.d
              (some s, d)
            let w := { w with d := d }
            let r := newReq i t (.qpost q bs st) (qpostVa ws) 4 w
            laneOk (sendReq { r with dst := uDest o.d 1, lanes := maskOf i.chain } w) none }

/-- A group in a task, as TASKEND sees it: a shadow runs its partner's (R336). -/
def inTask (d : Device) (g : Group) : Bool := (workTask d g).isSome

def opTaskend (o : FmtNG) : Op :=
  { guard := o.g, void := true, pos := [.no o.k1, .no o.ka]
    lane := fun _ _ t w =>
      if !inTask w.d w.g ∨ w.g.cond = .handler then laneRaise w { cause := .illegalInstr }
      else laneOk { w with g := onThread w.g t fun th => { th with st := .done } } none }

/-! ## Futures (R337 to R339) -/

/-- Steps 2 to 7 of R337: the key and domain of a future. -/
def futureKey (m : Memory) (va : DWord) (w : Work) : Except Raise (Nat × Nat) × Work :=
  match vaClass va with
  | .nonCanonical => (.error { cause := .page, acc := 3, addr := va }, w)
  | .scratch => (.error { cause := .illegalOperand }, w)
  | .canonical =>
    if va.toNat % 8 ≠ 0 then (.error { cause := .align, acc := 3, addr := va }, w)
    else match memKey m w va .rw 3, w.d.ctx? w.g.ctx with
      | (.error r, w), _ => (.error r, w)
      | (.ok (k, l), w), some c =>
        if keyKind k ≠ .own ∨ inReplica m w.d c va then (.error { cause := .illegalOperand }, w) else (.ok (k, l.dom), w)
      | (.ok _, w), none => (.error { cause := .illegalOperand }, w)

/-- A write of the core to the dword waits in its path, or the home cannot act yet (R281). -/
def futureHeld (m : Memory) (va : DWord) (w : Work) : Bool :=
  match futureKey m va w with
  | (.ok (k, _), _) => pathHolds w.d w.g.core (keysFrom k 8)
      || !rmwReady w.d w.g.core k w.d.nextId (clockOf w.d (dieOf w.g.core))
  | _ => false

/-- FINIT and FFILL: a release at PKG scope, then one RMW at the home (R338, R309, R213); `fills` marks one whose task fails
where the home is lost with its die (R340). The cost is R325's (log 90). -/
def opFuture (o : FmtFin) (k1 fills : Bool) (f : Memory → Nat → Nat → DWord → Device → Option Device) : Op :=
  { guard := o.g, void := true, commits := true, pos := [.src o.a 2 o.ka 0, .src o.b 2 false 0, .no k1]
    gate := fun m i t w =>
      let va := src64 i.rd t o.a
      if w.g.region.isSome then none
      else match transGate va 8 w with
        | some q => some q
        | none => (releaseGate .pkg t w).or (if futureHeld m va w then some { w := w } else none)
    lane := fun m i t w =>
      let va := src64 i.rd t o.a
      if w.g.region.isSome then laneRaise w { cause := .idemViolation }
      else match futureKey m va w with
        | (.error r, w) => laneRaise w r
        | (.ok (k, dom), w) =>
          let core := w.g.core
          let d := dropReplica (dropSectors (releaseAct core .pkg w.d) core (keysFrom k 8)) core k
          match f m k dom (src64 i.rd t o.b) (mergeClock d (homeSource k) (clockOf d (dieOf core))) with
          | some d => laneOk { w with d := noteSeen core (k / 128) d } none
          | none =>
            laneRaise w { cause := .uncorrectable, acc := 3, addr := va, fails := fills && lostKey w.d k } }

def opFinit (o : FmtFin) : Op := opFuture o false false finitAt
def opFinitFull (o : FmtFin) : Op := opFuture o false true ffillAt
def opFfill (o : FmtNB) : Op := opFuture { a := o.a, b := o.b, ka := o.ka, g := o.g } o.k1 true ffillAt

/-- Step 1 of R337. -/
def fgetOrder (g : Group) : Bool :=
  g.partner.isSome || match g.task with
    | some k => k.committed
    | none => true

/-- A thread's FGET at the home (R68, R339, R282): FULL answers with the value; EMPTY faults in a gang member (R74), and else
ends the pass until the answer has come. -/
def fgetAt (m : Memory) (t key : Nat) (r : Req) (w : Work) : LaneOut :=
  if lostKey w.d key ∨ r.keys.any (badSector w.d · r.dom) then
    laneOk (sendReq { r with st := .refused .uncorrectable } w) none
  else if (futureOf w.d key).full then
    let d := noteSeen w.g.core (key / 128) (mergeClock w.d (homeSource key) r.clock)
    laneOk (sendReq { r with st := .served, value := natHome m d r.keys, clock := clockOf d (homeSource key) } { w with d := d }) none
  else if (w.g.task.bind (·.gang)).isSome then laneRaise w { cause := .futureOrder }
  else { laneOk (sendReq r w) none with post := .split t }

/-- FGET: thread by thread in slot order, before anything commits the task (R68, R339), at R325's cost (log 90). -/
def opFget (o : FmtN) : Op :=
  { guard := o.g, void := true, arrives := true, uncommitted := true, pos := [.src o.a 2 o.ka 0, .dst o.d 2 false false, .no o.k1]
    gate := fun m i t w =>
      let va := src64 i.rd t o.a
      if fgetOrder w.g then none
      else match transGate va 8 w with
        | some q => some q
        | none => if futureHeld m va w then some { w := w } else none
    lane := fun m i t w =>
      let va := src64 i.rd t o.a
      if fgetOrder w.g then laneRaise w { cause := .futureOrder }
      else match futureKey m va w with
        | (.error r, w) => laneRaise w r
        | (.ok (key, dom), w) =>
          let r := newReq i t .fget va 8 w
          fgetAt m t key { r with keys := keysFrom key 8, dom := dom, dst := loadDst o.d 2 r.id } w }

end Sys2Proof.Machine
end

