-- ==== Sys2Proof/Machine/Engine.lean ====
section
/-! DEFINITION. Issue of engine commands: CPY, CPYX, COLL and MCRD (R248, R249, R258, R259), and ESTAT (R270). -/

namespace Sys2Proof.Machine

/-- A command of a copy engine, which MCRD is too (R248). -/
def isCopy (k : CmdKind) : Bool := k != .coll

/-- The port die of a die's collective engine (R21, R259). -/
def portDieOf (die : Nat) : Nat := die / 2

/-- Commands in the queue of the engine that a command of a core goes to (R259). -/
def engineCount (d : Device) (core : Nat) (k : CmdKind) : Nat :=
  (d.cmds.filter fun c =>
    if isCopy k then isCopy c.kind && quadOf c.core == quadOf core
    else !isCopy c.kind && portDieOf (dieOf c.core) == portDieOf (dieOf core)).length

/-- A command is cut while its engine's queue holds 64 commands (R259). -/
def engineGate (k : CmdKind) (w : Work) : Option Gate :=
  if 64 ≤ engineCount w.d w.g.core k then some { w := w } else none

/-- A command is put into its queue; Tn of every present thread becomes PENDING (R249, R261). -/
def sendCmd (i : PassInfo) (k : CmdKind) (t : TReg) (block : List Byte) (rot : Nat) (w : Work) : Work :=
  let c : Cmd :=
    { id := w.d.nextId, kind := k, gid := w.g.gid, core := w.g.core, ctx := w.g.ctx, lead := i.chain.headD 0
      lanes := maskOf i.chain, t := t, block := block, rot := rot, pc := codeOff i.base i.pc, rect := grantOf w.g
      record := (workTask w.d w.g).map fun k => recordOf k.words }
  let w := { w with d := { w.d with cmds := w.d.cmds ++ [c], nextId := w.d.nextId + 1 } }
  i.chain.foldl (fun w u => nameTime i u t c.id true none w) w

def isImm (s : USrc) : Bool :=
  match s with
  | .imm _ => true
  | _ => false

/-- The 64 bytes of a command block in the executing core's region (R259). -/
def blockBytes (m : Memory) (w : Work) (off : Word) : List Byte :=
  match w.d.ctx? w.g.ctx with
  | none => List.replicate 64 0
  | some c =>
    let keys := regionKeys c w.g.core off.toNat 64 (brot w.g)
    if keys = [] then List.replicate 64 0 else keys.map (homeByte m w.d w.g.core w.d.nextId)

/-- CPY, CPYX and COLL. -/
def opEngine (o : FmtE) (k : CmdKind) : Op :=
  { uniform := true, void := true, commits := true
    pos := [.usrc o.a 1 1 true, .no (isImm o.a), .time o.t, .no o.k1, .no o.ka]
    gate := fun _ _ _ w => if w.g.region.isSome then none else engineGate k w
    lane := fun m i _ w =>
      if w.g.region.isSome then laneRaise w { cause := .idemViolation }
      else laneOk (sendCmd i k o.t (blockBytes m w (usrc32 i.rd.g o.a)) (brot w.g) w) none }

def opCpy (o : FmtE) : Op := opEngine o .cpy
def opCpyx (o : FmtE) : Op := opEngine o .cpyx
def opColl (o : FmtE) : Op := opEngine o .coll

/-! ## MCRD (R248, R249) -/

/-- The fields of an MCRD descriptor. -/
structure Mcrd where
  sva : DWord
  dst : Nat
  len : Nat
  dx : Int
  dy : Int
  w : Nat
  h : Nat
  rot : Nat
  mask : Nat
  bobj : Nat
  rsv : Bool
deriving DecidableEq, Repr

def mcrdOf (ws : List Word) : Mcrd :=
  let g := ws.getD 4 0
  let x := (ws.getD 5 0).toNat
  { sva := pair (ws.getD 0 0) (ws.getD 1 0), dst := (ws.getD 2 0).toNat, len := (ws.getD 3 0).toNat
    dx := ((g >>> 24).truncate 8 : BitVec 8).toInt, dy := ((g >>> 16).truncate 8 : BitVec 8).toInt
    w := bits g.toNat 12 4 + 1, h := bits g.toNat 8 4 + 1, rot := bits g.toNat 0 5, mask := bits x 0 16
    bobj := (ws.getD 6 0).toNat
    rsv := bits g.toNat 5 3 ≠ 0 || x / 2 ^ 16 ≠ 0 || ws.getD 7 0 ≠ 0 }

/-- A descriptor's own conditions (R249). -/
def mcrdOk (d : Mcrd) : Bool :=
  !d.rsv && decide (d.w * d.h ≤ 16) && d.mask != 0 && decide (d.mask < 2 ^ (d.w * d.h)) && d.len % 128 == 0
    && decide (128 ≤ d.len) && decide (d.len ≤ 262144) && d.sva.toNat % 128 == 0 && vaClass d.sva == .canonical

/-- The place offsets of a rectangle's cores, row by row. -/
def mcrdOffsets (d : Mcrd) : List (Int × Int) :=
  (List.range d.h).flatMap fun (j : Nat) => (List.range d.w).map fun (i : Nat) => (d.dx + (i : Int), d.dy + (j : Int))

/-- Words as bytes, the first lowest. -/
def wordsBytes (ws : List Word) : List Byte := ws.flatMap fun x => wordBytes 4 x.toNat

def opMcrd (o : FmtE) : Op :=
  { uniform := true, void := true, commits := true
    pos := [.usrc o.a 8 8 false, .time o.t, .no o.k1, .no o.ka]
    gate := fun _ _ _ w => if w.g.region.isSome then none else engineGate .mcrd w
    lane := fun _ i _ w =>
      let ws := usrcWords i.rd.g o.a 8
      let d := mcrdOf ws
      if w.g.region.isSome then laneRaise w { cause := .idemViolation }
      else if !mcrdOk d then laneRaise w { cause := .illegalOperand }
      else if !(mcrdOffsets d).all (fun p => (placeCheck w.g p.1 p.2).isSome) then
        laneRaise w { cause := .place, acc := 5, addr := d.sva }
      else laneOk (sendCmd i .mcrd o.t (wordsBytes ws) d.rot w) none }

/-! ## ESTAT (R270) -/

def estatWord (d : Device) (g : Group) (k : EstatKind) : Word :=
  match k with
  | .mine => BitVec.ofNat 32 (d.cmds.filter fun c => c.gid == g.gid && isCopy c.kind).length
  | .free => BitVec.ofNat 32 (64 - engineCount d g.core .cpy)
  | .coll => BitVec.ofNat 32 (d.cmds.filter fun c => c.gid == g.gid && !isCopy c.kind).length

def opEstat (o : FmtEst) : Op :=
  { uniform := true, void := true, pos := [.udst o.d 1 1, .no o.k1, .no o.ka]
    lane := fun _ _ _ w => putS w o.d (estatWord w.d w.g o.k) }

end Sys2Proof.Machine
end

