-- ==== Sys2Proof/Machine/Deck.lean ====
section
/-! DEFINITION. Decks: their instructions (R351 to R359), the layouts of their operands (R346 to R350), what an operation
does when the deck has executed it (R355, R356, R358), R189. -/

namespace Sys2Proof.Machine

/-! ## Tiles and the queue (R343, R344, R362) -/

/-- The tile storages a record covers. -/
def covers (x : Tile) (z : ZReg) : Bool := x.z == z || (x.f64 && (x.z ||| 1) == z)

/-- A tile that a group owns under a type. -/
def tileIs (quad gid : Nat) (z : ZReg) (f64 : Bool) (x : Tile) : Bool :=
  x.quad == quad && x.owner == gid && x.z == z && x.f64 == f64

def ownsTile (d : Device) (quad gid : Nat) (z : ZReg) (f64 : Bool) : Bool :=
  d.tiles.any fun x => tileIs quad gid z f64 x && !x.gone

/-- The owner of a tile's storage. -/
def tileOwner (d : Device) (quad : Nat) (z : ZReg) : Option Nat :=
  (d.tiles.find? fun x => x.quad == quad && !x.gone && covers x z).map (·.owner)

/-- A tile is owned by another group. -/
def othersTile (d : Device) (quad gid : Nat) (z : ZReg) : Bool :=
  match tileOwner d quad z with
  | some o => o != gid
  | none => false

/-- A deck's queue of 32 operations, or the group's share of 8, is full (R362). -/
def deckFull (d : Device) (quad gid : Nat) : Bool :=
  let q := d.deckOps.filter fun o => o.quad == quad && !o.readDone
  decide (32 ≤ q.length) || decide (8 ≤ (q.filter (·.gid == gid)).length)

def deckGate (w : Work) : Option Gate :=
  if deckFull w.d (quadOf w.g.core) w.g.gid then some { w := w } else none

/-- An operation enters its deck's queue; an idle deck starts it after the pass (R362). -/
def sendDeck (i : PassInfo) (o : DeckOp) (w : Work) : Work :=
  let quad := quadOf w.g.core
  let idle := !w.d.deckOps.any fun x => x.quad == quad && !x.readDone
  let o := { o with
    id := w.d.nextId, quad := quad, gid := w.g.gid, core := w.g.core, ctx := w.g.ctx
    started := if idle then some (i.tick + spanTicks (w.d.die (dieOf w.g.core)).mhz) else none }
  { w with d := { w.d with deckOps := w.d.deckOps ++ [o], nextId := w.d.nextId + 1 } }

/-! ## MMA (R346 to R350, R354) -/

/-- A descriptor pair (R346). -/
structure Desc where
  base : Nat
  rc : Nat
  tp : Nat
  rp : Nat
deriving DecidableEq, Repr

def descOf (lo hi : Word) : Desc :=
  { base := lo.toNat, rc := bits hi.toNat 28 4, tp := bits hi.toNat 16 12, rp := bits hi.toNat 0 16 }

def descOk (x : Desc) : Bool := x.base % 64 == 0 && x.rp != 0 && x.rp % 64 == 0

/-- The fields of a control block (R349). -/
structure Ctl where
  a : Desc
  b : Desc
  slab : Nat
  sp : Bool
  qa : Nat
  qb : Nat
  fa : Nat
  fb : Nat
  moff : Nat
  rsv : Bool
deriving DecidableEq, Repr

def ctlOf (ws : List Word) : Ctl :=
  let x := (ws.getD 4 0).toNat
  { a := descOf (ws.getD 0 0) (ws.getD 1 0), b := descOf (ws.getD 2 0) (ws.getD 3 0), slab := bits x 12 2, sp := bit x 11
    qa := bits x 7 2, qb := bits x 9 2, fa := bits x 0 3, fb := bits x 3 3, moff := (ws.getD 5 0).toNat
    rsv := bit x 6 || bits x 14 18 != 0 }

/-- The rows of R342. -/
def formatsOk (fa fb : Nat) : Bool :=
  (decide (fa < 6) && fa == fb) || ((fa == 1 || fa == 2) && (fb == 1 || fb == 2))

def isRa (k : DeckKind) : Bool := k == .mmaRa

def isRb (k : DeckKind) : Bool := k == .mmaRb

/-- The conditions of R346 and R349. -/
def ctlOk (k : DeckKind) (x : Ctl) : Bool :=
  !x.rsv && formatsOk x.fa x.fb && (k != .mma || x.slab == 0)
    && (!x.sp || (k == .mma && decide (1 ≤ x.fa ∧ x.fa ≤ 3)))
    && (!isRb k || x.qb == 0) && (!isRa k || x.qa == 0)
    && (if x.sp then x.moff % 16 == 0 else x.moff == 0)
    && (isRa k || descOk x.a) && (isRb k || descOk x.b)

/-- Registers of a panel row (R348). -/
def panelRegs (f : Nat) : Nat := if f = 3 then 34 else if f = 4 then 16 else if f = 5 then 8 else 32

/-- A register panel lies below d and outside the queue window (R348, R72, R80). -/
def panelOk (q : QRole) (g : Group) (m : BitVec 4) (f : Nat) : Bool :=
  (List.range (panelRegs f)).all fun i => vAllowed q g (4 * m.toNat + i)

/-- The offset of a flipped core (R349): bit 0 flips x, bit 1 flips y. -/
def flip (core q : Nat) : Int × Int :=
  (if q % 2 = 1 then (if coreX core % 2 = 0 then 1 else -1) else 0,
   if q / 2 = 1 then (if coreY core % 2 = 0 then 1 else -1) else 0)

def flipCore (core q : Nat) : Nat := (coreOffset core (flip core q).1 (flip core q).2).getD core

/-- The start check of the cores that QA and QB name (R76, R354). -/
def flipGate (x : Ctl) (w : Work) : Option Gate :=
  if notStarted w.d w.g (flipCore w.g.core x.qa) || notStarted w.d w.g (flipCore w.g.core x.qb) then
    some { w := w, hard := true }
  else none

/-- Earlier writes of the group's threads to scratchpads are not all performed (R354). -/
def scratchPending (d : Device) (gid : Nat) : Bool :=
  d.writes.any (fun w => w.gid == gid && keyKind w.key == .scratch) || d.msgs.any (·.gid == gid)
    || d.reds.any (fun r => r.gid == gid && r.keys.any (keyKind · == .scratch))
    || d.reqs.any (fun q => q.gid == gid && isAtomicReq q && q.st != .served && q.keys.any (keyKind · == .scratch))

/-- The checks of R354, in their order. -/
def mmaFault (q : QRole) (k : DeckKind) (z : ZReg) (m : BitVec 4) (x : Ctl) (d : Device) (g : Group) : Option Raise :=
  let f := if isRa k then x.fa else x.fb
  if g.region.isSome then some { cause := .idemViolation }
  else if g.restart.isNone then some { cause := .deckNoRestart }
  else if !ctlOk k x then some { cause := .illegalOperand }
  else if k != .mma && !panelOk q g m f then some { cause := .illegalOperand }
  else if !ownsTile d (quadOf g.core) g.gid z (x.fa == 5) then some { cause := .illegalOperand }
  else if (placeCheck g (flip g.core x.qa).1 (flip g.core x.qa).2).isNone
      ∨ (placeCheck g (flip g.core x.qb).1 (flip g.core x.qb).2).isNone then some { cause := .place }
  else none

/-- The words of a register panel, lane by lane (R348). -/
def panelWords (rd : Rd) (m : BitVec 4) (n : Nat) : List Word :=
  slots.flatMap fun t => (List.range n).map fun i => readV rd t (BitVec.ofNat 6 (4 * m.toNat + i))

/-- The registers of a panel as operands read in every lane (R96, R348); none where the block is refused. -/
def panelPos (q : QRole) (k : DeckKind) (m : BitVec 4) (x : Ctl) (g : Group) : List Pos :=
  let f := if isRa k then x.fa else x.fb
  if k = .mma ∨ !panelOk q g m f then [] else [.vec (.v (BitVec.ofNat 6 (4 * m.toNat))) (panelRegs f) 1 false 0 true]

/-- The cut until a panel's registers are ready (R96). -/
def panelGate (i : PassInfo) (t : Nat) (ps : List Pos) (w : Work) : Option Gate :=
  match regsWhen w.d i.rd ps [t] with
  | .arrival => some { w := w }
  | .at_ k => if i.tick < k then some { w := w } else none

/-- What a panel's registers raise: a word that is uncorrectable, a withdrawn load (R230, R394). -/
def panelFault (i : PassInfo) (ps : List Pos) (g : Group) : Option (Raise × Group) :=
  if slots.any fun u => ps.any (readsPoison i.rd u) then some ({ cause := .uncorrectable }, g)
  else (pendHit { i.rd with g := g } ps slots).map fun f =>
    ({ cause := f.cause, acc := f.acc, addr := f.addr, own := f.pc.map (codeAddr i.base) }, takePend f g)

/-- MMA, MMA.RA and MMA.RB. -/
def opMmaOf (k : DeckKind) (n : USrc) (z : ZReg) (m : BitVec 4) (k1 ka : Bool) : Op :=
  { uniform := true, void := true, commits := true
    pos := [.usrc n 6 8 false, .no k1, .no ka]
    gate := fun _ i t w =>
      let x := ctlOf (usrcWords i.rd.g n 6)
      (deckGate w).or ((flipGate x w).or ((if scratchPending w.d w.g.gid then some { w := w } else none).or
        (panelGate i t (panelPos (qRole w.d w.g) k m x w.g) w)))
    lane := fun _ i _ w =>
      let ws := usrcWords i.rd.g n 6
      let x := ctlOf ws
      match mmaFault (qRole w.d w.g) k z m x w.d w.g, panelFault i (panelPos (qRole w.d w.g) k m x w.g) w.g with
      | some r, _ => laneRaise w r
      | none, some (r, g) => laneRaise { w with g := g } r
      | none, none =>
        let regs := if k = .mma then [] else panelWords i.rd m (panelRegs (if isRa k then x.fa else x.fb))
        laneOk (sendDeck i { id := 0, quad := 0, gid := 0, kind := k, z := z, f64 := x.fa == 5, ctl := ws, regs := regs } w)
          none }

def opMma (o : FmtMma) : Op := opMmaOf .mma o.n o.z 0 o.k1 o.ka
def opMmaRa (o : FmtMmaR) : Op := opMmaOf .mmaRa o.n o.z o.m o.k1 o.ka
def opMmaRb (o : FmtMmaR) : Op := opMmaOf .mmaRb o.n o.z o.m o.k1 o.ka

/-! ## DZERO, rows and columns, DRESTART (R352, R357 to R359) -/

def oddTile (z : ZReg) : Bool := z.getLsbD 0

/-- The claim of a DZERO (R357): the group's other records of this storage are kept only for operations queued before. -/
def claimTile (quad gid : Nat) (z : ZReg) (f64 : Bool) (d : Device) : Device :=
  let new : Tile := { quad := quad, z := z, owner := gid, f64 := f64 }
  let hits := fun (x : Tile) => x.quad == quad && x.owner == gid && x.f64 != f64 && (covers x z || (f64 && x.z == z ||| 1))
  let ts := d.tiles.map fun x =>
    if tileIs quad gid z f64 x then { x with gone := false } else if hits x then { x with gone := true } else x
  { d with tiles := if ts.any (tileIs quad gid z f64) then ts else new :: ts }

/-- A DZERO waits for a tile: from when on is kept for R345. -/
def dzeroWait (i : PassInfo) (w : Work) : Work := { w with g := { w.g with dzeroAt := some (w.g.dzeroAt.getD i.tick) } }

def opDzero (o : FmtZ) : Op :=
  { uniform := true, void := true, commits := true, pos := [.no o.ka, .no (o.k1 && oddTile o.z)]
    gate := fun _ i _ w =>
      let quad := quadOf w.g.core
      if othersTile w.d quad w.g.gid o.z || (o.k1 && othersTile w.d quad w.g.gid (o.z ||| 1)) then
        some { w := dzeroWait i w, hard := true }
      else deckGate w
    lane := fun _ i _ w =>
      if w.g.region.isSome then laneRaise w { cause := .idemViolation }
      else if w.g.restart.isNone then laneRaise w { cause := .deckNoRestart }
      else
        let w := { d := claimTile (quadOf w.g.core) w.g.gid o.z o.k1 w.d, g := { w.g with dzeroAt := none } : Work }
        laneOk (sendDeck i { id := 0, quad := 0, gid := 0, kind := .dzero, z := o.z, f64 := o.k1 } w) none }

/-- An operation of the group on a tile is not yet complete. -/
def tileBusy (d : Device) (quad gid : Nat) (z : ZReg) : Bool :=
  d.deckOps.any fun o => o.quad == quad && o.gid == gid && (o.z == z || (o.f64 && o.z ||| 1 == z))

/-- DZERO.FREE frees the tile, both halves of an F64 tile. -/
def opDzeroFree (o : FmtZ) : Op :=
  { uniform := true, void := true, pos := [.no o.k1, .no o.ka]
    gate := fun _ _ _ w => if tileBusy w.d (quadOf w.g.core) w.g.gid o.z then some { w := w } else none
    lane := fun _ _ _ w =>
      let quad := quadOf w.g.core
      laneOk { w with d := { w.d with
        tiles := w.d.tiles.filter fun x => !(x.quad == quad && x.owner == w.g.gid && !x.gone && covers x o.z) } } none }

/-- Registers of a row or column in a lane. -/
def rowRegs (f64 : Bool) : Nat := if f64 then 8 else 4

/-- The fault of an operation on a tile the group does not own under its type (R344). -/
def tileFault (o : FmtRow) (d : Device) (g : Group) : Option Raise :=
  if ownsTile d (quadOf g.core) g.gid o.z o.k1 then none else some { cause := .illegalOperand }

/-- The scalar that holds the index of a row or column. -/
def rowIndex (o : FmtRow) (g : Group) : Nat := (usrc32 g (.s (o.r.zeroExtend 6))).toNat % 128

/-- DRDROW and DRDCOL: cut while a destination is outstanding in any lane. -/
def opRead (o : FmtRow) (k : DeckKind) : Op :=
  { uniform := true, void := true, arrives := true
    pos := [.usrc (.s (o.r.zeroExtend 6)) 1 1 false, .dst o.d (rowRegs o.k1) false false, .no o.ka, .no (o.k1 && oddTile o.z)]
    gate := fun _ _ _ w =>
      match o.d with
      | .v r =>
        if slots.any fun t => (vRange r (rowRegs o.k1)).any (awaits w.d w.g.gid t) then some { w := w } else deckGate w
      | _ => deckGate w
    lane := fun _ i _ w =>
      match tileFault o w.d w.g, o.d with
      | some r, _ => laneRaise w r
      | none, .v r =>
        let x : DeckOp :=
          { id := 0, quad := 0, gid := 0, kind := k, z := o.z, f64 := o.k1, dst := r, index := rowIndex o i.rd.g }
        laneOk (sendDeck i x w) none
      | none, _ => laneOk w none }

def opDrdrow (o : FmtRow) : Op := opRead o .rdRow
def opDrdcol (o : FmtRow) : Op := opRead o .rdCol

/-- A vector field in D as a source. -/
def dstSrc (d : Dst) : Src :=
  match d with
  | .v r => .v r
  | _ => .rsv 0

def opDwrrow (o : FmtRow) : Op :=
  { uniform := true, void := true, commits := true
    pos := [.usrc (.s (o.r.zeroExtend 6)) 1 1 false, .vec (dstSrc o.d) (rowRegs o.k1) (rowRegs o.k1) false 0 true,
            .no o.ka, .no (o.k1 && oddTile o.z)]
    others := fun _ _ => slots
    gate := fun _ _ _ w => deckGate w
    lane := fun _ i _ w =>
      if w.g.region.isSome then laneRaise w { cause := .idemViolation }
      else match tileFault o w.d w.g with
        | some r => laneRaise w r
        | none =>
          let regs := slots.flatMap fun t => srcWords i.rd t (dstSrc o.d) (rowRegs o.k1)
          let x : DeckOp :=
            { id := 0, quad := 0, gid := 0, kind := .wrRow, z := o.z, f64 := o.k1, index := rowIndex o i.rd.g, regs := regs }
          laneOk (sendDeck i x w) none }

/-- A group owns a tile. -/
def holdsTile (d : Device) (gid : Nat) : Bool := d.tiles.any fun x => x.owner == gid && !x.gone

/-- A deck holder (R360). -/
def deckHolder (d : Device) (gid : Nat) : Bool := holdsTile d gid || d.deckOps.any (·.gid == gid)

/-- The loop stack after a pass in which the whole group executes the instruction at an address. -/
def loopsAfter (g : Group) (pc : DWord) (chain : List Nat) : List Level :=
  if isLoopEnd g pc 4 then (loopStep g chain).loops else g.loops

def opDrestart (o : FmtUO) : Op :=
  { uniform := true, void := true, pos := [.usrc o.a 1 1 true, .no (isImm o.a), .no o.k1, .no o.ka]
    lane := fun _ i _ w =>
      if o.a = .zero then
        if holdsTile w.d w.g.gid then laneRaise w { cause := .illegalOperand }
        else laneOk { w with g := { w.g with restart := none } } none
      else
        let x := usrc32 i.rd.g o.a
        if x.getLsbD 0 then laneRaise w { cause := .align }
        else laneOk { w with g := { w.g with restart := some (x, loopsAfter w.g i.pc i.chain) } } none }

/-! ## Operands as a deck reads them (R347, R348, R350, R363) -/

/-- The byte of a region at an offset, at rotation 0; zero where Z = 0. -/
def deckRegionByte (m : Memory) (c : Ctx) (core : Nat) (o : DeckOp) (version off : Nat) : Byte :=
  match regionKey c core off 1 0 with
  | some k => histByte m o.hist version k
  | none => 0

/-- The offset of byte `j` of row `i` of panel `p` (R347). -/
def panelOffset (x : Desc) (p i j : Nat) : Nat :=
  let a := x.base + p * x.tp * 64 + i * x.rp + j
  a - a % 256 + (a % 256 + 8 * x.rc * i) % 256

/-- The bytes of element `c` in a panel row; of a 4-bit code, its scale byte and the byte it stands in. -/
def elemBytes (f c : Nat) : List Nat :=
  if f = 0 then [2 * c, 2 * c + 1]
  else if f = 3 then [0, 1 + c / 2]
  else if f = 4 then (List.range 4).map (4 * c + ·)
  else if f = 5 then (List.range 8).map (8 * c + ·)
  else [c]

/-- An element's datum; of a 4-bit code, 16 times its scale byte plus the code. -/
def elemDatum (f c x : Nat) : Nat :=
  if f = 3 then x % 256 * 16 + (if c % 2 = 0 then x / 256 % 16 else x / 4096 % 16) else x

/-- An element of a scratchpad operand. -/
def padElem (m : Memory) (ctx : Ctx) (core : Nat) (x : Desc) (f : Nat) (o : DeckOp) (i k : Nat) : Nat :=
  let n := Config.anyOrder o.id (core * 2 ^ 20 + i * 2 ^ 10 + k) % (o.hist.length + 1)
  let bs := (elemBytes f (k % 32)).map fun j => deckRegionByte m ctx core o n (panelOffset x (k / 32) i j)
  elemDatum f (k % 32) (leNat bs)

/-- An element of a register panel's row (R348). -/
def regElem (f : Nat) (row : List Byte) (k : Nat) : Nat :=
  let at_ := fun j => (row.getD j 0).toNat
  if f = 0 then at_ (2 * k) + 256 * at_ (2 * k + 1)
  else if f = 3 then at_ (128 + k / 32) * 16 + (if k % 2 = 0 then at_ (k / 2) % 16 else at_ (k / 2) / 16)
  else if f = 4 then leNat ((row.drop (4 * k)).take 4)
  else if f = 5 then leNat ((row.drop (8 * k)).take 8)
  else at_ k

def panelRow (f : Nat) (regs : List Word) (t : Nat) : List Byte :=
  wordsBytes ((regs.drop (t * panelRegs f)).take (panelRegs f))

/-- An element's value. -/
def elemNum (f x : Nat) : Num :=
  if f = 0 then bf16.num x
  else if f = 1 then e4m3.num x
  else if f = 2 then e5m2.num x
  else if f = 3 then b4Num (x / 16) (x % 16)
  else if f = 4 then f32.num x
  else f64.num x

/-- K of a format (R342). -/
def deckK (f : Nat) : Nat :=
  if f = 0 then 64 else if f = 3 then 256 else if f = 4 then 16 else if f = 5 then 4 else 128

/-- The position in a group of four that sparsity gives a stored element (R350). -/
def sparseIdx (m : Memory) (ctx : Ctx) (core : Nat) (x : Ctl) (o : DeckOp) (i k : Nat) : Nat :=
  let n := Config.anyOrder o.id (2 ^ 40 + i * 2 ^ 10 + k) % (o.hist.length + 1)
  let g := k / 2
  let b := (deckRegionByte m ctx core o n (x.moff + i * (2 * deckK x.fa / 8) + g / 2)).toNat
  let nib := if g % 2 = 0 then b % 16 else b / 16
  if k % 2 = 0 then nib % 4 else nib / 4

/-- The operand pairs of one element of C (R355). -/
def deckTerms (m : Memory) (ctx : Ctx) (x : Ctl) (o : DeckOp) (i j : Nat) : List (Nat × Nat) :=
  let a := fun k => if isRa o.kind then regElem x.fa (panelRow x.fa o.regs (i % 32)) k
    else padElem m ctx (flipCore o.core x.qa) x.a x.fa o i k
  let b := fun k => if isRb o.kind then regElem x.fb (panelRow x.fb o.regs (j % 32)) k
    else padElem m ctx (flipCore o.core x.qb) x.b x.fb o j k
  (List.range (deckK x.fa)).map fun k =>
    (a k, b (if x.sp then k / 2 * 4 + sparseIdx m ctx (flipCore o.core x.qa) x o i k else k))

/-! ## Delivery (R189, R356) -/

def isInf (n : Num) : Option Bool :=
  match n with
  | .inf s => some s
  | _ => none

/-- The finite terms aligned to an exponent: their sum and the sum of their magnitudes. -/
def sumTerms (lo : Int) (ts : List Num) : Int × Nat :=
  ts.foldl (fun acc t => match t with
    | .fin s m e => (acc.1 + signedMan s m * 2 ^ (e - lo).toNat, acc.2 + m * 2 ^ (e - lo).toNat)
    | _ => acc) (0, 0)

def lowExp (ts : List Num) : Int :=
  ts.foldl (fun lo t => match t with
    | .fin _ _ e => min lo e
    | _ => lo) 0

/-- Whether a datum lies within R189's bound of total * 2^lo: `k` * 2^-`p` of the magnitudes, half a unit in the last
place. An infinity stands for the least magnitude that rounds to it. -/
def withinBound (fm : Format) (r : Nat) (total : Int) (mags : Nat) (lo : Int) (k p : Nat) : Bool :=
  let top := fm.bias + 1 - fm.fb
  let near := fun (v : Int) (e : Int) =>
    let z := min (lo - p) (e - 1)
    decide ((v * 2 ^ (e - z).toNat - total * 2 ^ (lo - z).toNat).natAbs
      ≤ k * mags * 2 ^ (lo - p - z).toNat + 2 ^ (e - 1 - z).toNat)
  match fm.num r with
  | .fin s man e => near (signedMan s man) e
  | .inf s =>
    near (signedMan s (2 ^ fm.fb)) top ||
      (decide ((total < 0) = (s = true)) && let z := min lo top
        decide (2 ^ fm.fb * 2 ^ (top - z).toNat ≤ total.natAbs * 2 ^ (lo - z).toNat))
  | .nan => false

/-- The factors of R189. -/
def boundK (f : Nat) : Nat := if f = 4 ∨ f = 5 then 3 else 2

def boundP (f : Nat) : Nat := if f = 5 then 53 else 24

/-- What an element becomes: special values as R356 says; else the deck's own sum where it keeps R189's bound (log 13),
else the exact sum rounded to nearest. An old NaN element gives the default NaN. -/
def deliver (fm : Format) (x : Ctl) (form e : Nat) (ts : List (Nat × Nat)) (c : Nat) : Nat :=
  let ps := ts.map fun t => (mulNum (elemNum x.fa t.1) (elemNum x.fb t.2)).1
  let all := fm.num c :: ps
  let infs := all.filterMap isInf
  if all.any Num.isNan ∨ (infs.contains true ∧ infs.contains false) then fm.nan
  else match infs with
    | s :: _ => fm.infinity s
    | [] =>
      let lo := lowExp all
      let (total, mags) := sumTerms lo all
      let r := Config.deckResult form e ts c % 2 ^ fm.width
      if withinBound fm r total mags lo (boundK x.fa) (boundP x.fa) then r
      else if total = 0 then fm.zero (all.all fun t => t matches .fin true _ _)
      else (roundTo fm .rne false (decide (total < 0)) total.natAbs 1 lo).1

/-! ## Execution -/

def tileElem (es : List (Nat × DWord)) (e : Nat) : DWord := ((es.find? (·.1 == e)).map (·.2)).getD 0

/-- The elements of a tile, in order, those that are not +0. -/
def packTile (f : Nat → DWord) : List (Nat × DWord) :=
  (List.range 16384).filterMap fun e => if f e = 0 then none else some (e, f e)

/-- C after an MMA (R355). -/
def mmaElems (m : Memory) (ctx : Ctx) (o : DeckOp) (es : List (Nat × DWord)) : List (Nat × DWord) :=
  let x := ctlOf o.ctl
  let fm := if o.f64 then f64 else f32
  let form := x.fa + 8 * x.fb + (if x.sp then 64 else 0) + 128 * (if isRa o.kind then 1 else if isRb o.kind then 2 else 0)
  packTile fun e =>
    let i := e / 128
    let j := e % 128
    let old := tileElem es e
    if (isRa o.kind ∧ i / 32 ≠ x.slab) ∨ (isRb o.kind ∧ j / 32 ≠ x.slab) then old
    else BitVec.ofNat 64 (deliver fm x form e (deckTerms m ctx x o i j) old.toNat)

/-- The elements that a lane moves, and their values as register words (R358). -/
def rowElem (k : DeckKind) (index p : Nat) : Nat := if k = .rdCol then p * 128 + index else index * 128 + p

def elemWords (f64 : Bool) (x : DWord) : List Word := if f64 then [lowWord x, highWord x] else [lowWord x]

def wrElems (o : DeckOp) (es : List (Nat × DWord)) : List (Nat × DWord) :=
  packTile fun e =>
    if e / 128 ≠ o.index then tileElem es e
    else
      let p := e % 128
      if o.f64 then pair (o.regs.getD (2 * p) 0) (o.regs.getD (2 * p + 1) 0) else (o.regs.getD p 0).zeroExtend 64

/-- The values of a read, lane by lane. -/
def readElems (o : DeckOp) (es : List (Nat × DWord)) : List Word :=
  (List.range 128).flatMap fun p => elemWords o.f64 (tileElem es (rowElem o.kind o.index p))

/-- Puts an operation's new contents into its tile. -/
def setElems (o : DeckOp) (f : List (Nat × DWord) → List (Nat × DWord)) (d : Device) : Device :=
  { d with tiles := d.tiles.map fun x => if tileIs o.quad o.gid o.z o.f64 x then { x with elems := f x.elems } else x }

/-- A DZERO has run: +0 everywhere; replaced records of the storage under the other type go. -/
def zeroElems (o : DeckOp) (d : Device) : Device :=
  let d := setElems o (fun _ => []) d
  { d with tiles := d.tiles.filter fun x =>
      !(x.gone && x.f64 != o.f64 && x.quad == o.quad && x.owner == o.gid && (covers x o.z || (o.f64 && x.z == o.z ||| 1))) }

/-- An operation's deck time ends (R355 to R358); a read keeps its values until its registers are written. -/
def deckFinish (m : Memory) (o : DeckOp) (d : Device) : Device :=
  let out := { d with deckOps := d.deckOps.filter (·.id != o.id) }
  match o.kind with
  | .mma | .mmaRa | .mmaRb => match d.ctx? o.ctx with
    | some c => setElems o (mmaElems m c o) out
    | none => out
  | .dzero => zeroElems o out
  | .wrRow => setElems o (wrElems o) out
  | .rdRow | .rdCol =>
    let es := ((d.tiles.find? (tileIs o.quad o.gid o.z o.f64)).map (·.elems)).getD []
    { d with deckOps := d.deckOps.map fun x => if x.id = o.id then { x with regs := readElems o es, readDone := true } else x }

/-- The registers of a read are written, in every lane, ready 24 span cycles after its start (R358, R362). -/
def deckDeliver (o : DeckOp) (d : Device) : Device :=
  let n := rowRegs o.f64
  let ready := (o.started.getD 0) + 24 * spanTicks (d.die (quadDie o.quad)).mhz
  let d := { d with deckOps := d.deckOps.filter (·.id != o.id) }
  d.onGroup o.gid fun g =>
    let g := slots.foldl (fun g t => putWords g t o.dst ((o.regs.drop (t * n)).take n)) g
    { g with sb := g.sb ++ (vRange o.dst n).map fun k => { reg := .v (BitVec.ofNat 6 k), lanes := BitVec.allOnes 32, at_ := ready } }

end Sys2Proof.Machine
end

