-- ==== Sys2Proof/Machine/Sys.lean ====
section
/-! DEFINITION. The SYS family: major 0x3D (R399 to R405), idempotent regions (R383). -/

namespace Sys2Proof.Machine

/-! ## Requests and return (R401, R402) -/

/-- TRAP and BKPT end the turn and raise their cause with k in TCAUSE.CODE. -/
def opRequest (o : FmtK) (post : Device → Group → Post) : Op :=
  { uniform := true, void := true, ends := true, pos := [.no o.k1, .no o.ka]
    lane := fun _ _ _ w => { w := w, post := post (w.d.setGroup w.g) w.g } }

def opTrap (o : FmtK) : Op := opRequest o fun _ _ => .request .trap o.k.toNat

/-- A debugger holds the group's context (R445). -/
def debugged (d : Device) (g : Group) : Bool := ((d.ctx? g.ctx).bind (·.attached)).isSome

def opBkpt (o : FmtK) : Op :=
  opRequest o fun d g => if debugged d g then .halt else .request .breakpoint o.k.toNat

def opEretOf (ka : Bool) (post : Post) : Op :=
  { uniform := true, void := true, ends := true, pos := [.no ka]
    lane := fun _ _ _ w =>
      if w.g.cond = .handler then { w := w, post := post } else laneRaise w { cause := .illegalInstr } }

def opEret (o : FmtKA) : Op := opEretOf o.ka .eret
def opEretFail (o : FmtKA) : Op := opEretOf o.ka .failTask

/-! ## System values (R400, R403) -/

/-- The rectangle of the group's task; of width and height 0 outside a task. -/
def sysRect (g : Group) : Rect := (grantOf g).getD { die := 0, clus := 0, x := coreX g.core, y := coreY g.core, w := 0, h := 0 }

def groupValue (d : Device) (g : Group) (v : GroupVal) : Word :=
  match v with
  | .coreid => BitVec.ofNat 32 g.core
  | .grantX => BitVec.ofNat 32 (coreX g.core - (sysRect g).x)
  | .grantY => BitVec.ofNat 32 (coreY g.core - (sysRect g).y)
  | .grantW => BitVec.ofNat 32 (sysRect g).w
  | .grantH => BitVec.ofNat 32 (sysRect g).h
  | .codeBase => lowWord (codeBaseOf d g)
  | .codeBaseHi => highWord (codeBaseOf d g)
  | .whereAt => BitVec.ofNat 32 (placeCode g)
  | .mode => g.mode.zeroExtend 32
  | .flags => g.flags.zeroExtend 32
  | .fmask => g.fmask
  | .tcause => g.tcause
  | .tframe => g.tframe
  | .context => BitVec.ofNat 32 (g.ctx % 2 ^ 16)
  | .restart => (g.restart.map (·.1)).getD 0xFFFFFFFF

/-- FLAGS as a register operand (R188). -/
def flagsPos (v : GroupVal) : List Pos := if v = .flags then [.flags] else []

def opSrd (o : FmtSrd) : Op :=
  { uniform := true, void := true, pos := [.udst o.d 1 1, .no o.ka] ++ flagsPos o.val
    lane := fun _ _ _ w => putS w o.d (groupValue w.d w.g o.val) }

def savedCode (s : SavedThread) : Nat :=
  (match s.st with
    | .run => 0
    | .wait _ => 1
    | .done => 2) + (if s.resume then 4 else 0)

def threadValue (g : Group) (t : Nat) (v : ThreadVal) : Word :=
  match g.frame with
  | none => 0
  | some f =>
    let s := f.threads.toArray.getD t {}
    match v with
    | .epc => s.epc
    | .estate => BitVec.ofNat 32 (savedCode s)
    | .eaddr => lowWord s.addr
    | .eaddrHi => highWord s.addr

def opSrdV (o : FmtSrdV) : Op :=
  { guard := o.g, void := true, pos := [.dst o.d 1 false false, .no o.ka]
    lane := fun _ _ t w => laneOk { w with g := putDst w.g t o.d [threadValue w.g t o.val] } none }

def opSwr (o : FmtSwr) : Op :=
  { uniform := true, void := true, pos := [.usrc o.a 1 1 true, .no o.ka, .flags]
    lane := fun _ i _ w =>
      let x := usrc32 i.rd.g o.a
      laneOk { w with g := if o.flags then { w.g with flags := x.truncate 6 } else { w.g with mode := x.truncate 8 } } none }

/-- EPC of a thread. -/
def setEpc (f : Frame) (t : Nat) (x : Word) : Frame :=
  { f with threads := f.threads.set! t { f.threads.toArray.getD t {} with epc := x } }

def opSwrV (o : FmtSwrV) : Op :=
  { guard := o.g, void := true, pos := [.src o.a 1 o.ka 0]
    lane := fun _ i t w =>
      let x := src32 i.rd t o.a
      match w.g.frame with
      | none => laneRaise w { cause := .illegalInstr }
      | some f =>
        if x.getLsbD 0 then laneRaise w { cause := .align }
        else laneOk { w with g := { w.g with frame := some (setEpc f t x) } } none }

/-! ## Idempotent regions (R383, R404) -/

/-- A shadow exists, or the group is one. -/
def paired (d : Device) (g : Group) : Bool := (shadowOf d g.gid).isSome || g.partner.isSome

def opIdemb (o : FmtNK) : Op :=
  { uniform := true, void := true, pos := [.no o.k1, .no o.ka]
    lane := fun _ i _ w =>
      if w.g.region.isSome ∨ paired w.d w.g
          ∨ slots.any (fun t => (thread w.g t).st != .done && !(isRun (thread w.g t) && (thread w.g t).pc == i.pc)) then
        laneRaise w { cause := .illegalInstr }
      else
        let live := maskOf (slots.filter fun t => (thread w.g t).st != .done)
        let r : Region :=
          { entry := i.pc + 4, s := w.g.s, mode := w.g.mode, flags := w.g.flags, loops := w.g.loops, mask := live }
        laneOk { w with g := { w.g with region := some r } } none }

def opIdeme (o : FmtNK) : Op :=
  { uniform := true, void := true, pos := [.no o.k1, .no o.ka]
    lane := fun _ _ _ w =>
      if w.g.region.isNone then laneRaise w { cause := .illegalInstr }
      else laneOk { w with g := { w.g with region := none } } none }

/-! ## Operand-cache bindings (R91, R405) -/

/-- The marks of an entry that binds a register: those of the lanes it copies (R394). -/
def bindMarks (k : CReg) (r : VReg) (g : Group) : Group :=
  let kept := g.poison.filter fun p => match p.2 with
    | .c j _ => j != k
    | _ => true
  { g with
    poison := kept ++ kept.filterMap fun p => if p.2 = .v r then some (p.1, .c k r) else none
    cClean := g.cClean.filter fun p => p.2 != k }

def opCbind (o : FmtCb) : Op :=
  { uniform := true, void := true, pos := [.bind o.a, .no o.k1, .no o.ka]
    lane := fun _ _ _ w => match o.a with
      | .v r =>
        let g := bindMarks o.c r w.g
        laneOk { w with g := { g with c := g.c.set o.c.toNat (some { reg := r, valid := true }) o.c.isLt } } none
      | _ => laneOk w none }

def opCunbind (o : FmtCu) : Op :=
  { uniform := true, void := true, pos := [.no o.k1, .no o.ka]
    lane := fun _ _ _ w => laneOk { w with g := { w.g with c := w.g.c.set o.c.toNat none o.c.isLt } } none }

end Sys2Proof.Machine
end

