-- ==== Sys2Proof/Machine/Time.lean ====
section
/-! DEFINITION. The TIME family: major 0x2F (R253 to R257). -/

namespace Sys2Proof.Machine

/-- The time registers a mask names, lowest first (R254, R255). -/
def timesOf (mask : Word) : List TReg :=
  ((List.range 16).filter fun k => decide (1 ≤ k) && mask.getLsbD k).map (BitVec.ofNat 4 ·)

/-- The pending fault of a withdrawn register (R230). -/
def timeFault (g : Group) (t : Nat) (x : TimeReg) : Option PendFault :=
  g.pendFaults.find? fun f => f.slot == t && f.req == x.req && x.req != 0

/-- The fault of a withdrawn register (R230): the pending one, else what withdrew it. -/
def withdrawnFault (i : PassInfo) (t : Nat) (x : TimeReg) (w : Work) : Option (Raise × Work) :=
  match timeFault w.g t x with
  | some f =>
    some ({ cause := f.cause, acc := f.acc, addr := f.addr, own := f.pc.map (codeAddr i.base) }, { w with g := takePend f w.g })
  | none => x.why.map fun y => ({ cause := y.cause, acc := y.acc, addr := y.addr }, w)

/-- Waits on the registers of a mask (R254): the lowest withdrawn one raises its fault; the thread goes on where a named
register is ARRIVED, or where none is named. -/
def waitTimes (i : PassInfo) (t : Nat) (ks : List TReg) (wt : Wait) (w : Work) : LaneOut :=
  let xs := ks.map fun k => timeSeen w.d w.g t k i.now
  match (xs.find? fun x => x.st == .withdrawn).bind fun x => withdrawnFault i t x w with
  | some (f, w) => laneRaise w f
  | none =>
    if xs = [] ∨ xs.any (fun x => x.st == .arrived || x.st == .withdrawn) then laneOk w none
    else laneOk { w with g := onThread w.g t fun th => { th with st := .wait wt } } none

def opTwait (o : FmtTR) : Op :=
  { guard := o.g, pos := [.no o.k1, .no o.ka], void := true, ends := true, times := fun _ _ => [o.t]
    lane := fun _ i t w => waitTimes i t [o.t] (.time o.t) w }

def opTwaitany (o : FmtNA) : Op :=
  { guard := o.g, pos := [.src o.a 1 o.ka 0, .no o.k1], void := true, ends := true
    times := fun i t => timesOf (src32 i.rd t o.a)
    lane := fun _ i t w => waitTimes i t (timesOf (src32 i.rd t o.a)) (.anyOf (src32 i.rd t o.a)) w }

/-- YIELDT: as TWAIT; with no thread RUN after the pass, the group yields (R254). -/
def opYieldt (o : FmtTR) : Op :=
  { guard := o.g, pos := [.no o.k1, .no o.ka], void := true, ends := true, yields := true
    times := fun _ _ => [o.t]
    lane := fun _ i t w => waitTimes i t [o.t] (.due o.t) w }

/-- A register result of this family, which leaves no latch (R235). -/
def putTime (t : Nat) (w : Work) (d : Dst) (x : Word) : LaneOut := laneOk { w with g := putDst w.g t d [x] } none

/-- The key by which TMIN orders a register (R255). -/
def minKey (x : TimeReg) (now : Word) : Int :=
  if x.st = .pending then 2 ^ 31 - 1 else (x.value - now).toInt

/-- The earliest of some registers, ties to the lower index. -/
def minTime (f : TReg → Int) (best : Option (TReg × Int)) (ks : List TReg) : Word :=
  match ks with
  | [] => match best with
    | some (k, _) => k.zeroExtend 32
    | none => 0
  | k :: rest => match best with
    | some (b, v) => if f k < v then minTime f (some (k, f k)) rest else minTime f (some (b, v)) rest
    | none => minTime f (some (k, f k)) rest

def opTmin (o : FmtN) : Op :=
  { guard := o.g, pos := [.src o.a 1 o.ka 0, .dst o.d 1 true true, .no o.k1], void := true
    times := fun i t => timesOf (src32 i.rd t o.a)
    lane := fun _ i t w =>
      putTime t w o.d
        (minTime (fun k => minKey (timeSeen w.d w.g t k i.now) i.now) none (timesOf (src32 i.rd t o.a))) }

/-- TMOV: Td takes Tn's state, value and sticky bit, and follows its request (R256). -/
def opTmov (o : FmtTM) : Op :=
  { guard := o.g, pos := [.time o.u, .no o.k1, .no o.ka], void := true, times := fun _ _ => [o.t]
    lane := fun _ i t w =>
      laneOk { w with g := onThread w.g t fun th => setTime th o.u (timeSeen w.d w.g t o.t i.now) } none }

def opTset (o : FmtTS) : Op :=
  { guard := o.g, pos := [.src o.a 1 o.ka 0, .time o.t], void := true
    lane := fun _ i t w =>
      laneOk { w with g := onThread w.g t fun th => setTime th o.t { value := src32 i.rd t o.a } } none }

/-- TSET.CLR clears the sticky bit alone (R256). -/
def opTsetClr (o : FmtTS) : Op :=
  { guard := o.g, pos := [.src o.a 1 o.ka 0, .no (o.a != .zero), .time o.t], void := true, times := fun _ _ => [o.t]
    lane := fun _ _ t w =>
      laneOk { w with g := onThread w.g t fun th => setTime th o.t { timeOf th o.t with sticky := false } } none }

def stateCode (s : TState) : Nat :=
  match s with
  | .pending => 0
  | .promised => 1
  | .arrived => 2
  | .breached => 3
  | .withdrawn => 4

/-- TSTAT's word (R257). -/
def statWord (x : TimeReg) : Word :=
  BitVec.ofNat 32 (stateCode x.st + (if x.sticky then 8 else 0) + (if x.engine then 16 else 0))

/-- TSTAT, TDIFF and TNOW, with the time registers they read. -/
def opTimeRead (g : PReg) (d : Dst) (k1 ka : Bool) (ts : List TReg) (f : PassInfo → Nat → Work → Word) : Op :=
  { guard := g, pos := [.dst d 1 true true, .no k1, .no ka], void := true, times := fun _ _ => ts
    lane := fun _ i t w => putTime t w d (f i t w) }

def opTstat (o : FmtTD) : Op :=
  opTimeRead o.g o.d o.k1 o.ka [o.t] fun i t w => statWord (timeSeen w.d w.g t o.t i.now)

def opTdiff (o : FmtTD) : Op :=
  opTimeRead o.g o.d o.k1 o.ka [o.t] fun i t w => (timeSeen w.d w.g t o.t i.now).value - i.now

def opTnow (o : FmtND) : Op := opTimeRead o.g o.d o.k1 o.ka [] fun i _ _ => i.now

end Sys2Proof.Machine
end

