-- ==== Sys2Proof/Machine/Wake.lean ====
section
/-! DEFINITION. What an event does to the time registers and the waits of threads: events by request (R227, R261), breaches
and their recoverable traps (R228), wakes (R39, R252, R254, R333), delivery of a value. -/

namespace Sys2Proof.Machine

/-- An event as a step: its writes enter memory. -/
def runEvent (f : Memory → Device → Device) (s : State) : Host.Outcome State Fault Refusal :=
  .next (commit s (f s.mem s.dev))

/-! ## Waits -/

/-- A time wait ends (R254). -/
def timeDone (x : TimeReg) : Bool := x.st == .arrived || x.st == .withdrawn

def timeHolds (th : Thread) (wt : Wait) : Bool :=
  match wt with
  | .time k => timeDone (timeOf th k)
  | .due k => timeDone (timeOf th k)
  | .anyOf mask => (timesOf mask).isEmpty || (timesOf mask).any fun k => timeDone (timeOf th k)
  | .ring _ => false
  | .object _ _ => false

/-- A wait's condition, as it is checked again at restore and at ERET (R378, R402). A region of size 0 supplies none. -/
def waitHolds (m : Memory) (d : Device) (core : Nat) (th : Thread) (wt : Wait) : Bool :=
  match wt with
  | .ring key => key != 0 && ringFull m d core key
  | .object key target => key != 0 && decide (target.toNat ≤ countOf m d key)
  | _ => timeHolds th wt

/-- Threads whose wait ends go on; a group that YIELDT has put aside is ready again when one wakes (R254). -/
def wakeIf (p : Thread → Wait → Bool) (g : Group) : Group :=
  let h := onThreads g fun th => match th.st with
    | .wait wt => if p th wt then { th with st := .run } else th
    | _ => th
  if g.hold = .yielded ∧ (broadcastPc g).isNone ∧ (broadcastPc h).isSome then { h with hold := .none } else h

/-- Time waits of a resident group. -/
def wakeTimes (g : Group) : Group := if g.place.isSome then wakeIf timeHolds g else g

def recheck (m : Memory) (d : Device) (g : Group) : Group := wakeIf (waitHolds m d g.core) g

/-- Threads of a resident group that wait on a ring (R252); the others check again at restore (R378). -/
def wakeRing (key : Nat) (g : Group) : Group := if g.place.isSome then wakeIf (fun _ wt => wt == .ring key) g else g

/-! ## Time registers by request (R227) -/

/-- Acts on every time register that follows a request. -/
def mapReq (id : Nat) (f : TimeReg → TimeReg) (g : Group) : Group :=
  onThreads g fun th => { th with t := th.t.map fun x => if x.req = id ∧ id ≠ 0 then f x else x }

/-- A register still follows its request. -/
def following (x : TimeReg) : Bool := x.st == .pending || x.st == .promised || x.st == .breached

/-- An engine's quote: never further than the horizon from the issue (R231, R261). -/
def promiseAt (time : Word) (x : TimeReg) : TimeReg :=
  if x.st = .pending then
    { x with st := .promised, value := x.value + BitVec.ofNat 32 (min (time - x.value).toNat Config.horizon) }
  else x

def arriveReg (x : TimeReg) : TimeReg := if following x then { x with st := .arrived } else x

def withdrawReg (y : Why) (x : TimeReg) : TimeReg :=
  if following x then { x with st := .withdrawn, why := some y } else x

/-- The new promise that a notice gives: never earlier than the old one (R228). -/
def newPromise (old time : Word) : Word := if 2 ^ 31 ≤ (time - old).toNat then old else time

/-- A breach notice (R228). -/
def breachReg (time : Word) (x : TimeReg) : TimeReg :=
  if !following x then x
  else { x with st := .breached, sticky := true, value := if x.st = .pending then time else newPromise x.value time }

/-- A probe's answer (R227). -/
def answerReg (promise : Word) (x : TimeReg) : TimeReg :=
  if x.st = .pending then { x with st := .promised, value := promise } else x

/-- Slots with a register of a request that a breaching event meets. -/
def metSlots (id : Nat) (engine : Bool) (hit : TimeReg → Bool) (g : Group) : List Nat :=
  slots.filter fun t => (thread g t).t.toArray.any fun x => x.req == id && id != 0 && x.engine == engine && hit x

/-- A breaching update of the registers of a request that an event meets, with the traps that become pending: TIME_BREACH
where MODE.TBE is set (R228), ENGINE_LATE always (R261); none for a command whose events are dropped (R271). -/
def breachBy (id : Nat) (quiet : Bool) (hit : TimeReg → Bool) (f : TimeReg → TimeReg) (g : Group) : Group :=
  let h := mapReq id f g
  if quiet then h
  else
    { h with
      pendLate := g.pendLate ||| maskOf (metSlots id true hit g)
      pendBreach := if g.mode.getLsbD 2 then g.pendBreach ||| maskOf (metSlots id false hit g) else g.pendBreach }

/-- The registers that an event meets: slot, index, new promise. -/
def breached (id : Nat) (hit : TimeReg → Bool) (f : TimeReg → TimeReg) (g : Group) : List (Nat × Nat × Word) :=
  slots.flatMap fun t => (List.range 16).filterMap fun k =>
    let x := timeOf (thread g t) (BitVec.ofNat 4 k)
    if x.req = id ∧ id ≠ 0 ∧ hit x then some (t, k, (f x).value) else none

/-- The events of a command no longer reach its group (R271). -/
def quietCmd (d : Device) (id : Nat) : Bool := ((d.cmd? id).map (·.dropped)).getD false

/-- A breaching update of a group, with its trace records (R451); nothing is late in a deterministic context (R424). -/
def breachGroup (id : Nat) (hit : TimeReg → Bool) (f : TimeReg → TimeReg) (gid : Nat) (d : Device) : Device :=
  match d.group? gid with
  | none => d
  | some g =>
    if d.isDet g then d
    else
      let base := codeBaseOf d g
      (breached id hit f g).foldl (fun d h =>
        traceGroup d g 5 0 h.1 (codeOff base (thread g h.1).pc) (pair (BitVec.ofNat 32 h.2.1) h.2.2))
        (d.setGroup (breachBy id (quietCmd d id) hit f g))

/-- A breach notice at a group: it meets every register that follows the request, one that keeps its promise too (R227,
R228). -/
def noticeGroup (id : Nat) (time : Word) (gid : Nat) (d : Device) : Device := breachGroup id following (breachReg time) gid d

/-- A register that has become late. -/
def isLate (now : Word) (x : TimeReg) : Bool := lateTime x now != x

/-- The core's lateness row for a request's registers, for a resident group outside deterministic mode (R227, R424). -/
def lateGroup (id : Nat) (now : Word) (gid : Nat) (d : Device) : Device :=
  match d.group? gid with
  | some g => if g.place.isNone then d else breachGroup id (isLate now) (fun x => lateTime x now) gid d
  | none => d

/-- In a deterministic context a register takes its value at the end of the issuing turn (R423, R424). -/
def midTurn (d : Device) (gid : Nat) : Bool :=
  match d.group? gid with
  | some g => d.isDet g && g.turn.isSome
  | none => false

/-! ## Values and failures -/

/-- A loaded value extended (R242). -/
def extend (e : Ext) (v : Nat) : Nat :=
  match e with
  | .none => v
  | .u8 => v % 2 ^ 8
  | .u16 => v % 2 ^ 16
  | .s8 => ((BitVec.ofNat 8 v).signExtend 32).toNat
  | .s16 => ((BitVec.ofNat 16 v).signExtend 32).toNat

/-- A number as `n` words, the low one first (R118). -/
def wordsOf (v : Nat) : Nat → List Word
  | 0 => []
  | n + 1 => BitVec.ofNat 32 v :: wordsOf (v / 2 ^ 32) n

/-- A value reaches its destination: V registers of the slot, an entry of its FIFO, scalar registers (R73, R243). -/
def deliverTo (dst : Dest) (slot v tick : Nat) (g : Group) : Group :=
  match dst with
  | .none => g
  | .v r n => putWords g slot r (wordsOf v n)
  | .s r n => putScalars g r (wordsOf v n)
  | .q id =>
    let l := (g.qwin.toArray.getD slot []).map fun e =>
      if e.id = id then { e with value := some (BitVec.ofNat 32 v), at_ := tick } else e
    { g with qwin := g.qwin.set! slot l }

/-- A withdrawn push releases its entry (R73). -/
def releaseTo (dst : Dest) (slot : Nat) (g : Group) : Group :=
  match dst with
  | .q id => { g with qwin := g.qwin.set! slot ((g.qwin.toArray.getD slot []).filter (·.id != id)) }
  | _ => g

/-- Faults that become pending for the lanes of a request (R230, R312). -/
def pendFor (r : Req) (cause : Cause) (acc : Nat) (g : Group) : Group :=
  { g with pendFaults := g.pendFaults ++ (slotsOf r.lanes).map fun t =>
      { slot := t, cause := cause, acc := acc, addr := r.va, req := r.id, dst := r.dst
        pc := if r.kind = .uload then some r.pc else none : PendFault } }

/-- A request's value arrives: the register, the destination unless the group has dropped it, the wakes (R240, R68). -/
def landReq (r : Req) (v : Nat) (d : Device) : Device :=
  let tick := d.tickOf r.core
  (d.dropReq r.id).onGroup r.gid fun g =>
    let g := mapReq r.id arriveReg g
    wakeTimes (if r.dropped then g else deliverTo r.dst r.slot v tick g)

/-- The same, behind the lateness row of the cycles before (R227). -/
def arriveReq (r : Req) (v : Nat) (d : Device) : Device := landReq r v (lateGroup r.id (d.refNow r.core - 1) r.gid d)

/-- A request is withdrawn or refused (R230, R312). -/
def withdrawReq (r : Req) (cause : Cause) (acc : Nat) (d : Device) : Device :=
  let now := d.refNow r.core
  ((lateGroup r.id (now - 1) r.gid d).dropReq r.id).onGroup r.gid fun g =>
    let g := mapReq r.id (withdrawReg { cause := cause, acc := accOf cause acc, addr := r.va }) g
    wakeTimes (if r.dropped then g else pendFor r cause acc (releaseTo r.dst r.slot g))

end Sys2Proof.Machine
end

