-- ==== Sys2Proof/Machine/EvEngine.lean ====
section
/-! DEFINITION. Steps of the copy and collective engines (R248 to R250, R258 to R271): check and quote, start, the data
movement of CPY, CPYX and COLL, the delivery of MCRD's lines, and the end of a command. -/

namespace Sys2Proof.Machine

/-! ## Command blocks (R260, R263, R264, R267) -/

/-- Bits of a command block. -/
def blk (c : Cmd) (at_ n : Nat) : Nat := leNat ((c.block.drop at_).take n)

/-- BOBJ of a command; none for 0xFFFF_FFFF. -/
def bobjOf (c : Cmd) : Option Nat :=
  let x := match c.kind with
    | .mcrd => blk c 24 4
    | _ => blk c 4 4
  if x = 0xFFFFFFFF then none else some x

def hdr (c : Cmd) : Nat := blk c 0 4

/-- The acquire and release scopes that the header enables. -/
def cmdAcq (c : Cmd) : Option Nat := if c.kind ≠ .mcrd ∧ bit (hdr c) 11 then some (bits (hdr c) 8 3) else none

def cmdRel (c : Cmd) : Option Nat := if c.kind ≠ .mcrd ∧ bit (hdr c) 15 then some (bits (hdr c) 12 3) else none

/-- The header's own conditions; `sbits` and `dbits` say that SROT and DROT may be nonzero. -/
def hdrOk (c : Cmd) (scratchDst srot drot : Bool) : Bool :=
  bits (hdr c) 27 5 == 0 && !bit (hdr c) 16 && bits (hdr c) 0 8 == 0
    && (srot || bits (hdr c) 17 5 == 0) && (drot || bits (hdr c) 22 5 == 0) && (scratchDst || (bobjOf c).isNone)

def svaOf (c : Cmd) : DWord := BitVec.ofNat 64 (blk c 8 8)

def dvaOf (c : Cmd) : DWord := BitVec.ofNat 64 (blk c 16 8)

def isScratch (va : DWord) : Bool := vaClass va == .scratch

/-- CPY's block (R263). -/
def cpyOk (c : Cmd) : Bool :=
  let len := blk c 24 4
  let rows := blk c 28 4
  hdrOk c (isScratch (dvaOf c)) true true && blk c 40 24 == 0 && len % 4 == 0 && decide (4 ≤ len ∧ len ≤ 2 ^ 30)
    && decide (1 ≤ rows ∧ rows ≤ 65536) && blk c 32 4 % 4 == 0 && blk c 36 4 % 4 == 0
    && (svaOf c).toNat % 4 == 0 && (dvaOf c).toNat % 4 == 0

/-- The fields of a CPYX block (R264). -/
structure Cpyx where
  m : Nat
  n : Nat
  pitch : Nat
  padr : Nat
  padc : Nat
  bcl : Nat
  brl : Nat
  sa : Bool
  fmt : Nat
  kind : Nat
  sscale : DWord
  desc : Desc
  sspitch : Nat
  fill : Nat
deriving DecidableEq, Repr

def cpyxOf (c : Cmd) : Cpyx :=
  let l := blk c 36 4
  { m := blk c 24 4, n := blk c 28 4, pitch := blk c 32 4, padr := bits l 20 4, padc := bits l 16 4, bcl := bits l 12 4
    brl := bits l 8 4, sa := bit l 7, fmt := bits l 4 3, kind := bits l 0 2, sscale := BitVec.ofNat 64 (blk c 40 8)
    desc := descOf (BitVec.ofNat 32 (blk c 16 4)) (BitVec.ofNat 32 (blk c 48 4)), sspitch := blk c 52 4
    fill := blk c 56 4 }

/-- Bytes of an element; 1 for the 4-bit block. -/
def fmtBytes (f : Nat) : Nat := if f = 0 then 2 else if f = 4 then 4 else if f = 5 then 8 else 1

/-- CPYX's block (R264, R265). -/
def cpyxOk (c : Cmd) : Bool :=
  let x := cpyxOf c
  let l := blk c 36 4
  let e := fmtBytes x.fmt
  hdrOk c true true false && isScratch (dvaOf c) && descOk x.desc && blk c 60 4 == 0
    && decide (1 ≤ x.m ∧ x.m ≤ 65536) && decide (1 ≤ x.n ∧ x.n ≤ 65536) && bits l 24 8 == 0 && bits l 2 2 == 0
    && decide (x.padr ≤ 7) && decide (x.padc ≤ 8) && decide (x.bcl ≤ 8) && decide (x.brl ≤ 8)
    && (x.kind == 2 || (x.bcl == 0 && x.brl == 0)) && decide (x.kind ≤ 2) && decide (x.fmt ≤ 5)
    && (!x.sa || x.fmt == 3) && (x.fmt != 3 || x.kind == 0) && (x.sa || (x.sscale == 0 && x.sspitch == 0))
    && (svaOf c).toNat % e == 0 && x.sscale.toNat % e == 0 && x.pitch % e == 0 && x.sspitch % e == 0

/-- The fields of a COLL block (R267). -/
structure Coll where
  mask : Nat
  count : Nat
  tag : Nat
  kind : Nat
  ty : Nat
  red : Nat
  root : Nat
deriving DecidableEq, Repr

def collOf (c : Cmd) : Coll :=
  let o := blk c 40 4
  { mask := blk c 24 8, count := blk c 32 4, tag := blk c 36 4, kind := bits o 0 4, ty := bits o 4 4, red := bits o 8 4
    root := bits o 12 6 }

/-- Bytes of an element of a collective. -/
def collBytes (ty : Nat) : Nat := if ty = 2 then 2 else if ty = 3 ∨ ty = 4 then 8 else 4

/-- Members, and the rank of one (R267). -/
def members (mask : Nat) : List Nat := (List.range 64).filter (bit mask)

def rankOf (mask k : Nat) : Nat := ((members mask).filter (· < k)).length

def collOk (d : Device) (c : Cmd) : Bool :=
  let x := collOf c
  let e := collBytes x.ty
  hdrOk c false false false && bits (blk c 40 4) 18 14 == 0 && blk c 44 20 == 0 && decide (x.kind ≤ 3) && decide (x.ty ≤ 4)
    && decide (x.red ≤ 2) && (x.kind != 1 && x.kind != 3 || x.red == 0)
    && (if x.kind = 3 then bit x.mask x.root else x.root == 0) && bit x.mask d.modnum.toNat
    && decide (1 ≤ x.count ∧ x.count ≤ 2 ^ 28) && (svaOf c).toNat % e == 0 && (dvaOf c).toNat % e == 0
    && !isScratch (svaOf c) && !isScratch (dvaOf c)

/-- Elements of a member's source and destination; the source of BROADCAST is read at ROOT only. -/
def collSrc (d : Device) (x : Coll) : Nat :=
  if x.kind = 2 then (members x.mask).length * x.count
  else if x.kind = 3 ∧ x.root ≠ d.modnum.toNat then 0 else x.count

def collDst (x : Coll) : Nat := if x.kind = 1 then (members x.mask).length * x.count else x.count

/-! ## Places and pages (R36, R37, R234, R261) -/

/-- The core at a place offset of a command's core, inside the grant of the issuing task (R36). -/
def cmdPlace (c : Cmd) (dx dy : Int) : Option Nat :=
  if dx = 0 ∧ dy = 0 then some c.core
  else match coreOffset c.core dx dy, c.rect with
    | some k, some r => if inRect r k then some k else none
    | _, _ => none

/-- A core is that of a member of the issuing gang that has not started (R37). -/
def memberWaits (x : Ctx) (c : Cmd) (core : Nat) : Bool :=
  x.gangs.any fun k => some k.rect == c.rect && k.toStart.contains core

/-- What a command names: runs of translated bytes with the access each needs, and scratchpads. -/
structure Wants where
  runs : List (DWord × Nat × Need) := []
  places : List DWord := []
deriving DecidableEq, Repr

/-- A side of a copy: its rows where it is translated, its place where it is a scratchpad's. -/
def sideWants (va : DWord) (len rows pitch : Nat) (need : Need) : Wants :=
  if isScratch va then { places := [va] }
  else { runs := (List.range rows).map fun r => (va + BitVec.ofNat 64 (r * pitch), len, need) }

def Wants.and (a b : Wants) : Wants := { runs := a.runs ++ b.runs, places := a.places ++ b.places }

/-- The address of source element (i, j) of a CPYX (R265), as an offset from SVA. -/
def cpyxStep (x : Cpyx) (i j : Nat) : Nat :=
  let e := fmtBytes x.fmt
  let br := 2 ^ x.brl
  let bc := 2 ^ x.bcl
  if x.kind = 0 then i * x.pitch + j * e
  else if x.kind = 1 then j * x.pitch + i * e
  else i / br * x.pitch + j / bc * (br * bc * e) + (i % br * bc + j % bc) * e

/-- Blocks of a row that hold an element (R265). -/
def cpyxBlocks (x : Cpyx) : Nat := (x.n + 31) / 32

/-- What a CPYX reads and writes. -/
def cpyxWants (c : Cmd) : Wants :=
  let x := cpyxOf c
  let sva := svaOf c
  let rows := if x.fmt = 3 then x.m else if x.kind = 1 then x.n else x.m
  let each := if x.fmt = 3 then cpyxBlocks x * (if x.sa then 16 else 17) else 0
  let src : Wants :=
    if isScratch sva then { places := [sva] }
    else if x.fmt = 3 then sideWants sva each rows x.pitch .r
    else if x.kind = 2 then
      { runs := (List.range x.m).flatMap fun i => (List.range x.n).map fun j =>
          (sva + BitVec.ofNat 64 (cpyxStep x i j), fmtBytes x.fmt, .r) }
    else sideWants sva ((if x.kind = 0 then x.n else x.m) * fmtBytes x.fmt) rows x.pitch .r
  let sc := if x.sa then sideWants x.sscale (cpyxBlocks x) x.m x.sspitch .r else {}
  (src.and sc).and { places := [dvaOf c] }

def cmdWants (d : Device) (c : Cmd) : Wants :=
  match c.kind with
  | .cpy =>
    (sideWants (svaOf c) (blk c 24 4) (blk c 28 4) (blk c 32 4) .r).and
      (sideWants (dvaOf c) (blk c 24 4) (blk c 28 4) (blk c 36 4) .w)
  | .cpyx => cpyxWants c
  | .coll =>
    let x := collOf c
    { runs := (if collSrc d x = 0 then [] else [(svaOf c, collSrc d x * collBytes x.ty, .r)])
        ++ [(dvaOf c, collDst x * collBytes x.ty, .w)] }
  | .mcrd => { runs := [((mcrdOf (entWords c.block)).sva, (mcrdOf (entWords c.block)).len, .r)] }

/-- A page of a command translated (R261). A collective and MCRD do not reach the host window (R249, R267). -/
def pageOf (m : Memory) (d : Device) (x : Ctx) (c : Cmd) (need : Need) (va : DWord) : Except (Cause × DWord) EPage :=
  let page := BitVec.ofNat 64 (va.toNat / 4096 * 4096)
  if vaClass va = .nonCanonical then .error (.page, va)
  else if vaClass va = .scratch then .error (.illegalOperand, 0)
  else match walk m d x page with
    | .error e => .error (e, va)
    | .ok l => match leafKey m d x c.core page l need with
      | .error e => .error (e, va)
      | .ok k =>
        if keyKind k = .host ∧ (c.kind = .coll ∨ c.kind = .mcrd) then .error (.illegalOperand, 0)
        else .ok { va := page, key := k, dom := l.dom }

/-- The pages of some addresses, each translated once for an access. -/
def pagesFor (m : Memory) (d : Device) (x : Ctx) (c : Cmd) (need : Need) (vas : List DWord) :
    Except (Cause × DWord) (List EPage) :=
  match vas with
  | [] => .ok []
  | va :: rest => match pageOf m d x c need va, pagesFor m d x c need rest with
    | .error e, _ => .error e
    | _, .error e => .error e
    | .ok p, .ok ps => .ok (p :: ps)

def pagesOfRuns (m : Memory) (d : Device) (x : Ctx) (c : Cmd) (runs : List (DWord × Nat × Need)) :
    Except (Cause × DWord) (List EPage) :=
  match runs with
  | [] => .ok []
  | (va, n, need) :: rest => match pagesFor m d x c need (pagesOf va n), pagesOfRuns m d x c rest with
    | .error e, _ => .error e
    | _, .error e => .error e
    | .ok p, .ok ps => .ok (p ++ ps)

/-- The scratchpads that a command names: the first place that fails, or their cores. -/
def coresOf (c : Cmd) (vas : List DWord) : Except (Cause × DWord) (List Nat) :=
  match vas with
  | [] => .ok []
  | va :: rest => match cmdPlace c (vaDx va) (vaDy va), coresOf c rest with
    | none, _ => .error (.place, va)
    | _, .error e => .error e
    | some k, .ok ks => .ok (k :: ks)

/-- The cores that an MCRD delivers to. -/
def mcrdCores (c : Cmd) : List Nat :=
  let d := mcrdOf (entWords c.block)
  ((mcrdOffsets d).zip (List.range 16)).filterMap fun p =>
    if bit d.mask p.2 then cmdPlace c p.1.1 p.1.2 else none

/-- A command's block is as its rule asks. -/
def blockOk (d : Device) (c : Cmd) : Bool :=
  match c.kind with
  | .cpy => cpyOk c
  | .cpyx => cpyxOk c
  | .coll => collOk d c
  | .mcrd => true

/-- The check of a command (R261): a failure with its address, or its pages, and the cores it waits for. -/
def checkCmd (m : Memory) (d : Device) (x : Ctx) (c : Cmd) : Except (Cause × DWord) (List EPage × List Nat) :=
  if !blockOk d c then .error (.illegalOperand, 0)
  else
    let w := cmdWants d c
    match coresOf c w.places, pagesOfRuns m d x c w.runs with
    | .error e, _ => .error e
    | _, .error e => .error e
    | .ok ks, .ok ps => .ok (ps.eraseDups, if c.kind = .mcrd then mcrdCores c else ks)

/-! ## Outcomes (R230, R261, R268) -/

def dropCmd (d : Device) (id : Nat) : Device := { d with cmds := d.cmds.filter (·.id != id) }

/-- A command is withdrawn: its fault at the lowest present thread; a collective fails in the task's record (R268). -/
def withdrawCmd (m : Memory) (c : Cmd) (cause : Cause) (va : DWord) (d : Device) : Device :=
  let d := (dropCmd (lateGroup c.id (d.refNow c.core - 1) c.gid d) c.id).onGroup c.gid fun g =>
    let g := mapReq c.id (withdrawReg { cause := cause, acc := accOf cause 5, addr := va }) g
    wakeTimes (if c.dropped then g else
      { g with pendFaults := g.pendFaults ++ [{ slot := c.lead, cause := cause, acc := accOf cause 5, addr := va, req := c.id }] })
  match c.kind, c.record with
  | .coll, some r => markFailed m c.ctx c.core r d
  | _, _ => d

/-- A command has done its work (R261, R262). -/
def arriveCmd (c : Cmd) (d : Device) : Device :=
  (dropCmd (lateGroup c.id (d.refNow c.core - 1) c.gid d) c.id).onGroup c.gid fun g =>
    wakeTimes (mapReq c.id arriveReg g)

/-- The ordering source of a command's engine (R259, R279). -/
def cmdSource (c : Cmd) : Nat := if isCopy c.kind then dieOf c.core else 4 + portDieOf (dieOf c.core)

/-- Another command of the collective domain with the tag is outstanding (R268). -/
def collTwice (d : Device) (x : Ctx) (c : Cmd) : Bool :=
  d.cmds.any fun k => decide (k.id < c.id) && k.kind == .coll && (collOf k).tag == (collOf c).tag
    && ((d.ctx? k.ctx).map (·.cdom)) == some x.cdom

/-- A command was issued while an HWINSET that is still executed began. -/
def windowWaits (d : Device) (c : Cmd) : Bool :=
  d.pendCmds.any fun q => match q with
    | .hwinSet _ since _ => decide (since ≤ c.id)
    | _ => false

/-- A command issued while HWINSET is executed for a window it names waits for the new configuration (R438). -/
def quoteHeld (d : Device) (c : Cmd) (ps : List EPage) : Bool :=
  ps.any fun p => d.pendCmds.any fun q => match q with
    | .hwinSet _ since w => decide (since ≤ c.id) && inWindow d w.window.toNat p.key
    | _ => false

/-- ENGINE_QUOTE (R249, R261). -/
def evEngineQuote (id : Nat) (time : Word) (m : Memory) (d : Device) : Device :=
  match d.cmd? id with
  | none => d
  | some c => match d.ctx? c.ctx with
    | none => d
    | some x =>
      if c.st ≠ .queued ∨ midTurn d c.gid then d
      else match checkCmd m d x c with
        | .error e => if windowWaits d c then d else withdrawCmd m c e.1 e.2 d
        | .ok (ps, ks) =>
          if c.kind = .coll ∧ collTwice d x c then withdrawCmd m c .illegalOperand 0 d
          else if (c.kind = .coll ∧ !c.formed) ∨ ks.any (memberWaits x c) ∨ quoteHeld d c ps then d
          else
            (d.setCmd { c with st := .quoted, pages := ps, receivers := if c.kind = .mcrd then ks else [] }).onGroup c.gid
              (mapReq id (promiseAt time))

/-- COLL_INSTANCE_FORM (R268): every member has issued; members that differ are withdrawn. A standalone module is part of no
instance but its own (R38). -/
def evCollForm (id : Nat) (agrees : Bool) (m : Memory) (d : Device) : Device :=
  match d.cmd? id with
  | none => d
  | some c =>
    let alone := (members (collOf c).mask).length ≤ 1
    if c.kind ≠ .coll ∨ c.st ≠ .queued ∨ c.formed ∨ midTurn d c.gid ∨ (d.standalone ∧ !alone) then d
    else if agrees ∨ alone then d.setCmd { c with formed := true }
    else withdrawCmd m c .illegalOperand 0 d

/-- An earlier command of the group has not begun (R259). -/
def behind (d : Device) (c : Cmd) : Bool :=
  d.cmds.any fun k => k.gid == c.gid && decide (k.id < c.id) && (k.st == .queued || k.st == .quoted)

/-- A copy engine of a halted die stands still (R447). -/
def engineHalted (d : Device) (c : Cmd) : Bool := isCopy c.kind && haltedDie d (dieOf c.core)

/-- A write of the issuing core that entered its path before the command waits there, or is not performed yet (R295). -/
def drains (d : Device) (c : Cmd) : Bool :=
  d.writes.any fun w => w.core == c.core && decide (w.id < c.id) && !w.applied

/-- The acquire of a command (R262, R278, R295): the issuing group's write path is drained, and from QUAD on the engine's source
has caught up with the clock that the command brings. -/
def acquired (d : Device) (c : Cmd) : Bool :=
  match cmdAcq c with
  | none => true
  | some sc =>
    let s := cmdSource c
    !drains d c && (decide (sc < 3) || caughtUp d s ((clockOf d s).join (clockOf d (dieOf c.core))) [s])

/-- What the acquire does: the engine's source takes the command's clock; at CLUS and wider the die's replicas go (R213,
R278). -/
def acquireCmd (c : Cmd) (d : Device) : Device :=
  match cmdAcq c with
  | none => d
  | some sc =>
    let d := if 3 ≤ sc then mergeClock d (cmdSource c) (clockOf d (dieOf c.core)) else d
    if 4 ≤ sc then advanceEpoch (dieOf c.core) d else d

/-- ENGINE_START (R262): behind the acquire. -/
def evEngineStart (id : Nat) (d : Device) : Device :=
  match d.cmd? id with
  | none => d
  | some c =>
    if c.st ≠ .quoted ∨ behind d c ∨ !acquired d c ∨ engineHalted d c then d
    else (acquireCmd c d).setCmd { c with st := .started }

/-! ## Data movement (R262 to R269) -/

/-- One byte that a command moves: the key, address and domain of its source, the bits it keeps and those it adds; the key,
domain and scratchpad core of its destination. -/
structure Move where
  src : Option Nat := none
  va : DWord := 0
  sdom : Nat := 0
  keep : Byte := 0xFF
  add : Byte := 0
  dst : Option Nat := none
  ddom : Nat := 0
  core : Option Nat := none
deriving DecidableEq, Repr

/-- Byte `step` of an operand: its key and domain (R205, R206, R234). -/
def sideKey (x : Ctx) (c : Cmd) (va : DWord) (rot step : Nat) : Option (Nat × Nat) :=
  if isScratch va then
    ((cmdPlace c (vaDx va) (vaDy va)).bind fun k => regionKey x k ((va.toNat + step) % 2 ^ 32) 1 rot).map fun k => (k, 0)
  else
    let a := va + BitVec.ofNat 64 step
    (c.pages.find? fun p => p.va.toNat / 4096 == a.toNat / 4096).map fun p => (p.key + a.toNat % 4096, p.dom)

/-- The core of a scratchpad operand. -/
def sideCore (c : Cmd) (va : DWord) : Option Nat :=
  if isScratch va then cmdPlace c (vaDx va) (vaDy va) else none

/-- The move of one byte between two operands. -/
def moveOf (x : Ctx) (c : Cmd) (sva : DWord) (srot sstep : Nat) (dva : DWord) (drot dstep : Nat) : Move :=
  let s := sideKey x c sva srot sstep
  let t := sideKey x c dva drot dstep
  { src := s.map (·.1), va := sva + BitVec.ofNat 64 sstep, sdom := (s.map (·.2)).getD 0, dst := t.map (·.1)
    ddom := (t.map (·.2)).getD 0, core := sideCore c dva }

/-- CPY, row by row (R263). -/
def cpyMoves (x : Ctx) (c : Cmd) : List Move :=
  (List.range (blk c 28 4)).flatMap fun r => (List.range (blk c 24 4)).map fun i =>
    moveOf x c (svaOf c) (bits (hdr c) 17 5) (r * blk c 32 4 + i) (dvaOf c) (bits (hdr c) 22 5) (r * blk c 36 4 + i)

/-- M' and N' (R264). -/
def cpyxRows (x : Cpyx) : Nat := (x.m + 2 ^ x.padr - 1) / 2 ^ x.padr * 2 ^ x.padr

def cpyxCols (x : Cpyx) : Nat := let u := max 32 (2 ^ x.padc); (x.n + u - 1) / u * u

/-- A byte of the canonical layout: its offset from DVA's (R266). -/
def layoutStep (x : Cpyx) (p i j : Nat) : Nat := panelOffset x.desc p i j + 2 ^ 32 - x.desc.base

/-- The bytes of element (i, j), not a 4-bit one. -/
def elemMoves (y : Ctx) (c : Cmd) (x : Cpyx) (i j : Nat) : List Move :=
  let e := fmtBytes x.fmt
  (List.range e).map fun b =>
    let at_ := layoutStep x (j / 32) i ((elemBytes x.fmt (j % 32)).getD b 0)
    let mv := moveOf y c (svaOf c) (bits (hdr c) 17 5) (cpyxStep x i j + b) (dvaOf c) 0 at_
    if i < x.m ∧ j < x.n then mv else { mv with src := none, add := BitVec.ofNat 8 (x.fill / 2 ^ (8 * b)) }

/-- The codes of byte `b` of a block that are not padding. -/
def codeMask (x : Cpyx) (i p b : Nat) : Byte :=
  if x.m ≤ i then 0
  else (if 32 * p + 2 * b < x.n then 0x0F else 0) ||| (if 32 * p + 2 * b + 1 < x.n then 0xF0 else 0)

/-- The 17 bytes of block `p` of row `i` (R180, R265, R266), code 0b1000 unchanged (log 89). -/
def blockMoves (y : Ctx) (c : Cmd) (x : Cpyx) (i p : Nat) : List Move :=
  let srot := bits (hdr c) 17 5
  let pad := decide (x.m ≤ i) || decide (x.n ≤ 32 * p)
  (List.range 17).map fun b =>
    let at_ := layoutStep x p i b
    let mv :=
      if !x.sa then moveOf y c (svaOf c) srot (i * x.pitch + 17 * p + b) (dvaOf c) 0 at_
      else if b = 0 then moveOf y c x.sscale srot (i * x.sspitch + p) (dvaOf c) 0 at_
      else moveOf y c (svaOf c) srot (i * x.pitch + 16 * p + (b - 1)) (dvaOf c) 0 at_
    if pad then { mv with src := none } else if b = 0 then mv else { mv with keep := codeMask x i p (b - 1) }

def cpyxMoves (y : Ctx) (c : Cmd) : List Move :=
  let x := cpyxOf c
  (List.range (cpyxRows x)).flatMap fun i =>
    if x.fmt = 3 then (List.range (cpyxCols x / 32)).flatMap (blockMoves y c x i)
    else (List.range (cpyxCols x)).flatMap (elemMoves y c x i)

/-- The two lists of keys have an interval in common. -/
def keysMeet (a b : List Nat) : Bool :=
  match a, b with
  | [], _ | _, [] => false
  | x :: xs, y :: ys => decide (xs.foldl min x ≤ ys.foldl max y) && decide (ys.foldl min y ≤ xs.foldl max x)

/-- The aligned 16 bytes that a move reads from: one read, which no aligned write tears (R294). -/
def readUnit (va : DWord) : Nat := va.toNat / 16

/-- The byte a move may have read: an element of what memory held since the command began, the same moment for the 16 bytes
around it, or, over `fuel` steps, what the command itself wrote there (R262, R294; log 16). -/
def heldByte (m : Memory) (c : Cmd) (n : Nat) (moves : List Move) (key : Nat) (va : DWord) : Nat → Byte
  | 0 => histByte m c.hist (Config.anyOrder n (readUnit va) % (c.hist.length + 1)) key
  | f + 1 => match moves.find? (·.dst == some key) with
    | none => histByte m c.hist (Config.anyOrder n (readUnit va) % (c.hist.length + 1)) key
    | some mv => match mv.src with
      | some s => (heldByte m c n moves s mv.va f &&& mv.keep) ||| mv.add
      | none => mv.add

/-- The byte a move writes. -/
def moveByte (m : Memory) (c : Cmd) (n : Nat) (moves : List Move) (mv : Move) : Byte :=
  match mv.src with
  | some s =>
    (heldByte m c n moves s mv.va (if moves.isEmpty then 0 else Config.anyOrder n (2 ^ 64 + s) % (moves.length + 1))
      &&& mv.keep) ||| mv.add
  | none => mv.add

/-- Source data that cannot be read. -/
def badMove (d : Device) (mv : Move) : Bool :=
  match mv.src with
  | some s => badSector d s mv.sdom || lostKey d s
  | none => false

/-- The bytes that reach their destinations: with uncorrectable source data, any part of the readable ones (R261). -/
def doneMoves (d : Device) (n : Nat) (moves : List Move) : List Move :=
  if moves.any (badMove d) then
    (moves.zip (List.range moves.length)).filterMap fun p =>
      if !badMove d p.1 ∧ Config.anyOrder n (2 ^ 65 + p.2) % 2 = 1 then some p.1 else none
  else moves

/-- One of the bytes written to a key (R262: writes have no order). -/
def pickCell (n : Nat) (cells : List Host.Cell) (key : Nat) : Byte :=
  let l := cells.filter (·.1 == key)
  ((l[Config.anyOrder n (2 ^ 66 + key) % l.length]?).map (·.2)).getD 0

/-- Cells in which no key stands twice. -/
def settle (n : Nat) (cells : List Host.Cell) : List Host.Cell :=
  let ks := (cells.map (·.1)).eraseDups
  if ks.length = cells.length then cells else ks.map fun k => (k, pickCell n cells k)

/-- Homes and domains of the cells that lie in this module's memory. -/
def homesOf (moves : List Move) : List (Nat × Nat) :=
  (moves.filterMap fun mv => match mv.dst with
    | some k => if keyKind k = .own then some (homeDie k, mv.ddom) else none
    | none => none).eraseDups

/-- The source where a byte outside a scratchpad is homed. -/
def farHome (key : Nat) : Option Nat := if keyKind key = .scratch then none else some (homeSource key)

/-- A command's bytes enter their homes (R262, R286), which merge the engine's clock (R282). -/
def storeMoves (m : Memory) (c : Cmd) (n : Nat) (moves : List Move) (core : Nat) (d : Device) : Device :=
  let meet := keysMeet (moves.filterMap (·.src)) (moves.filterMap (·.dst))
  let cells := settle n (moves.filterMap fun mv => mv.dst.map fun k =>
    (k, moveByte m c n (if meet then moves else []) mv))
  let s := cmdSource c
  let far := cells.filter fun x => keyKind x.1 != .own
  let d := (far.filterMap fun x => farHome x.1).eraseDups.foldl (fun d h => mergeClock d h (clockOf d s)) (pokeCells d far)
  (homesOf moves).foldl (fun d h =>
    let mine := cells.filter fun x => keyKind x.1 == .own && homeDie x.1 == h.1 &&
      !lostKey d x.1 && moves.any fun mv => mv.dst == some x.1 && mv.ddom == h.2
    if mine = [] then d
    else
      applyPlain { id := c.id, source := s, core := core, gid := c.gid, slot := c.lead, key := (mine.headD (0, 0)).1
                   cells := mine, stamp := clockOf d s, dom := h.2 } d) d

/-- The homes of the bytes that a command names have caught up with its source and have applied what the source sent them
before (R280, R281), and none is halted (R447). -/
def homesReady (d : Device) (c : Cmd) (moves : List Move) : Bool :=
  let s := cmdSource c
  ((moves.flatMap fun mv => mv.src.toList ++ mv.dst.toList).filterMap farHome).eraseDups.all fun h =>
    !haltedDie d h && (h == s || (sourceClear d s h d.nextId && caughtUp d h (clockOf d s) [h, s]))

/-- Each destination core's count (R262). -/
def countMoves (m : Memory) (c : Cmd) (moves : List Move) (d : Device) : Device :=
  match bobjOf c with
  | none => d
  | some off =>
    let cores := moves.filterMap (·.core)
    cores.eraseDups.foldl (fun d k => match objectKey d c.ctx k off with
      | some key => updateObject m key (· + (cores.filter (· == k)).length) d
      | none => d) d

/-- The release of a command (R262). -/
def releaseCmd (c : Cmd) (d : Device) : Device :=
  match cmdRel c with
  | some sc => if 3 ≤ sc then releaseClock (cmdSource c) d else d
  | none => d

/-- The source takes the clocks of the homes it read (R282). -/
def readClocks (c : Cmd) (moves : List Move) (d : Device) : Device :=
  ((moves.filterMap (·.src)).filterMap farHome).eraseDups.foldl (fun d h => meetHome d (cmdSource c) h) d

/-- The end of CPY or CPYX. -/
def finishCopy (m : Memory) (c : Cmd) (moves : List Move) (d : Device) : Device :=
  if !homesReady d c moves then d
  else
    let (n, d) := d.draw
    let done := doneMoves d n moves
    let bad := moves.find? (badMove d)
    let d := countMoves m c done (storeMoves m c n done c.core (readClocks c moves d))
    match bad with
    | some mv => withdrawCmd m c .uncorrectable mv.va d
    | none => arriveCmd c (releaseCmd c d)

/-! ## Collectives (R269) -/

/-- Two values combined in the accumulator's type. -/
def collPair (ty red a b : Nat) : Nat :=
  let w := 8 * (if ty = 2 then 4 else collBytes ty)
  let fm := if ty = 3 then f64 else f32
  if ty = 0 ∨ ty = 4 then
    if red = 0 then (a + b) % 2 ^ w
    else if (red = 1) = (signedOf w a ≤ signedOf w b) then a else b
  else if red = 0 then (fpAdd fm .rne a b).1
  else (fpMinMax fm (red == 2) a b).1

/-- One round of R269. -/
def collRound (f : Nat → Nat → Nat) : List Nat → List Nat
  | a :: b :: rest => f a b :: collRound f rest
  | l => l

/-- Rounds until one value remains. -/
def collTree (f : Nat → Nat → Nat) (l : List Nat) : Nat → Nat
  | 0 => l.headD 0
  | n + 1 => if l.length ≤ 1 then l.headD 0 else collTree f (collRound f l) n

/-- The reduction of one element's values. -/
def collReduce (ty red : Nat) (l : List Nat) : Nat :=
  if ty = 2 then (fpConvert f32 bf16 .rne false false (collTree (collPair ty red) (l.map (· * 2 ^ 16)) 64)).1
  else collTree (collPair ty red) l 64

/-- Element `x` of a member's source: this module's from memory, another's as a free value (log 16). -/
def collElem (m : Memory) (y : Ctx) (d : Device) (c : Cmd) (n member x : Nat) : Nat :=
  let e := collBytes (collOf c).ty
  leNat ((List.range e).map fun b =>
    if member = d.modnum.toNat then
      match sideKey y c (svaOf c) 0 (x * e + b) with
      | some k => histByte m c.hist
          (Config.anyOrder n (readUnit (svaOf c + BitVec.ofNat 64 (x * e + b))) % (c.hist.length + 1)) k.1
      | none => 0
    else Config.anyByte n (member * 2 ^ 40 + x * 8 + b))

/-- Element `x` of the destination (R267). -/
def collResult (m : Memory) (y : Ctx) (d : Device) (c : Cmd) (n x : Nat) : Nat :=
  let k := collOf c
  let ms := members k.mask
  let at_ := if k.kind = 2 then rankOf k.mask d.modnum.toNat * k.count + x else x
  if k.kind = 1 then collElem m y d c n (ms.getD (x / k.count) 0) (x % k.count)
  else if k.kind = 3 then collElem m y d c n k.root x
  else collReduce k.ty k.red (ms.map fun mb => collElem m y d c n mb at_)

/-- The moves that read a collective's source. -/
def collReads (y : Ctx) (d : Device) (c : Cmd) : List Move :=
  (List.range (collSrc d (collOf c) * collBytes (collOf c).ty)).map fun i =>
    let s := sideKey y c (svaOf c) 0 i
    { src := s.map (·.1), va := svaOf c + BitVec.ofNat 64 i, sdom := (s.map (·.2)).getD 0 }

/-- The bytes a collective writes. -/
def collWrites (m : Memory) (y : Ctx) (d : Device) (c : Cmd) (n : Nat) : List Move :=
  let e := collBytes (collOf c).ty
  (List.range (collDst (collOf c))).flatMap fun x =>
    let v := collResult m y d c n x
    (List.range e).map fun b =>
      let t := sideKey y c (dvaOf c) 0 (x * e + b)
      { add := BitVec.ofNat 8 (v / 2 ^ (8 * b)), dst := t.map (·.1), ddom := (t.map (·.2)).getD 0 }

/-- The end of COLL; its writes carry core 1023 (R286). -/
def finishColl (m : Memory) (y : Ctx) (c : Cmd) (d0 : Device) : Device :=
  let reads := collReads y d0 c
  let (n, d) := d0.draw
  let writes := collWrites m y d c n
  if !homesReady d c (reads ++ writes) then d0
  else match reads.find? (badMove d) with
    | some mv => withdrawCmd m c .uncorrectable mv.va d
    | none => arriveCmd c (releaseCmd c (storeMoves m c n writes 1023 (readClocks c reads d)))

/-! ## MCRD (R249, R250) -/

/-- Lines delivered to a receiver. -/
def linesTo (c : Cmd) (receiver : Nat) : Nat := ((c.delivered.find? (·.1 == receiver)).map (·.2)).getD 0

def mcrdLines (c : Cmd) : Nat := (mcrdOf (entWords c.block)).len / 128

/-- Every receiver holds and has counted every line. -/
def mcrdDone (c : Cmd) : Bool := c.receivers.all fun r => linesTo c r == mcrdLines c

/-- The moves that read a line. -/
def lineReads (y : Ctx) (c : Cmd) (line : Nat) : List Move :=
  (List.range 128).map fun i =>
    let va := (mcrdOf (entWords c.block)).sva
    let s := sideKey y c va 0 (128 * line + i)
    { src := s.map (·.1), va := va + BitVec.ofNat 64 (128 * line + i), sdom := (s.map (·.2)).getD 0 }

/-- A line's bytes reach a receiver and are counted. -/
def putLine (m : Memory) (y : Ctx) (c : Cmd) (receiver line : Nat) (bs : List Byte) (d : Device) : Device :=
  let k := mcrdOf (entWords c.block)
  let cells := (bs.zip (List.range 128)).filterMap fun p =>
    (regionKey y receiver ((k.dst + 128 * line + p.2) % 2 ^ 32) 1 k.rot).map fun key => (key, p.1)
  let d := pokeCells d cells
  match (bobjOf c).bind (objectKey d c.ctx receiver) with
  | some key => updateObject m key (· + 128) d
  | none => d

/-- MCRD_RECEIVER_DELIVERY: the next line for a receiver; a line leaves its slice once, and every receiver gets the same
bytes. -/
def evMcrdDelivery (id receiver : Nat) (m : Memory) (d : Device) : Device :=
  match d.cmd? id with
  | none => d
  | some c => match d.ctx? c.ctx with
    | none => d
    | some y =>
      let line := linesTo c receiver
      let reads := lineReads y c line
      if c.kind ≠ .mcrd ∨ c.st ≠ .started ∨ !c.receivers.contains receiver ∨ mcrdLines c ≤ line ∨ midTurn d c.gid
          ∨ !homesReady d c reads then d
      else
        let mark := (receiver, line + 1) :: c.delivered.filter (·.1 != receiver)
        match c.lines[line]? with
        | some bs => putLine m y c receiver line bs (d.setCmd { c with delivered := mark })
        | none => match reads.find? (badMove d) with
          | some mv => withdrawCmd m c .uncorrectable mv.va d
          | none =>
            let bs := reads.map fun mv => (mv.src.map (peek m d)).getD 0
            let d := readClocks c reads d
            putLine m y c receiver line bs (d.setCmd { c with delivered := mark, lines := c.lines ++ [bs] })

/-- ENGINE_COMPLETE (R261, R262). -/
def evEngineComplete (id : Nat) (m : Memory) (d : Device) : Device :=
  match d.cmd? id with
  | none => d
  | some c => match d.ctx? c.ctx with
    | none => d
    | some y =>
      if c.st ≠ .started ∨ midTurn d c.gid ∨ engineHalted d c then d
      else match c.kind with
        | .cpy => finishCopy m c (cpyMoves y c) d
        | .cpyx => finishCopy m c (cpyxMoves y c) d
        | .coll => finishColl m y c d
        | .mcrd => if mcrdDone c then arriveCmd c d else d

/-! ## The steps -/

def execEngineQuote (id : Nat) (time : Word) (s : State) := runEvent (evEngineQuote id time) s
def execEngineStart (id : Nat) (s : State) := runEvent (fun _ d => evEngineStart id d) s
def execEngineComplete (id : Nat) (s : State) := runEvent (evEngineComplete id) s
def execMcrdReceiverDelivery (id receiver : Nat) (s : State) := runEvent (evMcrdDelivery id receiver) s
def execCollInstanceForm (id : Nat) (agrees : Bool) (s : State) := runEvent (evCollForm id agrees) s

end Sys2Proof.Machine
end

