-- ==== Sys2Proof/Machine/EvMem.lean ====
section
/-! DEFINITION. Steps of the memory system: promises and load values (R223 to R233, R240, R250), walks (R390), writes and
markers (R280 to R286), atomics and reductions at their homes (R306 to R320), pins (R245), messages (R220, R221), code
fetches (R48). A step whose condition does not hold changes nothing. -/

namespace Sys2Proof.Machine

/-! ## Promises -/

/-- A load that a unit can quote. -/
def quotable (r : Req) : Bool :=
  isLoad r.kind && match r.st with
    | .sent | .admitted _ | .served => true
    | .walking | .refused _ => false

/-- The bound on promise-class transit between a request's core and its supplier, out and back (R219, R224; log 9). -/
def transitOf (r : Req) : Nat :=
  Config.transitOut (dieOf r.core) (homeSource (r.keys.headD 0)) + Config.transitBack (homeSource (r.keys.headD 0)) (dieOf r.core)

/-- The promise that a supplier's quote gives: send + transit + duration, the quote at most the horizon (R224, R231). -/
def promiseFor (r : Req) (duration : Nat) : Word :=
  BitVec.ofNat 32 (r.at_ / 60) + BitVec.ofNat 32 (transitOf r) + BitVec.ofNat 32 (min duration Config.horizon)

/-- The one answer to a load's probe: outside deterministic mode, and to a time that is not past (R226). -/
def answerable (d : Device) (r : Req) (duration : Nat) : Bool :=
  quotable r && r.promise.isNone && timeGe (promiseFor r duration) (d.refNow r.core) && match d.group? r.gid with
    | some g => !d.isDet g
    | none => true

/-- PROBE_ANSWER: the quote reaches the core (R224, R227). -/
def evProbeAnswer (id duration : Nat) (d : Device) : Device :=
  match d.req? id with
  | some r =>
    if answerable d r duration then
      (d.setReq { r with promise := some (promiseFor r duration) }).onGroup r.gid
        (mapReq id (answerReg (promiseFor r duration)))
    else d
  | none => d

/-- What a request or command names: its group and core, and the unit that supplies it. -/
def partyOf (d : Device) (id : Nat) : Option (Nat × Nat × Nat) :=
  match d.req? id, d.cmd? id with
  | some r, _ => some (r.gid, r.core, homeSource (r.keys.headD 0))
  | none, some c => some (c.gid, c.core, dieOf c.core)
  | none, none => none

/-- BREACH_NOTICE with its duration (R228): counted by the monitors; the core's lateness row has been applied up to the cycle
before (R227); nothing is late in a deterministic context (R424). -/
def evBreachNotice (id duration : Nat) (d : Device) : Device :=
  match partyOf d id with
  | none => d
  | some (gid, core, unit) =>
    let now := d.refNow core
    let time := now + BitVec.ofNat 32 (Config.transitBack unit (dieOf core)) + BitVec.ofNat 32 duration
    let d := { d with mon := { d.mon with breaches := d.mon.breaches + 1 } }
    let d := noticeGroup id time gid (lateGroup id (now - 1) gid d)
    match d.req? id with
    | some r => d.setReq { r with promise := r.promise.map fun p => newPromise p time }
    | none => d

/-- PROMISE_LATE (R227). -/
def evPromiseLate (id : Nat) (d : Device) : Device :=
  match partyOf d id with
  | none => d
  | some (gid, core, _) => lateGroup id (d.refNow core) gid d

/-- The reduction that a write carries, as it was buffered. -/
def redOf (w : PWrite) (a : Atomic) : Red :=
  { id := w.id, core := w.core, ctx := w.ctx, record := w.record, keys := w.cells.map (·.1), atomic := a, dom := w.dom
    va := w.va, gid := w.gid, slot := w.slot, pc := w.pc }

/-- A request whose data may still turn out uncorrectable: on its way to module memory, or to a host or another module, which
may answer with an error (R230, R312). -/
def losable (r : Req) : Bool :=
  (isLoad r.kind || isAtomicReq r) && keyKind (r.keys.headD 0) != .scratch && (match r.st with
    | .sent | .admitted _ => true
    | _ => false)

/-- The sectors of module memory that a request found uncorrectable stay so until they are written (R236, R441). -/
def lostSectors (r : Req) (d : Device) : Device :=
  let flip := if Config.flips r.id = 0 then 1 else Config.flips r.id
  { d with bad := (((r.keys.filter fun k => keyKind k == .own).map sectorOf).eraseDups.map fun n => (n, flip)) ++ d.bad }

/-- A command of a collective with other members: one whose holding die is fenced withdraws it (R268). -/
def collBreaks (c : Cmd) (cause : Cause) : Bool :=
  c.kind == .coll && cause == .barrierBroken && decide (1 < (members (collOf c).mask).length)

/-- A request whose memory is lost with a fenced die is reported (R397). -/
def missLoad (m : Memory) (r : Req) (cause : Cause) (d : Device) : Device :=
  if cause = .uncorrectable ∧ (r.keys.any (lostKey d) ∨ (r.keys = [] ∧ (List.range 4).any (fencedDie d))) then
    lostItem m r.ctx r.core r.va 0 d
  else d

/-- PROMISE_WITHDRAWAL (R230): of a load whose translation, permission, address or data failed; UNCORRECTABLE may name a
request that has not been answered yet (log 71); BARRIER_BROKEN names a collective another of whose members is lost with its
die (R268). -/
def evPromiseWithdrawal (id : Nat) (cause : Cause) (m : Memory) (d : Device) : Device :=
  match d.req? id, d.writes.find? (·.id == id) with
  | some r, _ =>
    if isLoad r.kind ∧ r.st = .refused cause ∧ !midTurn d r.gid then withdrawReq r cause 1 (missLoad m r cause d)
    else if cause = .uncorrectable ∧ losable r ∧ !midTurn d r.gid then
      withdrawReq r cause (if isLoad r.kind then 1 else 3) (lostSectors r d)
    else d
  | none, some w => match w.atomic with
    | some a =>
      if cause = .uncorrectable ∧ keyKind w.key ≠ .scratch ∧ !w.applied then
        reductionFails m (redOf w a) { d with writes := d.writes.filter (·.id != id) }
      else d
    | none => d
  | none, none => match d.cmd? id with
    | some c => if collBreaks c cause ∧ !midTurn d c.gid then withdrawCmd m c .barrierBroken 0 d else d
    | none => d

/-- The sectors and the clock that a load's answer brings (R209, R282). -/
def takeFill (r : Req) (d : Device) : Device := mergeClock (r.fill.foldl fillSector d) (dieOf r.core) r.clock

/-- The value that a load delivers (R242). -/
def loadedValue (r : Req) : Nat :=
  match r.kind with
  | .load e => extend e r.value
  | _ => extend .none r.value

/-- LOAD_VALUE_ARRIVAL (R240, R209, R282). -/
def evLoadArrival (id : Nat) (d : Device) : Device :=
  match d.req? id with
  | some r => if isLoad r.kind ∧ r.st = .served ∧ !midTurn d r.gid then arriveReq r (loadedValue r) (takeFill r d) else d
  | none => d

/-- A load's value arrives in the cycle of its promise at the latest (R226). -/
def evLoadOnTime (id : Nat) (d : Device) : Device :=
  match d.req? id with
  | some r => if isLoad r.kind ∧ r.st = .served ∧ !midTurn d r.gid then landReq r (loadedValue r) (takeFill r d) else d
  | none => d

/-! ## Walks (R386, R390) -/

/-- A load whose translation has come (R223, R230): it is refused, or served at the core, or sent on. -/
def landLoad (m : Memory) (c : Ctx) (l : Leaf) (d : Device) (r : Req) : Device :=
  match leafKey m d c r.core r.va l .r with
  | .error e => d.setReq { r with st := .refused e }
  | .ok k =>
    let (q, _, d) := probeCore { r with keys := keysFrom k r.size, dom := l.dom, region := inReplica m d c r.va, st := .sent } d
    d.setReq q

/-- The outcome of a walk for one core: its cluster's translation, else the tables'. -/
def walkOutcome (m : Memory) (d : Device) (c : Ctx) (core : Nat) (va : DWord) : Except Cause Leaf :=
  match tlbFind d true (clusOf core) c.num va with
  | some t => .ok (transLeaf t)
  | none => walk m d c va

/-- A walk ends for one core: its TLB and its cluster's are filled, or its failure is kept for the instruction that waits;
its loads on the page go on. -/
def walkCore (m : Memory) (w : Walk) (d : Device) (core : Nat) : Device :=
  match d.ctx? w.ctx with
  | none => d
  | some c =>
    let mine := fun (r : Req) => r.core == core && r.ctx == w.ctx && r.st == .walking
      && r.va.toNat / 4096 == w.va.toNat / 4096
    match walkOutcome m d c core w.va with
    | .ok l =>
      let d := tlbFill d core c.num w.va l
      match windowHeld d l.pa with
      | none => (d.reqs.filter mine).foldl (landLoad m c l) d
      | some since =>
        let e := (d.reqs.filter fun r => mine r && decide (r.id < since)).foldl (landLoad m c l) d
        if e.reqs.any mine then startWalk e core c.num w.va else e
    | .error e =>
      { d with
        walkFails := d.walkFails ++ [{ core := core, ctx := w.ctx, va := w.va, cause := e }]
        reqs := d.reqs.map fun r => if mine r then { r with st := .refused e } else r }

/-- A walk that began while HWINSET is executed for the window it leads to waits for the new configuration (R438). -/
def walkHeld (m : Memory) (d : Device) (w : Walk) : Bool :=
  match d.ctx? w.ctx with
  | none => false
  | some c => w.cores.any fun core => match walkOutcome m d c core w.va with
    | .ok l => ((windowHeld d l.pa).map fun since => decide (since ≤ w.id)).getD false
    | .error _ => false

/-- The table entries that a core's walk reads, where its cluster's buffer does not have the translation. -/
def walkReads (m : Memory) (d : Device) (w : Walk) (core : Nat) : List Nat :=
  match d.ctx? w.ctx, tlbFind d true (clusOf core) w.ctx w.va with
  | some c, none => walkPath m d w.va.toNat c.root 4
  | _, _ => []

/-- The homes of the tables serve a walk with its die's clock (R281, R282, R447), and one of the die's 128 walkers has it
(R390). -/
def walkReady (m : Memory) (d : Device) (w : Walk) : Bool :=
  let die := fun (x : Walk) => dieOf (x.cores.headD 0)
  decide ((d.walks.filter fun x => die x == die w && decide (x.id < w.id)).length < 128) &&
    w.cores.all fun core => (walkReads m d w core).all fun k => readReady d core k (clockOf d (dieOf core))

/-- The answers of the tables' homes bring their clocks. -/
def walkMerge (m : Memory) (w : Walk) (d : Device) (core : Nat) : Device :=
  (walkReads m d w core).foldl (fun d k => meetHome d (dieOf core) (homeDie k)) d

/-- TRANSLATION_WALK. -/
def evTranslationWalk (id : Nat) (m : Memory) (d : Device) : Device :=
  match d.walks.find? (·.id == id) with
  | none => d
  | some w =>
    if walkHeld m d w ∨ !walkReady m d w then d
    else w.cores.foldl (walkCore m w) (w.cores.foldl (walkMerge m w) { d with walks := d.walks.filter (·.id != id) })

/-! ## Reads at their suppliers (R213, R225, R250, R281, R282) -/

/-- The sectors of some keys. -/
def sectorsOf (keys : List Nat) : List Nat := (keys.map sectorOf).eraseDups

/-- The byte of a replica. -/
def replicaByte (x : Replica) (key : Nat) : Byte := (x.data >>> (8 * (key % 128))).truncate 8

/-- The replica of some sectors that a core's read hits in its nearest slice (R213, R284), unless it would take the slice's
cores back (R288; log 76). -/
def replicaHit (d : Device) (core : Nat) (keys : List Nat) (region : Bool) : Option Replica :=
  let key := keys.headD 0
  let die := dieOf core
  if keyKind key ≠ .own ∨ homeDie key = die ∨ region then none
  else match replicaOf d die (nearestSlice core) (key / 128) with
    | some x =>
      if x.epoch = (d.die die).epoch ∧ (sectorsOf keys).all (fun s => x.valid.getLsbD (s % 4))
          ∧ !staleFor d die x.slice x.line x.version then some x else none
    | none => none

/-- A byte of a replica as a core sees it: its own writes in the path issued before a name go first (R283). -/
def replicaSees (d : Device) (x : Replica) (core before key : Nat) : Byte :=
  (forwarded d core key before).getD (replicaByte x key)

/-- A sector that a replica fills a core's cache with. -/
def replicaSector (d : Device) (x : Replica) (core s : Nat) : PSector :=
  { core := core, key := s, version := x.version
    data := BitVec.ofNat 256 (leNat ((List.range 32).map fun i => replicaSees d x core d.nextId (s * 32 + i))) }

/-- A load served from a replica. -/
def serveReplica (r : Req) (x : Replica) (d : Device) : Device :=
  let d := (useWay { die := x.die, slice := x.slice, line := x.line, replica := true } d).getD d
  noteVersion r.core x.line x.version (d.setReq { r with
    st := .served
    value := leNat (r.keys.map (replicaSees d x r.core r.id))
    fill := if r.noFill then [] else (sectorsOf r.keys).map (replicaSector d x r.core) })

/-- SLICE_ADMIT (R225): a replica's value is fixed at admission; any other load takes a slot. -/
def evSliceAdmit (id slot : Nat) (d : Device) : Device :=
  match d.req? id with
  | some r =>
    if isLoad r.kind ∧ r.st = .sent ∧ !haltedKey d (r.keys.headD 0) ∧ !haltedDie d (dieOf r.core) then
      match replicaHit d r.core r.keys r.region with
      | some x => if held d r.core r.keys r.id ∨ loadAhead d r.core r.keys r.id then d else serveReplica r x d
      | none => d.setReq { r with st := .admitted slot }
    else d
  | none => d

/-- The sectors that a home's answer fills a core's cache with: every write in the core's path is merged (R233, R283). -/
def homeFill (m : Memory) (d : Device) (r : Req) : List PSector :=
  let key := r.keys.headD 0
  if (keyKind key = .own ∨ keyKind key = .other) ∧ !r.noFill then
    (sectorsOf r.keys).map fun s =>
      { core := r.core, key := s, data := sectorData m d r.core d.nextId s, version := lineVersion d key, region := r.region }
  else []

/-- A load's value leaves its home (R281, R282, R284). -/
def serveHome (m : Memory) (r : Req) (d : Device) : Device :=
  let key := r.keys.headD 0
  if r.keys.any (badSector d · r.dom) then d.setReq { r with st := .refused .uncorrectable }
  else
    let near := keyKind key = .scratch
    let d := if near then d else mergeClock d (homeSource key) r.clock
    let d := if keyKind key = .own then touchLine (noteSeen r.core (key / 128) d) (key / 128) else d
    d.setReq { r with
      st := .served
      value := natAt m d r.core r.id r.keys
      fill := homeFill m d r
      clock := if near then r.clock else clockOf d (homeSource key) }

/-- A read that goes to a host or to another module. -/
def rmaRead (r : Req) : Bool :=
  isLoad r.kind && r.st != .walking && r.st != .served && (keyKind (r.keys.headD 0) == .host || keyKind (r.keys.headD 0) == .other)

/-- The port die has room for a read: 16,384 are outstanding at most, the oldest first (R439; log 18). -/
def rmaRoom (d : Device) (r : Req) : Bool :=
  !rmaRead r || decide ((d.reqs.filter fun q => rmaRead q && decide (q.id < r.id)).length < 16384)

/-- Whether a read of a line serves a request now: admitted, or one that needs no slot; no earlier load of the core is ahead
of it on the sector (R225), R313 and R318 do not hold it, and the port die takes it (R439). -/
def servable (d : Device) (line : Nat) (r : Req) : Bool :=
  isLoad r.kind && (match r.st with
    | .admitted _ => true
    | .sent => keyKind (r.keys.headD 0) == .scratch || keyKind (r.keys.headD 0) == .host
    | _ => false)
    && r.keys.headD 0 / 128 == line && !held d r.core r.keys r.id && !loadAhead d r.core r.keys r.id
    && readReady d r.core (r.keys.headD 0) r.clock && rmaRoom d r

/-- A load of the line that waits for an earlier one's fill joins it (R225). -/
def joins (d : Device) (line : Nat) (r : Req) : Bool :=
  isLoad r.kind && r.st == .sent && r.keys.headD 0 / 128 == line && !r.noFill && (fillOnWay d r.core (r.keys.headD 0)).isSome

/-- What a line's read does for one request. -/
def serveOne (m : Memory) (line : Nat) (d : Device) (r : Req) : Device :=
  if servable d line r then serveHome m r d
  else if joins d line r then
    let (q, _, d) := probeCore r d
    d.setReq q
  else d

/-- LINE_READ_SERVE: one read serves every joined request, the oldest first. -/
def evLineReadServe (line : Nat) (m : Memory) (d : Device) : Device := d.reqs.foldl (serveOne m line) d

/-- A code line's sectors from a replica, or from the home that has caught up with the die's clock (R48, R213, R281, R282). -/
def codeFill (m : Memory) (f : Fetch) (region : Bool) (d : Device) (s : Nat) : Device :=
  match replicaHit d f.core [s * 32] region with
  | some x => fillSector (noteVersion f.core x.line x.version d) (replicaSector d x f.core s)
  | none =>
    if badSector d (s * 32) f.dom then d
    else
      let d := touchLine (noteSeen f.core (s / 4) (meetHome d (dieOf f.core) (homeSource (s * 32)))) (s / 4)
      fillSector d { core := f.core, key := s, data := sectorData m d f.core d.nextId s, version := lineVersion d (s * 32)
                     region := region }

/-- CODE_FETCH_RETURN: the 64 bytes of the block enter the private cache. -/
def evCodeFetchReturn (id : Nat) (m : Memory) (d : Device) : Device :=
  match d.fetches.find? (·.id == id) with
  | none => d
  | some f =>
    if !readReady d f.core f.key (clockOf d (dieOf f.core)) then d
    else
      let region := ((d.ctx? f.ctx).map fun c => inReplica m d c f.va).getD false
      (sectorsOf (keysFrom f.key 64)).foldl (codeFill m f region) { d with fetches := d.fetches.filter (·.id != id) }

/-! ## Writes (R280 to R286) -/

/-- Two writes share a byte. -/
def overlaps (a b : List Host.Cell) : Bool := a.any fun x => b.any fun y => x.1 == y.1

/-- The place of a write in its source's order: one that has not left its core leaves last (R280). -/
def sendPlace (d : Device) (w : PWrite) : Nat := if w.sent then w.seq else d.nextId

/-- The stamp of a write: the source's clock as it left (R280). -/
def stampOf (d : Device) (w : PWrite) : Clock := if w.sent then w.stamp else clockOf d w.source

/-- Whether a write can be applied at its home: behind what its core wrote before to the same bytes, behind what its
source sent before to the home, with the applied counts of R281, and past the holds of R313 and R318. -/
def writeReady (d : Device) (w : PWrite) : Bool :=
  !w.applied && !held d w.core (w.cells.map (·.1)) w.id
    && !(d.writes.any fun x => x.core == w.core && decide (x.id < w.id) && !x.applied && overlaps x.cells w.cells)
    && hopReady d w.source w.key (sendPlace d w) (stampOf d w)

/-- What applying a write does: its home merges the stamp (R282); the core's own cached copies of an RMW's bytes go. -/
def applyWrite (m : Memory) (w : PWrite) (d : Device) : Device :=
  let w := { w with stamp := stampOf d w }
  let e := if keyKind w.key = .scratch then d else mergeClock d (homeSource w.key) w.stamp
  match w.atomic, keyKind w.key with
  | some a, _ => dropSectors (performRed m e (redOf w a)) w.core (w.cells.map (·.1))
  | none, .own => applyPlain w d
  | none, _ => pokeCells e w.cells

/-- HOME_WRITE_APPLY: a write to another module or a host then waits for its acknowledgement (R301). -/
def evHomeWriteApply (id : Nat) (m : Memory) (d : Device) : Device :=
  match d.writes.find? (·.id == id) with
  | none => d
  | some w =>
    if !writeReady d w then d
    else
      let far := keyKind w.key = .other ∨ keyKind w.key = .host
      let d := applyWrite m w d
      if far then { d with writes := d.writes.map fun x => if x.id = id then { x with applied := true } else x }
      else { d with writes := d.writes.filter (·.id != id) }

/-- REMOTE_WRITE_ACK (R301). -/
def evRemoteWriteAck (id : Nat) (d : Device) : Device :=
  { d with writes := d.writes.filter fun w => !(w.id == id && w.applied) }

/-- MARKER_PROCESS (R281): the oldest marker of a pair, once every write sent before it has been applied. -/
def evMarkerProcess (source sink : Nat) (d : Device) : Device :=
  match d.markers.find? fun k => k.source == source && k.sink == sink with
  | none => d
  | some k =>
    if !sourceClear d source sink k.seq then d
    else
      let a := appliedOf d sink
      { d with
        markers := d.markers.filter fun x => !(x.source == source && x.sink == sink && x.seq == k.seq)
        applied := d.applied.set! sink (a.set! source (max (a.at_ source) k.value)) }

/-! ## Atomics and reductions (R306 to R317) -/

/-- Whether a with-return atomic can be performed now. -/
def atomicReady (d : Device) (r : Req) : Bool :=
  let key := r.keys.headD 0
  r.st == .sent
    && !(d.writes.any fun x => x.core == r.core && decide (x.id < r.id) && !x.applied && x.cells.any fun c => r.keys.contains c.1)
    && rmwReady d r.core key r.id r.clock

/-- ATOMIC_HOME_STEP. -/
def evAtomicHomeStep (id : Nat) (m : Memory) (d : Device) : Device :=
  match d.req? id with
  | none => d
  | some r => match r.kind with
    | .atomic a =>
      if !atomicReady d r then d
      else
        let near := keyKind (r.keys.headD 0) = .scratch
        let home := homeSource (r.keys.headD 0)
        let d := if near then d else mergeClock d home r.clock
        match applyAtomic m r.keys r.dom a d with
        | some (old, d) =>
          let d := noteSeen r.core (r.keys.headD 0 / 128) (dropSectors d r.core r.keys)
          d.setReq { r with st := .served, value := old, clock := if near then r.clock else clockOf d home }
        | none => d.setReq { r with st := .refused .uncorrectable }
    | _ => d

/-- ATOMIC_REPLY (R312, R313). -/
def evAtomicReply (id : Nat) (m : Memory) (d : Device) : Device :=
  match d.req? id with
  | none => d
  | some r =>
    if !isAtomicReq r ∨ midTurn d r.gid then d
    else match r.st with
      | .served => arriveReq r r.value (mergeClock d (dieOf r.core) r.clock)
      | .refused c => withdrawReq r c 3 (missLoad m r c d)
      | _ => d

/-- The ordered entries that a home slice holds in its own storage (R320). -/
def sliceHolds (d : Device) (key : Nat) : Nat :=
  (d.reds.filter fun r => r.atHome && !r.spilled && homeDie (r.keys.headD 0) == homeDie key
    && homeSlice (r.keys.headD 0) == homeSlice key).length

/-- An ordered reduction reaches its home slice and is held there; where the slice's storage is full it goes to the overflow
area, if that has room (R320). -/
def holdRed (m : Memory) (r : Red) (d : Device) : Device :=
  let put := fun (d : Device) (n : Option Nat) => { d with reds := d.reds.map fun x =>
    if x.id = r.id then { x with atHome := true, spilled := n.isSome, cell := n.getD 0 } else x }
  if sliceHolds d (r.keys.headD 0) < Config.sliceStore then put d none
  else match d.ctx? r.ctx with
    | none => d
    | some c =>
      let n := if r.spilled then r.cell else freeCell d c.num
      if areaRoom d c.num = 0 ∧ !r.spilled then d
      else match deviceSites m d c (cellVa c n) .w 2 with
        | .error e => spillFails m r e d
        | .ok _ => put d (some n)

/-- An entry of a reduction buffer, or a spilled record, on its way to its home as an RMW, behind what its source has sent
before; an ordered one is held there (R316, R317, R320). -/
def sendRed (m : Memory) (r : Red) (d : Device) : Device :=
  if r.order.isSome then holdRed m r d
  else
    let source := dieOf r.core
    let w : PWrite :=
      { id := r.id, source := source, core := r.core, gid := r.gid, slot := r.slot, key := r.keys.headD 0
        cells := r.keys.map fun k => (k, 0), stamp := clockOf d source, dom := r.dom, atomic := some r.atomic
        record := r.record, ctx := r.ctx, va := r.va, pc := r.pc, seq := d.nextId, also := r.also }
    { d with reds := d.reds.filter (·.id != r.id), writes := d.writes ++ [w], nextId := d.nextId + 1 }

/-- A spilled record that is still to be drained. -/
def undrained (r : Red) : Bool := r.spilled && !r.atHome

/-- REDUCTION_ENTRY_LEAVE: the oldest entry of the core for a location; behind spilled ones it is spilled (R317). -/
def evReductionLeave (core key : Nat) (m : Memory) (d : Device) : Device :=
  match (buffered d core).find? fun r => r.keys.headD 0 == key with
  | none => d
  | some r => if d.reds.any fun x => x.core == core && undrained x then spill m r d else sendRed m r d

/-- OVERFLOW_DRAIN: the oldest spilled record of a context's cores on a die (R317, R379). -/
def evOverflowDrain (ctx die : Nat) (m : Memory) (d : Device) : Device :=
  match d.reds.find? fun r => r.ctx == ctx && undrained r && dieOf r.core == die, d.ctx? ctx with
  | some r, some c => match deviceSites m d c (cellVa c r.cell) .r 2 with
    | .ok _ => sendRed m r d
    | .error e => spillFails m r e d
  | _, _ => d

/-! ## Pins (R211, R245) -/

/-- Two lines stand in one set of one home slice (R208). -/
def sameSet (a b : Nat) : Bool :=
  homeDie (a * 128) == homeDie (b * 128) && homeSlice (a * 128) == homeSlice (b * 128) && homeSet (a * 128) == homeSet (b * 128)

/-- The outcome code of a PIN, and the pins after it. -/
def pinOutcome (ctx : Nat) (line : Option Nat) (pins : List (Nat × Nat)) : Nat × List (Nat × Nat) :=
  match line with
  | none => (3, pins)
  | some l =>
    let lines := ((pins.map (·.2)).filter (sameSet l)).eraseDups
    if pins.contains (ctx, l) then (1, pins)
    else if 16 ≤ lines.length ∧ !lines.contains l then (2, pins)
    else (0, (ctx, l) :: pins)

/-- PIN_OUTCOME. -/
def evPinOutcome (id : Nat) (d : Device) : Device :=
  match d.req? id with
  | none => d
  | some r =>
    if r.kind ≠ .pin ∨ midTurn d r.gid ∨ r.keys.any (haltedKey d) then d
    else
      let (code, pins) := pinOutcome r.ctx (r.keys.head?.map lineOf) d.pins
      let d := { d with pins := pins }
      arriveReq r code (if code ≤ 1 then touchLine d (lineOf (r.keys.headD 0)) else d)

/-! ## Messages (R220, R221, R251, R252) -/

/-- Logs a message that is not appended (R220, R398). -/
def rejectMsg (m : Memory) (x : Msg) (d : Device) : Device :=
  logAppend m x.ctx { kind := 5, core := x.from_, mask := bitOf x.slot, pc := x.pc } d

/-- The bytes of a slot: the message, zero-padded, at consecutive offsets of the receiving region. -/
def slotCells (c : Ctx) (core off size : Nat) (bs : List Byte) : List Host.Cell :=
  (List.range size).filterMap fun i => (regionKey c core (off + i) 1 0).map fun k => (k, bs.getD i 0)

/-- The core of a scratchpad key. -/
def ringCore (key : Nat) : Nat := scratchCore key

/-- Appends a message to its ring, whose header holds `h`. -/
def appendMsg (x : Msg) (c : Ctx) (h : Nat) (d : Device) : Device :=
  let size := 16 * 2 ^ bits h 64 2
  let tail := bits h 32 32
  let cells := slotCells c (ringCore x.key) (bits h 96 32 + tail % 2 ^ bits h 80 4 * size) size x.bytes
  let d := pokeCells d cells
  let d := pokeCells d (cellsOf (keysFrom (x.key + 4) 4) ((tail + 1) % 2 ^ 32))
  { d with
    msgs := d.msgs.filter (·.id != x.id)
    groups := d.groups.map fun g => if g.core = ringCore x.key then wakeRing x.key g else g }

/-- A message that must be appended before another: of the same thread, sent before; or waiting on the full ring. -/
def msgBefore (x y : Msg) : Bool :=
  y.key == x.key && y.id != x.id && ((decide (y.id < x.id) && y.gid == x.gid && y.slot == x.slot) || (y.waits && !x.waits)
    || (y.waits && x.waits && decide (y.id < x.id)))

/-- MESSAGE_APPEND. -/
def evMessageAppend (id : Nat) (m : Memory) (d : Device) : Device :=
  match d.msgs.find? (·.id == id) with
  | none => d
  | some x => match d.ctx? x.ctx with
    | none => { d with msgs := d.msgs.filter (·.id != id) }
    | some c =>
      if d.msgs.any (msgBefore x) then d
      else
        let h := natHome m d (keysFrom x.key 16)
        if bits h 66 14 ≠ 0 ∨ bits h 84 12 ≠ 0 ∨ 12 < bits h 80 4 ∨ bits h 64 2 = 3
            ∨ 16 * 2 ^ bits h 64 2 < x.bytes.length then
          rejectMsg m x { d with msgs := d.msgs.filter (·.id != id) }
        else if 2 ^ bits h 80 4 ≤ (bits h 32 32 + 2 ^ 32 - bits h 0 32) % 2 ^ 32 then
          { d with msgs := d.msgs.map fun y => if y.id = id then { y with waits := true } else y }
        else appendMsg x c h d

/-! ## The steps -/

def execProbeAnswer (id duration : Nat) (s : State) := runEvent (fun _ d => evProbeAnswer id duration d) s
def execBreachNotice (id duration : Nat) (s : State) := runEvent (fun _ d => evBreachNotice id duration d) s
def execPromiseLate (id : Nat) (s : State) := runEvent (fun _ d => evPromiseLate id d) s
def execPromiseWithdrawal (id : Nat) (cause : Cause) (s : State) := runEvent (evPromiseWithdrawal id cause) s
def execLoadValueArrival (id : Nat) (s : State) := runEvent (fun _ d => evLoadArrival id d) s
def execTranslationWalk (id : Nat) (s : State) := runEvent (evTranslationWalk id) s
def execSliceAdmit (id slot : Nat) (s : State) := runEvent (fun _ d => evSliceAdmit id slot d) s
def execLineReadServe (line : Nat) (s : State) := runEvent (evLineReadServe line) s
def execCodeFetchReturn (id : Nat) (s : State) := runEvent (evCodeFetchReturn id) s
def execHomeWriteApply (id : Nat) (s : State) := runEvent (evHomeWriteApply id) s
def execRemoteWriteAck (id : Nat) (s : State) := runEvent (fun _ d => evRemoteWriteAck id d) s
def execMarkerProcess (source sink : Nat) (s : State) := runEvent (fun _ d => evMarkerProcess source sink d) s
def execAtomicHomeStep (id : Nat) (s : State) := runEvent (evAtomicHomeStep id) s
def execAtomicReply (id : Nat) (s : State) := runEvent (evAtomicReply id) s
def execReductionEntryLeave (core key : Nat) (s : State) := runEvent (evReductionLeave core key) s
def execOverflowDrain (ctx die : Nat) (s : State) := runEvent (evOverflowDrain ctx die) s
def execPinOutcome (id : Nat) (s : State) := runEvent (fun _ d => evPinOutcome id d) s
def execMessageAppend (id : Nat) (s : State) := runEvent (evMessageAppend id) s

end Sys2Proof.Machine
end

