-- ==== Sys2Proof/Machine/Proc.lean ====
section
/-! DEFINITION. The procedure table (R380 to R382), register blocks and slots of a core's spans (R85, R417), what a group
can take (R71, R414). -/

namespace Sys2Proof.Machine

/-! ## Procedure records (R380) -/

structure Proc where
  start : Nat
  stop : Nat
  d : Nat
  x : Nat
  gw : Nat
  gh : Nat
  scr : Nat
  shd : Nat
  live : Nat
  nlive : Nat
  rsv : Nat
deriving DecidableEq, Repr

def procFrom (v : Nat) : Proc :=
  { start := bits v 0 32, stop := bits v 32 32, d := bits v 64 8, x := bits v 72 8, gw := bits v 80 8, gh := bits v 88 8
    scr := bits v 96 32, shd := bits v 128 32, live := bits v 160 32, nlive := bits v 192 32, rsv := bits v 224 32 }

/-- Record `i` of a context's table. -/
def procAt (m : Memory) (d : Device) (c : Ctx) (i : Nat) : Option Proc :=
  match deviceRead m d c (c.procTab + BitVec.ofNat 64 (32 * i)) 2 with
  | .ok bs => some (procFrom (leNat bs))
  | .error _ => none

/-- The record that contains a code offset. -/
def procOf (m : Memory) (d : Device) (c : Ctx) (o : Nat) : Option Proc :=
  (List.range c.nproc).findSome? fun i => match procAt m d c i with
    | some p => if p.start ≤ o ∧ o < p.stop then some p else none
    | none => none

/-- The code offset of an entry's shadow procedure: the word at CODE - 4 (R71); 0 where it cannot be read (log 20). -/
def shadowCode (m : Memory) (d : Device) (c : Ctx) (core : Nat) (code : Word) : Word :=
  match codeKey m d c core (codeAddr c.codeBase code - 4) with
  | .ok k => BitVec.ofNat 32 (codeNat m d core k 4)
  | .error _ => 0

/-- d and x of the shadow of an entry: those of its procedure's record. -/
def shadowAlloc (m : Memory) (d : Device) (c : Ctx) (core : Nat) (code : Word) : Nat × Nat :=
  match procOf m d c (shadowCode m d c core code).toNat with
  | some p => (p.d, p.x)
  | none => (c.d, c.x)

/-! ## Slots and blocks (R85, R417) -/

/-- Resident groups of a span. -/
def residents (d : Device) (core : Nat) (span : BitVec 4) : List Group :=
  d.groups.filter fun g => g.core == core && (g.place.map (·.1)) == some span

def freeSlots (d : Device) (core : Nat) (span : BitVec 4) : List (BitVec 3) :=
  ((List.range 8).map (BitVec.ofNat 3)).filter fun k =>
    !(residents d core span).any fun g => (g.place.map (·.2)) == some k

/-- Registers of a slot that are not occupied. -/
def freeRegs (d : Device) (core : Nat) (span : BitVec 4) : Nat :=
  256 - ((residents d core span).map fun g => g.d + g.x).sum

/-- Two register runs share a register. -/
def runsMeet (a n b k : Nat) : Bool := decide (a < b + k) && decide (b < a + n)

/-- The lowest free block of `n` registers aligned to 8, beside the runs given. -/
def freeBlock (runs : List (Nat × Nat)) (n : Nat) : Option Nat :=
  ((List.range 32).map (8 * ·)).find? fun b => decide (b + n ≤ 256) && !runs.any fun r => runsMeet b n r.1 r.2

/-- The runs that blocks occupy; one that moves holds all from its new place to its old end (R418). -/
def runsOf (gs : List Group) : List (Nat × Nat) :=
  gs.map fun g => if g.moving = 0 then (g.base, g.d + g.x) else (g.moveTo, g.base + g.d + g.x - g.moveTo)

def allSpans : List (BitVec 4) := (List.range 16).map (BitVec.ofNat 4)

/-- What a group and its shadow need: their footprints. -/
def footprints (d : Device) (g : Group) : List Nat :=
  (g.d + g.x) :: match shadowOf d g.gid with
    | some h => [h.d + h.x]
    | none => []

/-- Blocks for some footprints in a span, in order. -/
def blocksFor (runs : List (Nat × Nat)) (ns : List Nat) : Option (List Nat) :=
  match ns with
  | [] => some []
  | n :: rest => match freeBlock runs n with
    | none => none
    | some b => (blocksFor ((b, n) :: runs) rest).map (b :: ·)

/-- Whether a span can take a group with its shadow (R417). -/
def spanTakes (d : Device) (core : Nat) (ns : List Nat) (span : BitVec 4) : Bool :=
  decide (ns.length ≤ (freeSlots d core span).length) && (blocksFor (runsOf (residents d core span)) ns).isSome

/-- The span with the most free registers among some, ties to the lower. -/
def roomiest (d : Device) (core : Nat) (l : List (BitVec 4)) : Option (BitVec 4) :=
  l.foldl (fun best s => match best with
    | none => some s
    | some b => if freeRegs d core b < freeRegs d core s then some s else best) none

/-! ## What a group can take (R71, R414) -/

/-- A group's span can take the shadow of an entry. -/
def shadowFits (m : Memory) (d : Device) (c : Ctx) (g : Group) (code : Word) : Bool :=
  match g.place with
  | none => false
  | some (s, _) =>
    let a := shadowAlloc m d c g.core code
    decide (24 ≤ g.d) && !(freeSlots d g.core s).isEmpty
      && (freeBlock (runsOf (residents d g.core s)) (a.1 + a.2)).isSome

/-- The allocation check of R414. -/
def allocFits (m : Memory) (d : Device) (c : Ctx) (gd gx : Nat) (code : Word) : Bool :=
  match procOf m d c code.toNat with
  | some p => decide (p.d ≤ gd) && decide (p.x ≤ gx)
  | none => true

def canTake (m : Memory) (d : Device) (c : Ctx) (g : Group) (ws : List Word) : Bool :=
  allocFits m d c g.d g.x (entCode ws) && (!entShd ws || shadowFits m d c g (entCode ws))

/-- Why no group of a context can ever take an entry (R414). -/
def neverTaken (m : Memory) (d : Device) (c : Ctx) (ws : List Word) : Option Cause :=
  if !allocFits m d c c.d c.x (entCode ws) then some .illegalOperand
  else if entShd ws ∧ c.d < 24 then some .illegalOperand
  else if c.resw < entGw ws ∨ c.resh < entGh ws then some .place
  else none

end Sys2Proof.Machine
end

