-- ==== Sys2Proof/Machine/EvTask.lean ====
section
/-! DEFINITION. Steps of tasks and queues: QPOST answers (R335), futures (R68, R339), held entries (R338), the end update
(R65, R318), host enqueues (R409), dependence notices (R410), aging (R411), pulls and gang grants (R412 to R415), task
starts and shadows (R58, R71, R75, R413, R416). A step whose condition does not hold changes nothing. -/

namespace Sys2Proof.Machine

/-! ## Answers -/

/-- An earlier QPOST of the group has its entries still to be enqueued: they become visible in issue order (R335). -/
def postsBefore (d : Device) (r : Req) : Bool :=
  d.reqs.any fun q => q.gid == r.gid && decide (q.id < r.id) && match q.kind with
    | .qpost _ _ st => st.isNone
    | _ => false

/-- QPOST_STATUS (R335); in a deterministic context the entries are enqueued when the posting turn completes (R425). -/
def evQpostStatus (id : Nat) (m : Memory) (d : Device) : Device :=
  match d.req? id with
  | none => d
  | some r => match r.kind with
    | .qpost q images st =>
      if midTurn d r.gid ∨ (st.isNone && postsBefore d r) then d
      else match st with
        | some x => arriveReq r x.toNat d
        | none =>
          let (x, d) := postImages m r.ctx q images d
          arriveReq r x.toNat d
    | _ => d

/-- The FGET of a group that is answered next: requests are answered in slot order (R339). -/
def fgetFirst (d : Device) (r : Req) : Bool :=
  r.kind == .fget && !(d.reqs.any fun q => q.gid == r.gid && q.kind == .fget && decide (q.id < r.id))

/-- An FGET finds its future EMPTY: the entry is parked and the task squashed (R69). -/
def fgetEmpty (m : Memory) (r : Req) (key : Nat) (d : Device) : Device :=
  match (d.group? r.gid).bind (·.task), d.ctx? r.ctx with
  | some t, some c =>
    let d := parkEntry m c t key d
    squashTask r.gid { d with reqs := d.reqs.filter fun q => !(q.gid == r.gid && q.kind == .fget) }
  | _, _ => d.dropReq r.id

/-- The home acts on an FGET that found its future EMPTY in the pass: by now it may be FULL (R68, R282). -/
def fgetHome (m : Memory) (r : Req) (d : Device) : Device :=
  let key := r.keys.headD 0
  if lostKey d key ∨ r.keys.any (badSector d · r.dom) then d.setReq { r with st := .refused .uncorrectable }
  else
    let d := noteSeen r.core (key / 128) (mergeClock d (homeSource key) r.clock)
    if (futureOf d key).full then
      d.setReq { r with st := .served, value := natHome m d r.keys, clock := clockOf d (homeSource key) }
    else fgetEmpty m r key d

/-- The value of an FGET arrives, with an acquire at PKG after it (R339). -/
def fgetValue (r : Req) (d : Device) : Device :=
  let e := mergeClock d (dieOf r.core) r.clock
  match e.group? r.gid with
  | some g => if acquireReady e g r.slot .pkg then acquireAct r.core .pkg (arriveReq r r.value e) else d
  | none => d

/-- An FGET is withdrawn; where its home is lost with a die its task fails (R312, R340). -/
def fgetRefused (m : Memory) (r : Req) (c : Cause) (d : Device) : Device :=
  let e := withdrawReq r c 3 (missLoad m r c d)
  if lostKey d (r.keys.headD 0) then failTask m r.gid (causeCode c) (bitOf r.slot) r.pc r.va e else e

/-- FGET_ANSWER (R68, R339); a dropped request is answered to nobody. -/
def evFgetAnswer (id : Nat) (m : Memory) (d : Device) : Device :=
  match d.req? id with
  | none => d
  | some r =>
    if r.kind ≠ .fget then d
    else if r.dropped then d.dropReq id
    else if !fgetFirst d r ∨ midTurn d r.gid then d
    else match r.st with
      | .served => fgetValue r d
      | .refused c => fgetRefused m r c d
      | _ => if rmwReady d r.core (r.keys.headD 0) r.id r.clock then fgetHome m r d else d

/-! ## Entries (R338, R409 to R411) -/

/-- HELD_ENTRY_ENQUEUE (R338): the first held entry of a queue with room. -/
def evHeldEnqueue (ctx queue : Nat) (m : Memory) (d : Device) : Device :=
  match d.ctx? ctx, d.entries.find? fun e => e.ctx == ctx && e.queue == queue && e.held with
  | some c, some e => if queueFull d c queue then d else fileEntry m c e d
  | _, _ => d

/-- HOST_ENQUEUE: the host receives the status word (R335, R409, R439). -/
def evHostEnqueue (ctx session queue : Nat) (image : List Byte) (m : Memory) (d : Device) : Device :=
  let (s, d) := enqueueAll m ctx queue false [entWords image] 0 {} d
  d.send (.enqueued session (statusWord s))

/-- DEP_COUNTER_NOTICE (R410): the notice of a write that left the counter at zero; a counter lost with its die fails the
entry. -/
def evDepNotice (entry : Nat) (m : Memory) (d : Device) : Device :=
  match d.entry? entry with
  | none => d
  | some e => match e.watch with
    | none => d
    | some k =>
      if lostKey d k then failEntry m e.ctx e.words .uncorrectable { d with entries := d.entries.filter (·.id != e.id) }
      else if e.noted then { d.setEntry { runnableFrom d e with since := d.nextId } with nextId := d.nextId + 1 }
      else d

/-- Ticks in a millisecond. -/
def milliTicks : Nat := 1000 * microTicks

/-- AGING_TICK: a full millisecond that an entry has been runnable and not delivered (R411). -/
def evAgingTick (entry : Nat) (d : Device) : Device :=
  match d.entry? entry with
  | none => d
  | some e =>
    if e.runnable ∧ e.agedAt + milliTicks ≤ d.elapsed then
      d.setEntry { e with ageMs := e.ageMs + 1, agedAt := e.agedAt + milliTicks }
    else d

/-- R411. -/
def effPrio (e : Entry) : Nat := min 7 (entPrio e.words + e.ageMs)

/-! ## End of a task (R65, R318) -/

/-- The task's reductions, and its plain writes and messages, are performed, as a release at PKG has them (R278). -/
def endClear (d : Device) (u : EndUpdate) : Bool :=
  !(d.reds.any fun r => r.record == some (u.record, u.ctx) && r.order.isNone && decide (r.id < u.id))
    && !(d.writes.any fun w => decide (w.id < u.id) && !w.applied &&
        ((w.record == some (u.record, u.ctx)) || (u.cores.contains w.core &&
          (!w.sent || keyKind w.key == .scratch || (keyKind w.key == .own && homeDie w.key == dieOf w.core)))))
    && !(d.msgs.any fun x => decide (x.id < u.id) && u.cores.contains x.core)

/-- The homes of a record, and of the parents that its update reaches, can act: each has caught up with the clock that the
update brings (R65, R281, R302). -/
def chainReady (m : Memory) (d : Device) (c : Ctx) (record : DWord) (source before : Nat) (clk : Clock) : Nat → Bool
  | 0 => true
  | n + 1 => match recordKey m d c record with
    | .error _ => true
    | .ok k =>
      let r := readRecord m d k.1
      let home := homeSource k.1
      hopReady d source k.1 before clk
        && (r.out != 1 || r.parent == 0 || chainReady m d c r.parent home d.nextId (clk.join (clockOf d home)) n)

/-- The home of the record can act. -/
def recordReady (m : Memory) (d : Device) (u : EndUpdate) : Bool :=
  match d.ctx? u.ctx with
  | none => true
  | some c => chainReady m d c u.record (dieOf u.core) u.id (clockOf d (dieOf u.core)) (chainBound m d)

/-- TASK_END_UPDATE: a release at PKG scope, then the row of R65. -/
def evTaskEnd (id : Nat) (m : Memory) (d : Device) : Device :=
  match d.ends.find? (·.id == id) with
  | none => d
  | some u =>
    if !endClear d u ∨ !recordReady m d u then d
    else
      let d := { d with ends := d.ends.filter (·.id != id) }
      let d := if fencedDie d (dieOf u.core) then d else releaseClock (dieOf u.core) d
      endRow m u.ctx u.core u.record u.failed (clockOf d (dieOf u.core)) d (chainBound m d)

/-! ## Groups that can take an entry (R412, R413, R416) -/

/-- A resident IDLE group of a context that may take an entry: no gang of which it ran a member still runs (R75). -/
def idleGroup (ctx : Nat) (g : Group) : Bool :=
  g.ctx == ctx && g.gang.isNone && g.place.isSome && g.cond == .idle && match g.hold with
    | .qtake _ => true
    | _ => false

/-- An entry is on its way to a group. -/
def pulledTo (d : Device) (gid : Nat) : Bool := d.entries.any fun e => e.pulled == some gid

/-- A gang member of the context has still to start on a core (R416). -/
def reserved (c : Ctx) (core : Nat) : Bool := c.gangs.any fun k => k.toStart.contains core

/-- The group that has been IDLE longest. -/
def oldestIdle (gs : List Group) : Option Group :=
  gs.foldl (fun best g => match best with
    | none => some g
    | some b => if g.idleAt < b.idleAt then some g else best) none

/-- The group whose request is the oldest. -/
def oldestAsk (gs : List Group) : Option Group :=
  gs.foldl (fun best g => match best with
    | none => some g
    | some b => if g.asked < b.asked then some g else best) none

/-- Where an entry that is not a gang's would go on a die: to the core whose request is the oldest, and there to the group
that has been IDLE longest (R413). -/
def targetOf (m : Memory) (d : Device) (c : Ctx) (die : Nat) (ws : List Word) : Option Group :=
  let gs := d.groups.filter fun g =>
    idleGroup c.num g && dieOf g.core == die && !pulledTo d g.gid && !reserved c g.core && canTake m d c g ws
  (oldestAsk gs).bind fun a => oldestIdle (gs.filter (·.core == a.core))

/-! ## Gangs (R415) -/

def rectsMeet (a b : Rect) : Bool :=
  a.die == b.die && a.clus == b.clus && decide (a.x < b.x + b.w) && decide (b.x < a.x + a.w)
    && decide (a.y < b.y + b.h) && decide (b.y < a.y + a.h)

/-- The positions of a gang within a context rectangle, y first, then x. -/
def positionsIn (r : Rect) (w h : Nat) : List Rect :=
  (List.range (r.h + 1 - h)).flatMap fun j => (List.range (r.w + 1 - w)).map fun i =>
    { r with x := r.x + i, y := r.y + j, w := w, h := h }

/-- The free positions on a die (of every die for `none`), in tie order. -/
def freePositions (c : Ctx) (die : Option Nat) (ws : List Word) : List Rect :=
  ((c.rects.filter fun r => (die.map (r.die == ·)).getD true).flatMap fun r =>
    if r.w < entGw ws ∨ r.h < entGh ws then [] else positionsIn r (entGw ws) (entGh ws)).filter fun p =>
      !c.gangs.any fun k => rectsMeet p k.rect

/-- Resident IDLE groups of a context in a rectangle. -/
def idleIn (d : Device) (ctx : Nat) (r : Rect) : Nat :=
  (d.groups.filter fun g => idleGroup ctx g && inRect r g.core).length

/-- The position with the most of them; the first of equals. -/
def bestPosition (d : Device) (ctx : Nat) (ps : List Rect) : Option Rect :=
  ps.foldl (fun best p => match best with
    | none => some p
    | some b => if idleIn d ctx b < idleIn d ctx p then some p else best) none

/-- Grants a position to a gang entry: its members wait to start. -/
def grantGang (c : Ctx) (e : Entry) (r : Rect) (d : Device) : Device :=
  let k : Gang :=
    { id := e.id, words := e.words, queue := e.queue, rect := r, toStart := rectCores r, running := r.w * r.h }
  { d.setCtx { c with gangs := c.gangs ++ [k] } with entries := d.entries.filter (·.id != e.id) }

/-! ## Pulls (R412, R414) -/

/-- An entry that may be offered. -/
def offered (ctx : Nat) (e : Entry) : Bool :=
  e.ctx == ctx && e.runnable && e.pulled.isNone && e.parked.isNone && !e.held

/-- A die can place an entry, or the entry fails where it would be pulled. -/
def placeable (m : Memory) (d : Device) (c : Ctx) (die : Nat) (e : Entry) : Bool :=
  (neverTaken m d c e.words).isSome ||
    (if entGang e.words then !(freePositions c (some die) e.words).isEmpty else (targetOf m d c die e.words).isSome)

/-- A queue manager's best entry: higher effective priority, lower queue number, earlier in its queue. -/
def bestEntry (es : List Entry) : Option Entry :=
  es.foldl (fun best e => match best with
    | none => some e
    | some b =>
      if effPrio b < effPrio e ∨ (effPrio b = effPrio e ∧ e.queue < b.queue) then some e else best) none

/-- The offer that a die takes of the two: the higher effective priority, the longer runnable, port die A's. -/
def takeOffer (a b : Option Entry) : Option Entry :=
  match a, b with
  | some x, some y =>
    if effPrio x < effPrio y ∨ (effPrio x = effPrio y ∧ y.since < x.since) then some y else some x
  | some x, none => some x
  | none, y => y

/-- The entry a die would pull for a context. -/
def pullOf (m : Memory) (d : Device) (c : Ctx) (die : Nat) : Option Entry :=
  let es := d.entries.filter fun e => offered c.num e && placeable m d c die e
  takeOffer (bestEntry (es.filter fun e => e.queue % 2 == 0)) (bestEntry (es.filter fun e => e.queue % 2 == 1))

/-- A die requests an entry of a context. -/
def requests (d : Device) (c : Ctx) (die : Nat) : Bool :=
  !c.det && !c.suspended && c.ending.isNone &&
    d.groups.any fun g => idleGroup c.num g && dieOf g.core == die && !pulledTo d g.gid

/-- ENTRY_PULL. -/
def evEntryPull (die : Nat) (m : Memory) (d : Device) : Device :=
  match (d.ctxs.filter fun c => requests d c die).findSome? fun c => (pullOf m d c die).map fun e => (c, e) with
  | none => d
  | some (c, e) => match neverTaken m d c e.words with
    | some cause => failEntry m c.num e.words cause { d with entries := d.entries.filter (·.id != e.id) }
    | none =>
      if entGang e.words then match bestPosition d c.num (freePositions c (some die) e.words) with
        | some p => grantGang c e p d
        | none => d
      else match targetOf m d c die e.words with
        | some g => d.setEntry { e with pulled := some g.gid }
        | none => d

/-! ## Task start (R58, R71, R334) -/

/-- Every load and Q value of a group has arrived. -/
def valuesIn (d : Device) (gid : Nat) : Bool := !d.reqs.any fun q => q.gid == gid

/-- A task can start in an IDLE group: R58's conditions, and the acquire of R334. -/
def startReady (d : Device) (g : Group) : Bool := valuesIn d g.gid && slots.all fun t => acquireReady d g t .pkg

/-- The group as it starts (R58); the registers that QTAKE named receive the entry. -/
def started (base : DWord) (t : Task) (g : Group) : Group :=
  let g := match g.hold with
    | .qtake s => putScalars g s t.words
    | _ => g
  { g with
    cond := .busy, hold := .none, task := some t, loops := [], fmask := 0, tcause := 0, flags := 0, restart := none
    region := none, ordPasses := 0, turn := none, next := none
    threads := g.threads.map fun th => { th with st := .run, pc := codeAddr base (entCode t.words) } }

/-- The shadow of an entry (R71): beside its partner, in the lowest free slot, with the same words in the same scalar
registers; its other registers are as at instantiation. -/
def spawn (m : Memory) (c : Ctx) (t : Task) (s : Option SReg) (g : Group) (d : Device) : Device :=
  match g.place with
  | none => d
  | some (span, _) =>
    let a := shadowAlloc m d c g.core (entCode t.words)
    match freeSlots d g.core span, freeBlock (runsOf (residents d g.core span)) (a.1 + a.2) with
    | k :: _, some b =>
      let pc := codeAddr c.codeBase (shadowCode m d c g.core (entCode t.words))
      let h : Group :=
        { gid := d.nextId, ctx := c.num, core := g.core, gidx := g.gidx, partner := some g.gid, d := a.1, x := a.2
          base := b, place := some (span, k), task := some t, dispatch := pc, instantiated := true
          residentAt := g.residentAt, threads := Vector.replicate 32 { pc := pc } }
      let h := match s with
        | some r => putScalars h r t.words
        | none => h
      { d with groups := d.groups ++ [h], nextId := d.nextId + 1 }
    | _, _ => d

/-- Starts a task in a group that is ready for it. -/
def startTask (m : Memory) (c : Ctx) (t : Task) (gid : Nat) (d : Device) : Device :=
  match d.group? gid with
  | none => d
  | some g =>
    let s : Option SReg := match g.hold with
      | .qtake r => some r
      | _ => none
    let d := (acquireAct g.core .pkg d).onGroup gid (started c.codeBase t)
    let d := if entShd t.words then spawn m c t s g d else d
    match d.group? gid with
    | some g => traceGroup d g 1 0 0xFF (entCode t.words) 0
    | none => d

/-- Delivers a pulled entry, or returns it where its group is no longer IDLE (R412). -/
def deliverEntry (m : Memory) (c : Ctx) (e : Entry) (gid : Nat) (d : Device) : Device :=
  match d.group? gid with
  | none => d.setEntry { e with pulled := none }
  | some g =>
    if !idleGroup c.num g ∨ reserved c g.core ∨ !canTake m d c g e.words then d.setEntry { e with pulled := none }
    else if !startReady d g then d
    else
      let t : Task := { entry := e.id, words := e.words, queue := e.queue, rect := quadRect g.core }
      startTask m c t gid { d with entries := d.entries.filter (·.id != e.id) }

/-- The group that has been IDLE longest on a core, once it is ready for a gang's member (R58, R413, R416). -/
def memberGroup (m : Memory) (c : Ctx) (k : Gang) (d : Device) (core : Nat) : Option Group :=
  (oldestIdle (d.groups.filter fun g => idleGroup c.num g && g.core == core && canTake m d c g k.words)).filter (startReady d)

/-- A gang's member starts on the first of its cores that has a group for it (R75, R416). -/
def startMember (m : Memory) (c : Ctx) (k : Gang) (d : Device) : Device :=
  let pick := memberGroup m c k d
  match k.toStart.findSome? fun core => (pick core).map fun g => (core, g) with
  | none => d
  | some (core, g) =>
    let t : Task := { entry := k.id, words := k.words, queue := k.queue, gang := some k.id, rect := k.rect }
    let c := { c with gangs := c.gangs.map fun x =>
      if x.id = k.id then { x with toStart := x.toStart.filter (· != core) } else x }
    startTask m c t g.gid (d.setCtx c)

/-- A gang with members to start, by its entry. -/
def gangOf (d : Device) (id : Nat) : Option (Ctx × Gang) :=
  d.ctxs.findSome? fun c => (c.gangs.find? (·.id == id)).map fun k => (c, k)

/-- TASK_START. In a deterministic context tasks start at the start of a round (R425). -/
def evTaskStart (entry : Nat) (m : Memory) (d : Device) : Device :=
  match d.entry? entry, gangOf d entry with
  | some e, _ => match e.pulled, d.ctx? e.ctx with
    | some gid, some c => if c.det then d else deliverEntry m c e gid d
    | _, _ => d
  | none, some (c, k) => if c.det then d else startMember m c k d
  | none, none => d

/-! ## The steps -/

def execQpostStatus (id : Nat) (s : State) := runEvent (evQpostStatus id) s
def execFgetAnswer (id : Nat) (s : State) := runEvent (evFgetAnswer id) s
def execHeldEntryEnqueue (ctx queue : Nat) (s : State) := runEvent (evHeldEnqueue ctx queue) s
def execTaskEndUpdate (id : Nat) (s : State) := runEvent (evTaskEnd id) s
def execHostEnqueue (ctx session queue : Nat) (image : List Byte) (s : State) :=
  runEvent (evHostEnqueue ctx session queue image) s
def execDepCounterNotice (entry : Nat) (s : State) := runEvent (evDepNotice entry) s
def execAgingTick (entry : Nat) (s : State) := runEvent (fun _ d => evAgingTick entry d) s
def execEntryPull (die : Nat) (s : State) := runEvent (evEntryPull die) s
def execTaskStart (entry : Nat) (s : State) := runEvent (evTaskStart entry) s

end Sys2Proof.Machine
end

