-- ==== Sys2Proof/Machine/Save.lean ====
section
/-! DEFINITION. Pre-emption: the save area (R376, R379, R406), liveness (R380 to R382), what a save and a restore keep (R101,
R377, R378, R395), the restart of deck holders (R360) and of idempotent regions (R384), residency (R417), the order and the
resident set of a deterministic context (R422, R453). -/

namespace Sys2Proof.Machine

/-- The response to a management command. -/
def respond (h : MgmtHead) (status : Nat) (payload : List Nat) (d : Device) : Device := d.send (.response h status payload)

/-- Counts a failure of R379. -/
def countSaveFail (d : Device) : Device := { d with mon := { d.mon with saveFails := d.mon.saveFails + 1 } }

/-! ## The save area (R376, R379, R406) -/

def ctxCores (c : Ctx) : List Nat := c.rects.flatMap rectCores

/-- A group's place among the context's groups: rectangle, y, x, group index (R422). -/
def ordinal (c : Ctx) (g : Group) : Nat := (ctxCores c).idxOf g.core * c.gpc + g.gidx

def slotVa (c : Ctx) (g : Group) : DWord := c.save + BitVec.ofNat 64 (ordinal c g * c.slotSize)

/-- The context's barrier-network state stands behind the slots. -/
def barsVa (c : Ctx) : DWord := c.save + BitVec.ofNat 64 ((ctxCores c).length * c.gpc * c.slotSize)

/-- A device access to a whole page. -/
def pageFails (m : Memory) (d : Device) (c : Ctx) (need : Need) (va : DWord) : Option Cause :=
  match deviceSite m d c va need with
  | .error e => some e
  | .ok k => if need = .r ∧ (List.range 128).any (fun i => badSector d (k.1 + 32 * i) k.2) then some .uncorrectable else none

/-- Why an access to some pages of the save area fails, if it does. -/
def areaFails (m : Memory) (d : Device) (c : Ctx) (need : Need) (va : DWord) (n : Nat) : Option Cause :=
  (List.range (n / 4096)).findSome? fun i => pageFails m d c need (va + BitVec.ofNat 64 (4096 * i))

/-! ## Liveness (R381, R382) -/

/-- The bits 0 to n - 1. -/
def lowBits (n : Nat) : Nat := 2 ^ n - 1

/-- A liveness row: AT, its reserved field, MASK. -/
def rowOfTable (m : Memory) (d : Device) (c : Ctx) (at_ : Nat) : Option (Nat × Nat × Nat) :=
  match deviceRead m d c (c.procTab + BitVec.ofNat 64 at_) 1 with
  | .ok bs => let v := leNat bs; some (bits v 0 32, bits v 32 32, bits v 64 64)
  | .error _ => none

/-- The MASK of the last row that applies at a PC, among `n` rows from `at_` on; none where the rows are malformed. -/
def rowsMask (m : Memory) (d : Device) (c : Ctx) (p : Proc) (pc at_ : Nat) (prev acc : Option Nat) : Nat → Option (Option Nat)
  | 0 => some acc
  | n + 1 => match rowOfTable m d c at_ with
    | none => none
    | some (a, rsv, mask) =>
      if rsv ≠ 0 ∨ a % 2 = 1 ∨ a < p.start ∨ p.stop ≤ a ∨ (prev.map (decide <| a ≤ ·)).getD false ∨ lowBits p.d < mask then none
      else rowsMask m d c p pc (at_ + 16) (some a) (if a ≤ pc then some mask else acc) n

/-- The records from index `i` on are sorted and do not overlap. -/
def procsSorted (m : Memory) (d : Device) (c : Ctx) (i prev : Nat) : Nat → Bool
  | 0 => true
  | n + 1 => match procAt m d c i with
    | none => false
    | some p => decide (prev ≤ p.start) && decide (p.start ≤ p.stop) && procsSorted m d c (i + 1) p.stop n

/-- The live registers at a code offset, for a group of `gd` direct registers; all of them where the table is malformed. -/
def liveAt (m : Memory) (d : Device) (c : Ctx) (gd pc : Nat) : Nat :=
  match procOf m d c pc with
  | none => lowBits gd
  | some p =>
    if !procsSorted m d c 0 0 c.nproc ∨ p.rsv ≠ 0 ∨ p.d ≠ gd then lowBits gd
    else match rowsMask m d c p pc p.live none none p.nlive with
      | none => lowBits gd
      | some none => lowBits p.d
      | some (some mask) => mask

/-- The live registers of a save (R376), and the queue window of a group with a shadow (R101). -/
def liveOf (m : Memory) (d : Device) (c : Ctx) (g : Group) : Nat :=
  let own := (slots.map (thread g)).filterMap fun th => if th.st = .done then none else some (codeOff c.codeBase th.pc)
  let frame := match g.frame with
    | some f => slots.map fun t => (f.threads.toArray.getD t {}).epc
    | none => []
  let window := if (shadowOf d g.gid).isSome then lowBits g.d - lowBits (g.d - 8) else 0
  (own ++ frame).eraseDups.foldl (fun acc pc => acc ||| liveAt m d c g.d pc.toNat) window

/-! ## What a save and a restore keep (R101, R377, R378) -/

/-- V registers that are not saved, or are dead-marked, read zero afterwards. -/
def keepLive (mask : Nat) (g : Group) : Group :=
  let saved := fun (t r : Nat) => bit mask r && !(thread g t).dead.getLsbD r
  { g with
    threads := Vector.ofFn fun t : Fin 32 =>
      { thread g t.val with
        v := Vector.ofFn fun r : Fin 64 => if saved t.val r.val then (thread g t.val).v[r] else 0
        dead := 0 }
    poison := g.poison.filter fun p => match p.2 with
      | .v r => saved p.1 r.toNat
      | _ => true }

/-- Operand-cache contents and latches are discarded, with their marks (R101). -/
def dropC (g : Group) : Group :=
  { g with
    c := g.c.map fun e => e.map fun x => { x with valid := false }
    cClean := []
    poison := g.poison.filter fun p => match p.2 with
      | .c _ _ | .l _ => false
      | _ => true }

/-- A time value relative to a save, never earlier than 2^30 cycles before it (R377). -/
def clampTime (now value : Word) : Word :=
  if (value - now).toInt < -(2 ^ 30) then now - BitVec.ofNat 32 (2 ^ 30) else value

def onTimes (f : TimeReg → TimeReg) (g : Group) : Group :=
  onThreads g fun th => { th with t := th.t.map f }

/-- The REG code of a register (R398); an index or time register has none of its own and is reported with 0 (log 82). -/
def regCode (r : Reg) : Option Nat :=
  match r with
  | .v r => some r.toNat
  | .x k => some (64 + k.toNat)
  | .s r => some (192 + r.toNat)
  | .i _ | .t _ => some 0
  | _ => none

/-- A mark that still stands: a time register keeps its own. -/
def marked (g : Group) (p : Nat × Reg) : Bool :=
  match p.2 with
  | .t k => (timeOf (thread g p.1) k).bad
  | _ => true

/-- One record of kind 3 for each poisoned register of a group (R395). -/
def logPoison (m : Memory) (g : Group) (d : Device) : Device :=
  let ps := g.poison.filter (marked g)
  ((ps.map (·.2)).eraseDups).foldl (fun d r => match regCode r with
    | some n =>
      let lanes := maskOf ((ps.filter (·.2 == r)).map (·.1))
      logAppend m g.ctx { kind := 3, cause := causeCode .uncorrectable, core := g.core, place := placeCode g, reg := n, mask := lanes } d
    | none => d) d

/-- The core's own lateness, for every request that a group's registers follow (R227). -/
def lateAll (gid : Nat) (d : Device) : Device :=
  match d.group? gid with
  | none => d
  | some g =>
    let ids := (slots.flatMap fun t => (thread g t).t.toList.filterMap fun x => if following x then some x.req else none).eraseDups
    ids.foldl (fun d id => lateGroup id (d.refNow g.core) gid d) d

/-- A group leaves its slot and block; it waits behind those that wait already. -/
def vacate (gid : Nat) (d : Device) : Device :=
  { d.onGroup gid fun g =>
      { g with
        place := none, wanted := false, turn := none, moving := 0, sb := [], waitAt := d.nextId, waitTick := d.tickOf g.core
        hold := if g.hold = .yielded then .none else g.hold } with
    nextId := d.nextId + 1 }

/-- The save of one group (R101, R376, R377, R395). -/
def saveOne (m : Memory) (c : Ctx) (gid : Nat) (d : Device) : Device :=
  let d := lateAll gid d
  match d.group? gid with
  | none => d
  | some g =>
    let now := d.refNow g.core
    let h := dropC (keepLive (liveOf m d c g) g)
    let h := if c.det then h else onTimes (fun x => { x with value := clampTime now x.value }) h
    logPoison m h (d.setGroup { h with saved := some now.toNat, unmet := [] })

/-- A group whose save or restore fails (R379). -/
def discardGroup (m : Memory) (gid : Nat) (cause : Cause) (d : Device) : Device :=
  let d := failTask m gid (causeCode cause) 0 0 0 (countSaveFail d)
  (vacate gid d).onGroup gid fun g => { g with discarded := true, saved := none }

/-! ## Restarts (R360, R361, R384) -/

/-- A deck holder restarts at its registered address: operations, tiles and dead registers go, the handler is abandoned. -/
def deckRestart (m : Memory) (c : Ctx) (gid : Nat) (d : Device) : Device :=
  match d.group? gid with
  | none => d
  | some g => match g.restart with
    | none => freeTiles d gid
    | some (o, loops) =>
      let window := if (shadowOf d gid).isSome then lowBits g.d - lowBits (g.d - 8) else 0
      let h := keepLive (liveAt m d c g.d o.toNat ||| window) g
      (freeTiles d gid).setGroup
        { h with
          loops := loops, cond := .busy, fmask := 0, tcause := 0, tframe := 0, frame := none, region := none
          hold := .none, turn := none, next := none
          threads := h.threads.map fun th =>
            if th.st = .done then th else { th with st := .run, pc := codeAddr c.codeBase o } }

/-- A region is discarded for a restart at its entry. -/
def idemRestart (r : Region) (gid : Nat) (d : Device) : Device :=
  (dropLoads d gid).onGroup gid fun g =>
    dropC { g with
      s := r.s, mode := r.mode, flags := r.flags, loops := r.loops, cond := .busy, fmask := 0, tcause := 0, tframe := 0
      frame := none, hold := .none, turn := none, next := none, pendFaults := [], pendLate := 0, pendBreach := 0, poison := []
      threads := Vector.ofFn fun t : Fin 32 =>
        let th : Thread := { pc := (thread g t.val).pc, st := (thread g t.val).st }
        if r.mask.getLsbD t.val then { th with st := .run, pc := r.entry } else th }

/-! ## Deschedule (R374, R375) -/

/-- A group and its shadow. -/
def withShadow (d : Device) (gid : Nat) : List Nat := gid :: ((shadowOf d gid).map (·.gid)).toList

/-- The deschedule of a group at its turn boundary, by the first case of R375; nothing while it must wait. -/
def deschedule (m : Memory) (gid : Nat) (d : Device) : Device :=
  match d.group? gid with
  | none => d
  | some g => match d.ctx? g.ctx with
    | none => d
    | some c =>
      let ids := withShadow d gid
      let fails := areaFails m d c .w (slotVa c g) c.slotSize
      match g.region, deckHolder d gid with
      | some r, false =>
        if let some e := fails then discardGroup m gid e d
        else vacate gid (idemRestart r gid d)
      | _, _ =>
        if !ids.all (valuesIn d) then d
        else
          let d := ids.foldl (fun d i => if deckHolder d i then deckRestart m c i d else d) d
          if let some e := fails then discardGroup m gid e d
          else ids.foldl (fun d i => vacate i (saveOne m c i d)) d

/-! ## Barrier state of a context (R379, R421) -/

/-- Every incomplete generation of a context completes broken (R330). -/
def breakBars (p : Barrier → Bool) (c : Ctx) (d : Device) : Device :=
  (c.bars.filter fun b => b.count != 0 && p b).foldl (fun d b => match d.ctx? c.num with
    | some x => barComplete { b with broken := true } x d
    | none => d) d

/-- The barrier-network state is written, or read back. -/
def barsArea (m : Memory) (c : Ctx) (need : Need) (d : Device) : Device :=
  match areaFails m d c need (barsVa c) 65536 with
  | some _ => breakBars (fun _ => true) c (countSaveFail d)
  | none => d

/-- A suspend ends when no group of the context is resident (R421). -/
def endSuspend (m : Memory) (n : Nat) (d : Device) : Device :=
  match d.ctx? n with
  | none => d
  | some c =>
    let mine := fun (p : PendCmd) => match p with
      | .suspend h => h.ctx.toNat == n
      | _ => false
    if !d.pendCmds.any mine ∨ d.groups.any (fun g => g.ctx == n && g.place.isSome) then d
    else
      let e := barsArea m c .w d
      (d.pendCmds.filter mine).foldl (fun d p => match p with
        | .suspend h => respond h 0 [] d
        | _ => d) { e with pendCmds := e.pendCmds.filter fun p => !mine p }

/-! ## The order of a deterministic context (R422) -/

/-- The key of a place: a group's, and its shadow's just behind. -/
def placeKey (c : Ctx) (g : Group) : Nat := 2 * ordinal c g + (if g.partner.isSome then 1 else 0)

/-- Puts a group among those of a list by its place. -/
def insertPlace (c : Ctx) (g : Group) : List Group → List Group
  | [] => [g]
  | h :: rest => if placeKey c g ≤ placeKey c h then g :: h :: rest else h :: insertPlace c g rest

/-- The context's groups in the order of their places. -/
def inOrder (d : Device) (c : Ctx) : List Group := (d.groups.filter (·.ctx == c.num)).foldr (insertPlace c) []

/-- The largest shadow allocation that fits beside a group of `gd` + `gx` registers in one span (R78). -/
def largestShadow (m : Memory) (d : Device) (c : Ctx) (gd gx : Nat) : Nat :=
  if gd < 24 then 0
  else
    (List.range c.nproc).foldl (fun best i => match procAt m d c i with
      | some p =>
        if p.shd = 0xFFFFFFFF then best
        else
          let n := match procOf m d c p.shd with
            | some s => s.d + s.x
            | none => c.d + c.x
          if gd + gx + n ≤ 256 then max best n else best
      | none => best) 0

/-- The capacity r of R78 for a context's own groups. -/
def detCapacity (m : Memory) (d : Device) (c : Ctx) : Nat :=
  let sh := largestShadow m d c c.d c.x
  16 * min (8 / (if sh = 0 then 1 else 2)) (256 / (c.d + c.x + sh))

/-- Whether a group index lies in the deterministic resident set of round `k` (R453). -/
def inSet (m : Memory) (d : Device) (c : Ctx) (k gidx : Nat) : Bool :=
  let r := detCapacity m d c
  decide (c.gpc ≤ r) || decide ((gidx + c.gpc - k / c.rq * r % c.gpc) % c.gpc < r)

/-- Every access of the context is performed (R422). -/
def detQuiet (d : Device) (c : Ctx) : Bool :=
  !(d.reqs.any (·.ctx == c.num)) && !(d.writes.any fun w => w.ctx == c.num && !w.applied)
    && !(d.msgs.any (·.ctx == c.num)) && !(d.cmds.any (·.ctx == c.num)) && !(d.deckOps.any (·.ctx == c.num))
    && !(d.reds.any fun r => r.ctx == c.num && !r.atHome)
    && !(d.groups.any fun g => g.ctx == c.num && g.turn.isSome)

/-- A deschedule of a group or of its shadow is requested (R374). -/
def wantedPair (d : Device) (g : Group) : Bool :=
  g.wanted || (((shadowOf d g.gid).map (·.wanted)).getD false) || (((g.partner.bind d.group?).map (·.wanted)).getD false)

/-- A group's readiness as R41 states it. -/
def readyGroup (m : Memory) (d : Device) (g : Group) : Bool :=
  g.place.isSome && g.cond != .idle && g.hold == .none && !g.halted && g.moving == 0
    && (broadcastPc (recheck m d g)).isSome && (!wantedPair d g || d.isDet g)

/-- A place whose turn is empty (R422, R426, R445). -/
def emptyPlace (m : Memory) (d : Device) (c : Ctx) (k : Nat) (g : Group) : Bool :=
  !g.halted && (if g.place.isSome then !readyGroup m d g else !inSet m d c k g.gidx)

/-- The round that runs: rounds are counted from 0. -/
def roundNow (c : Ctx) : Nat := c.round - 1

/-- The group whose turn comes next in the round, empty places passed over; none where the round is over. -/
def detNext (m : Memory) (d : Device) (c : Ctx) : Option Group :=
  ((inOrder d c).filter fun g => decide (c.roundPos ≤ placeKey c g)).find? fun g => !emptyPlace m d c (roundNow c) g

/-- The round is over, or none has begun. -/
def roundOver (m : Memory) (d : Device) (c : Ctx) : Bool :=
  detQuiet d c && (c.round == 0 || (detNext m d c).isNone)

/-- The round whose resident set governs admission: the next one once the running one is over. -/
def setRound (m : Memory) (d : Device) (c : Ctx) : Nat := if roundOver m d c then c.round else roundNow c

/-! ## Residency (R417, R418, R421, R453) -/

/-- A group that may become resident. -/
def waiting (m : Memory) (d : Device) (g : Group) : Bool :=
  g.place.isNone && g.partner.isNone && match d.ctx? g.ctx with
    | none => false
    | some c => !c.suspended && c.ending.isNone && (!c.det || inSet m d c (setRound m d c) g.gidx)

/-- A group waits on the core for longer. -/
def waitsLonger (m : Memory) (d : Device) (g : Group) : Bool :=
  d.groups.any fun h => h.core == g.core && h.gid != g.gid && waiting m d h && decide (h.waitAt < g.waitAt)

/-- What a group needs when it becomes resident: an instantiation gives it no shadow. -/
def needs (d : Device) (g : Group) : List Nat := footprints d g

/-- The state of a group that comes back (R377, R378); what R384 has discarded has no save, and its time registers stay at 0. -/
def restore (m : Memory) (det : Bool) (now : Word) (d : Device) (g : Group) : Group :=
  let g := match g.saved, det with
    | some n, false => onTimes (fun x => { x with value := now + (x.value - BitVec.ofNat 32 n) }) g
    | _, _ => g
  recheck m d { g with saved := none }

/-- A group takes a slot and a block. -/
def settleIn (m : Memory) (gid : Nat) (span : BitVec 4) (slot : BitVec 3) (base : Nat) (d : Device) : Device :=
  match d.group? gid with
  | none => d
  | some g =>
    let g := { g with
      place := some (span, slot), base := base, residentAt := d.tickOf g.core, quantumAt := d.tickOf g.core
      asked := if g.cond = .idle then d.nextId else g.asked }
    if !g.instantiated ∨ g.discarded then d.setGroup (instantiate d g)
    else d.setGroup (restore m (d.isDet g) (d.refNow g.core) d g)

/-- The span, slots and blocks that a group and its shadow take. -/
def homeFor (d : Device) (g : Group) : Option (BitVec 4 × List (BitVec 3) × List Nat) :=
  match roomiest d g.core (allSpans.filter (spanTakes d g.core (needs d g))) with
  | none => none
  | some s => (blocksFor (runsOf (residents d g.core s)) (needs d g)).map fun bs => (s, freeSlots d g.core s, bs)

/-- A group becomes resident where a span can take it. -/
def takeHome (m : Memory) (gid : Nat) (d : Device) : Device :=
  match d.group? gid with
  | none => d
  | some g => match homeFor d g, d.ctx? g.ctx with
    | some (s, ks, bs), some c =>
      let fails := if g.instantiated && !g.discarded then areaFails m d c .r (slotVa c g) c.slotSize else none
      match fails with
      | some e => discardGroup m gid e d
      | none =>
        ((withShadow d gid).zip (ks.zip bs)).foldl (fun d x => settleIn m x.1 s x.2.1 x.2.2 d) d
    | _, _ => d

end Sys2Proof.Machine
end

