-- ==== Sys2Proof/Machine/Fence.lean ====
section
/-! DEFINITION. A compute die that the Keystone fences off (R396), and the report of every item that depended on it (R397,
R268, R271, R318, R321, R330, R340). -/

namespace Sys2Proof.Machine

/-! ## Reports -/

/-- A context's fault log is homed on a die. -/
def flogOn (m : Memory) (d : Device) (die : Nat) (c : Ctx) : Bool :=
  match deviceKey m d c c.flog .r with
  | .ok k => keyKind k == .own && homeDie k == die
  | .error _ => false

/-- A report of something lost with a fenced die, where the context's log survives (R397). -/
def reportLost (m : Memory) (gone : List Nat) (ctx core : Nat) (record : DWord) (d : Device) : Device :=
  if gone.contains ctx then d else logAppend m ctx { kind := 8, core := core, record := record } d

/-! ## Tasks, entries, futures -/

/-- A record of kind 1 for a task that another chapter's event fails (R372). -/
def reportFailed (m : Memory) (t : Task) (g : Group) (d : Device) : Device :=
  logAppend m g.ctx { kind := 1, core := g.core, place := placeCode g, record := recordOf t.words } d

/-- The task of a group fails; a gang's entry is reported once, with the gang. -/
def fenceTask (m : Memory) (gone : List Nat) (d : Device) (g : Group) : Device :=
  match g.partner, g.task with
  | none, some t =>
    let d := reportFailed m t g d
    if t.gang.isSome then d
    else reportLost m gone g.ctx g.core (recordOf t.words) (dueUpdate d g.ctx g.core [g.core] t.words t.entry true)
  | _, _ => d

/-- The gangs of a context on a die fail whole (R74). -/
def fenceGangs (m : Memory) (gone : List Nat) (die : Nat) (d : Device) (c : Ctx) : Device :=
  let lost := c.gangs.filter fun k => k.rect.die == die
  let d := d.setCtx { c with gangs := c.gangs.filter fun k => k.rect.die != die }
  lost.foldl (fun d k =>
    let core := (rectCores k.rect).headD 0
    reportLost m gone c.num core (recordOf k.words)
      (dueUpdate d c.num core (rectCores k.rect) k.words k.id true)) d

/-- An entry that fails without running. -/
def fenceEntry (m : Memory) (gone : List Nat) (core : Nat) (d : Device) (e : Entry) : Device :=
  let d := { d with entries := d.entries.filter (·.id != e.id) }
  reportLost m gone e.ctx core (recordOf e.words)
    (endRow m e.ctx core (recordOf e.words) true noClock d (chainBound m d))

/-- An entry on its way to one of some groups. -/
def pulledBy (gs : List Group) (e : Entry) : Option Group := e.pulled.bind fun gid => gs.find? (·.gid == gid)

/-- A lost future's parked entries fail (R340). -/
def fenceFuture (m : Memory) (gone : List Nat) (d : Device) (f : Future) : Device :=
  let d := { d with futures := d.futures.filter (·.key != f.key) }
  (f.parked.filterMap d.entry?).foldl (fenceEntry m gone 0x3FF) d

/-! ## Commands and reductions -/

/-- An engine command is withdrawn with its die and reported failed (R271, R268). -/
def fenceCmd (m : Memory) (gone : List Nat) (d : Device) (c : Cmd) : Device :=
  let d := dropCmd d c.id
  match c.record with
  | some r => reportLost m gone c.ctx c.core r (markFailed m c.ctx c.core r d)
  | none => reportLost m gone c.ctx c.core 0 d

/-- A reduction that is lost with a die: FAILED in the record it carries (R318, R321). -/
def fenceRed (m : Memory) (gone : List Nat) (d : Device) (r : Red) : Device :=
  let d := { d with reds := d.reds.filter (·.id != r.id) }
  match r.record with
  | some (a, ctx) => reportLost m gone ctx r.core a (markFailed m ctx r.core a d)
  | none => reportLost m gone r.ctx r.core 0 d

/-- Reductions that a die holds: those of its cores that have not left them, and ordered ones at its slices. -/
def redOn (die : Nat) (r : Red) : Bool :=
  (dieOf r.core == die && !r.atHome) || (r.atHome && keyKind (r.keys.headD 0) == .own && homeDie (r.keys.headD 0) == die)

/-- A reduction of another die that can no longer be performed (R312, R397); an ordered one is lost with its home. -/
def missRed (m : Memory) (gone : List Nat) (d : Device) (r : Red) : Device :=
  if r.order.isSome then fenceRed m gone d r
  else reportLost m gone r.ctx r.core ((r.record.map (·.1)).getD 0)
    (reductionFails m r { d with reds := d.reds.filter (·.id != r.id) })

/-- A write on its way to the die's memory is lost; a reduction among them fails. -/
def missWrite (m : Memory) (gone : List Nat) (d : Device) (w : PWrite) : Device :=
  let d := { d with writes := d.writes.filter (·.id != w.id) }
  match w.atomic with
  | some a => reportLost m gone w.ctx w.core ((w.record.map (·.1)).getD 0) (reductionFails m (redOf w a) d)
  | none => d

/-! ## Requests -/

/-- A request of the die's own cores that goes on without it: an RMW that has left for another home. -/
def requestLeft (die : Nat) (r : Req) : Bool :=
  isAtomicReq r && r.st == .sent && keyKind (r.keys.headD 0) != .scratch && homeSource (r.keys.headD 0) != die

/-- Requests once a die is fenced: those of its cores go; those on its memory fail. -/
def fenceReq (d : Device) (die : Nat) (r : Req) : Option Req :=
  if dieOf r.core = die then
    if requestLeft die r then some { r with dropped := true, dst := .none } else none
  else if !r.keys.any (lostKey d) then some r
  else match r.kind, r.st with
    | _, .served => some r
    | .load _, _ | .uload, _ | .atomic _, _ => some { r with st := .refused .uncorrectable }
    | .pin, _ => some { r with keys := [] }
    | .fget, _ | .qpost .., _ => some r

/-! ## The fence -/

/-- A write that is lost: one of the die that has not left it, or one homed there. -/
def writeLost (die : Nat) (w : PWrite) : Bool :=
  if keyKind w.key = .own then homeDie w.key == die
  else if keyKind w.key = .scratch then dieOf w.core == die else w.applied && dieOf w.core == die

/-- What a die holds beside tasks, commands, reductions and futures goes with it. -/
def dropDie (die : Nat) (d : Device) : Device :=
  { d with
    groups := d.groups.filter fun g => dieOf g.core != die
    spans := d.spans.filter fun s => dieOf s.core != die
    msgs := d.msgs.filter fun x => dieOf x.core != die
    walks := d.walks.filter fun w => dieOf (w.cores.headD 0) != die
    walkFails := d.walkFails.filter fun f => dieOf f.core != die
    fetches := d.fetches.filter fun f => dieOf f.core != die && !lostKey d f.key
    tlb := d.tlb.filter fun t => (if t.cluster then t.unit / 2 else dieOf t.unit) != die
    pcache := d.pcache.filter fun s => dieOf s.core != die
    replicas := d.replicas.filter (·.die != die)
    ways := d.ways.filter (·.die != die)
    seen := d.seen.filter (·.die != die)
    pins := d.pins.filter fun p => homeDie (p.2 * 128) != die
    tiles := d.tiles.filter fun t => quadDie t.quad != die
    deckOps := d.deckOps.filter fun o => quadDie o.quad != die
    markers := d.markers.filter (·.sink != die)
    wrecs := d.wrecs.filter fun r => homeDie (r.sector * 32) != die
    reqs := d.reqs.filterMap (fenceReq d die)
    focus := match d.focus.bind d.group? with
      | some g => if dieOf g.core = die then none else d.focus
      | none => d.focus }

/-- Barriers of the die cease; incomplete wider generations of a context that had groups there break (R330); each incomplete
generation is reported (R397). -/
def fenceBars (m : Memory) (gone : List Nat) (die : Nat) (had : List Nat) (d : Device) (c : Ctx) : Device :=
  let here := fun (b : Barrier) => match b.sc with
    | .thread | .group | .core => dieOf b.unit == die
    | .quad => quadDie b.unit == die
    | .clus => b.unit / 2 == die
    | .die => b.unit == die
    | .pkg | .pod => false
  let wide := fun (b : Barrier) => had.contains c.num && (b.sc == .pkg || b.sc == .pod)
  let lost := c.bars.filter fun b => b.count != 0 && (here b || wide b)
  let c := { c with bars := c.bars.filter fun b => !here b }
  lost.foldl (fun d _ => reportLost m gone c.num 0x3FF 0 d) (breakBars wide c (d.setCtx c))

/-- Acts on every context as it then stands. -/
def eachCtx (f : Device → Ctx → Device) (d : Device) : Device :=
  (d.ctxs.map (·.num)).foldl (fun d n => match d.ctx? n with
    | some c => f d c
    | none => d) d

/-- The Keystone fences a compute die off. -/
def fenceDie (die : Nat) (m : Memory) (d : Device) : Device :=
  if 4 ≤ die ∨ (d.die die).st = .fenced then d
  else
    let gone := (d.ctxs.filter (flogOn m d die)).map (·.num)
    let mine := d.groups.filter fun g => dieOf g.core == die
    let had := (mine.map (·.ctx)).eraseDups
    let d := d.setDie die { d.die die with st := .fenced, trace := {}, wantMhz := none, wantFabric := none }
    let d := notifyAll d .dieFence [die]
    let d := gone.foldl (fun d n => notifyHost d n .logLost []) d
    let d := mine.foldl (fenceTask m gone) d
    let d := eachCtx (fenceGangs m gone die) d
    let d := dropDie die d
    let d := (d.cmds.filter fun c => dieOf c.core == die).foldl (fenceCmd m gone) d
    let d := (d.reds.filter (redOn die)).foldl (fenceRed m gone) d
    let d := (d.reds.filter fun r => r.keys.any (lostKey d)).foldl (missRed m gone) d
    let d := (d.writes.filter (writeLost die)).foldl (missWrite m gone) d
    let d := (d.entries.filter fun e => (pulledBy mine e).isSome).foldl (fun d e =>
      fenceEntry m gone (((pulledBy mine e).map (·.core)).getD 0x3FF) d e) d
    let d := (d.futures.filter fun f => homeDie f.key == die).foldl (fenceFuture m gone) d
    let d := eachCtx (fenceBars m gone die had) d
    eachCtx (fun d c => endSuspend m c.num d) d

def evDieFence (die : Nat) (m : Memory) (d : Device) : Device := if d.booted then fenceDie die m d else d

def execDieFence (die : Nat) (s : State) := runEvent (evDieFence die) s

end Sys2Proof.Machine
end

