-- ==== Sys2Proof/Machine/EvPlatform.lean ====
section
/-! DEFINITION. Steps of the platform: power-on (R428), retries and corrected errors (R228), clocks (R232, R442), refresh and
temperature (R442), Viaduct links (R20, R443, R444), requests at a port (R38, R286, R302, R439, R441), loss of a module of
the pod (R268, R330). A step whose condition does not hold changes nothing. -/

namespace Sys2Proof.Machine

/-! ## Monitors (R442) -/

/-- What a MONALERT reports (log 28). -/
inductive Alert
  | stepDown | stepUp | throttle | refresh | overTemp
deriving DecidableEq, Repr

def alertCode (a : Alert) : Nat :=
  match a with
  | .stepDown => 1
  | .stepUp => 2
  | .throttle => 3
  | .refresh => 4
  | .overTemp => 5

/-- A MONALERT to every session; the first one names the dies that stayed in reset (R428). -/
def monAlert (a : Alert) (unit : Nat) (d : Device) : Device :=
  let e := notifyAll d .monAlert ([alertCode a, unit] ++ d.bootReport)
  if d.sessions.any (·.ready) then { e with bootReport := [] } else e

/-- One more of a count kept by number. -/
def bumpCount (k : Nat) (l : List (Nat × Nat)) : List (Nat × Nat) :=
  if l.any (·.1 == k) then l.map fun p => if p.1 = k then (k, p.2 + 1) else p else (k, 1) :: l

/-! ## Power-on (R428, R430, R436, R437) -/

/-- A die's state after its release. -/
def released (failed : List Nat) (n : Nat) : DieSt := if failed.contains n then .fenced else .running

/-- The keys of domain 0 of every memory die. -/
def bootKeys (gen : Nat) : List (Nat × Nat × Nat) := (List.range 64).map fun k => (k, 0, gen)

/-- The digest and signature of an image pass their check: open (log 14). -/
def imageOk (n : Nat) (image : List Byte) : Bool := Config.secret (0x13 + 2 * n) (leNat image) % 2 == 1

/-- The Keystone boots an image and releases the other dies but those named, 0 to 3 compute dies, 4 and 5 port dies. All
else is as after reset; module memory keeps its cells, which no present key reads (log 29). -/
def bootImage (failed : List Nat) (image : List Byte) (d : Device) : Device :=
  let gen := d.keyGen + 1
  let e : Device :=
    { fwImage := image, keyGen := gen, sectorKeys := d.sectorKeys, bad := d.bad, steps := d.steps, nextId := d.nextId
      inbox := d.inbox, outbox := d.outbox, booted := true, keys := bootKeys gen
      linkKeys := ((List.range 6).filter fun k => !failed.contains k).map fun k => (k, gen)
      bootReport := (List.range 6).filter failed.contains }
  { e with
    meas := Vector.ofFn fun i : Fin 9 => Config.secret (i.val + 1) (leNat image)
    dies := Vector.ofFn fun i : Fin 4 => { st := released failed i.val : Die }
    portDies := Vector.ofFn fun i : Fin 2 => if failed.contains (4 + i.val) then .inReset else .running
    ports := Vector.ofFn fun i : Fin 8 => { up := !failed.contains (4 + i.val / 4) : Port } }

/-- POWER_ON: the stored image is booted, or, where it fails its verification, the one fetched over port 0, which is verified
as well and then written to flash; where that one fails too no firmware starts (R428, R429; log 29). -/
def evPowerOn (failed : List Nat) (recovery : Option (List Byte)) (d : Device) : Device :=
  match recovery with
  | none => bootImage failed d.fwImage d
  | some image => if imageOk d.steps image then bootImage failed image d else d

/-! ## Breaches (R228) -/

/-- Each of some promises gets its notice. -/
def breachAll (ids : List Nat) (duration : Nat) (d : Device) : Device := ids.foldl (fun d id => evBreachNotice id duration d) d

/-- LINK_RETRY: of a Viaduct link, 0 to 3, or of a Trestle link. -/
def evLinkRetry (link : Nat) (ids : List Nat) (duration : Nat) (d : Device) : Device :=
  if !d.booted then d else breachAll ids duration { d with mon := { d.mon with retries := bumpCount link d.mon.retries } }

/-- CORRECTED_MEMORY_ERROR. -/
def evCorrectedError (ids : List Nat) (duration : Nat) (d : Device) : Device :=
  if !d.booted then d else breachAll ids duration { d with mon := { d.mon with correctedReads := d.mon.correctedReads + 1 } }

/-! ## Routes (R20) -/

/-- Link n of the ring joins dies n and n + 1. -/
def Device.link (d : Device) (n : Nat) : Link := d.links.toArray.getD (n % 4) {}

def Device.setLink (d : Device) (n : Nat) (l : Link) : Device := { d with links := d.links.set! (n % 4) l }

/-- The links of the clockwise path between diagonal dies, and of the other path. -/
def clockwise (a : Nat) : List Nat := [a % 4, (a + 1) % 4]

def anticlockwise (a : Nat) : List Nat := [(a + 3) % 4, (a + 2) % 4]

/-- The links that traffic from one die to another crosses. -/
def routeLinks (d : Device) (a b : Nat) : List Nat :=
  if a % 4 = b % 4 then []
  else if (a + 1) % 4 = b % 4 then [a % 4]
  else if (b + 1) % 4 = a % 4 then [b % 4]
  else if (clockwise a).any fun n => (d.link n).degraded then anticlockwise a else clockwise a

/-- The dies that an access of one die to another's memory passes, both ways. -/
def routeDies (d : Device) (a b : Nat) : List Nat :=
  [a, b] ++ (routeLinks d a b ++ routeLinks d b a).flatMap fun n => [n, (n + 1) % 4]

/-! ## Promises that a change waits for (R232, R443) -/

/-- Where a request or command goes: its die, and the die of its location; none where the route is not a compute die's. -/
def routeOf (d : Device) (id : Nat) : Option (Nat × Nat) :=
  match d.req? id, d.cmd? id with
  | some r, _ => (r.keys.head?).bind fun k => if keyKind k = .own then some (dieOf r.core, homeDie k) else none
  | none, some _ | none, none => none

/-- A register holds a promise that its request's value has not met and whose time has not come. -/
def openPromise (d : Device) (g : Group) (since : Nat) (x : TimeReg) : Bool :=
  (x.st == .promised || x.st == .breached) && decide (0 < x.req ∧ x.req < since) && !timeGe (d.refNow g.core) x.value

/-- A load holds an open promise, named by a time register or not. -/
def openQuote (d : Device) (since : Nat) (r : Req) : Bool :=
  decide (r.id < since) && match r.promise with
    | some p => !timeGe (d.refNow r.core) p
    | none => false

/-- A test of the route of a request or command; an access whose route is not known concerns every test. -/
def onRoute (d : Device) (id : Nat) (p : Nat → Nat → Bool) : Bool :=
  match routeOf d id with
  | some (a, b) => p a b
  | none => true

/-- An open promise, quoted before a request, of an access that concerns a test on its route. -/
def promisesOpen (d : Device) (since : Nat) (p : Nat → Nat → Bool) : Bool :=
  (d.groups.any fun g => g.threads.any fun th => th.t.any fun x => openPromise d g since x && onRoute d x.req p)
    || d.reqs.any fun r => openQuote d since r && onRoute d r.id p

/-! ## Clocks (R24, R232, R442, R444) -/

/-- The settings of a die's clock, highest first (R24). -/
def settings : List Nat := [2100, 1800, 1500, 1200]

def stepLower (mhz : Nat) : Option Nat := settings.find? (· < mhz)

def stepHigher (mhz : Nat) : Option Nat := settings.reverse.find? (mhz < ·)

/-- A die's frequency takes effect: the completion is reported with the cycle on the die (R444). -/
def clockTo (die mhz : Nat) (d : Device) : Device :=
  let x := d.die die
  notifyAll (d.setDie die { x with mhz := mhz }) .linkEvent [1, die, x.mhz, mhz, x.tick / 60]

/-- A request of the same kind that is replaced is reported as superseded (R444). -/
def superseded (kind unit : Nat) (pending : Bool) (d : Device) : Device :=
  if pending then notifyAll d .linkEvent [kind, unit] else d

/-- A width change is pending on a link of a die. -/
def widthPending (d : Device) (die : Nat) : Bool := (d.link die).wantFull.isSome || (d.link (die + 3)).wantFull.isSome

/-- A frequency is asked for: a raise takes effect at once, a lowering once earlier promises are settled (R232). -/
def askClock (die mhz : Nat) (d : Device) : Device :=
  let x := d.die die
  let d := superseded 3 die x.wantMhz.isSome d
  if x.mhz ≤ mhz then clockTo die mhz (d.setDie die { x with wantMhz := none })
  else d.setDie die { x with wantMhz := some mhz, wantAt := d.nextId }

def dieOn (d : Device) (die : Nat) : Bool := decide (die < 4) && (d.die die).st == .running

/-- A thermal step of a die's clock, and the steps that are then to be undone. -/
def heatStep (a : Alert) (die f heat : Nat) (d : Device) : Device :=
  monAlert a die (askClock die f (d.setDie die { d.die die with heat := heat }))

/-- CLOCK_STEP_DOWN: at 95 °C for 1 ms, one setting below the one that is, or will be, in force. -/
def evStepDown (die temp us : Nat) (d : Device) : Device :=
  let x := d.die die
  match stepLower (x.wantMhz.getD x.mhz) with
  | some f => if dieOn d die ∧ 95 ≤ temp ∧ 1000 ≤ us then heatStep .stepDown die f (x.heat + 1) d else d
  | none => d

/-- CLOCK_STEP_UP: after 10 ms below 90 °C, where a step down for temperature is to be undone. -/
def evStepUp (die temp us : Nat) (d : Device) : Device :=
  let x := d.die die
  match stepHigher (x.wantMhz.getD x.mhz) with
  | some f => if dieOn d die ∧ 0 < x.heat ∧ temp < 90 ∧ 10000 ≤ us then heatStep .stepUp die f (x.heat - 1) d else d
  | none => d

/-- EMERGENCY_THROTTLE: at 105 °C or a droop of the supply, at once, to a setting the spec does not name (log 17); promises it
makes late are breached. -/
def evThrottle (die temp : Nat) (droop : Bool) (ids : List Nat) (duration : Nat) (d : Device) : Device :=
  if !dieOn d die ∨ (temp < 105 ∧ !droop) then d
  else
    let (n, d) := d.draw
    let low := settings.filter (· ≤ (d.die die).mhz)
    let f := low.getD (Config.anyOrder n die % max low.length 1) (d.die die).mhz
    let d := clockTo die f { d with mon := { d.mon with throttles := d.mon.throttles + 1 } }
    monAlert .throttle die (breachAll ids duration d)

/-- FREQUENCY_SWITCH: once every promise quoted before the request has been settled (R232), and no width change of a link of
the die is pending (R444). -/
def evFreqSwitch (die : Nat) (d : Device) : Device :=
  match (d.die die).wantMhz with
  | none => d
  | some f =>
    if !dieOn d die ∨ widthPending d die ∨ promisesOpen d (d.die die).wantAt (fun a b => (routeDies d a b).contains die) then d
    else clockTo die f (d.setDie die { d.die die with wantMhz := none })

/-- REFRESH_DOUBLE: at 95 °C. -/
def evRefresh (mdie temp : Nat) (d : Device) : Device :=
  if !d.booted ∨ temp < 95 ∨ d.refresh2.contains mdie then d
  else monAlert .refresh mdie { d with refresh2 := mdie :: d.refresh2 }

/-- SENSOR_OVERTEMP_FENCE: at 120 °C. -/
def evOverTemp (die temp : Nat) (m : Memory) (d : Device) : Device :=
  if !d.booted ∨ temp < 120 ∨ 4 ≤ die ∨ (d.die die).st = .fenced then d else monAlert .overTemp die (fenceDie die m d)

/-! ## Viaduct links (R20, R443, R444) -/

/-- A frequency change that waited for a link's width begins, where no link of the die has one pending (R444). -/
def widthDone (die : Nat) (d : Device) : Device :=
  let x := d.die die
  match x.wantFabric with
  | none => d
  | some f =>
    if widthPending d die then d
    else askClock die f (d.setDie die { x with wantFabric := none })

/-- A link's width takes effect. -/
def widthTo (link : Nat) (full : Bool) (d : Device) : Device :=
  let l := d.link link
  let e := d.setLink link { l with full := full, wantFull := if l.wantFull = some full then none else l.wantFull }
  let e := notifyAll e .linkEvent [0, link, if l.full then 2 else 1, if full then 2 else 1, (d.die (link % 4)).tick / 60]
  widthDone ((link + 1) % 4) (widthDone (link % 4) e)

/-- LINK_WIDTH_REDUCE: after a pair's failures at once, or as LINKSET has asked, once earlier promises are settled. -/
def evWidthReduce (link : Nat) (failing : Bool) (d : Device) : Device :=
  let l := d.link link
  let waits := l.wantFull != some false || promisesOpen d l.since fun a b => (routeLinks d a b ++ routeLinks d b a).contains link
  if !d.booted ∨ 4 ≤ link ∨ !l.full ∨ (!failing ∧ waits) then d else widthTo link false d

/-- LINK_WIDTH_INCREASE: the pair that LINKSET has asked for has trained. -/
def evWidthIncrease (link : Nat) (d : Device) : Device :=
  if 4 ≤ link ∨ (d.link link).full ∨ (d.link link).wantFull ≠ some true then d else widthTo link true d

/-- What a source has sent to a diagonal die whose clockwise path crosses a link, not yet applied. -/
def crossing (d : Device) (link : Nat) : Bool :=
  let turns := fun (a b : Nat) => decide (a < 4 ∧ b < 4 ∧ (a + 2) % 4 = b) && (clockwise a).contains link
  (d.writes.any fun w => !w.applied && keyKind w.key == .own && turns w.source (homeDie w.key))
    || (d.reqs.any fun r => unperformed r && keyKind (r.keys.headD 0) == .own && turns (dieOf r.core) (homeDie (r.keys.headD 0)))
    || d.markers.any fun k => turns k.source k.sink

/-- VIADUCT_PATH_CHANGE: the old path is drained first (R280). -/
def evPathChange (link : Nat) (back : Bool) (d : Device) : Device :=
  if 4 ≤ link ∨ (d.link link).degraded ≠ back ∨ crossing d link then d
  else d.setLink link { d.link link with degraded := !back }

/-! ## Requests at a port (R38, R302, R439, R441) -/

/-- The domain that an access without a leaf uses: the one its sector was last written with, while that key stands; else 0
(log 30). -/
def lineDom (d : Device) (key : Nat) : Nat :=
  match d.sectorKeys.find? (·.1 == sectorOf key) with
  | some (_, dom, gen) => if keyGenOf d (mdieOf key) dom = some gen then dom else 0
  | none => 0

/-- The key of a physical address of this module's memory. -/
def ownKey (d : Device) (pa : Nat) : Option Nat :=
  if pa / 2 ^ 39 ≠ d.modnum.toNat then none
  else match physKey d pa (lineDom d (pa % 2 ^ 39)) .r with
    | .ok k => if keyKind k = .own then some k else none
    | .error _ => none

/-- The keys of a run of physical addresses. -/
def ownKeys (d : Device) (pa : Nat) : Nat → Option (List Nat)
  | 0 => some []
  | n + 1 => match ownKey d pa, ownKeys d (pa + 1) n with
    | some k, some ks => some (k :: ks)
    | _, _ => none

/-- The home of a location has applied what a port die's clock asks for (R281), and is not halted (R447). -/
def portReady (d : Device) (source : Nat) (keys : List Nat) : Bool :=
  !keys.any (haltedKey d) && ((keys.map homeDie).eraseDups).all fun h =>
    sourceClear d source h d.nextId && caughtUp d h (clockOf d source) [h, source]

/-- An answer carries the clocks of the homes to the port die (R282, R302). -/
def portMerge (source : Nat) (keys : List Nat) (d : Device) : Device :=
  ((keys.map homeDie).eraseDups).foldl (fun d h =>
    mergeClock (mergeClock d h (clockOf d source)) source (clockOf d h)) d

/-- A plain write of a port die (R286): core 1023, the port die's stamp; by homes and domains. -/
def portWrite (source : Nat) (keys : List Nat) (data : List Byte) (d : Device) : Device :=
  let cells := keys.zip data
  ((keys.map fun k => (homeDie k, lineDom d k)).eraseDups).foldl (fun e h =>
    let mine := cells.filter fun c => homeDie c.1 == h.1 && lineDom d c.1 == h.2
    applyPlain { id := d.nextId, source := source, core := 1023, gid := 0, slot := 0, key := (mine.headD (0, 0)).1
                 cells := mine, stamp := clockOf d source, dom := h.2 } e) d

/-- The atomic that a request asks for (R439). -/
def ueAtomic (op : UeAtomic) (x y : DWord) : Atomic :=
  match op with
  | .add w => { op := .addI, ty := .int, size := if w then 8 else 4, x := x.toNat }
  | .exch w => { op := .exch, ty := .int, size := if w then 8 else 4, x := x.toNat }
  | .cas w => { op := .cas, ty := .int, size := if w then 8 else 4, x := x.toNat, cmp := y.toNat }

/-- The first address and the length that a request names. -/
def ueRange (k : UeKind) : Nat × Nat :=
  match k with
  | .read pa n => (pa, n)
  | .write pa data => (pa, data.length)
  | .atomic op pa x y => (pa, (ueAtomic op x y).size)
  | .collective | .unsupported => (0, 0)

/-- Serves a request whose bytes lie at some keys. -/
def ueServe (m : Memory) (source : Nat) (k : UeKind) (keys : List Nat) (d : Device) : Device :=
  match k with
  | .read .. =>
    if keys.any fun x => badSector d x (lineDom d x) then d.send (.ue false [])
    else (portMerge source keys d).send (.ue true (keys.map fun x => (peek m d x).toNat))
  | .write _ data => (portWrite source keys data d).send (.ue true [])
  | .atomic op pa x y =>
    let a := ueAtomic op x y
    if pa % a.size ≠ 0 then d.send (.ue false [])
    else match applyAtomic m keys (lineDom d (keys.headD 0)) a (portMerge source keys d) with
      | some (old, d) => d.send (.ue true [old])
      | none => d.send (.ue false [])
  | .collective | .unsupported => d

/-- UE_INBOUND_REQUEST: a collective's request of a peer is its instance's (COLL_INSTANCE_FORM), but where the module is
standalone it is refused (R38). -/
def evUeInbound (r : UeRequest) (m : Memory) (d : Device) : Device :=
  let source := 4 + r.port.toNat / 4
  if !activeSource d source ∨ !(d.ports[r.port.toNat]'(r.port.isLt)).up then d
  else if r.kind = .unsupported then { d with mon := { d.mon with dropped := d.mon.dropped + 1 } }
  else if r.kind = .collective then if d.standalone then d.send (.ue false []) else d
  else if (r.peer ∧ d.standalone) ∨ 4096 < (ueRange r.kind).2 then d.send (.ue false [])
  else match ownKeys d (ueRange r.kind).1 (ueRange r.kind).2 with
    | none => d.send (.ue false [])
    | some keys => if portReady d source keys then ueServe m source r.kind keys d else d

/-! ## The pod (R268, R330) -/

/-- POD_MODULE_LOSS: which modules a context has is not this module's state, so every context's (log 31). -/
def evModuleLoss (number : BitVec 6) (m : Memory) (d : Device) : Device :=
  if !d.booted ∨ d.standalone ∨ number = d.modnum ∨ d.lostModules.contains number.toNat then d
  else
    let d := { d with lostModules := number.toNat :: d.lostModules }
    let d := eachCtx (fun d c => breakBars (fun b => b.sc == .pod) c d) d
    (d.cmds.filter fun c => c.kind == .coll && bit (collOf c).mask number.toNat).foldl
      (fun d c => withdrawCmd m c .barrierBroken 0 d) d

/-! ## The steps -/

def execPowerOn (trial : BootTrial) (s : State) := runEvent (fun _ d => evPowerOn trial.failed trial.recovery d) s
def execLinkRetry (link : Nat) (ids : List Nat) (duration : Nat) (s : State) := runEvent (fun _ d => evLinkRetry link ids duration d) s
def execCorrectedMemoryError (_mdie : Nat) (ids : List Nat) (duration : Nat) (s : State) :=
  runEvent (fun _ d => evCorrectedError ids duration d) s
def execClockStepDown (r : HeatReading) (s : State) := runEvent (fun _ d => evStepDown r.die r.temp r.us d) s
def execClockStepUp (r : HeatReading) (s : State) := runEvent (fun _ d => evStepUp r.die r.temp r.us d) s
def execEmergencyThrottle (r : DroopReading) (ids : List Nat) (duration : Nat) (s : State) :=
  runEvent (fun _ d => evThrottle r.die r.temp r.droop ids duration d) s
def execFrequencySwitch (die : Nat) (s : State) := runEvent (fun _ d => evFreqSwitch die d) s
def execRefreshDouble (r : TempReading) (s : State) := runEvent (fun _ d => evRefresh r.unit r.temp d) s
def execSensorOvertempFence (r : TempReading) (s : State) := runEvent (evOverTemp r.unit r.temp) s
def execLinkWidthReduce (link : Nat) (failing : Bool) (s : State) := runEvent (fun _ d => evWidthReduce link failing d) s
def execLinkWidthIncrease (link : Nat) (s : State) := runEvent (fun _ d => evWidthIncrease link d) s
def execViaductPathChange (link : Nat) (back : Bool) (s : State) := runEvent (fun _ d => evPathChange link back d) s
def execUeInboundRequest (r : UeRequest) (s : State) := runEvent (evUeInbound r) s
def execPodModuleLoss (number : BitVec 6) (s : State) := runEvent (evModuleLoss number) s

end Sys2Proof.Machine
end

