-- ==== Sys2Proof/Machine/EvMgmt.lean ====
section
/-! DEFINITION. Management commands (R432 to R434, R452): malformed ones, CTXSTART and CTXEND (R406 to R408), SUSPEND and
RESUME (R421), TLBINV (R391, R450), HWINSET (R438), keys (R437), MODSET (R38), FWUPDATE (R429), MONREAD (R442), LINKSET
(R443, R444), PORTMODE (R440). Commands are executed one at a time: one that comes while another is being executed changes
nothing. -/

namespace Sys2Proof.Machine

/-! ## Acceptance and responses (R432, R433, R452) -/

/-- Notices held for a context go to the first session that names it (R432). -/
def sendHeld (session ctx : Nat) (d : Device) : Device :=
  let mine := fun (o : Out) => match o with
    | .notice _ _ c _ => c == ctx
    | _ => false
  (d.heldNotices.filter mine).foldl (fun d o => match o with
    | .notice _ k c p => d.send (.notice (some session) k c p)
    | _ => d) { d with heldNotices := d.heldNotices.filter fun o => !mine o }

/-- A command is executed inside a session only, and alone (R432). -/
def accept (h : MgmtHead) (f : Nat → Device → Device) (d : Device) : Device :=
  if !d.booted ∨ d.pendCmds ≠ [] then d
  else match h.session with
    | none => respond h 2 [] d
    | some s => if d.sessions.any (fun x => x.id == s && x.ready) then f s (sendHeld s h.ctx.toNat d) else respond h 2 [] d

/-- A command for a context. -/
def withCtx (h : MgmtHead) (f : Nat → Ctx → Device → Device) (d : Device) : Device :=
  accept h (fun s d => match d.ctx? h.ctx.toNat with
    | none => respond h 3 [] d
    | some c => f s c d) d

/-- STATUS 4 with its reason and detail words. -/
def refuse (h : MgmtHead) (reason detail : Nat) (d : Device) : Device := respond h 4 [reason, detail] d

/-- The 16 bytes of a message's header (R433). -/
def headBytes (ver opc : Byte) (tag len ctx status : Nat) : List Byte :=
  [ver, opc] ++ wordBytes 2 tag ++ wordBytes 4 len ++ wordBytes 2 ctx ++ wordBytes 2 status ++ [0, 0, 0, 0]

/-- A field of a header: its first byte and its length. -/
def headField (bs : List Byte) (at_ n : Nat) : Nat := leNat ((bs.drop at_).take n)

/-- The commands of R434. -/
def opcKnown (opc : Nat) : Bool :=
  decide (1 ≤ opc ∧ opc ≤ 0x0A) || decide (0x10 ≤ opc ∧ opc ≤ 0x15) || opc == 0x18 || opc == 0x19
    || decide (0x1C ≤ opc ∧ opc ≤ 0x1E)

/-- A header that R433 answers with STATUS 1, or whose fields lie outside it: the version, an unassigned OPC, the length, a
STATUS or reserved bytes that are not 0. -/
def headBad (bs : List Byte) : Bool :=
  bs.length != 16 || headField bs 0 1 != 1 || !opcKnown (headField bs 1 1) || decide (4064 < headField bs 4 4)
    || headField bs 10 2 != 0 || headField bs 12 4 != 0

/-- The head of a command, from the bytes of its header. -/
def headOf (session : Option Nat) (port : BitVec 3) (bs : List Byte) : MgmtHead :=
  { session := session, tag := BitVec.ofNat 16 (headField bs 2 2), ctx := BitVec.ofNat 16 (headField bs 8 2), port := port }

def noticeOpc (k : NoticeKind) : Byte :=
  match k with
  | .flogNote => 0x80
  | .recFail => 0x81
  | .logLost => 0x82
  | .dieFence => 0x83
  | .dbgEvent => 0x84
  | .trcInt => 0x85
  | .linkEvent => 0x86
  | .monAlert => 0x87

/-- The header that a message to a host carries (R433, R435): a notice has TAG 0; a response echoes the command's OPC, its
TAG and its CTX; payload words are of four bytes (log 84). -/
def outHead (opc : Byte) (o : Out) : Option (List Byte) :=
  match o with
  | .response h status payload => some (headBytes 1 opc h.tag.toNat (4 * payload.length) h.ctx.toNat status)
  | .notice _ k ctx payload => some (headBytes 1 (noticeOpc k) 0 (4 * payload.length) ctx 0)
  | _ => none

/-- MGMT_MALFORMED. -/
def evMalformed (session : Option Nat) (port : BitVec 3) (head : List Byte) (d : Device) : Device :=
  let h := headOf session port head
  if headBad head then accept h (fun _ d => respond h 1 [] d) d else d

/-! ## Descriptors (R406, R407) -/

/-- The 128 bytes of a descriptor; none where its address is refused or its data uncorrectable. -/
def descriptorAt (m : Memory) (d : Device) (pa : Nat) : Option (List Byte) :=
  match ownKeys d pa 128 with
  | none => none
  | some ks => if ks.any fun k => badSector d k (lineDom d k) then none else some (ks.map (peek m d))

/-- A field of a descriptor. -/
def fld (bs : List Byte) (at_ n : Nat) : Nat := leNat ((bs.drop at_).take n)

def geomOk (g : Nat) : Bool :=
  decide (1 ≤ bits g 22 10 ∧ bits g 22 10 ≤ 512) && decide (1 ≤ bits g 17 5 ∧ bits g 17 5 ≤ 16) && bits g 12 5 == 0
    && decide (1 ≤ bits g 8 4 ∧ bits g 8 4 ≤ 8) && decide (1 ≤ bits g 4 4 ∧ bits g 4 4 ≤ 12) && bits g 0 4 == 0

def cfgOk (g : Nat) : Bool :=
  (bit g 0 == decide (1 ≤ bits g 20 12)) && decide (4 ≤ bits g 16 4) && bits g 6 2 == 0
    && (bits g 1 5 == 0 || decide (12 ≤ bits g 1 5 ∧ bits g 1 5 ≤ 18))

/-- Every field of a descriptor by its offset, with whether it lies inside R406. -/
def fieldChecks (bs : List Byte) : List (Nat × Bool) :=
  [(0, vaClass (BitVec.ofNat 64 (fld bs 0 8)) == .canonical && fld bs 0 8 % 4 == 0), (8, fld bs 8 8 % 2 ^ 12 == 0 && decide (fld bs 8 8 < 2 ^ 52)),
   (16, fld bs 16 8 % 32 == 0), (24, decide (1 ≤ fld bs 24 4 ∧ fld bs 24 4 ≤ 65536)), (28, fld bs 28 4 % 4 == 0),
   (32, fld bs 32 4 == 0xFFFFFFFF || fld bs 32 4 % 2 == 0), (36, geomOk (fld bs 36 4)), (40, fld bs 40 8 % 4096 == 0), (48, fld bs 48 8 % 4096 == 0),
   (56, fld bs 56 4 % 4096 == 0 && decide (4096 ≤ fld bs 56 4 ∧ fld bs 56 4 ≤ 2 ^ 30)), (60, cfgOk (fld bs 60 4)), (64, fld bs 64 8 % 32 == 0),
   (72, fld bs 72 8 % 16 == 0), (80, fld bs 80 8 % 16 == 0), (88, fld bs 88 4 % 16 == 0), (92, decide (fld bs 92 4 < 2 ^ 16)),
   (96, fld bs 96 32 == 0)]

/-- The context that a descriptor describes. -/
def ctxFrom (num host : Nat) (bs : List Byte) : Ctx :=
  let g := fld bs 36 4
  let f := fld bs 60 4
  let va := fun at_ => BitVec.ofNat 64 (fld bs at_ 8)
  { num := num, host := some host, codeBase := va 0, root := fld bs 8 8, procTab := va 16, nproc := fld bs 24 4
    resent := BitVec.ofNat 32 (fld bs 28 4)
    handler := if fld bs 32 4 = 0xFFFFFFFF then none else some (BitVec.ofNat 32 (fld bs 32 4)), save := va 40, ovfl := va 48
    ovflSize := fld bs 56 4, rrTab := va 64, flog := va 72, drec := va 80, drecSize := fld bs 88 4, cdom := fld bs 92 4
    gpc := bits g 22 10, resw := bits g 4 4, resh := bits g 8 4, rq := bits f 20 12, qdl := bits f 16 4, nq := bits f 8 8
    z := if bits f 1 5 = 0 then 0 else 2 ^ bits f 1 5, det := bit f 0 }

/-- A procedure record inside R380, R85 and the context's Z, behind one that ends at `prev`. -/
def procOk (c : Ctx) (prev : Nat) (p : Proc) : Bool :=
  decide (prev ≤ p.start) && decide (p.start < p.stop) && p.start % 4 == 0 && p.rsv == 0
    && decide (16 ≤ p.d ∧ p.d ≤ 64) && p.d % 8 == 0 && decide (p.x ≤ 128) && p.x % 8 == 0 && decide (p.scr ≤ c.z)

/-- The first record that cannot be read or fails, among `n` from index `i` on. -/
def badProc (m : Memory) (d : Device) (c : Ctx) (i prev : Nat) : Nat → Option Nat
  | 0 => none
  | n + 1 => match procAt m d c i with
    | none => some i
    | some p => if procOk c prev p then badProc m d c (i + 1) p.stop n else some i

/-! ## Placement (R408) -/

/-- The cores of every quad that a rectangle touches. -/
def quadsOf (rs : List Rect) : List Nat := ((rs.flatMap rectCores).map quadOf).eraseDups.flatMap quadCores

/-- Bytes of the regions on a core. -/
def regionSum (d : Device) (core : Nat) : Nat :=
  ((d.ctxs.filter fun c => (regionBase c core).isSome).map (·.z)).sum

/-- A rectangle that a context can hold beside others of its own. -/
def rectFits (d : Device) (c : Ctx) (chosen : List Rect) (r : Rect) : Bool :=
  !(chosen.any (rectsMeet r)) && (quadsOf [r]).all fun k => decide (regionSum d k + c.z ≤ 2 ^ 18)

/-- Every position on the running dies. -/
def allRects (d : Device) (c : Ctx) : List Rect :=
  ((List.range 4).filter fun k => (d.die k).st == .running || haltedDie d k).flatMap fun die =>
    (List.range 2).flatMap fun clus => positionsIn { die := die, clus := clus, x := 0, y := 0, w := 12, h := 8 } c.resw c.resh

/-- A list begun elsewhere, for a choice of the hardware's. -/
def rotated (l : List Rect) (n : Nat) : List Rect := l.drop (n % max l.length 1) ++ l.take (n % max l.length 1)

/-- `n` more rectangles, by a search that finds a placement where one exists; where it begins is the hardware's choice
(log 15). -/
def placeRects (d : Device) (c : Ctx) (chosen : List Rect) : Nat → Option (List Rect)
  | 0 => some chosen
  | n + 1 => (rotated (allRects d c) (Config.placement d.steps n)).findSome? fun r =>
      if rectFits d c chosen r then placeRects d c (chosen ++ [r]) n else none

/-- The base of a new region on a core: the lowest that no context's region there has. -/
def newBase (d : Device) (core : Nat) : Nat :=
  let used := d.ctxs.filterMap fun c => regionBase c core
  ((List.range (used.length + 1)).find? fun i => !used.contains (i * 2 ^ 18)).getD 0 * 2 ^ 18

/-- Groups 0 to n - 1 of a core. -/
def newGroups (c : Ctx) (gd gx core first tick : Nat) : List Group :=
  (List.range c.gpc).map fun i =>
    { gid := first + i, ctx := c.num, core := core, gidx := i, d := gd, x := gx, waitAt := first + i
      waitTick := tick : Group }

/-- The groups of every core of a context. -/
def addGroups (c : Ctx) (cores : List Nat) (d : Device) : Device :=
  cores.foldl (fun d core =>
    { d with groups := d.groups ++ newGroups c c.d c.x core d.nextId (d.tickOf core), nextId := d.nextId + c.gpc }) d

/-- The lowest number that no context has. -/
def freeNum (d : Device) : Nat :=
  ((List.range (d.ctxs.length + 1)).find? fun n => !d.ctxs.any (·.num == n)).getD 0

/-- Any procedure of a context names a shadow (R376). -/
def anyShadow (m : Memory) (d : Device) (c : Ctx) : Bool :=
  (List.range c.nproc).any fun i => match procAt m d c i with
    | some p => p.shd != 0xFFFFFFFF
    | none => false

/-- What CTXSTART comes to (R407, R452): a refusal with reason and detail, or the context. -/
def newCtx (m : Memory) (d : Device) (host pa : Nat) (nrect : Nat → Nat) : Except (Nat × Nat) Ctx :=
  match descriptorAt m d pa with
  | none => .error (1, 0)
  | some bs => match (fieldChecks bs).find? fun p => !p.2 with
    | some p => .error (2, p.1)
    | none =>
      let c := ctxFrom (freeNum d) host bs
      match badProc m d c 0 0 c.nproc, procOf m d c c.resent.toNat with
      | some i, _ => .error (3, i)
      | none, none => .error (4, 0)
      | none, some p =>
        let c := { c with d := p.d, x := p.x, slotSize := if anyShadow m d c then 65536 else 32768 }
        match placeRects d c [] (nrect (fld bs 36 4)) with
        | none => .error (5, 0)
        | some rs => .ok { c with
            rects := rs
            regions := if c.z = 0 then [] else (quadsOf rs).map fun k => (k, newBase d k) }

/-- CTXSTART: the context holds its rectangles, regions and groups; nothing of it is resident yet. -/
def evCtxstart (h : MgmtHead) (descriptor : Nat) (m : Memory) (d : Device) : Device :=
  accept h (fun s d =>
    let (_, d) := d.draw
    match newCtx m d s descriptor fun g => bits g 17 5 with
    | .error e => refuse h e.1 e.2 d
    | .ok c => respond h 0 [c.num] (addGroups c (ctxCores c) { d with ctxs := d.ctxs ++ [c] })) d

/-- A key lies in a region of a context. -/
def inRegions (c : Ctx) (k : Nat) : Bool :=
  keyKind k == .scratch && (regionBase c (scratchCore k)) == some (k % 2 ^ 24 / 2 ^ 18 * 2 ^ 18)

/-- The contexts of a device that another does not have. -/
def ctxsAdded (d e : Device) : List Ctx := e.ctxs.filter fun c => !d.ctxs.any (·.num == c.num)

/-- Regions of new contexts are zero-filled (R408). -/
def zeroRegions (cs : List Ctx) (m : Memory) : Memory := m.filter fun x => !cs.any fun c => inRegions c x.1

/-! ## End of a context (R434) -/

/-- Requests of an ended context that go on: RMWs on their way (R68). -/
def lastReq (n : Nat) (r : Req) : Option Req :=
  if r.ctx ≠ n then some r
  else if isAtomicReq r ∧ r.st = .sent then some { r with dropped := true, dst := .none } else none

/-- Every group of a context is discarded. -/
def discardAll (c : Ctx) (d : Device) : Device :=
  let gone := d.groups.filter (·.ctx == c.num)
  let d := gone.foldl (fun d g => freeTiles d g.gid) d
  { d with
    groups := d.groups.filter (·.ctx != c.num)
    focus := if gone.any (fun g => d.focus == some g.gid) then none else d.focus
    reqs := d.reqs.filterMap (lastReq c.num)
    entries := d.entries.map fun e => if e.ctx = c.num then { e with pulled := none } else e }

/-- CTXEND: nothing more is pulled or started; its grants stand until the end (R434). -/
def evCtxend (h : MgmtHead) (d : Device) : Device :=
  withCtx h (fun _ c d =>
    let d := discardAll c (d.setCtx { c with ending := some h, gangs := c.gangs.map fun k => { k with toStart := [] } })
    { d with pendCmds := d.pendCmds ++ [.ctxEnd h] }) d

/-- Commands, reductions, writes and record updates of a context have all been made. -/
def ctxQuiet (d : Device) (n : Nat) : Bool :=
  !(d.cmds.any (·.ctx == n)) && !(d.reds.any fun r => r.ctx == n && !r.atHome) && !(d.writes.any (·.ctx == n))
    && !(d.ends.any (·.ctx == n)) && !(d.reqs.any (·.ctx == n))

/-- A trace unit of a context stops with it. -/
def endTrace (n : Nat) (x : Die) : Die := if x.trace.on ∧ x.trace.ctx = n then { x with trace := {} } else x

/-- What a context held is released; its translations are dropped (R391, R434). -/
def releaseCtx (n : Nat) (d : Device) : Device :=
  { d with
    ctxs := d.ctxs.filter (·.num != n)
    entries := d.entries.filter (·.ctx != n)
    futures := d.futures.map fun f => { f with parked := f.parked.filter fun id => ((d.entry? id).map (·.ctx)) != some n }
    reds := d.reds.filter (·.ctx != n)
    msgs := d.msgs.filter (·.ctx != n)
    pins := d.pins.filter (·.1 != n)
    tlb := d.tlb.filter (·.ctx != n)
    walks := d.walks.filter (·.ctx != n)
    walkFails := d.walkFails.filter (·.ctx != n)
    fetches := d.fetches.filter (·.ctx != n)
    spans := d.spans.map fun s => { s with lines := s.lines.filter (·.ctx != n) }
    dies := d.dies.map (endTrace n) }

/-- The ordered reductions that homes hold for a context are performed, each record's in the order of R320 (log 47). -/
def performHeld (m : Memory) (n : Nat) (d : Device) : Device :=
  ((d.reds.filter fun r => r.ctx == n && r.atHome).filterMap (·.record)).foldl (fun d p => applyOrdered m n p.1 d) d

/-- CTXEND_COMPLETE. -/
def evCtxendComplete (ctx : Nat) (m : Memory) (d : Device) : Device :=
  match (d.ctx? ctx).bind (·.ending) with
  | none => d
  | some h =>
    if !ctxQuiet d ctx then d
    else
      let d := releaseCtx ctx (performHeld m ctx d)
      respond h 0 [] { d with pendCmds := d.pendCmds.filter (· != .ctxEnd h) }

/-! ## Suspend and resume (R421) -/

def evSuspend (h : MgmtHead) (m : Memory) (d : Device) : Device :=
  withCtx h (fun _ c d =>
    if c.suspended then respond h 5 [] d
    else
      let d := d.setCtx { c with suspended := true }
      let ask := fun (g : Group) => if g.ctx = c.num ∧ g.place.isSome ∧ g.partner.isNone then { g with wanted := true } else g
      endSuspend m c.num { d with groups := d.groups.map ask, pendCmds := d.pendCmds ++ [.suspend h] }) d

def evResume (h : MgmtHead) (m : Memory) (d : Device) : Device :=
  withCtx h (fun _ c d =>
    if !c.suspended then respond h 5 [] d
    else
      let c := { c with suspended := false }
      respond h 0 [] (barsArea m c .r (d.setCtx c))) d

/-! ## Translation invalidation (R391, R450) -/

/-- A run of bytes meets a range. -/
def inRange (base : DWord) (len : Nat) (va : DWord) (size : Nat) : Bool := runsMeet base.toNat len va.toNat size

/-- A trace unit whose list holds a page of the range. -/
def tracesRange (n : Nat) (base : DWord) (len : Nat) (t : TraceUnit) : Bool :=
  t.on && t.ctx == n && t.pages.any fun p => inRange base len p.va p.size

/-- The pages of a list with the number of each one's first record. -/
def numbered (pages : List TracePage) (n : Nat) : List (Nat × TracePage) :=
  match pages with
  | [] => []
  | p :: rest => (n, p) :: numbered rest (n + p.size / 32)

/-- Where a gap record goes: to its place in the page being filled, else to the first of the next page, that a range does not
cover. -/
def gapKey (t : TraceUnit) (base : DWord) (len : Nat) : Option (Nat × Nat) :=
  let cap := traceCap t.pages
  let cur := t.at_ % max cap 1
  let l := numbered t.pages 0
  let ahead := l.filter fun p => decide (cur < p.1 + p.2.size / 32)
  let behind := l.filter fun p => decide (p.1 + p.2.size / 32 ≤ cur)
  if cap ≤ t.at_ ∧ !t.wrap then none
  else ((ahead ++ if t.wrap then behind else []).find? fun p => !inRange base len p.2.va p.2.size).bind fun p =>
    pageKey p.2 (if cur < p.1 + p.2.size / 32 then cur - p.1 else 0)

/-- The gap record of a trace unit: what staging holds is counted and discarded (R450, R451). -/
def gapBytes (die : Nat) (x : Die) : List Byte :=
  let t := x.trace
  let first := if t.lost ≠ 0 then t.lostAt.toNat else leNat (((t.staged.headD []).drop 8).take 4)
  let r : TraceRec :=
    { kind := 6, core := die * 256, time := BitVec.ofNat 32 (x.tick / 60)
      aux := BitVec.ofNat 64 ((t.lost + t.staged.length) % 2 ^ 32 + first * 2 ^ 32) }
  traceBytes r

/-- A trace unit stops before an invalidation with FORCE (R450). -/
def forceStop (base : DWord) (len die : Nat) (d : Device) : Device :=
  let x := d.die die
  let bs := gapBytes die x
  let e := d.setDie die { x with trace := {} }
  match gapKey x.trace base len with
  | some (k, dom) => (traceStore k dom bs e).send (.notice (some x.trace.session) .trcInt x.trace.ctx [x.trace.at_])
  | none => e.send (.notice (some x.trace.session) .trcInt x.trace.ctx (bs.map (·.toNat)))

/-- Translations of a context that overlap a range leave every buffer, and the code lines read through them. -/
def dropRange (n : Nat) (base : DWord) (len : Nat) (d : Device) : Device :=
  { d with
    tlb := d.tlb.filter fun t => !(t.ctx == n && inRange base len t.va t.size)
    spans := d.spans.map fun s => { s with lines := s.lines.filter fun l => !(l.ctx == n && inRange base len l.va 64) } }

/-- TLBINV. -/
def evTlbinv (h : MgmtHead) (base : DWord) (len : Nat) (force : Bool) (d : Device) : Device :=
  withCtx h (fun _ c d =>
    let dies := (List.range 4).filter fun k => tracesRange c.num base len (d.die k).trace
    if dies ≠ [] ∧ !force then refuse h 0x21 0 d
    else
      let d := dropRange c.num base len (dies.foldl (fun d k => forceStop base len k d) d)
      { d with pendCmds := d.pendCmds ++ [.tlbInv d.nextId h base len], nextId := d.nextId + 1 }) d

/-- Every access that used a translation of the range has been performed, or has arrived. -/
def rangeQuiet (d : Device) (n : Nat) (base : DWord) (len : Nat) : Bool :=
  !(d.reqs.any fun r => r.ctx == n && inRange base len r.va r.size)
    && !(d.writes.any fun w => w.ctx == n && !w.applied && inRange base len w.va (max w.cells.length 1))
    && !(d.reds.any fun r => r.ctx == n && inRange base len r.va r.keys.length)
    && !(d.cmds.any fun c => c.ctx == n && c.pages.any fun p => inRange base len p.va 4096)
    && !(d.fetches.any fun f => f.ctx == n && inRange base len f.va 64)

/-- TLBINV_COMPLETE. -/
def evTlbinvComplete (id : Nat) (d : Device) : Device :=
  match d.pendCmds.findSome? fun p => match p with
    | .tlbInv i h base len => if i = id then some (h, base, len) else none
    | _ => none with
  | none => d
  | some (h, base, len) =>
    if !rangeQuiet d h.ctx.toNat base len then d
    else
      let d := dropRange h.ctx.toNat base len d
      respond h 0 [] { d with pendCmds := d.pendCmds.filter (· != .tlbInv id h base len) }

/-! ## Host windows (R438) -/

/-- HWINSET. -/
def evHwinset (h : MgmtHead) (w : WindowSetting) (d : Device) : Device :=
  accept h (fun _ d =>
    if w.len % 4096 ≠ 0 ∨ 2 ^ 48 < w.len then respond h 1 [] d
    else { d with pendCmds := d.pendCmds ++ [.hwinSet h d.nextId w] }) d

/-- Every access issued before a command began, that may go to a window, has completed. -/
def windowQuiet (d : Device) (n since : Nat) : Bool :=
  !(d.reqs.any fun r => decide (r.id < since) && (r.keys.any (inWindow d n) || r.st == .walking))
    && !(d.writes.any fun w => decide (w.id < since) && inWindow d n w.key)
    && !(d.reds.any fun r => decide (r.id < since) && r.keys.any (inWindow d n))
    && !(d.cmds.any fun c => decide (c.id < since) && isCopy c.kind && (c.st == .queued || c.pages.any fun p => inWindow d n p.key))

/-- HWINSET_COMPLETE. -/
def evHwinsetComplete (window : Nat) (d : Device) : Device :=
  match d.pendCmds.findSome? fun p => match p with
    | .hwinSet h since w => if w.window.toNat = window then some (h, since, w) else none
    | _ => none with
  | none => d
  | some (h, since, w) =>
    if !windowQuiet d window since then d
    else
      let x : Option Window :=
        if w.len = 0 then none
        else some { endpoint := w.endpoint, base := w.base, len := w.len, r := w.r, w := w.w, a := w.a }
      respond h 0 [] { d with hwin := d.hwin.set! window x, pendCmds := d.pendCmds.filter (· != .hwinSet h since w) }

/-! ## Keys, module number, firmware (R38, R429, R437) -/

/-- Memory dies of a mask. -/
def masked (mask : BitVec 64) : List Nat := (List.range 64).filter fun k => mask.getLsbD k

/-- The keys of some memory dies and a domain are cleared. -/
def eraseKeys (mask : BitVec 64) (domain : Nat) (d : Device) : Device :=
  { d with keys := d.keys.filter fun k => !(mask.getLsbD k.1 && k.2.1 == domain) }

/-- The refusals that KEYSET and KEYERASE share. -/
def keyCommand (h : MgmtHead) (domain : Nat) (f : Device → Device) (d : Device) : Device :=
  accept h (fun _ d =>
    if 16 ≤ domain then respond h 1 [] d
    else if d.ctxs ≠ [] then refuse h 0x10 0 d
    else if domain = 0 then refuse h 0x11 0 d
    else respond h 0 [] (f d)) d

def evKeyset (h : MgmtHead) (mask : BitVec 64) (domain : Nat) (d : Device) : Device :=
  keyCommand h domain (fun d =>
    let d := eraseKeys mask domain d
    { d with keys := d.keys ++ (masked mask).map fun k => (k, domain, d.keyGen + 1), keyGen := d.keyGen + 1 }) d

def evKeyerase (h : MgmtHead) (mask : BitVec 64) (domain : Nat) (d : Device) : Device :=
  keyCommand h domain (eraseKeys mask domain) d

def evModset (h : MgmtHead) (number : BitVec 6) (d : Device) : Device :=
  accept h (fun _ d =>
    if d.ctxs ≠ [] then refuse h 0x10 0 d else respond h 0 [] { d with modnum := number, standalone := false }) d

def evFwupdate (h : MgmtHead) (piece : List Byte) (last : Bool) (d : Device) : Device :=
  accept h (fun _ d =>
    if 4064 < piece.length then respond h 1 [] d
    else
      let image := d.fwPieces ++ piece
      if !last then respond h 0 [] { d with fwPieces := image }
      else
        let (n, d) := d.draw
        let d := { d with fwPieces := [] }
        if imageOk n image then respond h 0 [] { d with fwImage := image } else refuse h 0x30 0 d) d

/-! ## Monitors, links, ports (R440, R442 to R444) -/

/-- The counts since power-on. -/
def countWords (x : Monitors) : List Nat :=
  [x.correctedWords, x.correctedReads, x.breaches, x.throttles, x.dropped, x.saveFails] ++ x.retries.flatMap fun p => [p.1, p.2]

/-- Readings of `k` sensors: open (log 33). -/
def readings (n k : Nat) : List Nat := (List.range k).map (Config.anyOrder n)

/-- MONREAD: a cluster has four temperature sensors and a voltage monitor; a die the sensors under its 16 memory dies, a
supply and a process monitor. -/
def evMonread (h : MgmtHead) (u : MonUnit) (d : Device) : Device :=
  accept h (fun _ d =>
    let (n, d) := d.draw
    match u with
    | .die k =>
      if 4 ≤ k then respond h 1 [] d
      else respond h 0 (readings n 18 ++ [(d.die k).mhz] ++ countWords d.mon) d
    | .cluster k =>
      if 8 ≤ k then respond h 1 [] d
      else respond h 0 (readings n 5 ++ [(d.die (k / 2)).mhz] ++ countWords d.mon) d) d

/-- LINKSET: the response follows the request; the change reports its own completion (R444). -/
def evLinkset (h : MgmtHead) (r : LinkRequest) (d : Device) : Device :=
  accept h (fun _ d => match r with
    | .width link full =>
      if 4 ≤ link then respond h 1 [] d
      else
        let l := d.link link
        let d := superseded 2 link l.wantFull.isSome d
        let d := d.setLink link { l with wantFull := some full, since := d.nextId }
        respond h 0 [] (if l.full = full then widthTo link full d else d)
    | .freq die mhz =>
      if 4 ≤ die ∨ !settings.contains mhz then respond h 1 [] d
      else if !dieOn d die then respond h 5 [] d
      else
        let x := d.die die
        let d := (superseded 3 die x.wantFabric.isSome d).setDie die { x with wantFabric := none, heat := 0 }
        respond h 0 [] (if widthPending d die then
            (superseded 3 die x.wantMhz.isSome d).setDie die { d.die die with wantMhz := none, wantFabric := some mhz }
          else askClock die mhz d)) d

/-- PORTMODE: of the port that carries its session, after its response. -/
def evPortmode (h : MgmtHead) (port mode : Nat) (d : Device) : Device :=
  accept h (fun _ d =>
    if 8 ≤ port ∨ 4 ≤ mode then respond h 1 [] d
    else
      let own := decide (h.port.toNat = port)
      let d := if own then respond h 0 [] d else d
      { d with
        ports := d.ports.set! port { d.ports.toArray.getD port {} with up := false }
        pendCmds := d.pendCmds ++ [.portMode (if own then none else some h) port mode] }) d

/-- PORT_RETRAIN_DONE: a port of a port die that stayed in reset stays down (R428). -/
def evRetrainDone (port : Nat) (d : Device) : Device :=
  match d.pendCmds.findSome? fun p => match p with
    | .portMode h q mode => if q = port then some (h, mode) else none
    | _ => none with
  | none => d
  | some (h, mode) =>
    let d := { d with
      ports := d.ports.set! port { mode := mode, up := activeSource d (4 + port / 4) }
      pendCmds := d.pendCmds.filter (· != .portMode h port mode) }
    match h with
    | some h => respond h 0 [] d
    | none => d

/-! ## The steps -/

def execMgmtMalformed (session : Option Nat) (port : BitVec 3) (head : List Byte) (s : State) :=
  runEvent (fun _ d => evMalformed session port head d) s

def execCtxstart (h : MgmtHead) (descriptor : Nat) (s : State) : Host.Outcome State Fault Refusal :=
  let d := evCtxstart h descriptor s.mem s.dev
  .next (commit { s with mem := zeroRegions (ctxsAdded s.dev d) s.mem } d)

def execCtxend (h : MgmtHead) (s : State) := runEvent (fun _ d => evCtxend h d) s
def execCtxendComplete (ctx : Nat) (s : State) := runEvent (evCtxendComplete ctx) s
def execSuspend (h : MgmtHead) (s : State) := runEvent (evSuspend h) s
def execResume (h : MgmtHead) (s : State) := runEvent (evResume h) s
def execTlbinv (h : MgmtHead) (base : DWord) (len : Nat) (force : Bool) (s : State) :=
  runEvent (fun _ d => evTlbinv h base len force d) s
def execTlbinvComplete (id : Nat) (s : State) := runEvent (fun _ d => evTlbinvComplete id d) s
def execHwinset (h : MgmtHead) (w : WindowSetting) (s : State) := runEvent (fun _ d => evHwinset h w d) s
def execHwinsetComplete (window : Nat) (s : State) := runEvent (fun _ d => evHwinsetComplete window d) s
def execKeyset (h : MgmtHead) (mask : BitVec 64) (domain : Nat) (s : State) := runEvent (fun _ d => evKeyset h mask domain d) s
def execKeyerase (h : MgmtHead) (mask : BitVec 64) (domain : Nat) (s : State) :=
  runEvent (fun _ d => evKeyerase h mask domain d) s
def execModset (h : MgmtHead) (number : BitVec 6) (s : State) := runEvent (fun _ d => evModset h number d) s
def execFwupdate (h : MgmtHead) (piece : List Byte) (last : Bool) (s : State) :=
  runEvent (fun _ d => evFwupdate h piece last d) s
def execMonread (h : MgmtHead) (u : MonUnit) (s : State) := runEvent (fun _ d => evMonread h u d) s
def execLinkset (h : MgmtHead) (r : LinkRequest) (s : State) := runEvent (fun _ d => evLinkset h r d) s
def execPortmode (h : MgmtHead) (port mode : Nat) (s : State) := runEvent (fun _ d => evPortmode h port mode d) s
def execPortRetrainDone (port : Nat) (s : State) := runEvent (fun _ d => evRetrainDone port d) s

end Sys2Proof.Machine
end

