-- ==== Sys2Proof/Machine/Float.lean ====
section
/-! DEFINITION. Floating-point instructions: FCMP, majors 0x18 to 0x1E and the 16-bit forms (R190 to R200). -/

namespace Sys2Proof.Machine

/-! ## Shapes -/

/-- Format A on binary32. -/
def opF32 (o : FmtA) (f : Rnd → Nat → Nat → Nat × Flags) : Op :=
  { pos := posA o 1, flagger := true
    lane := fun _ i t w =>
      putF32 t w o.d (f (modeRnd i.rd.g) (fpSrc32 f32 1 i.rd t o.a) (fpSrc32 f32 1 i.rd t o.b)) }

/-- Format A on binary32 with D as the addend (R138, R190). -/
def opF32Acc (o : FmtA) (sub : Bool) : Op :=
  { pos := .acc o.d 1 0 :: posA o 1, flagger := true
    lane := fun _ i t w =>
      putF32 t w o.d (fpFma f32 (modeRnd i.rd.g) sub (fpSrc32 f32 1 i.rd t o.a) (fpSrc32 f32 1 i.rd t o.b)
        (acc32 i.rd t o.d).toNat) }

/-- Format A on two BF16 elements. -/
def opP2 (o : FmtA) (f : Rnd → Nat → Nat → Nat × Flags) : Op :=
  { pos := posA o 1, flagger := true
    lane := fun _ i t w =>
      let a := fpSrc32 bf16 2 i.rd t o.a
      let b := fpSrc32 bf16 2 i.rd t o.b
      putF32 t w o.d (packElems bf16 (fun k => f (modeRnd i.rd.g) (elem bf16 a k) (elem bf16 b k)) 2) }

/-- Format A on binary64. -/
def opF64 (o : FmtA) (f : Rnd → Nat → Nat → Nat × Flags) : Op :=
  { pos := posA o 2, cost := 2, flagger := true
    lane := fun _ i t w =>
      putF64 t w o.d (f (modeRnd i.rd.g) (fpSrc64 f64 1 i.rd t o.a) (fpSrc64 f64 1 i.rd t o.b)) }

/-- Format N on binary32. -/
def opN1 (o : FmtN) (flags : Bool) (f : Rnd → Nat → Nat × Flags) : Op :=
  { guard := o.g, pos := [.src o.a 1 o.ka 0, .dst o.d 1 true true, .no o.k1], flagger := flags
    lane := fun _ i t w => putF32 t w o.d (f (modeRnd i.rd.g) (fpSrc32 f32 1 i.rd t o.a)) }

/-- Format N on binary64. -/
def opN2 (o : FmtN) (flags : Bool) (f : Rnd → Nat → Nat × Flags) : Op :=
  { guard := o.g, pos := [.src o.a 2 o.ka 0, .dst o.d 2 true true, .no o.k1], cost := 2, flagger := flags
    lane := fun _ i t w => putF64 t w o.d (f (modeRnd i.rd.g) (fpSrc64 f64 1 i.rd t o.a)) }

/-! ## Arithmetic (R191, R192) -/

def opFadd (o : FmtA) : Op := opF32 o (fpAdd f32)
def opFsub (o : FmtA) : Op := opF32 o (fpSub f32)
def opFmul (o : FmtA) : Op := opF32 o (fpMul f32)
def opFfma (o : FmtA) : Op := opF32Acc o false
def opFnma (o : FmtA) : Op := opF32Acc o true
def opFmin (o : FmtA) : Op := opF32 o fun _ => fpMinMax f32 false
def opFmax (o : FmtA) : Op := opF32 o fun _ => fpMinMax f32 true

/-- FFMAL: the addend is L0, read implicitly. -/
def opFfmal (o : FmtA) : Op :=
  { pos := .latch false :: posA o 1, flagger := true
    lane := fun _ i t w =>
      putF32 t w o.d (fpFma f32 (modeRnd i.rd.g) false (fpSrc32 f32 1 i.rd t o.a) (fpSrc32 f32 1 i.rd t o.b)
        (src32 i.rd t .l0).toNat) }

def opPadd2 (o : FmtA) : Op := opP2 o fun r a b => flushed (fun x y _ => fpAdd bf16 r x y) a b 0
def opPmul2 (o : FmtA) : Op := opP2 o fun r a b => flushed (fun x y _ => fpMul bf16 r x y) a b 0
def opPmax2 (o : FmtA) : Op := opP2 o fun _ => fpMinMax bf16 true

/-- PFMA2: c + a * b per element, with D as c. -/
def opPfma2 (o : FmtA) : Op :=
  { pos := .acc o.d 1 0 :: posA o 1, flagger := true
    lane := fun _ i t w =>
      let a := fpSrc32 bf16 2 i.rd t o.a
      let b := fpSrc32 bf16 2 i.rd t o.b
      let c := (acc32 i.rd t o.d).toNat
      putF32 t w o.d (packElems bf16 (fun k =>
        flushed (fpFma bf16 (modeRnd i.rd.g) false) (elem bf16 a k) (elem bf16 b k) (elem bf16 c k)) 2) }

def opDadd (o : FmtA) : Op := opF64 o (fpAdd f64)
def opDsub (o : FmtA) : Op := opF64 o (fpSub f64)
def opDmul (o : FmtA) : Op := opF64 o (fpMul f64)
def opDmin (o : FmtA) : Op := opF64 o fun _ => fpMinMax f64 false
def opDmax (o : FmtA) : Op := opF64 o fun _ => fpMinMax f64 true

/-- DFMA: the accumulator is read in the second read cycle (R190). -/
def opDfma (o : FmtA) : Op :=
  { pos := .acc o.d 2 1 :: posA o 2, cost := 2, flagger := true
    lane := fun _ i t w =>
      putF64 t w o.d (fpFma f64 (modeRnd i.rd.g) false (fpSrc64 f64 1 i.rd t o.a) (fpSrc64 f64 1 i.rd t o.b)
        (acc64 i.rd t o.d).toNat) }

/-! ## The 16-bit forms (R106) -/

def opFadd16 (o : Fmt16) : Op := { opFadd (wide o) with size := 2 }
def opFmul16 (o : Fmt16) : Op := { opFmul (wide o) with size := 2 }
def opFmax16 (o : Fmt16) : Op := { opFmax (wide o) with size := 2 }
def opPadd2s16 (o : Fmt16) : Op := { opPadd2 (wide o) with size := 2 }

/-- d += b * L0. -/
def wideMac (o : Fmt16) : FmtA := { b := .l0, a := o.b, d := .v o.d, kb := false, ka := false }

def opFmac16 (o : Fmt16) : Op := { opFfma (wideMac o) with size := 2 }
def opPfma2s16 (o : Fmt16) : Op := { opPfma2 (wideMac o) with size := 2 }

/-! ## Compare (R193) -/

def fcmpRegs (ty : FCmpTy) : Nat :=
  match ty with
  | .f32 | .bf16 => 1
  | .f64 => 2

def fcmpFormat (ty : FCmpTy) : Format :=
  match ty with
  | .f32 => f32
  | .f64 => f64
  | .bf16 => bf16

/-- An operand of a compare; BF16 takes bits 15:0. -/
def fcmpSrc (ty : FCmpTy) (rd : Rd) (t : Nat) (s : Src) : Nat :=
  match ty with
  | .f32 => fpSrc32 f32 1 rd t s
  | .f64 => fpSrc64 f64 1 rd t s
  | .bf16 => fpSrc32 bf16 1 rd t s % 2 ^ 16

def opFcmp (o : FmtFC) : Op :=
  let n := fcmpRegs o.ty
  { pos := [.src o.a n o.ka 0, .src o.b n o.kb 0, .pdst o.p] ++ (if o.conj then [.pred o.p] else [])
    cost := n, void := true, flagger := true
    lane := fun _ i t w =>
      let (c, fl) := fpCompare (fcmpFormat o.ty) o.cond (fcmpSrc o.ty i.rd t o.a) (fcmpSrc o.ty i.rd t o.b)
      putPred t (raiseFlags fl w) o.p (c && (!o.conj || predOf (thread i.rd.g t) o.p)) }

/-! ## Unary and special functions (R194 to R196) -/

/-- The sign bits of `n` elements. -/
def signMask (f : Format) (n : Nat) : Nat := repeatElem f (2 ^ (f.width - 1)) n

def fpNeg (f : Format) (n x : Nat) : Nat := x ^^^ signMask f n

/-- Sign bits cleared. -/
def fpAbs (f : Format) (n x : Nat) : Nat := (x ||| signMask f n) ^^^ signMask f n

def opFneg (o : FmtN) : Op := opN1 o false fun _ x => (fpNeg f32 1 x, 0)
def opFabs (o : FmtN) : Op := opN1 o false fun _ x => (fpAbs f32 1 x, 0)
def opFsqrt (o : FmtN) : Op := opN1 o true (fpSqrt f32)
def opFrcp (o : FmtN) : Op := opN1 o true (fpRcp f32)
def opFrsq (o : FmtN) : Op := opN1 o true fun _ => fpRsq
def opFexp2 (o : FmtN) : Op := opN1 o true fun _ => fpExp2
def opFlog2 (o : FmtN) : Op := opN1 o true fun _ => fpLog2
def opFsinpi (o : FmtN) : Op := opN1 o true fun _ => fpSinPi
def opFcospi (o : FmtN) : Op := opN1 o true fun _ => fpCosPi
def opFrint (o : FmtN) : Op := opN1 o true (fpRint f32)
def opFclass (o : FmtN) : Op := opN1 o false fun _ x => (fpClass f32 x, 0)
def opDneg (o : FmtN) : Op := opN2 o false fun _ x => (fpNeg f64 1 x, 0)
def opDabs (o : FmtN) : Op := opN2 o false fun _ x => (fpAbs f64 1 x, 0)
def opDsqrt (o : FmtN) : Op := opN2 o true (fpSqrt f64)
def opDrcp (o : FmtN) : Op := opN2 o true (fpRcp f64)
def opDrint (o : FmtN) : Op := opN2 o true (fpRint f64)

/-- DCLASS: a 64-bit operand and a 32-bit mask. -/
def opDclass (o : FmtN) : Op :=
  { guard := o.g, pos := [.src o.a 2 o.ka 0, .dst o.d 1 true true, .no o.k1], cost := 2
    lane := fun _ i t w => putF32 t w o.d (fpClass f64 (fpSrc64 f64 1 i.rd t o.a), 0) }

/-- A sign operation on two BF16 elements. -/
def opPsign (o : FmtN) (f : Nat → Nat) : Op :=
  { guard := o.g, pos := [.src o.a 1 o.ka 0, .dst o.d 1 true true, .no o.k1]
    lane := fun _ i t w => putF32 t w o.d (f (fpSrc32 bf16 2 i.rd t o.a), 0) }

def opPneg2 (o : FmtN) : Op := opPsign o (fpNeg bf16 2)
def opPabs2 (o : FmtN) : Op := opPsign o (fpAbs bf16 2)

/-! ## Conversions (R197 to R200) -/

/-- Positions of a conversion: source and destination widths, whether it rounds, whether K1 has a use. -/
def posCvt (o : FmtCvt) (na nd : Nat) (rounds k1 : Bool) : List Pos :=
  [.src o.a na o.ka 0, .dst o.d nd true true] ++ (if k1 then [] else [.no o.k1])
    ++ (if rounds then [] else [.no (o.r != .dyn)])

/-- A conversion from 32 bits to 32 bits; `src` reads the operand. -/
def opCvt11 (o : FmtCvt) (rounds k1 flags : Bool) (src : Rd → Nat → Src → Nat) (f : Rnd → Nat → Nat × Flags) : Op :=
  { guard := o.g, pos := posCvt o 1 1 rounds k1, flagger := flags
    lane := fun _ i t w => putF32 t w o.d (f (selRnd i.rd.g o.r) (src i.rd t o.a)) }

/-- A conversion from 32 bits to a pair. -/
def opCvt12 (o : FmtCvt) (k1 flags : Bool) (src : Rd → Nat → Src → Nat) (f : Nat → Nat × Flags) : Op :=
  { guard := o.g, pos := posCvt o 1 2 false k1, cost := 2, flagger := flags
    lane := fun _ i t w => putF64 t w o.d (f (src i.rd t o.a)) }

/-- A conversion from 64 bits to 32 bits. -/
def opCvt21 (o : FmtCvt) (k1 : Bool) (src : Rd → Nat → Src → Nat) (f : Rnd → Nat → Nat × Flags) : Op :=
  { guard := o.g, pos := posCvt o 2 1 true k1, cost := 2, flagger := true
    lane := fun _ i t w => putF32 t w o.d (f (selRnd i.rd.g o.r) (src i.rd t o.a)) }

/-- An integer source. -/
def intSrc (rd : Rd) (t : Nat) (s : Src) : Nat := (src32 rd t s).toNat

/-- The signed value of 32 bits. -/
def signed32 (x : Nat) : Int := (BitVec.ofNat 32 x).toInt

def opCvtF32I32 (o : FmtCvt) : Op := opCvt11 o true false true intSrc fun r x => ofInt f32 r (signed32 x)
def opCvtF32N32 (o : FmtCvt) : Op := opCvt11 o true false true intSrc fun r x => ofInt f32 r x

def natFlags (r : Word × Flags) : Nat × Flags := (r.1.toNat, r.2)

def opCvtI32F32 (o : FmtCvt) : Op :=
  opCvt11 o true false true (fpSrc32 f32 1) fun r x => natFlags (fpToInt f32 r (-2 ^ 31) (2 ^ 31 - 1) x)
def opCvtN32F32 (o : FmtCvt) : Op :=
  opCvt11 o true false true (fpSrc32 f32 1) fun r x => natFlags (fpToInt f32 r 0 (2 ^ 32 - 1) x)
def opCvtF64F32 (o : FmtCvt) : Op := opCvt12 o false true (fpSrc32 f32 1) (fpConvert f32 f64 .rne false true)
def opCvtF32F64 (o : FmtCvt) : Op := opCvt21 o true (fpSrc64 f64 1) fun r => fpConvert f64 f32 r o.k1 false
def opCvtF64I32 (o : FmtCvt) : Op := opCvt12 o false false intSrc fun x => ofInt f64 .rne (signed32 x)
def opCvtI32F64 (o : FmtCvt) : Op :=
  opCvt21 o false (fpSrc64 f64 1) fun r x => natFlags (fpToInt f64 r (-2 ^ 31) (2 ^ 31 - 1) x)

/-- K1 selects element 1. -/
def opCvtF32F16 (o : FmtCvt) : Op :=
  opCvt11 o false true true (fpSrc32 f16 2) fun _ x =>
    fpConvert f16 f32 .rne false true (elem f16 x (if o.k1 then 1 else 0))

/-- `n` elements of one format into another. -/
def convertElems (src dst : Format) (n : Nat) (sat exact : Bool) (r : Rnd) (x : Nat) : Nat × Flags :=
  packElems dst (fun k => fpConvert src dst r sat exact (elem src x k)) n

def opCvtF16x2F32x2 (o : FmtCvt) : Op := opCvt21 o true (fpSrc64 f32 2) (convertElems f32 f16 2 o.k1 false)
def opCvtBf16x2F32x2 (o : FmtCvt) : Op := opCvt21 o true (fpSrc64 f32 2) (convertElems f32 bf16 2 o.k1 false)

/-- The source format of OP 11. -/
def e8 (k1 : Bool) : Format := if k1 then e5m2 else e4m3

def opCvtBf16x4E8x4 (o : FmtCvt) : Op :=
  opCvt12 o true true (fpSrc32 (e8 o.k1) 4) (convertElems (e8 o.k1) bf16 4 false true .rne)
def opCvtE4m3x4Bf16x4 (o : FmtCvt) : Op := opCvt21 o true (fpSrc64 bf16 4) (convertElems bf16 e4m3 4 o.k1 false)
def opCvtE5m2x4Bf16x4 (o : FmtCvt) : Op := opCvt21 o true (fpSrc64 bf16 4) (convertElems bf16 e5m2 4 o.k1 false)

/-- CVT.BF16X2.B4 (R199). -/
def expandB4 (x : Nat) : Nat × Flags :=
  packElems bf16 (fun k => (roundNum bf16 .rne (b4Num (x / 256 % 256) (x / 16 ^ k % 16))).1 |> (·, 0)) 2

def opCvtBf16x2B4 (o : FmtCvt) : Op := opCvt11 o false false false intSrc fun _ x => expandB4 x

/-- CVT.B4.F32 (R200): D is read and written; it must name a V register. -/
def opCvtB4F32 (o : FmtCvt) : Op :=
  { guard := o.g
    pos := [.src o.a 1 o.ka 0, .acc o.d 1 0, .dst o.d 1 false false, .no o.k1], flagger := true
    lane := fun _ i t w =>
      let old := (acc32 i.rd t o.d).toNat
      let (c, fl) := b4Quantise (fpSrc32 f32 1 i.rd t o.a) (old / 256 % 256) (selRnd i.rd.g o.r)
      putF32 t w o.d (old / 16 * 16 + c, fl) }

end Sys2Proof.Machine
end

