-- ==== Sys2Proof/Machine/Exchange.lean ====
section
/-! DEFINITION. Temporal exchange: major 0x14 (R155 to R161). Every thread computes from the sources of the whole chain
as they stood before the pass. -/

namespace Sys2Proof.Machine

/-- combine(x, y) of R156, with the flags of its step. -/
def combine (op : ScanOp) (r : Rnd) (x y : Word) : Word × Flags :=
  match op with
  | .addI32 => (x + y, 0)
  | .addF32 => let (z, fl) := fpAdd f32 r x.toNat y.toNat
      (BitVec.ofNat 32 z, fl)
  | .maxI32 => (maxS x y, 0)
  | .maxN32 => (maxU x y, 0)
  | .minI32 => (minS x y, 0)
  | .minN32 => (minU x y, 0)
  | .or => (x ||| y, 0)
  | .xor => (x ^^^ y, 0)

/-- The identity of R156. -/
def identity (op : ScanOp) : Word :=
  match op with
  | .addI32 | .addF32 | .maxN32 | .or | .xor => 0
  | .maxI32 => 0x80000000
  | .minI32 => 0x7FFFFFFF
  | .minN32 => 0xFFFFFFFF

/-- An element of a chain: its value, and whether a segment begins at it. -/
structure ScanElem where
  x : Word
  head : Bool
deriving DecidableEq, Repr

/-- SCAN up to and with the last element of a list (R157): the accumulator before and after it, and the flags of its
step. -/
def scanTo (op : ScanOp) (r : Rnd) (acc : Option Word) (l : List ScanElem) : Option Word × Word × Flags :=
  match l with
  | [] => (acc, identity op, 0)
  | e :: rest =>
    let acc := if e.head then none else acc
    let (after, fl) := match acc with
      | none => (e.x, 0)
      | some a => combine op r a e.x
    match rest with
    | [] => (acc, after, fl)
    | _ => scanTo op r (some after) rest

/-- The chain up to and with a thread. -/
def upTo (chain : List Nat) (t : Nat) : List Nat := chain.filter (· ≤ t)

def segHead (th : Thread) (seg : PReg) : Bool := seg != 0 && predOf th seg

/-- SCAN's ops that may raise flags. -/
def scanFlags (op : ScanOp) : Bool := op == .addF32

/-- A source of the chain; the immediates of .ADD.F32 are floating-point (R179). -/
def scanSrc (op : ScanOp) (rd : Rd) (t : Nat) (s : Src) : Word :=
  if op = .addF32 then BitVec.ofNat 32 (fpSrc32 f32 1 rd t s) else src32 rd t s

def opScan (o : FmtScan) : Op :=
  { guard := o.g, pos := [.src o.a 1 o.ka 0, .dst o.d 1 true true, .pred o.seg], flagger := scanFlags o.op
    lane := fun _ i t w =>
      let l := (upTo i.chain t).map fun u =>
        { x := scanSrc o.op i.rd u o.a, head := segHead (thread i.rd.g u) o.seg : ScanElem }
      let (before, after, fl) := scanTo o.op (modeRnd i.rd.g) none l
      put32 t (raiseFlags fl w) o.d (if o.k1 then before.getD (identity o.op) else after) }

/-- An exchange that computes a thread's result from the chain. -/
def opChain (o : FmtN) (k1 : Bool) (others : PassInfo → Nat → List Nat) (f : PassInfo → Nat → Word) : Op :=
  { guard := o.g, pos := [.src o.a 1 o.ka 0, .dst o.d 1 true true] ++ (if k1 then [] else [.no o.k1])
    others := others
    lane := fun _ i t w => put32 t w o.d (f i t) }

/-- The thread before `t` in the chain; cyclic, the last for the first. -/
def prevOf (chain : List Nat) (t : Nat) (cyclic : Bool) : Option Nat :=
  match (chain.filter (· < t)).getLast? with
  | some u => some u
  | none => if cyclic then chain.getLast? else none

def opDelay (o : FmtN) : Op :=
  opChain o true (fun i t => (prevOf i.chain t o.k1).toList) fun i t =>
    match prevOf i.chain t o.k1 with
    | some u => src32 i.rd u o.a
    | none => 0

/-- PERM reads a lane of L0 or L1. -/
def opPerm (o : FmtN) : Op :=
  { guard := o.g, pos := [.src o.a 1 o.ka 0, .latch o.k1, .dst o.d 1 true true]
    lane := fun _ i t w =>
      put32 t w o.d (src32 i.rd (laneOf (src32 i.rd t o.a)) (if o.k1 then .l1 else .l0)) }

def opBfirst (o : FmtN) : Op :=
  opChain o false (fun i _ => i.chain.head?.toList) fun i t => src32 i.rd (i.chain.headD t) o.a

def opBlast (o : FmtN) : Op :=
  opChain o false (fun i _ => i.chain.getLast?.toList) fun i t => src32 i.rd (i.chain.getLastD t) o.a

def opRank (o : FmtN) : Op :=
  opChain o false (fun _ _ => []) fun i t =>
    BitVec.ofNat 32 ((i.chain.filter fun u => decide (u < t) && src32 i.rd u o.a != 0).length)

def opMatchLanes (o : FmtN) : Op :=
  opChain o false (fun i _ => i.chain) fun i t =>
    maskOf (i.chain.filter fun u => src32 i.rd u o.a == src32 i.rd t o.a)

/-- REDUCE of a chain's values (R160), with the flags of its steps. -/
def reduceAll (op : ScanOp) (r : Rnd) (acc : Word) (l : List Word) : Word × Flags :=
  match l with
  | [] => (acc, 0)
  | x :: rest =>
    let (y, f) := combine op r acc x
    let (z, fl) := reduceAll op r y rest
    (z, f ||| fl)

/-- REDUCE and VOTE write S(D) once, after the chain; they have no per-thread result. -/
def opReduce (o : FmtRed) : Op :=
  { guard := o.g, pos := [.src o.a 1 o.ka 0, .udst o.d 1 1, .no o.k1], flagger := scanFlags o.op
    lane := fun _ _ _ w => laneOk w none
    fin := fun i w =>
      match i.chain.map fun u => scanSrc o.op i.rd u o.a with
      | [] => w
      | x :: rest =>
        let (y, fl) := reduceAll o.op (modeRnd i.rd.g) x rest
        let w := raiseFlags fl w
        { w with g := putU w.g o.d [y] } }

def opVote (o : FmtVote) : Op :=
  { guard := o.g, pos := [.src o.a 1 o.ka 0, .udst o.d 1 1]
    lane := fun _ _ _ w => laneOk w none
    fin := fun i w =>
      let ts := i.chain.filter fun u => src32 i.rd u o.a != 0
      { w with g := putU w.g o.d [if o.k1 then BitVec.ofNat 32 ts.length else maskOf ts] } }

end Sys2Proof.Machine
end

