-- ==== Sys2Proof/Machine/Rows.lean ====
section
/-! DEFINITION. The operation of each row of the encoding table: what the row of a word means in a pass, whether the word is
the broadcast instruction or a private thread's. -/

namespace Sys2Proof.Machine

/-- The operation that a row gives a word. -/
def rowOp (r : Row) (w : Nat) : Op :=
  match r with
  | .add16 => opAdd16 (dec16 w)
  | .sub16 => opSub16 (dec16 w)
  | .and16 => opAnd16 (dec16 w)
  | .or16 => opOr16 (dec16 w)
  | .xor16 => opXor16 (dec16 w)
  | .shl16 => opShl16 (dec16 w)
  | .shr16 => opShr16 (dec16 w)
  | .min16 => opMin16 (dec16 w)
  | .max16 => opMax16 (dec16 w)
  | .mov16 => opMov16 (dec16 w)
  | .fadd16 => opFadd16 (dec16 w)
  | .fmul16 => opFmul16 (dec16 w)
  | .fmac16 => opFmac16 (dec16 w)
  | .padd2s16 => opPadd2s16 (dec16 w)
  | .pfma2s16 => opPfma2s16 (dec16 w)
  | .fmax16 => opFmax16 (dec16 w)
  | .add => opAdd (decA w)
  | .sub => opSub (decA w)
  | .mullo => opMullo (decA w)
  | .mulhi => opMulhi (decA w)
  | .mulhiu => opMulhiu (decA w)
  | .mad => opMad (decA w)
  | .absdiff => opAbsdiff (decA w)
  | .avg => opAvg (decA w)
  | .min => opMin (decA w)
  | .max => opMax (decA w)
  | .minu => opMinu (decA w)
  | .maxu => opMaxu (decA w)
  | .and => opAnd (decA w)
  | .or => opOr (decA w)
  | .xor => opXor (decA w)
  | .andn => opAndn (decA w)
  | .shl => opShl (decA w)
  | .shr => opShr (decA w)
  | .sar => opSar (decA w)
  | .rotl => opRotl (decA w)
  | .bfx => opBfx (decA w)
  | .bfi => opBfi (decA w)
  | .lea2 => opLea2 (decA w)
  | .lea3 => opLea3 (decA w)
  | .selp => opSelp (decSel w)
  | .add64 => opAdd64 (decA w)
  | .sub64 => opSub64 (decA w)
  | .shl64 => opShl64 (decA w)
  | .shr64 => opShr64 (decA w)
  | .icmp => opIcmp (decIC w)
  | .fcmp => opFcmp (decFC w)
  | .addi => opAddi (decI w)
  | .andi => opAndi (decI w)
  | .ori => opOri (decI w)
  | .xori => opXori (decI w)
  | .shifti => opShifti (decShift w)
  | .muli => opMuli (decI w)
  | .saddi => opSaddi (decUI w)
  | .lui => opLui (decL w)
  | .llo => opLlo (decLo w)
  | .adr => opAdr (decL w)
  | .slui => opSlui (decUL w)
  | .sllo => opSllo (decULo w)
  | .mov => opMov (decN w)
  | .not => opNot (decN w)
  | .neg => opNeg (decN w)
  | .abs => opAbs (decN w)
  | .clz => opClz (decN w)
  | .ctz => opCtz (decN w)
  | .popc => opPopc (decN w)
  | .brev => opBrev (decN w)
  | .bswap => opBswap (decN w)
  | .sext8 => opSext8 (decN w)
  | .sext16 => opSext16 (decN w)
  | .mov64 => opMov64 (decN w)
  | .movx => opMovx (decIdx w)
  | .movxw => opMovxw (decIdxA w)
  | .iset => opIset (decIdxA w)
  | .iget => opIget (decIdx w)
  | .scan => opScan (decScan w)
  | .delay => opDelay (decN w)
  | .perm => opPerm (decN w)
  | .bfirst => opBfirst (decN w)
  | .blast => opBlast (decN w)
  | .rank => opRank (decN w)
  | .matchLanes => opMatchLanes (decN w)
  | .reduce => opReduce (decRed w)
  | .vote => opVote (decVote w)
  | .pand => opPand (decPL w)
  | .por => opPor (decPL w)
  | .pxor => opPxor (decPL w)
  | .ptest => opPtest (decPA w)
  | .pbit => opPbit (decPA w)
  | .pget => opPget (decPG w)
  | .sadd => opSadd (decUA w)
  | .ssub => opSsub (decUA w)
  | .smul => opSmul (decUA w)
  | .sand => opSand (decUA w)
  | .sor => opSor (decUA w)
  | .sxor => opSxor (decUA w)
  | .sshl => opSshl (decUA w)
  | .sshr => opSshr (decUA w)
  | .smov => opSmov (decU w)
  | .sfromv => opSfromv (decUV w)
  | .sld => opSld (decU w)
  | .sldd => opSldd (decU w)
  | .sread => opSread (decUV w)
  | .swrite => opSwrite (decVU w)
  | .spopc => opSpopc (decU w)
  | .sctz => opSctz (decU w)
  | .sclz => opSclz (decU w)
  | .braAlways => opBraAlways (decJ w)
  | .braThr => opBraThr (decB w)
  | .braThrNot => opBraThrNot (decB w)
  | .braAny => opBraAny (decB w)
  | .braAll => opBraAll (decB w)
  | .braNone => opBraNone (decB w)
  | .brt => opBrt (decBT w)
  | .loop => opLoop (decLoop w)
  | .call => opCall (decJ w)
  | .nop => opNop (decNG w)
  | .jmp => opJmp (decNA w)
  | .callr => opCallr (decUO w)
  | .ret => opRet (decUO w)
  | .brkloop => opBrkloop (decNG w)
  | .endturn => opEndturn (decNK w)
  | .yield => opYield (decNK w)
  | .fadd => opFadd (decA w)
  | .fsub => opFsub (decA w)
  | .fmul => opFmul (decA w)
  | .ffma => opFfma (decA w)
  | .fmin => opFmin (decA w)
  | .fmax => opFmax (decA w)
  | .ffmal => opFfmal (decA w)
  | .fnma => opFnma (decA w)
  | .padd2 => opPadd2 (decA w)
  | .pmul2 => opPmul2 (decA w)
  | .pfma2 => opPfma2 (decA w)
  | .pmax2 => opPmax2 (decA w)
  | .dadd => opDadd (decA w)
  | .dsub => opDsub (decA w)
  | .dmul => opDmul (decA w)
  | .dfma => opDfma (decA w)
  | .dmin => opDmin (decA w)
  | .dmax => opDmax (decA w)
  | .fneg => opFneg (decN w)
  | .fabs => opFabs (decN w)
  | .fsqrt => opFsqrt (decN w)
  | .frcp => opFrcp (decN w)
  | .frsq => opFrsq (decN w)
  | .fexp2 => opFexp2 (decN w)
  | .flog2 => opFlog2 (decN w)
  | .fsinpi => opFsinpi (decN w)
  | .fcospi => opFcospi (decN w)
  | .frint => opFrint (decN w)
  | .fclass => opFclass (decN w)
  | .dneg => opDneg (decN w)
  | .dabs => opDabs (decN w)
  | .dsqrt => opDsqrt (decN w)
  | .drcp => opDrcp (decN w)
  | .drint => opDrint (decN w)
  | .dclass => opDclass (decN w)
  | .pneg2 => opPneg2 (decN w)
  | .pabs2 => opPabs2 (decN w)
  | .cvtF32I32 => opCvtF32I32 (decCvt w)
  | .cvtF32N32 => opCvtF32N32 (decCvt w)
  | .cvtI32F32 => opCvtI32F32 (decCvt w)
  | .cvtN32F32 => opCvtN32F32 (decCvt w)
  | .cvtF64F32 => opCvtF64F32 (decCvt w)
  | .cvtF32F64 => opCvtF32F64 (decCvt w)
  | .cvtF64I32 => opCvtF64I32 (decCvt w)
  | .cvtI32F64 => opCvtI32F64 (decCvt w)
  | .cvtF32F16 => opCvtF32F16 (decCvt w)
  | .cvtF16x2F32x2 => opCvtF16x2F32x2 (decCvt w)
  | .cvtBf16x2F32x2 => opCvtBf16x2F32x2 (decCvt w)
  | .cvtBf16x4E8x4 => opCvtBf16x4E8x4 (decCvt w)
  | .cvtE4m3x4Bf16x4 => opCvtE4m3x4Bf16x4 (decCvt w)
  | .cvtE5m2x4Bf16x4 => opCvtE5m2x4Bf16x4 (decCvt w)
  | .cvtBf16x2B4 => opCvtBf16x2B4 (decCvt w)
  | .cvtB4F32 => opCvtB4F32 (decCvt w)
  | .ldw => opLdw (decLd w)
  | .ldd => opLdd (decLd w)
  | .ldq => opLdq (decLd w)
  | .ldsub => opLdsub (decLdSub w)
  | .stw => opStw (decSt w)
  | .std => opStd (decSt w)
  | .stq => opStq (decSt w)
  | .stsub => opStsub (decStSub w)
  | .atom32AddI32 => opAtom32AddI32 (decT w)
  | .atom32AddF32 => opAtom32AddF32 (decT w)
  | .atom32MinI32 => opAtom32MinI32 (decT w)
  | .atom32MinN32 => opAtom32MinN32 (decT w)
  | .atom32MinF32 => opAtom32MinF32 (decT w)
  | .atom32MaxI32 => opAtom32MaxI32 (decT w)
  | .atom32MaxN32 => opAtom32MaxN32 (decT w)
  | .atom32MaxF32 => opAtom32MaxF32 (decT w)
  | .atom32AndB32 => opAtom32AndB32 (decT w)
  | .atom32OrB32 => opAtom32OrB32 (decT w)
  | .atom32XorB32 => opAtom32XorB32 (decT w)
  | .atom32ExchB32 => opAtom32ExchB32 (decT w)
  | .atom32CasB32 => opAtom32CasB32 (decT w)
  | .atom64AddI64 => opAtom64AddI64 (decT w)
  | .atom64AddF64 => opAtom64AddF64 (decT w)
  | .atom64MinI64 => opAtom64MinI64 (decT w)
  | .atom64MinN64 => opAtom64MinN64 (decT w)
  | .atom64MinF64 => opAtom64MinF64 (decT w)
  | .atom64MaxI64 => opAtom64MaxI64 (decT w)
  | .atom64MaxN64 => opAtom64MaxN64 (decT w)
  | .atom64MaxF64 => opAtom64MaxF64 (decT w)
  | .atom64AndB64 => opAtom64AndB64 (decT w)
  | .atom64OrB64 => opAtom64OrB64 (decT w)
  | .atom64XorB64 => opAtom64XorB64 (decT w)
  | .atom64ExchB64 => opAtom64ExchB64 (decT w)
  | .atom64CasB64 => opAtom64CasB64 (decT w)
  | .atomxAddBf16 => opAtomxAddBf16 (decT w)
  | .atomxMinBf16 => opAtomxMinBf16 (decT w)
  | .atomxMaxBf16 => opAtomxMaxBf16 (decT w)
  | .atomxAddBf16x2 => opAtomxAddBf16x2 (decT w)
  | .atomxMinBf16x2 => opAtomxMinBf16x2 (decT w)
  | .atomxMaxBf16x2 => opAtomxMaxBf16x2 (decT w)
  | .atomxAddF16x2 => opAtomxAddF16x2 (decT w)
  | .atomxMinF16x2 => opAtomxMinF16x2 (decT w)
  | .atomxMaxF16x2 => opAtomxMaxF16x2 (decT w)
  | .atomxExchB128 => opAtomxExchB128 (decT w)
  | .atomxCasB128 => opAtomxCasB128 (decT w)
  | .pin => opPin (decN w)
  | .unpin => opUnpin (decNA w)
  | .cflush => opCflush (decNA w)
  | .cinv => opCinv (decNA w)
  | .mcrd => opMcrd (decE w)
  | .mcst => opMcst (decNB w)
  | .msend => opMsend (decNB w)
  | .mwait => opMwait (decNA w)
  | .barArrive => opBarArrive (decBarA w)
  | .barWait => opBarWait (decBarW w)
  | .boset => opBoset (decNB w)
  | .boadd => opBoadd (decNB w)
  | .bowait => opBowait (decNB w)
  | .fence => opFence (decFence w)
  | .qtake => opQtake (decUD w)
  | .qpost => opQpost (decU w)
  | .taskend => opTaskend (decNG w)
  | .finit => opFinit (decFin w)
  | .finitFull => opFinitFull (decFin w)
  | .fget => opFget (decN w)
  | .ffill => opFfill (decNB w)
  | .cpy => opCpy (decE w)
  | .cpyx => opCpyx (decE w)
  | .coll => opColl (decE w)
  | .estat => opEstat (decEst w)
  | .mma => opMma (decMma w)
  | .mmaRa => opMmaRa (decMmaR w)
  | .mmaRb => opMmaRb (decMmaR w)
  | .dzero => opDzero (decZ w)
  | .dzeroFree => opDzeroFree (decZ w)
  | .drdrow => opDrdrow (decRow w)
  | .drdcol => opDrdcol (decRow w)
  | .dwrrow => opDwrrow (decRow w)
  | .drestart => opDrestart (decUO w)
  | .twait => opTwait (decTR w)
  | .twaitany => opTwaitany (decNA w)
  | .tmin => opTmin (decN w)
  | .tmov => opTmov (decTM w)
  | .tstat => opTstat (decTD w)
  | .tset => opTset (decTS w)
  | .tsetClr => opTsetClr (decTS w)
  | .tnow => opTnow (decND w)
  | .tdiff => opTdiff (decTD w)
  | .yieldt => opYieldt (decTR w)
  | .trap => opTrap (decK w)
  | .bkpt => opBkpt (decK w)
  | .eret => opEret (decKA w)
  | .eretFail => opEretFail (decKA w)
  | .srd => opSrd (decSrd w)
  | .srdV => opSrdV (decSrdV w)
  | .swr => opSwr (decSwr w)
  | .swrV => opSwrV (decSwrV w)
  | .idemb => opIdemb (decNK w)
  | .ideme => opIdeme (decNK w)
  | .cbind => opCbind (decCb w)
  | .cunbind => opCunbind (decCu w)

/-- A word as an operation of a pass; none where no row has it (R122). -/
def decodeOp (w : Nat) : Option Op := (rowOf w).map fun r => rowOp r w

end Sys2Proof.Machine
end

