-- ==== Sys2Proof/Machine/Fetch.lean ====
section
/-! DEFINITION. The broadcast fetch of a pass (R48, R102, R392): the span's loop buffer, the wait for a line that the private
data cache does not hold, the faults of a fetch and of decode (R122). -/

namespace Sys2Proof.Machine

/-- The first address of a code line. -/
def lineVa (va : DWord) : DWord := BitVec.ofNat 64 (va.toNat / 64 * 64)

/-- The 64 bytes of a line whose first key is given, as the core sees them. -/
def lineBytes (m : Memory) (d : Device) (core key : Nat) : List Byte :=
  (List.range 64).map fun i => BitVec.ofNat 8 (codeNat m d core (key + i) 1)

/-- A line of the loop buffer becomes the most recently used; one that misses is filled, at the cost of R97. -/
def useLine (m : Memory) (g : Group) (va : DWord) (key : Nat) (d : Device) : Device :=
  match g.place with
  | none => d
  | some (n, _) =>
    let s := d.spanOf g.core n
    let mine := fun (l : LoopLine) => l.ctx == g.ctx && l.va == lineVa va
    match s.lines.find? mine with
    | some l => d.setSpan { s with lines := l :: s.lines.filter fun x => !mine x }
    | none =>
      let l : LoopLine := { ctx := g.ctx, va := lineVa va, bytes := lineBytes m d g.core (key - key % 64) }
      (d.setSpan { s with lines := (l :: s.lines).take Config.loopLines }).spend g.core Config.fillCost

/-- The span's loop buffer holds the line of an address. -/
def lineHeld (d : Device) (g : Group) (va : DWord) : Bool :=
  match g.place with
  | none => false
  | some (n, _) => (d.spanOf g.core n).lines.any fun l => l.ctx == g.ctx && l.va == lineVa va

/-- A halfword of a line that the loop buffer holds. -/
def lineHalf (d : Device) (g : Group) (va : DWord) : Nat :=
  match g.place with
  | none => 0
  | some (n, _) => match (d.spanOf g.core n).lines.find? fun l => l.ctx == g.ctx && l.va == lineVa va with
    | some l => leNat ((l.bytes.drop (va.toNat % 64)).take 2)
    | none => 0

/-- What a fetch comes to. -/
inductive Fetched (α : Type)
  | got (x : α) (d : Device)
  | fault (c : Cause)
  | wait (d : Device)

/-- The pass waits for its fetch. -/
def stallFetch (g : Group) (d : Device) : Device :=
  (d.onGroup g.gid fun h => { h with turn := h.turn.map fun t => { t with stalled := true } }).spend g.core 1

/-- The fetch of a block that missed the private data cache starts, or is awaited. -/
def startFetch (g : Group) (key dom : Nat) (va : DWord) (d : Device) : Device :=
  let d := stallFetch g d
  if d.fetches.any fun f => f.core == g.core && f.key / 64 == key / 64 then d
  else
    { d with
      fetches := d.fetches ++ [{ id := d.nextId, core := g.core, key := key - key % 64, dom := dom, ctx := g.ctx, va := lineVa va }]
      nextId := d.nextId + 1 }

/-- The leaf of a code address for a broadcast fetch: the core TLB's, or the cluster's, which then enters the core's; else what
a walk has brought back, or nothing yet (R390). -/
def fetchLeaf (d : Device) (core ctx : Nat) (va : DWord) : Lookup × Device :=
  match tlbFind d false core ctx va, tlbFind d true (clusOf core) ctx va with
  | some t, _ => (.leaf (transLeaf t), d)
  | none, some t => (.leaf (transLeaf t), tlbPut d { t with cluster := false, unit := core } 64)
  | none, none => (lookup d core ctx va, d)

/-- One halfword of code through the loop buffer; a miss of both TLBs waits for its walk. -/
def fetchHalf (m : Memory) (g : Group) (va : DWord) (d : Device) : Fetched Nat :=
  match d.ctx? g.ctx, fetchLeaf d g.core g.ctx va with
  | none, _ => .fault .page
  | some _, (.failed e, _) => .fault e
  | some _, (.miss, d) => if vaClass va ≠ .canonical then .fault .page else .wait (startWalk (stallFetch g d) g.core g.ctx va)
  | some c, (.leaf l, d) => match leafCode m d c g.core va l with
    | .error e => .fault e
    | .ok k =>
      if lineHeld d g va || (sectorHit d g.core k).isSome then
        let d := useLine m g va k d
        .got (lineHalf d g va) d
      else .wait (startFetch g k l.dom va d)

/-- The failed walk of a fetch is taken by the instruction that waited (R390). -/
def takeCodeFail (g : Group) (pc : DWord) (d : Device) : Device :=
  takeFail (takeFail d g.core g.ctx pc) g.core g.ctx (pc + 2)

/-- An instruction word (R102). -/
def fetchWord (m : Memory) (g : Group) (va : DWord) (d : Device) : Fetched Nat :=
  match fetchHalf m g va d with
  | .got lo d =>
    if lo % 2 = 0 then .got lo d
    else match fetchHalf m g (va + 2) d with
      | .got hi d => .got (lo + 2 ^ 16 * hi) d
      | .fault c => .fault c
      | .wait d => .wait d
  | .fault c => .fault c
  | .wait d => .wait d

/-- What the group in focus does next: a pass with an instruction word, or something else that has happened already. -/
inductive Prep
  | run (w : Nat) (d : Device)
  | done (d : Device)

/-- The fetch and decode before a pass of the group in focus. -/
def prepare (m : Memory) (d : Device) : Prep :=
  match d.focus.bind d.group? with
  | none => .done { d with focus := none }
  | some g => match g.turn with
    | none => .done { d with focus := none }
    | some turn => match passPc g turn with
      | none => .done { d.setGroup (endTurn g) with focus := none }
      | some pc =>
        let trap := fun (c : Cause) (acc : Nat) (addr : DWord) =>
          decodeTrap m turn pc (presentOf g turn pc) { cause := c, acc := acc, addr := addr } { d := takeCodeFail g pc d, g := g }
        match fetchWord m g pc d with
        | .wait d => .done d
        | .fault c => .done (trap c 4 pc)
        | .got w d => if (rowOf w).isSome then .run w d else .done (trap .illegalInstr 0 0)

end Sys2Proof.Machine
end

