-- ==== Sys2Proof/Machine/EvDebug.lean ====
section
/-! DEFINITION. Debug (R445 to R447), trace units (R449) and stall samples (R448). -/

namespace Sys2Proof.Machine

/-! ## Attach, halt, run (R445, R447) -/

/-- DBGATTACH: a context that another session's debugger holds is not given to a second one. -/
def evDbgattach (h : MgmtHead) (d : Device) : Device :=
  withCtx h (fun s c d =>
    let taken : Bool := match c.attached with
      | some x => x != s && d.sessions.any (·.id == x)
      | none => false
    if taken then respond h 5 [] d else respond h 0 [] (d.setCtx { c with attached := some s })) d

/-- A debug command for a group of the attached context. -/
def onDebug (h : MgmtHead) (gid : Nat) (f : Ctx → Group → Device → Device) (d : Device) : Device :=
  withCtx h (fun s c d =>
    match d.group? gid with
    | some g => if c.attached = some s ∧ g.ctx = c.num then f c g d else respond h 5 [] d
    | none => respond h 5 [] d) d

/-- DBGHALT: at the group's next turn boundary; while a turn is in progress the command waits. -/
def evDbghalt (h : MgmtHead) (group : Nat) (d : Device) : Device :=
  let turns : Bool := match d.group? group with
    | some g => g.turn.isSome
    | none => false
  if turns then d else onDebug h group (fun _ g d => respond h 0 [] (d.setGroup { g with halted := true })) d

/-- A deterministic context with groups on a die. -/
def detOn (d : Device) (die : Nat) : Option Ctx := d.ctxs.find? fun c => c.det && c.rects.any (·.die == die)

/-- DBGHALT with die scope. -/
def evDbghaltDie (h : MgmtHead) (die : Nat) (d : Device) : Device :=
  accept h (fun _ d =>
    if 4 ≤ die then respond h 1 [] d
    else match detOn d die with
      | some c => refuse h 0x40 c.num d
      | none =>
        if dieOn d die then
          respond h 0 [] (d.setDie die { d.die die with st := .halted, haltedAt := (List.range 4).map fun k => (d.die k).tick })
        else respond h 5 [] d) d

/-- A promise falls within the halt of a die, by the counter of the core that holds it (log 85). -/
def inHalt (d : Device) (die core : Nat) (p : Word) : Bool :=
  timeGe p (BitVec.ofNat 32 ((d.die die).haltedAt.getD (dieOf core) 0 / 60)) && timeGe (d.refNow core) p

/-- The promise that a command's time register holds. -/
def cmdPromise (d : Device) (c : Cmd) : Option Word :=
  (d.group? c.gid).bind fun g => let x := timeOf (thread g c.lead) c.t
    if x.req = c.id ∧ (x.st = .promised ∨ x.st = .breached) then some x.value else none

/-- What a halted die supplies, a load's value or a copy's end, with its promise within the halt. -/
def haltedIds (d : Device) (die : Nat) : List Nat :=
  ((d.reqs.filter fun r => isLoad r.kind && r.st != .served && keyKind (r.keys.headD 0) == .own && homeDie (r.keys.headD 0) == die
      && (r.promise.map (inHalt d die r.core)).getD false).map (·.id))
    ++ (d.cmds.filter fun c => isCopy c.kind && dieOf c.core == die
      && ((cmdPromise d c).map (inHalt d die c.core)).getD false).map (·.id)

/-- DBGRUN: a halted group goes on, with its halted turn where it had one; a halted die's promises whose slots fell within
the halt are breached. -/
def evDbgrun (h : MgmtHead) (target : RunTarget) (d : Device) : Device :=
  match target with
  | .group gid =>
    onDebug h gid (fun _ g d =>
      if g.halted then respond h 0 [] (d.setGroup { g with halted := false }) else respond h 5 [] d) d
  | .die n durations =>
    accept h (fun _ d =>
      if 4 ≤ n then respond h 1 [] d
      else if !haltedDie d n then respond h 5 [] d
      else
        let late := haltedIds d n
        let d := d.setDie n { d.die n with st := .running, haltedAt := [] }
        respond h 0 [] (late.foldl (fun d id =>
          evBreachNotice id (((durations.find? (·.1 == id)).map (·.2)).getD (Config.quote id)) d) d)) d

/-! ## Single steps (R446) -/

/-- A pass of private threads alone: no broadcast instruction runs in it. -/
def loneOp : Op := { size := 2, void := true, lane := fun _ _ _ w => laneOk w none }

/-- The stepped pass of the group in focus. -/
def stepPass (m : Memory) (g : Group) (turn : Turn) (pc : DWord) (lone : Bool) (d : Device) : Device :=
  if lone then
    let info := infoOf d (rdOf d g turn) g pc []
    takePass m decodeOp loneOp turn info [] [] { d := d, g := g }
  else match prepare m d with
    | .done d => d
    | .run w d => match decodeOp w with
      | some op => passDev decodeOp op m d
      | none => d

/-- The group after the step: halted, with the rest of its turn, if there is one, kept for the next step. `old` is the turn
before, `mine` what the step was to issue: a pass that did not take place leaves a turn that had begun as it was. -/
def heldAgain (old : Turn) (mine : Reissue) (g : Group) : Group :=
  let rest := fun (t : Turn) => if t.reissue = some mine then old else { t with priv := [], stalled := false }
  let cut := (g.next.bind (·.reissue)) == some mine && old.reissue.isNone
  { g with halted := true, turn := none, next := (g.turn.map rest).or (if cut then none else g.next.map rest) }

/-- A private step at a stop point is refused (R50): a uniform instruction, ENDTURN among them, or the loop's last. -/
def stopPoint (m : Memory) (d : Device) (g : Group) (pc : DWord) : Bool :=
  match codeWord m d g pc with
  | .error _ => false
  | .ok w => match decodeOp w with
    | some op => op.uniform || isLoopEnd g pc op.size
    | none => false

/-- DBGSTEP of thread `slot`. A pass that is cut, or whose line is awaited, ends the step as the end of a turn does
(log 34). -/
def dbgStep (m : Memory) (h : MgmtHead) (g : Group) (slot : Nat) (d : Device) : Device :=
  let th := thread g slot
  match broadcastPc g with
  | none => respond h 5 [] d
  | some bpc =>
    let lone := th.pc != bpc
    if !g.halted || g.place.isNone || g.cond == .idle || g.hold != .none || !isRun th || (lone && stopPoint m d g th.pc) then
      respond h 5 [] d
    else
      let ts := slots.filter fun t => isRun (thread g t) && (thread g t).pc == th.pc
      let old := g.next.getD {}
      let kept := (old.reissue.map (·.kept)).getD []
      let mine : Reissue := { only := maskOf ts, pc := bpc, kept := kept, lone := lone }
      let turn := { old with reissue := some mine }
      let k := { g with turn := some turn, next := none }
      let d := stepPass m k turn bpc lone { d.setGroup k with focus := some g.gid }
      respond h 0 [] (dbgEvent g ts ({ d with focus := none }.onGroup g.gid (heldAgain old mine)))

def evDbgstep (h : MgmtHead) (group : Nat) (slot : BitVec 5) (m : Memory) (d : Device) : Device :=
  if d.focus.isSome then d else onDebug h group (fun _ g d => dbgStep m h g slot.toNat d) d

/-! ## Registers (R445) -/

/-- A request of a group writes a register on its arrival. -/
def destCovers (dst : Dest) (r : Reg) : Bool :=
  match dst, r with
  | .v b n, .v k => decide (b.toNat ≤ k.toNat ∧ k.toNat < b.toNat + n)
  | .s b n, .s k => decide (b.toNat ≤ k.toNat ∧ k.toNat < b.toNat + n)
  | _, _ => false

/-- A register has an outstanding load. -/
def loading (d : Device) (g : Group) (slot : Nat) (r : Reg) : Bool :=
  (d.reqs.any fun q => q.gid == g.gid && !q.dropped && destCovers q.dst r &&
    (match r with
      | .s _ => true
      | _ => q.slot == slot))
  || match r with
    | .t k => following (timeOf (thread g slot) k)
    | _ => false

/-- The register that an item names, if it is one. -/
def itemReg (i : DebugItem) : Option (Nat × Reg) :=
  match i with
  | .v s r => some (s.toNat, .v r)
  | .x s k => some (s.toNat, .x k)
  | .s r => some (0, .s r)
  | .p s r => some (s.toNat, .p r)
  | .i s r => some (s.toNat, .i r)
  | .t s r => some (s.toNat, .t r)
  | .loop .. | .pc _ => none

/-- An item that the group has. -/
def itemOk (g : Group) (i : DebugItem) : Bool :=
  match i with
  | .v _ r => decide (r.toNat < g.d)
  | .x _ k => decide (k.toNat < g.x)
  | .loop n _ => decide (n < g.loops.length)
  | _ => true

/-- What DBGREAD returns: for a time register its value and its status word (R257). -/
def readItem (c : Ctx) (n : Nat) (g : Group) (i : DebugItem) : List Nat :=
  match i with
  | .v s r =>
    let th := thread g s.toNat
    if th.dead.getLsbD r.toNat ∧ !Config.deadKeeps (n * 2048 + s.toNat * 64 + r.toNat) then [0] else [(getV g s.toNat r).toNat]
  | .x s k => [(xOf (thread g s.toNat) k).toNat]
  | .s r => [(getS g r).toNat]
  | .p s r => [if predOf (thread g s.toNat) r then 1 else 0]
  | .i s r => [(idxOf (thread g s.toNat) r).toNat]
  | .t s r =>
    let x := timeOf (thread g s.toNat) r
    [x.value.toNat, (statWord x).toNat]
  | .loop k f => match g.loops[k]? with
    | none => []
    | some l => match f with
      | .counter => [l.counter.toNat]
      | .start => [(codeOff c.codeBase l.start).toNat]
      | .stop => [(codeOff c.codeBase l.stop).toNat]
  | .pc s => [(codeOff c.codeBase (thread g s.toNat).pc).toNat]

/-- A loop level with a field written. -/
def setLevel (c : Ctx) (f : LoopField) (x : Word) (l : Level) : Level :=
  match f with
  | .counter => { l with counter := x }
  | .start => { l with start := codeAddr c.codeBase x }
  | .stop => { l with stop := codeAddr c.codeBase x }

/-- What DBGWRITE does; a time register is written as TSET writes it (R256). -/
def writeItem (c : Ctx) (g : Group) (i : DebugItem) (x : Word) : Group :=
  match i with
  | .v s r => setV g s.toNat r x
  | .x s k => { onThread g s.toNat (fun th => setX th k x) with poison := g.poison.filter (· != (s.toNat, .x k)) }
  | .s r => setS g r x
  | .p s r => onThread g s.toNat fun th => setPred th r (x.getLsbD 0)
  | .i s r => { onThread g s.toNat (fun th => setIdx th r (idxMask x)) with poison := g.poison.filter (· != (s.toNat, .i r)) }
  | .t s r => onThread g s.toNat fun th => setTime th r { value := x }
  | .loop k f => { g with loops := g.loops.modify k (setLevel c f x) }
  | .pc s => onThread g s.toNat fun th => { th with pc := codeAddr c.codeBase x }

/-- A code offset that is written is even (R102). -/
def valueOk (i : DebugItem) (x : Word) : Bool :=
  match i with
  | .pc _ | .loop _ .start | .loop _ .stop => !x.getLsbD 0
  | _ => true

def evDbgread (h : MgmtHead) (group : Nat) (item : DebugItem) (d : Device) : Device :=
  onDebug h group (fun c g d =>
    if !g.halted then respond h 5 [] d
    else if !itemOk g item then respond h 1 [] d
    else
      let (n, d) := d.draw
      respond h 0 (readItem c n g item) d) d

def evDbgwrite (h : MgmtHead) (group : Nat) (item : DebugItem) (value : DWord) (d : Device) : Device :=
  onDebug h group (fun c g d =>
    let busy : Bool := match itemReg item with
      | some (t, r) => loading d g t r
      | none => false
    if !g.halted ∨ busy then respond h 5 [] d
    else if !itemOk g item ∨ !valueOk item (lowWord value) then respond h 1 [] d
    else respond h 0 [] (d.setGroup (writeItem c g item (lowWord value)))) d

/-! ## Trace units (R449) -/

/-- The 4 KiB parts of a listed page from an address on, each translated with W: key and domain. -/
def traceParts (m : Memory) (d : Device) (c : Ctx) (va : DWord) : Nat → Option (List (Nat × Nat))
  | 0 => some []
  | n + 1 => match walk m d c va with
    | .error _ => none
    | .ok l => match physKey d (l.pa + va.toNat % l.size) l.dom .w, traceParts m d c (va + 4096) n with
      | .ok k, some ks => if l.w then some ((k, l.dom) :: ks) else none
      | _, _ => none

/-- A listed page, translated. -/
def tracePage (m : Memory) (d : Device) (c : Ctx) (p : DWord × Bool) : Option TracePage :=
  let size := if p.2 then 65536 else 4096
  if p.1.toNat % size ≠ 0 ∨ vaClass p.1 ≠ .canonical then none
  else (traceParts m d c p.1 (size / 4096)).map fun parts => { va := p.1, size := size, parts := parts }

/-- The pages of a list, or the index of the first that fails. -/
def tracePages (m : Memory) (d : Device) (c : Ctx) (i : Nat) : List (DWord × Bool) → Except Nat (List TracePage)
  | [] => .ok []
  | p :: rest => match tracePage m d c p with
    | none => .error i
    | some k => (tracePages m d c (i + 1) rest).map (k :: ·)

/-- The lists of the dies' units, from a die on, or the index of the first page that fails in its list. -/
def traceLists (m : Memory) (d : Device) (c : Ctx) (die : Nat) : List (List (DWord × Bool)) → Except Nat (List (Nat × List TracePage))
  | [] => .ok []
  | l :: rest => match tracePages m d c 0 l, traceLists m d c (die + 1) rest with
    | .error i, _ => .error i
    | _, .error i => .error i
    | .ok ps, .ok ls => .ok (if l = [] then ls else (die, ps) :: ls)

/-- A setting that TRCSTART accepts (R448, R449): lists for at most four dies, of at most 1,024 pages. -/
def traceOk (t : TraceSetting) : Bool :=
  decide (t.pages.length ≤ 4) && t.pages.any (· != []) && (t.pages.all fun l => decide (l.length ≤ 1024)) && match t.period with
    | some n => decide (10 ≤ n ∧ n ≤ 20)
    | none => true

/-- The trace units that a setting starts. -/
def traceDies (t : TraceSetting) : List Nat := (List.range 4).filter fun k => (t.pages.getD k []) != []

/-- A die's trace unit starts. -/
def startUnit (session ctx : Nat) (t : TraceSetting) (d : Device) (p : Nat × List TracePage) : Device :=
  d.setDie p.1 { d.die p.1 with trace :=
    { on := true, ctx := ctx, session := session, pages := p.2, mask := t.mask, wrap := t.wrap, period := t.period
      since := (d.die p.1).tick } }

def evTrcstart (h : MgmtHead) (t : TraceSetting) (m : Memory) (d : Device) : Device :=
  withCtx h (fun s c d =>
    if !traceOk t then respond h 1 [] d
    else if (traceDies t).any fun k => (d.die k).trace.on || !dieOn d k then respond h 5 [] d
    else match traceLists m d c 0 t.pages with
      | .error i => refuse h 0x20 i d
      | .ok ls => respond h 0 [] (ls.foldl (startUnit s c.num t) d)) d

/-- TRCSTOP: the staged records of the context's trace units are written; its pages are pinned no longer. -/
def evTrcstop (h : MgmtHead) (d : Device) : Device :=
  withCtx h (fun _ c d =>
    let dies := (List.range 4).filter fun k => (d.die k).trace.on && (d.die k).trace.ctx == c.num
    respond h 0 [] (dies.foldl (fun d k =>
      let d := traceFlush k d
      d.setDie k { d.die k with trace := {} }) d)) d

/-! ## Stall samples (R448) -/

/-- The registers that a position reads, or writes with an outstanding load. -/
def posRegs (p : Pos) : List Reg :=
  (vNames p).map (fun n => .v (BitVec.ofNat 6 n)) ++ (sReads p).map (fun n => .s (BitVec.ofNat 6 n)) ++ slowRegs p ++ match p with
    | .idx i _ => [.i i]
    | .pred q => [.p q]
    | .time t => [.t t]
    | .flags => [.flags]
    | _ => []

/-- A register's number, for ties. -/
def regNum (r : Reg) : Nat :=
  match r with
  | .v k => k.toNat
  | .x k => 64 + k.toNat
  | .s k => 192 + k.toNat
  | .i k => 256 + k.toNat
  | .p k => 260 + k.toNat
  | .t k => 264 + k.toNat
  | .flags => 280
  | .c .. | .l _ | .q => 281

/-- The code offset of a request or command. -/
def issuePc (d : Device) (id : Nat) : Option Word := ((d.req? id).map (·.pc)).or ((d.cmd? id).map (·.pc))

/-- The tick of a promise, one that is past counting as now; 2^64 where there is none. -/
def dueTick (d : Device) (core : Nat) (p : Option Word) : Nat :=
  match p with
  | none => 2 ^ 64
  | some p => let now := d.refNow core
    d.tickOf core + 60 * (if timeGe now p then 0 else (p - now).toNat)

/-- The producers of a pending register of a thread: when its value is due (2^64 for a time not known), its number, the
producer's code offset. -/
def producers (d : Device) (g : Group) (t : Nat) (r : Reg) : List (Nat × Nat × Word) :=
  let reqs := (d.reqs.filter fun q => q.gid == g.gid && !q.dropped && destCovers q.dst r && (match r with
      | .s _ => true
      | _ => q.slot == t)).map fun q => (dueTick d g.core q.promise, regNum r, q.pc)
  let times := match r with
    | .t k =>
      let x := timeOf (thread g t) k
      if following x then
        ((issuePc d x.req).map fun pc => (dueTick d g.core (if x.st = .pending then none else some x.value), regNum r, pc)).toList
      else []
    | _ => []
  reqs ++ times ++ (g.sb.filter fun e => e.reg == r && e.lanes.getLsbD t && decide (d.tickOf g.core < e.at_)).map fun e =>
    (e.at_, regNum r, e.pc)

/-- The producer due last, ties to the lower number. -/
def lastDue (l : List (Nat × Nat × Word)) : Word :=
  match l.foldl (fun best x => match best with
    | none => some x
    | some b => if b.1 < x.1 ∨ (b.1 = x.1 ∧ x.2.1 < b.2.1) then some x else best) none with
  | some x => x.2.2
  | none => 0xFFFFFFFF

/-- The producers that an instruction's register operands wait for. -/
def operandDue (d : Device) (g : Group) (op : Op) (pc : DWord) : List (Nat × Nat × Word) :=
  let ts := slots.filter fun t => isRun (thread g t) && (thread g t).pc == pc
  ts.flatMap fun t => (op.pos.flatMap posRegs).flatMap (producers d g t)

/-- The latches that an instruction waits for. -/
def latchBlame (d : Device) (turn : Turn) (core : Nat) (op : Op) : List (Nat × Nat × Word) :=
  (op.pos.filterMap latchRead).filterMap fun one =>
    let l := if one then turn.l1 else turn.l0
    if d.tickOf core < l.at_ then some (l.at_, 300 + (if one then 1 else 0), l.pc) else none

/-- The lowest thread that waits, and what its time register follows. -/
def waitBlame (d : Device) (g : Group) (base : DWord) : Nat × Word × Word :=
  match slots.find? fun t => match (thread g t).st with
    | .wait _ => true
    | _ => false with
  | none => (0xFF, 0, 0xFFFFFFFF)
  | some t =>
    let th := thread g t
    let reg : Option TReg := match th.st with
      | .wait (.time k) | .wait (.due k) => some k
      | .wait (.anyOf mask) => (timesOf mask).head?
      | _ => none
    let pc := (reg.bind fun k => issuePc d (timeOf th k).req).getD 0xFFFFFFFF
    (t, codeOff base th.pc - 4, pc)

/-- A sample's reason, slot, waiting offset and blamed offset. -/
def sampleOf (m : Memory) (d : Device) (g : Group) : Nat × Nat × Word × Word :=
  let base := codeBaseOf d g
  let pc := (broadcastPc g).getD 0
  let off := codeOff base pc
  let op := match codeWord m d g pc with
    | .ok w => decodeOp w
    | .error _ => none
  match g.turn, g.hold with
  | some turn, _ =>
    if !turn.stalled then (0, 0xFF, off, 0xFFFFFFFF)
    else if d.fetches.any fun f => f.core == g.core && f.va == lineVa pc then (5, 0xFF, off, 0xFFFFFFFF)
    else match op with
      | some o => (1, 0xFF, off, lastDue (latchBlame d turn g.core o ++ operandDue d g o pc))
      | none => (0, 0xFF, off, 0xFFFFFFFF)
  | none, .barrier sc k =>
    (4, 0xFF, off, ((g.barPc.find? fun x => x.1 == sc && x.2.1 == k).map (·.2.2)).getD 0xFFFFFFFF)
  | none, _ =>
    if (broadcastPc g).isNone then
      let (t, p, b) := waitBlame d g base
      (3, t, p, b)
    else match op with
      | some o => (2, 0xFF, off, lastDue (operandDue d g o pc))
      | none => (2, 0xFF, off, 0xFFFFFFFF)

/-- When a span's next sample is due: a period of 2^n span cycles after its last one, or after the unit's start. -/
def sampleDue (x : Die) (s : Span) (n : Nat) : Nat := max x.trace.since s.sampleAt + 2 ^ n * spanTicks x.mhz

/-- STALL_SAMPLE: one of a span in every period, of the slot whose turn holds the span's cycle (R448). -/
def evStallSample (core span : Nat) (m : Memory) (d : Device) : Device :=
  let x := d.die (dieOf core)
  let t := x.trace
  let n := BitVec.ofNat 4 span
  let due := sampleDue x (d.spanOf core n) (t.period.getD 0)
  if !t.on ∨ t.period.isNone ∨ x.tick < due then d
  else
    let slot := (d.spanOf core n).slot
    let d := d.setSpan { d.spanOf core n with sampleAt := due }
    let here := (d.focus.bind d.group?).bind fun g =>
      if g.core = core ∧ (g.place.map (·.1)) = some n then some g else none
    match here.or (d.groups.find? fun g => g.core == core && g.place == some (n, slot)) with
    | none =>
      trace t.ctx { kind := 4, data0 := 6, core := core, place := n.toNat + 16 * slot.toNat
                    time := d.refNow core } d
    | some g =>
      let (reason, s, pc, bpc) := sampleOf m d g
      trace g.ctx { kind := 4, data0 := reason, core := core, place := placeCode g, slot := s, gidx := g.gidx, time := d.now g
                    pc := pc, bpc := bpc, tidx := tidxOf g } d

/-! ## The steps -/

def execDbgattach (h : MgmtHead) (s : State) := runEvent (fun _ d => evDbgattach h d) s
def execDbghalt (h : MgmtHead) (group : Nat) (s : State) := runEvent (fun _ d => evDbghalt h group d) s
def execDbghaltDie (h : MgmtHead) (die : Nat) (s : State) := runEvent (fun _ d => evDbghaltDie h die d) s
def execDbgrun (h : MgmtHead) (target : RunTarget) (s : State) := runEvent (fun _ d => evDbgrun h target d) s
def execDbgstep (h : MgmtHead) (group : Nat) (slot : BitVec 5) (s : State) := runEvent (evDbgstep h group slot) s
def execDbgread (h : MgmtHead) (group : Nat) (item : DebugItem) (s : State) := runEvent (fun _ d => evDbgread h group item d) s
def execDbgwrite (h : MgmtHead) (group : Nat) (item : DebugItem) (value : DWord) (s : State) :=
  runEvent (fun _ d => evDbgwrite h group item value d) s
def execTrcstart (h : MgmtHead) (t : TraceSetting) (s : State) := runEvent (evTrcstart h t) s
def execTrcstop (h : MgmtHead) (s : State) := runEvent (fun _ d => evTrcstop h d) s
def execStallSample (core span : Nat) (s : State) := runEvent (evStallSample core span) s

end Sys2Proof.Machine
end

