-- ==== Sys2Proof/Machine/EvDeck.lean ====
section
/-! DEFINITION. Steps of the decks (R345, R358, R362): an operation starts, completes, its values reach registers; a DZERO
that has waited for 100 us. -/

namespace Sys2Proof.Machine

/-- The operations in a deck's queue, in acceptance order. -/
def deckQueue (d : Device) (quad : Nat) : List DeckOp := d.deckOps.filter fun o => o.quad == quad && !o.readDone

/-- DECK_OP_START: each operation when the previous one has finished (R362). -/
def evDeckStart (quad : Nat) (d : Device) : Device :=
  match deckQueue d quad with
  | [] => d
  | o :: _ =>
    if o.started.isSome then d
    else
      { d with deckOps := d.deckOps.map fun x =>
          if x.id = o.id then { x with started := some (d.die (quadDie quad)).tick } else x }

/-- The deck time of an operation in span cycles (R362). -/
def deckTime (o : DeckOp) : Nat :=
  match o.kind with
  | .mma => 128
  | .mmaRa | .mmaRb => 32
  | .dzero | .rdRow | .rdCol | .wrRow => 1

/-- An operation's deck time is over (R362). -/
def deckDone (d : Device) (o : DeckOp) : Bool :=
  let x := d.die (quadDie o.quad)
  match o.started with
  | some t => decide (t + deckTime o * spanTicks x.mhz ≤ x.tick)
  | none => false

/-- DECK_OP_COMPLETE (R355 to R358, R362). -/
def evDeckComplete (quad : Nat) (m : Memory) (d : Device) : Device :=
  match deckQueue d quad with
  | [] => d
  | o :: _ => if deckDone d o then deckFinish m o d else d

/-- DECK_READ_READY (R358, R362); in a deterministic context at the end of the turn (R423). -/
def evDeckRead (quad : Nat) (d : Device) : Device :=
  match d.deckOps.find? fun o => o.quad == quad && o.readDone with
  | none => d
  | some o => if midTurn d o.gid then d else deckDeliver o d

/-- The DZERO that a group has been cut before: its tile and type. -/
def waitingDzero (m : Memory) (d : Device) (g : Group) : Option FmtZ :=
  match broadcastPc g with
  | none => none
  | some pc => match codeWord m d g pc with
    | .error _ => none
    | .ok w => if rowOf w = some .dzero then some (decZ w) else none

/-- The other owners of the tiles that a group's DZERO names. -/
def dzeroOwners (d : Device) (g : Group) (o : FmtZ) : List Nat :=
  let quad := quadOf g.core
  ((tileOwner d quad o.z).toList ++ (if o.k1 then (tileOwner d quad (o.z ||| 1)).toList else [])).filter (· != g.gid)

/-- An owner has stayed resident for 100 µs while a group's DZERO was cut. -/
def overstays (d : Device) (g h : Group) : Bool :=
  h.place.isSome && !h.wanted && match g.dzeroAt with
    | some t => decide (max t h.residentAt + 100 * microTicks ≤ d.tickOf g.core)
    | none => false

/-- DZERO_WAIT_TIMEOUT: the owners of the tiles that a group's DZERO has waited for, for 100 µs, are descheduled (R345). -/
def evDzeroTimeout (group : Nat) (m : Memory) (d : Device) : Device :=
  match d.group? group with
  | none => d
  | some g => match waitingDzero m d g with
    | none => d
    | some o =>
      let owners := dzeroOwners d g o
      { d with groups := d.groups.map fun h =>
          if owners.contains h.gid ∧ overstays d g h then { h with wanted := true } else h }

def execDeckOpStart (quad : Nat) (s : State) := runEvent (fun _ d => evDeckStart quad d) s
def execDeckReadReady (quad : Nat) (s : State) := runEvent (fun _ d => evDeckRead quad d) s
def execDeckOpComplete (quad : Nat) (s : State) := runEvent (evDeckComplete quad) s
def execDzeroWaitTimeout (group : Nat) (s : State) := runEvent (evDzeroTimeout group) s

end Sys2Proof.Machine
end

