-- ==== Sys2Proof/Machine/EvSched.lean ====
section
/-! DEFINITION. Steps of scheduling: turns and pending traps (R77, R368, R419), quanta (R420), deschedules and residency
(R374 to R379, R417, R421), compaction (R418), the rounds of a deterministic context (R422 to R426, R453), scrubs (R393,
R395, R396). A step whose condition does not hold changes nothing. -/

namespace Sys2Proof.Machine

/-! ## Turns (R77, R368, R419) -/

def groupAt (d : Device) (core : Nat) (span : BitVec 4) (slot : BitVec 3) : Option Group :=
  d.groups.find? fun g => g.core == core && g.place == some (span, slot)

/-- The first pending fault of each slot with a cause. -/
def faultsOf (g : Group) (c : Cause) : List PendFault :=
  slots.filterMap fun t => g.pendFaults.find? fun f => f.slot == t && f.cause == c

/-- The fault of the lowest slot that holds one. -/
def firstFault (g : Group) : Option PendFault :=
  slots.findSome? fun t => g.pendFaults.find? fun f => f.slot == t

/-- A trap before a turn: kind 2 (R366); `at_` is the faulting instruction where that is known (R167). -/
def turnTrap (g : Group) (c : Cause) (acc : Nat) (mask : Word) (addrs : List (Nat × DWord)) (at_ : Option DWord) : TrapInfo :=
  { kind := 2, cause := c, acc := acc, fmask := mask, slot := (slotsOf mask).headD 0
    pc := at_.getD ((broadcastPc g).getD 0), own := at_.getD (thread g ((slotsOf mask).headD 0)).pc, addrs := addrs }

/-- The trap that is delivered before a turn, and the group without it (R368). -/
def pendingTrap (base : DWord) (g : Group) : Option (TrapInfo × Group) :=
  if g.cond = .handler then none
  else match firstFault g with
    | some f =>
      let fs := faultsOf g f.cause
      some (turnTrap g f.cause f.acc (maskOf (fs.map (·.slot))) (fs.map fun x => (x.slot, x.addr)) (f.pc.map (codeAddr base)),
        { g with pendFaults := g.pendFaults.filter fun x => !fs.contains x })
    | none =>
      if g.pendLate ≠ 0 then some (turnTrap g .engineLate 0 g.pendLate [] none, { g with pendLate := 0 })
      else if g.pendBreach ≠ 0 then some (turnTrap g .timeBreach 0 g.pendBreach [] none, { g with pendBreach := 0 })
      else none

/-- A compacting span moves one granule in an empty cycle; with the last one the block has its new place (R418). -/
def moveGranule (core : Nat) (span : BitVec 4) (d : Device) : Device :=
  match (residents d core span).find? fun g => g.moving != 0 with
  | some g => d.onGroup g.gid fun g =>
      { g with moving := g.moving - 1, base := if g.moving = 1 then g.moveTo else g.base }
  | none => d

/-- An empty span cycle (R77). -/
def emptyCycle (core : Nat) (span : BitVec 4) (d : Device) : Device := moveGranule core span (d.spend core 1)

/-- A deterministic context's round goes on past a place (R422): empty places before it are over. -/
def detPass (c : Ctx) (key : Nat) (d : Device) : Device :=
  let pass := fun (g : Group) =>
    if g.ctx = c.num ∧ g.hold = .yielded ∧ c.roundPos ≤ placeKey c g ∧ placeKey c g < key then { g with hold := .none } else g
  let d := { d with groups := d.groups.map pass }
  d.setCtx { c with roundPos := key + 1, roundBusy := true }

/-- A deterministic group's turn is due. -/
def detTurn (m : Memory) (d : Device) (c : Ctx) (g : Group) : Bool :=
  detQuiet d c && c.round != 0 && ((detNext m d c).map (·.gid)) == some g.gid

/-- A ready group's turn begins: a pending trap at the cost of an empty cycle (R369), else its passes. -/
def beginTurn (m : Memory) (gid : Nat) (d : Device) : Device :=
  match d.group? gid with
  | none => d
  | some g => match pendingTrap (codeBaseOf d g) g with
    | some (t, g) => raiseTrap m gid t ((d.setGroup g).spend g.core 1)
    | none => { d.setGroup { g with turn := some (g.next.getD {}), next := none } with focus := some gid }

/-- What a group's turn opportunity brings. -/
def opportunity (m : Memory) (g : Group) (span : BitVec 4) (d : Device) : Device :=
  let d := lateAll g.gid (d.onGroup g.gid (recheck m d))
  match d.group? g.gid, d.ctx? g.ctx with
  | some g, some c =>
    if c.det then
      if readyGroup m d g ∧ detTurn m d c g then beginTurn m g.gid (detPass c (placeKey c g) d) else emptyCycle g.core span d
    else if readyGroup m d g then beginTurn m g.gid d
    else
      emptyCycle g.core span (d.onGroup g.gid fun g => if g.hold = .yielded then { g with hold := .none } else g)
  | _, _ => emptyCycle g.core span d

/-- A compute die's cores run. -/
def coreRuns (d : Device) (core : Nat) : Bool := (d.die (dieOf core)).st == .running || haltedDie d (dieOf core)

/-- TURN_START: slots come in ascending order, cyclically; `elapsed` span cycles, at most 1,024 (log 4), have passed before. -/
def evTurnStart (p : Place) (elapsed : Nat) (m : Memory) (d : Device) : Device :=
  let core := p.core.toNat
  let s := d.spanOf core p.span
  if d.focus.isSome ∨ 1024 < elapsed ∨ !coreRuns d core ∨ s.slot ≠ p.slot then d
  else
    let d := ({ d with turns := d.turns + 1 }.setSpan { s with slot := p.slot + 1, last := d.turns + 1 }).spend core elapsed
    match groupAt d core p.span p.slot with
    | none => emptyCycle core p.span d
    | some g => opportunity m g p.span d

/-! ## Quanta, deschedules, residency (R374, R417, R420) -/

/-- The group of a span that has been resident longest, of those that time-slicing may take, after a full quantum. -/
def longestResident (d : Device) (core : Nat) (span : BitVec 4) : Option Group :=
  ((residents d core span).filter fun g =>
    g.partner.isNone && !d.isDet g && decide (g.residentAt + Config.quantum * 60 ≤ d.tickOf core)).foldl
    (fun best g => match best with
      | none => some g
      | some b => if g.residentAt < b.residentAt then some g else best) none

/-- Reference ticks of a quantum. -/
def quantumTicks : Nat := Config.quantum * 60

/-- The first group of a span whose next quantum boundary has come (R420). -/
def quantumDue (d : Device) (core : Nat) (span : BitVec 4) : Option Group :=
  (residents d core span).find? fun g => g.partner.isNone && decide (g.quantumAt + quantumTicks ≤ d.tickOf core)

/-- QUANTUM_EXPIRY: a quantum, counted from a group's residency, is over (R420). -/
def evQuantum (core span : Nat) (m : Memory) (d : Device) : Device :=
  match quantumDue d core (BitVec.ofNat 4 span) with
  | none => d
  | some g =>
    let d := d.onGroup g.gid fun g => { g with quantumAt := g.quantumAt + quantumTicks }
    if !d.groups.any fun g => g.core == core && waiting m d g then d
    else match longestResident d core (BitVec.ofNat 4 span) with
      | some g => d.onGroup g.gid fun g => { g with wanted := true }
      | none => d

/-- GROUP_SAVE: at the turn boundary of a group and its shadow; a deterministic context's deschedules come at rounds (R426). -/
def evGroupSave (gid : Nat) (m : Memory) (d : Device) : Device :=
  match d.group? gid with
  | none => d
  | some g =>
    let ids := withShadow d gid
    let busy := ids.any fun i => match d.group? i with
      | some h => h.turn.isSome
      | none => false
    let asked := ids.any fun i => match d.group? i with
      | some h => h.wanted
      | none => false
    if g.place.isNone ∨ g.partner.isSome ∨ busy ∨ !asked ∨ d.isDet g then d
    else endSuspend m g.ctx (deschedule m gid d)

/-- GROUP_RESIDENT: the group of the core that has waited longest (R417, R420). -/
def evGroupResident (gid : Nat) (m : Memory) (d : Device) : Device :=
  match d.group? gid with
  | none => d
  | some g => if waiting m d g && !waitsLonger m d g && coreRuns d g.core then takeHome m gid d else d

/-! ## Compaction (R418) -/

/-- The lowest block of a span that can move toward register 0, and where to. -/
def slideOf (gs : List Group) : Option (Group × Nat) :=
  gs.findSome? fun g =>
    match freeBlock (runsOf (gs.filter (·.gid != g.gid))) (g.d + g.x) with
    | some b => if b < g.base then some (g, b) else none
    | none => none

/-- Puts a group among others by its base. -/
def insertBase (g : Group) : List Group → List Group
  | [] => [g]
  | h :: rest => if g.base ≤ h.base then g :: h :: rest else h :: insertBase g rest

/-- A group has waited 20 µs for blocks of a span to move (R418). -/
def stuckOn (m : Memory) (d : Device) (core : Nat) (s : BitVec 4) (g : Group) : Bool :=
  g.core == core && waiting m d g && (homeFor d g).isNone && decide (g.waitTick + 20 * microTicks ≤ d.tickOf core)
    && decide ((needs d g).sum ≤ freeRegs d core s) && decide ((needs d g).length ≤ (freeSlots d core s).length)

/-- COMPACTION: the roomiest span begins to move its lowest movable block, for a waiting group that only fragmentation keeps
out; the block keeps its old place until its last granule has moved. -/
def evCompaction (core span : Nat) (m : Memory) (d : Device) : Device :=
  let s := BitVec.ofNat 4 span
  let gs := residents d core s
  if roomiest d core allSpans ≠ some s ∨ !d.groups.any (stuckOn m d core s) ∨ gs.any (fun g => g.moving != 0) ∨ gs.any (·.turn.isSome)
  then d
  else match slideOf (gs.foldr insertBase []) with
    | some (g, b) => d.onGroup g.gid fun g => { g with moveTo := b, moving := (g.d + g.x) / 8 }
    | none => d

/-! ## Deterministic rounds (R422 to R426, R453) -/

/-- The deterministic record: 16 bytes of a delivery; a record that cannot be written stops recording (R425). -/
def recordDelivery (m : Memory) (ctx place queue : Nat) (d : Device) : Device :=
  match d.ctx? ctx with
  | none => d
  | some c =>
    if c.drec = 0 ∨ c.drecOff then d
    else if c.drecSize < 16 * (c.drecCount + 1) then
      logAppend m ctx { kind := 9 } (d.setCtx { c with drecOff := true })
    else
      let va := c.drec + BitVec.ofNat 64 (16 * c.drecCount)
      match deviceWrite m d c va (wordBytes 8 c.round ++ wordBytes 4 place ++ wordBytes 4 queue) with
      | .ok d => d.setCtx { c with drecCount := c.drecCount + 1 }
      | .error e => logAppend m ctx { kind := 9, cause := causeCode e, addr := va } (d.setCtx { c with drecOff := true })

/-- The number of a group's place in round order. -/
def placeOf (d : Device) (c : Ctx) (g : Group) : Nat := ((inOrder d c).filter fun h => decide (placeKey c h < placeKey c g)).length

/-- A gang member waits for this core. -/
def memberFor (m : Memory) (d : Device) (c : Ctx) (g : Group) : Option Gang :=
  c.gangs.find? fun k => k.toStart.contains g.core && canTake m d c g k.words

/-- The entry a group is offered: the die's best that the group, or a gang position, can take (R412, R425). -/
def detOffer (m : Memory) (d : Device) (c : Ctx) (g : Group) : Option Entry :=
  let fits := fun (e : Entry) =>
    if entGang e.words then !(freePositions c (some (dieOf g.core)) e.words).isEmpty
    else !reserved c g.core && canTake m d c g e.words
  let es := d.entries.filter fun e => offered c.num e && ((neverTaken m d c e.words).isSome || fits e)
  takeOffer (bestEntry (es.filter fun e => e.queue % 2 == 0)) (bestEntry (es.filter fun e => e.queue % 2 == 1))

/-- What a resident IDLE group receives at the start of a round; entries that can never run fail on the way, and a gang
that is granted may be this group's. -/
def detGive (m : Memory) (ctx gid : Nat) (d : Device) : Nat → Device
  | 0 => d
  | n + 1 => match d.ctx? ctx, d.group? gid with
    | some c, some g =>
      if !idleGroup ctx g then d
      else match memberFor m d c g with
        | some k =>
          let t : Task := { entry := k.id, words := k.words, queue := k.queue, gang := some k.id, rect := k.rect }
          let c := { c with roundBusy := true, gangs := c.gangs.map fun x =>
            if x.id = k.id then { x with toStart := x.toStart.filter (· != g.core) } else x }
          startTask m c t gid (recordDelivery m ctx (placeOf d c g) k.queue (d.setCtx c))
        | none => match detOffer m d c g with
          | none => d
          | some e =>
            let out := { d with entries := d.entries.filter (·.id != e.id) }
            match neverTaken m d c e.words with
            | some cause => detGive m ctx gid (failEntry m ctx e.words cause out) n
            | none =>
              if entGang e.words then match freePositions c (some (dieOf g.core)) e.words with
                | p :: _ => detGive m ctx gid (grantGang c e p d) n
                | [] => d
              else
                let t : Task := { entry := e.id, words := e.words, queue := e.queue, rect := quadRect g.core }
                let c := { c with roundBusy := true }
                startTask m c t gid (recordDelivery m ctx (placeOf d c g) e.queue (out.setCtx c))
    | _, _ => d

/-- Restarts at a round boundary (R426): deck holders, and groups inside idempotent regions. -/
def detRestart (m : Memory) (c : Ctx) (g : Group) (d : Device) : Device :=
  if deckHolder d g.gid then deckRestart m c g.gid d
  else match g.region with
    | some r => idemRestart r g.gid d
    | none => d

/-- Groups of a deterministic context that leave at a boundary: those outside the new set, and those asked to. -/
def leaving (m : Memory) (d : Device) (c : Ctx) : List Group :=
  d.groups.filter fun g => g.ctx == c.num && g.partner.isNone && g.place.isSome
    && (g.wanted || c.suspended || !inSet m d c c.round g.gidx)

/-- Members of the resident set that are not resident. -/
def missing (m : Memory) (d : Device) (c : Ctx) : Bool :=
  d.groups.any fun g => g.ctx == c.num && g.partner.isNone && g.place.isNone && inSet m d c c.round g.gidx

/-- Something for the next round to do: a group is ready, or an entry deliverable (R422). -/
def roundWork (m : Memory) (d : Device) (c : Ctx) : Bool :=
  d.groups.any fun g => g.ctx == c.num &&
    (readyGroup m d g || (idleGroup c.num g && ((memberFor m d c g).isSome || (detOffer m d c g).isSome)))

/-- The acquires of the deliveries can act. -/
def roundReady (d : Device) (c : Ctx) : Bool :=
  c.rects.all fun r => caughtUp d r.die (clockOf d r.die) [r.die]

/-- The round begins: restarts at a boundary, then deliveries in round order. -/
def openRound (m : Memory) (c : Ctx) (edge : Bool) (d : Device) : Device :=
  let d := if edge then (inOrder d c).foldl (fun d g => detRestart m c g d) d else d
  let c := { c with roundPos := 0, roundBusy := false }
  let d := d.setCtx c
  let d := (inOrder d c).foldl (fun d g => detGive m c.num g.gid d (d.entries.length + 2)) d
  match d.ctx? c.num with
  | some c => d.setCtx { c with round := c.round + 1 }
  | none => d

/-- Once a round is over, a group that had YIELDed before it has had its empty place (R426). -/
def yieldsOver (c : Ctx) (d : Device) : Device :=
  { d with groups := d.groups.map fun g =>
      if g.ctx = c.num ∧ g.hold = .yielded ∧ g.yieldAt < c.round then { g with hold := .none } else g }

/-- What follows the end of a round: at a boundary the groups that leave are descheduled first; the next begins once every
member of the resident set is resident, and there is something to do. -/
def nextRound (m : Memory) (c : Ctx) (d : Device) : Device :=
  let edge := c.round % (max c.rq 1) == 0
  if edge ∧ leaving m d c ≠ [] then
    endSuspend m c.num ((leaving m d c).foldl (fun d g => deschedule m g.gid d) d)
  else if (edge ∧ c.suspended) ∨ missing m d c ∨ !roundReady d c then d
  else if c.round ≠ 0 ∧ !c.roundBusy ∧ !roundWork m d c then d
  else openRound m c edge d

/-- DET_ROUND_START. -/
def evDetRound (ctx : Nat) (m : Memory) (d : Device) : Device :=
  match d.ctx? ctx with
  | none => d
  | some c => if !c.det ∨ c.ending.isSome ∨ !roundOver m d c then d else nextRound m c (yieldsOver c d)

/-! ## Scrubs (R393, R395, R396) -/

/-- The word of a code: below 256 the REG codes of R398, then I0 to I3, T0 to T15, C0 to C7 (by what the entry binds), L0 and
L1, and the entries of the queue window, oldest first. -/
def wordOf (g : Group) (n : Nat) : Option Reg :=
  if n < 64 then some (.v (BitVec.ofNat 6 n))
  else if n < 192 then some (.x (BitVec.ofNat 7 (n - 64)))
  else if n < 256 then some (.s (BitVec.ofNat 6 (n - 192)))
  else if n < 260 then some (.i (BitVec.ofNat 2 (n - 256)))
  else if n < 276 then some (.t (BitVec.ofNat 4 (n - 260)))
  else if n < 284 then
    match g.c.toArray.getD (n - 276) none with
    | some e => if e.valid then some (.c (BitVec.ofNat 3 (n - 276)) e.reg) else none
    | none => none
  else if n < 286 then some (.l (n == 285))
  else some .q

/-- A latch lane becomes uncorrectable. -/
def strikeLatch (one : Bool) (t : Nat) (turn : Turn) : Turn :=
  if one then { turn with l1 := { turn.l1 with bad := turn.l1.bad ||| bitOf t } }
  else { turn with l0 := { turn.l0 with bad := turn.l0.bad ||| bitOf t } }

/-- An entry of a queue window becomes uncorrectable. -/
def strikeQ (t n : Nat) (g : Group) : Group :=
  { g with qwin := g.qwin.set! t (((g.qwin.toArray.getD t []).zipIdx).map fun x => if x.2 = n then { x.1 with bad := true } else x.1) }

/-- The words that keep their own mark take it; the valid operand-cache copies of a register stay good. -/
def strikeOwn (b : BitVec 5 × Nat) (r : Reg) (g : Group) : Group :=
  let t := b.1.toNat
  match r with
  | .t k => onThread g t fun th => setTime th k { timeOf th k with bad := true }
  | .l one => { g with turn := g.turn.map (strikeLatch one t), next := g.next.map (strikeLatch one t) }
  | .q => strikeQ t (b.2 - 286) g
  | .v v => { g with cClean := (((List.range 8).map (BitVec.ofNat 3)).filter fun k => match g.c[k.toNat]'(k.isLt) with
      | some e => e.valid && e.reg == v
      | none => false).map (fun k => (t, k)) ++ g.cClean }
  | _ => g

/-- A word becomes uncorrectable (R393). -/
def strike (b : BitVec 5 × Nat) (g : Group) : Group :=
  match wordOf g b.2 with
  | none => g
  | some r =>
    let g := strikeOwn b r g
    if g.poison.contains (b.1.toNat, r) then g else { g with poison := g.poison ++ [(b.1.toNat, r)] }

/-- The marks that some words make in a group. -/
def marksOf (g : Group) (bs : List (BitVec 5 × Nat)) : List (Nat × Reg) :=
  bs.filterMap fun b => (wordOf g b.2).map fun r => (b.1.toNat, r)

/-- Errors strike words of a group. The partner of a shadow, which reads the queue window, is told of a struck entry. -/
def strikeAll (bs : List (BitVec 5 × Nat)) (gid : Nat) (d : Device) : Device :=
  let d := d.onGroup gid fun g => bs.foldl (fun g b => strike b g) g
  match (d.group? gid).bind (·.partner) with
  | some p => if bs.any fun b => decide (286 ≤ b.2) then d.onGroup p fun g => { g with poison := g.poison ++ [(0, .q)] } else d
  | none => d

/-- REGISTER_SCRUB: corrected words are counted; errors that no scrub has met yet strike words (R393); the words that the scrub
finds uncorrectable are poisoned, and logged where they were not before (R395); an uncorrectable error in group control state
fails the task (R396). -/
def evScrub (gid corrected : Nat) (bad struck : List (BitVec 5 × Nat)) (control : Bool) (m : Memory) (d : Device) : Device :=
  match d.group? gid with
  | none => d
  | some g =>
    if g.place.isNone then d
    else
      let fresh := (marksOf g bad).filter fun p => !g.poison.contains p || g.unmet.contains p
      let d := { d with mon := { d.mon with correctedWords := d.mon.correctedWords + corrected } }
      let d := (strikeAll (bad ++ struck) gid d).onGroup gid fun h =>
        { h with unmet := (g.unmet ++ (marksOf g struck).filter fun p => !g.poison.contains p).filter fun p => !fresh.contains p }
      let d := match d.group? gid with
        | some h => logPoison m { h with poison := fresh } d
        | none => d
      if control then
        failTask m (taskGroup g) (causeCode .uncorrectable) 0 0 0
          { d with focus := if d.focus = some gid then none else d.focus }
      else d

/-! ## The steps -/

def execTurnStart (place : Place) (elapsed : Nat) (s : State) := runEvent (evTurnStart place elapsed) s
def execQuantumExpiry (core span : Nat) (s : State) := runEvent (evQuantum core span) s
def execGroupSave (group : Nat) (s : State) := runEvent (evGroupSave group) s
def execGroupResident (group : Nat) (s : State) := runEvent (evGroupResident group) s
def execCompaction (core span : Nat) (s : State) := runEvent (evCompaction core span) s
def execDetRoundStart (ctx : Nat) (s : State) := runEvent (evDetRound ctx) s
def execRegisterScrub (group corrected : Nat) (words : ScrubWords) (control : Bool) (s : State) :=
  runEvent (evScrub group corrected words.bad words.struck control) s

end Sys2Proof.Machine
end

