-- ==== Sys2Proof/Machine/EvSpdm.lean ====
section
/-! DEFINITION. The SPDM responder (R430 to R432). Digests, signatures, certificates and public keys are free values; codes
of messages and errors are those of DSP0274 (log 32). A request that comes before the ones it follows is answered with
ERROR UnexpectedRequest. -/

namespace Sys2Proof.Machine

/-! ## Messages -/

/-- Errors of an SPDM responder. -/
inductive SpdmError
  | invalidRequest | invalidSession | unexpectedRequest | decrypt | unsupportedRequest | sessionLimit | versionMismatch
deriving DecidableEq, Repr

def spdmErrorCode (e : SpdmError) : Nat :=
  match e with
  | .invalidRequest => 0x01
  | .invalidSession => 0x02
  | .unexpectedRequest => 0x04
  | .decrypt => 0x06
  | .unsupportedRequest => 0x07
  | .sessionLimit => 0x0A
  | .versionMismatch => 0x41

def spdmAnswer (conn code : Nat) (fields : List Nat) (d : Device) : Device := d.send (.spdm conn code fields)

def spdmError (conn : Nat) (e : SpdmError) (data : Nat) (d : Device) : Device :=
  spdmAnswer conn 0x7F [spdmErrorCode e, data] d

/-- The stage of a connection: 0 none, 1 after GET_VERSION, 2 after GET_CAPABILITIES, 3 after NEGOTIATE_ALGORITHMS. -/
def connStage (d : Device) (conn : Nat) : Nat := ((d.conns.find? (·.conn == conn)).map (·.stage)).getD 0

def setConn (c : SpdmConn) (d : Device) : Device := { d with conns := c :: d.conns.filter (·.conn != c.conn) }

/-- A request that needs a stage; the Keystone answers nothing before it has booted. -/
def atStage (conn n : Nat) (f : Device → Device) (d : Device) : Device :=
  if !d.booted then d else if connStage d conn < n then spdmError conn .unexpectedRequest 0 d else f d

/-! ## Identity (R430) -/

/-- A number made of the nine measurement blocks, on which the alias key depends. -/
def measNat (d : Device) : Nat := d.meas.toList.foldl (fun n x => n * 2 ^ 384 + x % 2 ^ 384) 0

def chainDigest (d : Device) : Nat := Config.secret 0x10 (measNat d)

/-- A byte of the certificate chain of slot 0: root, identity, alias. -/
def chainByte (d : Device) (i : Nat) : Nat := Config.secret (0x10000 + i) (measNat d) % 256

/-- A signature made with the alias key. -/
def signed (d : Device) (x : Nat) : Nat := Config.secret (0x11 + 2 * x) (measNat d)

/-! ## Requests (R431) -/

def evGetVersion (conn : Nat) (d : Device) : Device :=
  if !d.booted then d else spdmAnswer conn 0x04 [0x12, 0x13] (setConn { conn := conn, stage := 1 } d)

def evGetCapabilities (conn version : Nat) (d : Device) : Device :=
  atStage conn 1 (fun d =>
    if version = 0x12 ∨ version = 0x13 then
      spdmAnswer conn 0x61 [version] (setConn { conn := conn, stage := 2, version := version } d)
    else spdmError conn .versionMismatch 0 d) d

def evNegotiate (conn : Nat) (a : SpdmAlgorithms) (d : Device) : Device :=
  atStage conn 2 (fun d =>
    if a.ecdsaP384 && a.sha384 && a.ecdheP384 && a.aes256Gcm then
      let v := ((d.conns.find? (·.conn == conn)).map (·.version)).getD 0
      spdmAnswer conn 0x63 [] (setConn { conn := conn, stage := 3, version := v } d)
    else spdmError conn .invalidRequest 0 d) d

def evGetDigests (conn : Nat) (d : Device) : Device := atStage conn 3 (fun d => spdmAnswer conn 0x01 [1, chainDigest d] d) d

def evGetCertificate (conn slot offset len : Nat) (d : Device) : Device :=
  atStage conn 3 (fun d =>
    if slot ≠ 0 then spdmError conn .invalidRequest 0 d
    else spdmAnswer conn 0x02 ((List.range len).map fun i => chainByte d (offset + i)) d) d

def evChallenge (conn slot nonce : Nat) (d : Device) : Device :=
  atStage conn 3 (fun d =>
    if slot ≠ 0 then spdmError conn .invalidRequest 0 d
    else spdmAnswer conn 0x03 [chainDigest d, measNat d, signed d nonce] d) d

/-- GET_MEASUREMENTS of block 0 asks for their number, of 0xFF for all. -/
def evGetMeasurements (conn block : Nat) (d : Device) : Device :=
  atStage conn 3 (fun d =>
    if block = 0 then spdmAnswer conn 0x60 [9] d
    else if block = 0xFF then spdmAnswer conn 0x60 d.meas.toList d
    else if block ≤ 9 then spdmAnswer conn 0x60 [block, d.meas.toArray.getD (block - 1) 0] d
    else spdmError conn .invalidRequest 0 d) d

/-- KEY_EXCHANGE opens a session of the 16 (R431). -/
def evKeyExchange (conn slot pub : Nat) (d : Device) : Device :=
  atStage conn 3 (fun d =>
    if slot ≠ 0 then spdmError conn .invalidRequest 0 d
    else if 16 ≤ d.sessions.length then spdmError conn .sessionLimit 0 d
    else
      let s : Session := { id := d.nextId, conn := conn, ready := false }
      spdmAnswer conn 0x64 [s.id, Config.secret 0x12 d.nextId, signed d pub]
        { d with sessions := d.sessions ++ [s], nextId := d.nextId + 1 }) d

def sessionOf (d : Device) (id : Nat) : Option Session := d.sessions.find? (·.id == id)

def dropSession (id : Nat) (d : Device) : Device := { d with sessions := d.sessions.filter (·.id != id) }

/-- FINISH: the requester's verification holds, or the session is closed. -/
def evFinish (session : Nat) (verified : Bool) (d : Device) : Device :=
  match sessionOf d session with
  | none => d
  | some s =>
    if s.ready then spdmError s.conn .unexpectedRequest 0 d
    else if verified then
      spdmAnswer s.conn 0x65 [] { d with sessions := d.sessions.map fun x => if x.id = session then { x with ready := true } else x }
    else spdmError s.conn .decrypt 0 (dropSession session d)

/-- A request inside a session. -/
def inSession (session : Nat) (f : Session → Device → Device) (d : Device) : Device :=
  match sessionOf d session with
  | none => d
  | some s => if s.ready then f s d else spdmError s.conn .unexpectedRequest 0 d

def evHeartbeat (session : Nat) (d : Device) : Device := inSession session (fun s d => spdmAnswer s.conn 0x68 [] d) d

def evKeyUpdate (session : Nat) (d : Device) : Device :=
  inSession session (fun s d =>
    spdmAnswer s.conn 0x69 []
      { d with sessions := d.sessions.map fun x => if x.id = session then { x with keyGen := x.keyGen + 1 } else x }) d

/-- END_SESSION: a context that the session started keeps running (R432). -/
def evEndSession (session : Nat) (d : Device) : Device :=
  inSession session (fun s d => dropSession session (spdmAnswer s.conn 0x6C [] d)) d

def evSpdmUnsupported (conn code : Nat) (d : Device) : Device :=
  if !d.booted then d else spdmError conn .unsupportedRequest code d

/-! ## The steps -/

def execGetVersion (conn : Nat) (s : State) := runEvent (fun _ d => evGetVersion conn d) s
def execGetCapabilities (conn version : Nat) (s : State) := runEvent (fun _ d => evGetCapabilities conn version d) s
def execNegotiateAlgorithms (conn : Nat) (offered : SpdmAlgorithms) (s : State) :=
  runEvent (fun _ d => evNegotiate conn offered d) s
def execGetDigests (conn : Nat) (s : State) := runEvent (fun _ d => evGetDigests conn d) s
def execGetCertificate (conn slot offset len : Nat) (s : State) :=
  runEvent (fun _ d => evGetCertificate conn slot offset len d) s
def execChallenge (conn slot nonce : Nat) (s : State) := runEvent (fun _ d => evChallenge conn slot nonce d) s
def execGetMeasurements (conn block : Nat) (s : State) := runEvent (fun _ d => evGetMeasurements conn block d) s
def execKeyExchange (conn slot pub : Nat) (s : State) := runEvent (fun _ d => evKeyExchange conn slot pub d) s
def execFinish (session : Nat) (verified : Bool) (s : State) := runEvent (fun _ d => evFinish session verified d) s
def execHeartbeat (session : Nat) (s : State) := runEvent (fun _ d => evHeartbeat session d) s
def execKeyUpdate (session : Nat) (s : State) := runEvent (fun _ d => evKeyUpdate session d) s
def execEndSession (session : Nat) (s : State) := runEvent (fun _ d => evEndSession session d) s
def execSpdmUnsupported (conn code : Nat) (s : State) := runEvent (fun _ d => evSpdmUnsupported conn code d) s

end Sys2Proof.Machine
end

