-- ==== Sys2Proof/Machine/Meanings.lean ====
section
/-! DEFINITION. The meaning of each encoded instruction: one pass of the group in focus with it as the broadcast
instruction (R42, R43). Its effect is the operation `op<Name>` of its family. -/

namespace Sys2Proof.Machine

/-- ADD_16 (R106): 16-bit form of ADD: d := d + b. -/
def execAdd16 (o : Fmt16) (s : State) : Host.Outcome State Fault Refusal := runPass decodeOp (opAdd16 o) s

/-- SUB_16 (R106): 16-bit form of SUB: d := d - b. -/
def execSub16 (o : Fmt16) (s : State) : Host.Outcome State Fault Refusal := runPass decodeOp (opSub16 o) s

/-- AND_16 (R106): 16-bit form of AND: d := d AND b. -/
def execAnd16 (o : Fmt16) (s : State) : Host.Outcome State Fault Refusal := runPass decodeOp (opAnd16 o) s

/-- OR_16 (R106): 16-bit form of OR: d := d OR b. -/
def execOr16 (o : Fmt16) (s : State) : Host.Outcome State Fault Refusal := runPass decodeOp (opOr16 o) s

/-- XOR_16 (R106): 16-bit form of XOR: d := d XOR b. -/
def execXor16 (o : Fmt16) (s : State) : Host.Outcome State Fault Refusal := runPass decodeOp (opXor16 o) s

/-- SHL_16 (R106): 16-bit form of SHL: d shifted left by b. -/
def execShl16 (o : Fmt16) (s : State) : Host.Outcome State Fault Refusal := runPass decodeOp (opShl16 o) s

/-- SHR_16 (R106): 16-bit form of SHR: d shifted right logically by b. -/
def execShr16 (o : Fmt16) (s : State) : Host.Outcome State Fault Refusal := runPass decodeOp (opShr16 o) s

/-- MIN_16 (R106): 16-bit form of MIN: signed minimum of d and b. -/
def execMin16 (o : Fmt16) (s : State) : Host.Outcome State Fault Refusal := runPass decodeOp (opMin16 o) s

/-- MAX_16 (R106): 16-bit form of MAX: signed maximum of d and b. -/
def execMax16 (o : Fmt16) (s : State) : Host.Outcome State Fault Refusal := runPass decodeOp (opMax16 o) s

/-- MOV_16 (R106): 16-bit form of MOV: d := b. -/
def execMov16 (o : Fmt16) (s : State) : Host.Outcome State Fault Refusal := runPass decodeOp (opMov16 o) s

/-- FADD_16 (R106): 16-bit form of FADD: d := d + b in binary32. -/
def execFadd16 (o : Fmt16) (s : State) : Host.Outcome State Fault Refusal := runPass decodeOp (opFadd16 o) s

/-- FMUL_16 (R106): 16-bit form of FMUL: d := d x b in binary32. -/
def execFmul16 (o : Fmt16) (s : State) : Host.Outcome State Fault Refusal := runPass decodeOp (opFmul16 o) s

/-- FMAC_16 (R106): 16-bit FFMA equivalent: d += b x L0, fused. -/
def execFmac16 (o : Fmt16) (s : State) : Host.Outcome State Fault Refusal := runPass decodeOp (opFmac16 o) s

/-- PADD2_16 (R106): 16-bit form of PADD2: packed BF16 add of d and b. -/
def execPadd2s16 (o : Fmt16) (s : State) : Host.Outcome State Fault Refusal := runPass decodeOp (opPadd2s16 o) s

/-- PFMA2_16 (R106): 16-bit PFMA2 equivalent: packed d += b x L0. -/
def execPfma2s16 (o : Fmt16) (s : State) : Host.Outcome State Fault Refusal := runPass decodeOp (opPfma2s16 o) s

/-- FMAX_16 (R106): 16-bit form of FMAX: binary32 maximum of d and b. -/
def execFmax16 (o : Fmt16) (s : State) : Host.Outcome State Fault Refusal := runPass decodeOp (opFmax16 o) s

/-- ADD (R143): Per-thread 32-bit integer add modulo 2^32. -/
def execAdd (o : FmtA) (s : State) : Host.Outcome State Fault Refusal := runPass decodeOp (opAdd o) s

/-- SUB (R143): Per-thread 32-bit integer subtract. -/
def execSub (o : FmtA) (s : State) : Host.Outcome State Fault Refusal := runPass decodeOp (opSub o) s

/-- MULLO (R143): Low 32 bits of the integer product. -/
def execMullo (o : FmtA) (s : State) : Host.Outcome State Fault Refusal := runPass decodeOp (opMullo o) s

/-- MULHI (R143): High 32 bits of the signed product. -/
def execMulhi (o : FmtA) (s : State) : Host.Outcome State Fault Refusal := runPass decodeOp (opMulhi o) s

/-- MULHIU (R143): High 32 bits of the unsigned product. -/
def execMulhiu (o : FmtA) (s : State) : Host.Outcome State Fault Refusal := runPass decodeOp (opMulhiu o) s

/-- MAD (R143): a x b plus the destination accumulator, low 32 bits. -/
def execMad (o : FmtA) (s : State) : Host.Outcome State Fault Refusal := runPass decodeOp (opMad o) s

/-- ABSDIFF (R143): Absolute difference of signed a and b. -/
def execAbsdiff (o : FmtA) (s : State) : Host.Outcome State Fault Refusal := runPass decodeOp (opAbsdiff o) s

/-- AVG (R143): Signed rounded-up average of a and b. -/
def execAvg (o : FmtA) (s : State) : Host.Outcome State Fault Refusal := runPass decodeOp (opAvg o) s

/-- MIN (R143): Signed minimum. -/
def execMin (o : FmtA) (s : State) : Host.Outcome State Fault Refusal := runPass decodeOp (opMin o) s

/-- MAX (R143): Signed maximum. -/
def execMax (o : FmtA) (s : State) : Host.Outcome State Fault Refusal := runPass decodeOp (opMax o) s

/-- MINU (R143): Unsigned minimum. -/
def execMinu (o : FmtA) (s : State) : Host.Outcome State Fault Refusal := runPass decodeOp (opMinu o) s

/-- MAXU (R143): Unsigned maximum. -/
def execMaxu (o : FmtA) (s : State) : Host.Outcome State Fault Refusal := runPass decodeOp (opMaxu o) s

/-- AND (R143): Bitwise AND. -/
def execAnd (o : FmtA) (s : State) : Host.Outcome State Fault Refusal := runPass decodeOp (opAnd o) s

/-- OR (R143): Bitwise OR. -/
def execOr (o : FmtA) (s : State) : Host.Outcome State Fault Refusal := runPass decodeOp (opOr o) s

/-- XOR (R143): Bitwise XOR. -/
def execXor (o : FmtA) (s : State) : Host.Outcome State Fault Refusal := runPass decodeOp (opXor o) s

/-- ANDN (R143): a AND NOT b. -/
def execAndn (o : FmtA) (s : State) : Host.Outcome State Fault Refusal := runPass decodeOp (opAndn o) s

/-- SHL (R143): Logical shift left; 0 for counts of 32 or more. -/
def execShl (o : FmtA) (s : State) : Host.Outcome State Fault Refusal := runPass decodeOp (opShl o) s

/-- SHR (R143): Logical shift right; 0 for counts of 32 or more. -/
def execShr (o : FmtA) (s : State) : Host.Outcome State Fault Refusal := runPass decodeOp (opShr o) s

/-- SAR (R143): Arithmetic shift right by min(b, 31). -/
def execSar (o : FmtA) (s : State) : Host.Outcome State Fault Refusal := runPass decodeOp (opSar o) s

/-- ROTL (R143): Rotate left by b mod 32. -/
def execRotl (o : FmtA) (s : State) : Host.Outcome State Fault Refusal := runPass decodeOp (opRotl o) s

/-- BFX (R144): Extract a bit field described by b, optionally sign-extended. -/
def execBfx (o : FmtA) (s : State) : Host.Outcome State Fault Refusal := runPass decodeOp (opBfx o) s

/-- BFI (R144): Insert a bit field into the destination accumulator. -/
def execBfi (o : FmtA) (s : State) : Host.Outcome State Fault Refusal := runPass decodeOp (opBfi o) s

/-- LEA2 (R143): a + 4 x b. -/
def execLea2 (o : FmtA) (s : State) : Host.Outcome State Fault Refusal := runPass decodeOp (opLea2 o) s

/-- LEA3 (R143): a + 8 x b. -/
def execLea3 (o : FmtA) (s : State) : Host.Outcome State Fault Refusal := runPass decodeOp (opLea3 o) s

/-- SELP (R145): Select A or B per thread by predicate Pn named in X. -/
def execSelp (o : FmtSel) (s : State) : Host.Outcome State Fault Refusal := runPass decodeOp (opSelp o) s

/-- ADD64 (R146): 64-bit add on register pairs. -/
def execAdd64 (o : FmtA) (s : State) : Host.Outcome State Fault Refusal := runPass decodeOp (opAdd64 o) s

/-- SUB64 (R146): 64-bit subtract on register pairs. -/
def execSub64 (o : FmtA) (s : State) : Host.Outcome State Fault Refusal := runPass decodeOp (opSub64 o) s

/-- SHL64 (R146): 64-bit logical shift left. -/
def execShl64 (o : FmtA) (s : State) : Host.Outcome State Fault Refusal := runPass decodeOp (opShl64 o) s

/-- SHR64 (R146): 64-bit logical shift right. -/
def execShr64 (o : FmtA) (s : State) : Host.Outcome State Fault Refusal := runPass decodeOp (opShr64 o) s

/-- ICMP (R147): Integer compare writing a predicate, optionally ANDed with it. -/
def execIcmp (o : FmtIC) (s : State) : Host.Outcome State Fault Refusal := runPass decodeOp (opIcmp o) s

/-- FCMP (R193): Floating-point compare writing a predicate. -/
def execFcmp (o : FmtFC) (s : State) : Host.Outcome State Fault Refusal := runPass decodeOp (opFcmp o) s

/-- ADDI (R148): Add a sign-extended 11-bit immediate. -/
def execAddi (o : FmtI) (s : State) : Host.Outcome State Fault Refusal := runPass decodeOp (opAddi o) s

/-- ANDI (R148): AND with an immediate. -/
def execAndi (o : FmtI) (s : State) : Host.Outcome State Fault Refusal := runPass decodeOp (opAndi o) s

/-- ORI (R148): OR with an immediate. -/
def execOri (o : FmtI) (s : State) : Host.Outcome State Fault Refusal := runPass decodeOp (opOri o) s

/-- XORI (R148): XOR with an immediate. -/
def execXori (o : FmtI) (s : State) : Host.Outcome State Fault Refusal := runPass decodeOp (opXori o) s

/-- SHIFTI (R149): Shift or rotate by an immediate amount of the kind in the immediate. -/
def execShifti (o : FmtShift) (s : State) : Host.Outcome State Fault Refusal := runPass decodeOp (opShifti o) s

/-- MULI (R148): Multiply by an immediate, low 32 bits. -/
def execMuli (o : FmtI) (s : State) : Host.Outcome State Fault Refusal := runPass decodeOp (opMuli o) s

/-- SADDI (R148): Uniform scalar add of an immediate. -/
def execSaddi (o : FmtUI) (s : State) : Host.Outcome State Fault Refusal := runPass decodeOp (opSaddi o) s

/-- LUI (R150): Load an 18-bit immediate into bits 31:14. -/
def execLui (o : FmtL) (s : State) : Host.Outcome State Fault Refusal := runPass decodeOp (opLui o) s

/-- LLO (R150): Replace bits 13:0 of the destination with an immediate. -/
def execLlo (o : FmtLo) (s : State) : Host.Outcome State Fault Refusal := runPass decodeOp (opLlo o) s

/-- ADR (R150): Form a code offset relative to the PC. -/
def execAdr (o : FmtL) (s : State) : Host.Outcome State Fault Refusal := runPass decodeOp (opAdr o) s

/-- SLUI (R150): Uniform: load an immediate into bits 31:14 of a scalar. -/
def execSlui (o : FmtUL) (s : State) : Host.Outcome State Fault Refusal := runPass decodeOp (opSlui o) s

/-- SLLO (R150): Uniform: replace bits 13:0 of a scalar. -/
def execSllo (o : FmtULo) (s : State) : Host.Outcome State Fault Refusal := runPass decodeOp (opSllo o) s

/-- MOV (R152): Copy a source to the destination. -/
def execMov (o : FmtN) (s : State) : Host.Outcome State Fault Refusal := runPass decodeOp (opMov o) s

/-- NOT (R152): Bitwise complement. -/
def execNot (o : FmtN) (s : State) : Host.Outcome State Fault Refusal := runPass decodeOp (opNot o) s

/-- NEG (R152): Two's-complement negation. -/
def execNeg (o : FmtN) (s : State) : Host.Outcome State Fault Refusal := runPass decodeOp (opNeg o) s

/-- ABS (R152): Signed absolute value. -/
def execAbs (o : FmtN) (s : State) : Host.Outcome State Fault Refusal := runPass decodeOp (opAbs o) s

/-- CLZ (R152): Count leading zeros. -/
def execClz (o : FmtN) (s : State) : Host.Outcome State Fault Refusal := runPass decodeOp (opClz o) s

/-- CTZ (R152): Count trailing zeros. -/
def execCtz (o : FmtN) (s : State) : Host.Outcome State Fault Refusal := runPass decodeOp (opCtz o) s

/-- POPC (R152): Count one bits. -/
def execPopc (o : FmtN) (s : State) : Host.Outcome State Fault Refusal := runPass decodeOp (opPopc o) s

/-- BREV (R152): Reverse bit order. -/
def execBrev (o : FmtN) (s : State) : Host.Outcome State Fault Refusal := runPass decodeOp (opBrev o) s

/-- BSWAP (R152): Reverse byte order. -/
def execBswap (o : FmtN) (s : State) : Host.Outcome State Fault Refusal := runPass decodeOp (opBswap o) s

/-- SEXT8 (R152): Sign-extend bits 7:0. -/
def execSext8 (o : FmtN) (s : State) : Host.Outcome State Fault Refusal := runPass decodeOp (opSext8 o) s

/-- SEXT16 (R152): Sign-extend bits 15:0. -/
def execSext16 (o : FmtN) (s : State) : Host.Outcome State Fault Refusal := runPass decodeOp (opSext16 o) s

/-- MOV64 (R152): Copy a 64-bit operand to a register pair. -/
def execMov64 (o : FmtN) (s : State) : Host.Outcome State Fault Refusal := runPass decodeOp (opMov64 o) s

/-- MOVX (R153): Read the indexed window through an index register, optional post-increment. -/
def execMovx (o : FmtIdx) (s : State) : Host.Outcome State Fault Refusal := runPass decodeOp (opMovx o) s

/-- MOVXW (R153): Write the indexed window through an index register, optional post-increment. -/
def execMovxw (o : FmtIdxA) (s : State) : Host.Outcome State Fault Refusal := runPass decodeOp (opMovxw o) s

/-- ISET (R154): Write an index register. -/
def execIset (o : FmtIdxA) (s : State) : Host.Outcome State Fault Refusal := runPass decodeOp (opIset o) s

/-- IGET (R154): Read an index register into a V register. -/
def execIget (o : FmtIdx) (s : State) : Host.Outcome State Fault Refusal := runPass decodeOp (opIget o) s

/-- SCAN (R157): Inclusive or exclusive scan over the pass chain, optionally segmented. -/
def execScan (o : FmtScan) (s : State) : Host.Outcome State Fault Refusal := runPass decodeOp (opScan o) s

/-- DELAY (R158): Each chain thread receives the previous thread's value, optionally cyclic. -/
def execDelay (o : FmtN) (s : State) : Host.Outcome State Fault Refusal := runPass decodeOp (opDelay o) s

/-- PERM (R158): Each thread reads any lane of L0 or L1. -/
def execPerm (o : FmtN) (s : State) : Host.Outcome State Fault Refusal := runPass decodeOp (opPerm o) s

/-- BFIRST (R159): Broadcast the first chain thread's value. -/
def execBfirst (o : FmtN) (s : State) : Host.Outcome State Fault Refusal := runPass decodeOp (opBfirst o) s

/-- BLAST (R159): Broadcast the last chain thread's value. -/
def execBlast (o : FmtN) (s : State) : Host.Outcome State Fault Refusal := runPass decodeOp (opBlast o) s

/-- RANK (R159): Count earlier chain threads with a nonzero source. -/
def execRank (o : FmtN) (s : State) : Host.Outcome State Fault Refusal := runPass decodeOp (opRank o) s

/-- MATCH (R159): Mask of chain slots holding an equal value. -/
def execMatchLanes (o : FmtN) (s : State) : Host.Outcome State Fault Refusal := runPass decodeOp (opMatchLanes o) s

/-- REDUCE (R160): Combine the chain's values in slot order into a scalar. -/
def execReduce (o : FmtRed) (s : State) : Host.Outcome State Fault Refusal := runPass decodeOp (opReduce o) s

/-- VOTE (R160): Scalar mask or count of chain threads with a nonzero source. -/
def execVote (o : FmtVote) (s : State) : Host.Outcome State Fault Refusal := runPass decodeOp (opVote o) s

/-- PAND (R163): Predicate AND with optional negations. -/
def execPand (o : FmtPL) (s : State) : Host.Outcome State Fault Refusal := runPass decodeOp (opPand o) s

/-- POR (R163): Predicate OR with optional negations. -/
def execPor (o : FmtPL) (s : State) : Host.Outcome State Fault Refusal := runPass decodeOp (opPor o) s

/-- PXOR (R163): Predicate XOR with optional negations. -/
def execPxor (o : FmtPL) (s : State) : Host.Outcome State Fault Refusal := runPass decodeOp (opPxor o) s

/-- PTEST (R163): Predicate := source nonzero. -/
def execPtest (o : FmtPA) (s : State) : Host.Outcome State Fault Refusal := runPass decodeOp (opPtest o) s

/-- PBIT (R163): Predicate := the thread's own bit of the source. -/
def execPbit (o : FmtPA) (s : State) : Host.Outcome State Fault Refusal := runPass decodeOp (opPbit o) s

/-- PGET (R163): Write 1 or 0 from a predicate to a V register. -/
def execPget (o : FmtPG) (s : State) : Host.Outcome State Fault Refusal := runPass decodeOp (opPget o) s

/-- SADD (R164): Uniform scalar add. -/
def execSadd (o : FmtUA) (s : State) : Host.Outcome State Fault Refusal := runPass decodeOp (opSadd o) s

/-- SSUB (R164): Uniform scalar subtract. -/
def execSsub (o : FmtUA) (s : State) : Host.Outcome State Fault Refusal := runPass decodeOp (opSsub o) s

/-- SMUL (R164): Uniform scalar multiply, low 32 bits. -/
def execSmul (o : FmtUA) (s : State) : Host.Outcome State Fault Refusal := runPass decodeOp (opSmul o) s

/-- SAND (R164): Uniform scalar AND. -/
def execSand (o : FmtUA) (s : State) : Host.Outcome State Fault Refusal := runPass decodeOp (opSand o) s

/-- SOR (R164): Uniform scalar OR. -/
def execSor (o : FmtUA) (s : State) : Host.Outcome State Fault Refusal := runPass decodeOp (opSor o) s

/-- SXOR (R164): Uniform scalar XOR. -/
def execSxor (o : FmtUA) (s : State) : Host.Outcome State Fault Refusal := runPass decodeOp (opSxor o) s

/-- SSHL (R164): Uniform scalar shift left. -/
def execSshl (o : FmtUA) (s : State) : Host.Outcome State Fault Refusal := runPass decodeOp (opSshl o) s

/-- SSHR (R164): Uniform scalar logical shift right. -/
def execSshr (o : FmtUA) (s : State) : Host.Outcome State Fault Refusal := runPass decodeOp (opSshr o) s

/-- SMOV (R166): Uniform scalar copy. -/
def execSmov (o : FmtU) (s : State) : Host.Outcome State Fault Refusal := runPass decodeOp (opSmov o) s

/-- SFROMV (R166): Scalar := V lane of the lowest active thread. -/
def execSfromv (o : FmtUV) (s : State) : Host.Outcome State Fault Refusal := runPass decodeOp (opSfromv o) s

/-- SLD (R167): Uniform word load into a scalar register. -/
def execSld (o : FmtU) (s : State) : Host.Outcome State Fault Refusal := runPass decodeOp (opSld o) s

/-- SLDD (R167): Uniform dword load into a scalar pair. -/
def execSldd (o : FmtU) (s : State) : Host.Outcome State Fault Refusal := runPass decodeOp (opSldd o) s

/-- SREAD (R166): Scalar := lane j of a V register, j from the next scalar. -/
def execSread (o : FmtUV) (s : State) : Host.Outcome State Fault Refusal := runPass decodeOp (opSread o) s

/-- SWRITE (R166): Lane j of a V register := scalar. -/
def execSwrite (o : FmtVU) (s : State) : Host.Outcome State Fault Refusal := runPass decodeOp (opSwrite o) s

/-- SPOPC (R166): Scalar population count. -/
def execSpopc (o : FmtU) (s : State) : Host.Outcome State Fault Refusal := runPass decodeOp (opSpopc o) s

/-- SCTZ (R166): Scalar count trailing zeros. -/
def execSctz (o : FmtU) (s : State) : Host.Outcome State Fault Refusal := runPass decodeOp (opSctz o) s

/-- SCLZ (R166): Scalar count leading zeros. -/
def execSclz (o : FmtU) (s : State) : Host.Outcome State Fault Refusal := runPass decodeOp (opSclz o) s

/-- BRA_ALWAYS (R169): Uniform unconditional branch; ends the turn. -/
def execBraAlways (o : FmtJ) (s : State) : Host.Outcome State Fault Refusal := runPass decodeOp (opBraAlways o) s

/-- BRA_THR (R169): Per-thread branch of threads whose predicate is true. -/
def execBraThr (o : FmtB) (s : State) : Host.Outcome State Fault Refusal := runPass decodeOp (opBraThr o) s

/-- BRA_THR_NOT (R169): Per-thread branch of threads whose predicate is false. -/
def execBraThrNot (o : FmtB) (s : State) : Host.Outcome State Fault Refusal := runPass decodeOp (opBraThrNot o) s

/-- BRA_ANY (R169): Uniform branch if the predicate is true in any present thread. -/
def execBraAny (o : FmtB) (s : State) : Host.Outcome State Fault Refusal := runPass decodeOp (opBraAny o) s

/-- BRA_ALL (R169): Uniform branch if the predicate is true in every present thread. -/
def execBraAll (o : FmtB) (s : State) : Host.Outcome State Fault Refusal := runPass decodeOp (opBraAll o) s

/-- BRA_NONE (R169): Uniform branch if the predicate is false in every present thread. -/
def execBraNone (o : FmtB) (s : State) : Host.Outcome State Fault Refusal := runPass decodeOp (opBraNone o) s

/-- BRT (R170): Per-thread branch on a time-register state test. -/
def execBrt (o : FmtBT) (s : State) : Host.Outcome State Fault Refusal := runPass decodeOp (opBrt o) s

/-- LOOP (R53): Push a hardware loop level counted by a scalar. -/
def execLoop (o : FmtLoop) (s : State) : Host.Outcome State Fault Refusal := runPass decodeOp (opLoop o) s

/-- CALL (R172): Uniform call writing S62 and branching. -/
def execCall (o : FmtJ) (s : State) : Host.Outcome State Fault Refusal := runPass decodeOp (opCall o) s

/-- NOP (R174): No operation. -/
def execNop (o : FmtNG) (s : State) : Host.Outcome State Fault Refusal := runPass decodeOp (opNop o) s

/-- JMP (R174): Per-thread jump to a code offset. -/
def execJmp (o : FmtNA) (s : State) : Host.Outcome State Fault Refusal := runPass decodeOp (opJmp o) s

/-- CALLR (R174): Uniform call to a code offset in a scalar. -/
def execCallr (o : FmtUO) (s : State) : Host.Outcome State Fault Refusal := runPass decodeOp (opCallr o) s

/-- RET (R174): Uniform return to a code offset in a scalar. -/
def execRet (o : FmtUO) (s : State) : Host.Outcome State Fault Refusal := runPass decodeOp (opRet o) s

/-- BRKLOOP (R174): Per-thread exit past the innermost loop level. -/
def execBrkloop (o : FmtNG) (s : State) : Host.Outcome State Fault Refusal := runPass decodeOp (opBrkloop o) s

/-- ENDTURN (R174): Stop point that ends the turn. -/
def execEndturn (o : FmtNK) (s : State) : Host.Outcome State Fault Refusal := runPass decodeOp (opEndturn o) s

/-- YIELD (R174): End the turn and give up the next turn opportunity, allowing deschedule. -/
def execYield (o : FmtNK) (s : State) : Host.Outcome State Fault Refusal := runPass decodeOp (opYield o) s

/-- FADD (R191): binary32 add. -/
def execFadd (o : FmtA) (s : State) : Host.Outcome State Fault Refusal := runPass decodeOp (opFadd o) s

/-- FSUB (R191): binary32 subtract. -/
def execFsub (o : FmtA) (s : State) : Host.Outcome State Fault Refusal := runPass decodeOp (opFsub o) s

/-- FMUL (R191): binary32 multiply. -/
def execFmul (o : FmtA) (s : State) : Host.Outcome State Fault Refusal := runPass decodeOp (opFmul o) s

/-- FFMA (R191): binary32 fused multiply-add into the destination. -/
def execFfma (o : FmtA) (s : State) : Host.Outcome State Fault Refusal := runPass decodeOp (opFfma o) s

/-- FMIN (R192): binary32 minimum. -/
def execFmin (o : FmtA) (s : State) : Host.Outcome State Fault Refusal := runPass decodeOp (opFmin o) s

/-- FMAX (R192): binary32 maximum. -/
def execFmax (o : FmtA) (s : State) : Host.Outcome State Fault Refusal := runPass decodeOp (opFmax o) s

/-- FFMAL (R191): binary32 fused a x b + L0. -/
def execFfmal (o : FmtA) (s : State) : Host.Outcome State Fault Refusal := runPass decodeOp (opFfmal o) s

/-- FNMA (R191): binary32 fused destination minus a x b. -/
def execFnma (o : FmtA) (s : State) : Host.Outcome State Fault Refusal := runPass decodeOp (opFnma o) s

/-- PADD2 (R191): Packed BF16 add. -/
def execPadd2 (o : FmtA) (s : State) : Host.Outcome State Fault Refusal := runPass decodeOp (opPadd2 o) s

/-- PMUL2 (R191): Packed BF16 multiply. -/
def execPmul2 (o : FmtA) (s : State) : Host.Outcome State Fault Refusal := runPass decodeOp (opPmul2 o) s

/-- PFMA2 (R191): Packed BF16 fused multiply-add. -/
def execPfma2 (o : FmtA) (s : State) : Host.Outcome State Fault Refusal := runPass decodeOp (opPfma2 o) s

/-- PMAX2 (R192): Packed BF16 maximum. -/
def execPmax2 (o : FmtA) (s : State) : Host.Outcome State Fault Refusal := runPass decodeOp (opPmax2 o) s

/-- DADD (R191): binary64 add. -/
def execDadd (o : FmtA) (s : State) : Host.Outcome State Fault Refusal := runPass decodeOp (opDadd o) s

/-- DSUB (R191): binary64 subtract. -/
def execDsub (o : FmtA) (s : State) : Host.Outcome State Fault Refusal := runPass decodeOp (opDsub o) s

/-- DMUL (R191): binary64 multiply. -/
def execDmul (o : FmtA) (s : State) : Host.Outcome State Fault Refusal := runPass decodeOp (opDmul o) s

/-- DFMA (R191): binary64 fused multiply-add. -/
def execDfma (o : FmtA) (s : State) : Host.Outcome State Fault Refusal := runPass decodeOp (opDfma o) s

/-- DMIN (R192): binary64 minimum. -/
def execDmin (o : FmtA) (s : State) : Host.Outcome State Fault Refusal := runPass decodeOp (opDmin o) s

/-- DMAX (R192): binary64 maximum. -/
def execDmax (o : FmtA) (s : State) : Host.Outcome State Fault Refusal := runPass decodeOp (opDmax o) s

/-- FNEG (R195): Invert the binary32 sign bit. -/
def execFneg (o : FmtN) (s : State) : Host.Outcome State Fault Refusal := runPass decodeOp (opFneg o) s

/-- FABS (R195): Clear the binary32 sign bit. -/
def execFabs (o : FmtN) (s : State) : Host.Outcome State Fault Refusal := runPass decodeOp (opFabs o) s

/-- FSQRT (R195): Correctly rounded binary32 square root. -/
def execFsqrt (o : FmtN) (s : State) : Host.Outcome State Fault Refusal := runPass decodeOp (opFsqrt o) s

/-- FRCP (R195): Correctly rounded binary32 reciprocal. -/
def execFrcp (o : FmtN) (s : State) : Host.Outcome State Fault Refusal := runPass decodeOp (opFrcp o) s

/-- FRSQ (R196): Approximate reciprocal square root. -/
def execFrsq (o : FmtN) (s : State) : Host.Outcome State Fault Refusal := runPass decodeOp (opFrsq o) s

/-- FEXP2 (R196): Approximate 2^a. -/
def execFexp2 (o : FmtN) (s : State) : Host.Outcome State Fault Refusal := runPass decodeOp (opFexp2 o) s

/-- FLOG2 (R196): Approximate log2 a. -/
def execFlog2 (o : FmtN) (s : State) : Host.Outcome State Fault Refusal := runPass decodeOp (opFlog2 o) s

/-- FSINPI (R196): Approximate sin(pi a). -/
def execFsinpi (o : FmtN) (s : State) : Host.Outcome State Fault Refusal := runPass decodeOp (opFsinpi o) s

/-- FCOSPI (R196): Approximate cos(pi a). -/
def execFcospi (o : FmtN) (s : State) : Host.Outcome State Fault Refusal := runPass decodeOp (opFcospi o) s

/-- FRINT (R195): Round binary32 to an integral value. -/
def execFrint (o : FmtN) (s : State) : Host.Outcome State Fault Refusal := runPass decodeOp (opFrint o) s

/-- FCLASS (R195): One-hot class mask of a binary32 value. -/
def execFclass (o : FmtN) (s : State) : Host.Outcome State Fault Refusal := runPass decodeOp (opFclass o) s

/-- DNEG (R195): Invert the binary64 sign bit. -/
def execDneg (o : FmtN) (s : State) : Host.Outcome State Fault Refusal := runPass decodeOp (opDneg o) s

/-- DABS (R195): Clear the binary64 sign bit. -/
def execDabs (o : FmtN) (s : State) : Host.Outcome State Fault Refusal := runPass decodeOp (opDabs o) s

/-- DSQRT (R195): Correctly rounded binary64 square root. -/
def execDsqrt (o : FmtN) (s : State) : Host.Outcome State Fault Refusal := runPass decodeOp (opDsqrt o) s

/-- DRCP (R195): Correctly rounded binary64 reciprocal. -/
def execDrcp (o : FmtN) (s : State) : Host.Outcome State Fault Refusal := runPass decodeOp (opDrcp o) s

/-- DRINT (R195): Round binary64 to an integral value. -/
def execDrint (o : FmtN) (s : State) : Host.Outcome State Fault Refusal := runPass decodeOp (opDrint o) s

/-- DCLASS (R195): One-hot class mask of a binary64 value. -/
def execDclass (o : FmtN) (s : State) : Host.Outcome State Fault Refusal := runPass decodeOp (opDclass o) s

/-- PNEG2 (R195): Invert both BF16 sign bits. -/
def execPneg2 (o : FmtN) (s : State) : Host.Outcome State Fault Refusal := runPass decodeOp (opPneg2 o) s

/-- PABS2 (R195): Clear both BF16 sign bits. -/
def execPabs2 (o : FmtN) (s : State) : Host.Outcome State Fault Refusal := runPass decodeOp (opPabs2 o) s

/-- CVT_F32_I32 (R198): Convert signed integer to binary32. -/
def execCvtF32I32 (o : FmtCvt) (s : State) : Host.Outcome State Fault Refusal := runPass decodeOp (opCvtF32I32 o) s

/-- CVT_F32_N32 (R198): Convert unsigned integer to binary32. -/
def execCvtF32N32 (o : FmtCvt) (s : State) : Host.Outcome State Fault Refusal := runPass decodeOp (opCvtF32N32 o) s

/-- CVT_I32_F32 (R198): Convert binary32 to signed integer. -/
def execCvtI32F32 (o : FmtCvt) (s : State) : Host.Outcome State Fault Refusal := runPass decodeOp (opCvtI32F32 o) s

/-- CVT_N32_F32 (R198): Convert binary32 to unsigned integer. -/
def execCvtN32F32 (o : FmtCvt) (s : State) : Host.Outcome State Fault Refusal := runPass decodeOp (opCvtN32F32 o) s

/-- CVT_F64_F32 (R198): Widen binary32 to binary64 exactly. -/
def execCvtF64F32 (o : FmtCvt) (s : State) : Host.Outcome State Fault Refusal := runPass decodeOp (opCvtF64F32 o) s

/-- CVT_F32_F64 (R198): Narrow binary64 to binary32, optional saturation. -/
def execCvtF32F64 (o : FmtCvt) (s : State) : Host.Outcome State Fault Refusal := runPass decodeOp (opCvtF32F64 o) s

/-- CVT_F64_I32 (R198): Convert signed integer to binary64 exactly. -/
def execCvtF64I32 (o : FmtCvt) (s : State) : Host.Outcome State Fault Refusal := runPass decodeOp (opCvtF64I32 o) s

/-- CVT_I32_F64 (R198): Convert binary64 to signed integer. -/
def execCvtI32F64 (o : FmtCvt) (s : State) : Host.Outcome State Fault Refusal := runPass decodeOp (opCvtI32F64 o) s

/-- CVT_F32_F16 (R198): Widen one binary16 element to binary32. -/
def execCvtF32F16 (o : FmtCvt) (s : State) : Host.Outcome State Fault Refusal := runPass decodeOp (opCvtF32F16 o) s

/-- CVT_F16X2_F32X2 (R198): Narrow two binary32 to two binary16. -/
def execCvtF16x2F32x2 (o : FmtCvt) (s : State) : Host.Outcome State Fault Refusal := runPass decodeOp (opCvtF16x2F32x2 o) s

/-- CVT_BF16X2_F32X2 (R198): Narrow two binary32 to two BF16. -/
def execCvtBf16x2F32x2 (o : FmtCvt) (s : State) : Host.Outcome State Fault Refusal := runPass decodeOp (opCvtBf16x2F32x2 o) s

/-- CVT_BF16X4_E8X4 (R198): Widen four E4M3 or E5M2 elements to BF16. -/
def execCvtBf16x4E8x4 (o : FmtCvt) (s : State) : Host.Outcome State Fault Refusal := runPass decodeOp (opCvtBf16x4E8x4 o) s

/-- CVT_E4M3X4_BF16X4 (R198): Narrow four BF16 to E4M3. -/
def execCvtE4m3x4Bf16x4 (o : FmtCvt) (s : State) : Host.Outcome State Fault Refusal := runPass decodeOp (opCvtE4m3x4Bf16x4 o) s

/-- CVT_E5M2X4_BF16X4 (R198): Narrow four BF16 to E5M2. -/
def execCvtE5m2x4Bf16x4 (o : FmtCvt) (s : State) : Host.Outcome State Fault Refusal := runPass decodeOp (opCvtE5m2x4Bf16x4 o) s

/-- CVT_BF16X2_B4 (R199): Expand two 4-bit block elements to BF16. -/
def execCvtBf16x2B4 (o : FmtCvt) (s : State) : Host.Outcome State Fault Refusal := runPass decodeOp (opCvtBf16x2B4 o) s

/-- CVT_B4_F32 (R200): Quantise binary32 into a 4-bit code using the destination's scale byte. -/
def execCvtB4F32 (o : FmtCvt) (s : State) : Host.Outcome State Fault Refusal := runPass decodeOp (opCvtB4F32 o) s

/-- LDW (R240): Word load with a promise in a time register. -/
def execLdw (o : FmtLd) (s : State) : Host.Outcome State Fault Refusal := runPass decodeOp (opLdw o) s

/-- LDD (R240): Dword load into a pair. -/
def execLdd (o : FmtLd) (s : State) : Host.Outcome State Fault Refusal := runPass decodeOp (opLdd o) s

/-- LDQ (R240): Quad load into four registers. -/
def execLdq (o : FmtLd) (s : State) : Host.Outcome State Fault Refusal := runPass decodeOp (opLdq o) s

/-- LDSUB (R242): Byte or half load, sign- or zero-extended. -/
def execLdsub (o : FmtLdSub) (s : State) : Host.Outcome State Fault Refusal := runPass decodeOp (opLdsub o) s

/-- STW (R241): Word store. -/
def execStw (o : FmtSt) (s : State) : Host.Outcome State Fault Refusal := runPass decodeOp (opStw o) s

/-- STD (R241): Dword store. -/
def execStd (o : FmtSt) (s : State) : Host.Outcome State Fault Refusal := runPass decodeOp (opStd o) s

/-- STQ (R241): Quad store. -/
def execStq (o : FmtSt) (s : State) : Host.Outcome State Fault Refusal := runPass decodeOp (opStq o) s

/-- STSUB (R242): Byte or half store. -/
def execStsub (o : FmtStSub) (s : State) : Host.Outcome State Fault Refusal := runPass decodeOp (opStsub o) s

/-- ATOM32_ADD_I32 (R306): 32-bit integer atomic add at the home. -/
def execAtom32AddI32 (o : FmtT) (s : State) : Host.Outcome State Fault Refusal := runPass decodeOp (opAtom32AddI32 o) s

/-- ATOM32_ADD_F32 (R306): binary32 atomic add, RNE. -/
def execAtom32AddF32 (o : FmtT) (s : State) : Host.Outcome State Fault Refusal := runPass decodeOp (opAtom32AddF32 o) s

/-- ATOM32_MIN_I32 (R306): Signed 32-bit atomic minimum. -/
def execAtom32MinI32 (o : FmtT) (s : State) : Host.Outcome State Fault Refusal := runPass decodeOp (opAtom32MinI32 o) s

/-- ATOM32_MIN_N32 (R306): Unsigned 32-bit atomic minimum. -/
def execAtom32MinN32 (o : FmtT) (s : State) : Host.Outcome State Fault Refusal := runPass decodeOp (opAtom32MinN32 o) s

/-- ATOM32_MIN_F32 (R306): binary32 atomic minimum. -/
def execAtom32MinF32 (o : FmtT) (s : State) : Host.Outcome State Fault Refusal := runPass decodeOp (opAtom32MinF32 o) s

/-- ATOM32_MAX_I32 (R306): Signed 32-bit atomic maximum. -/
def execAtom32MaxI32 (o : FmtT) (s : State) : Host.Outcome State Fault Refusal := runPass decodeOp (opAtom32MaxI32 o) s

/-- ATOM32_MAX_N32 (R306): Unsigned 32-bit atomic maximum. -/
def execAtom32MaxN32 (o : FmtT) (s : State) : Host.Outcome State Fault Refusal := runPass decodeOp (opAtom32MaxN32 o) s

/-- ATOM32_MAX_F32 (R306): binary32 atomic maximum. -/
def execAtom32MaxF32 (o : FmtT) (s : State) : Host.Outcome State Fault Refusal := runPass decodeOp (opAtom32MaxF32 o) s

/-- ATOM32_AND_B32 (R306): 32-bit atomic AND. -/
def execAtom32AndB32 (o : FmtT) (s : State) : Host.Outcome State Fault Refusal := runPass decodeOp (opAtom32AndB32 o) s

/-- ATOM32_OR_B32 (R306): 32-bit atomic OR. -/
def execAtom32OrB32 (o : FmtT) (s : State) : Host.Outcome State Fault Refusal := runPass decodeOp (opAtom32OrB32 o) s

/-- ATOM32_XOR_B32 (R306): 32-bit atomic XOR. -/
def execAtom32XorB32 (o : FmtT) (s : State) : Host.Outcome State Fault Refusal := runPass decodeOp (opAtom32XorB32 o) s

/-- ATOM32_EXCH_B32 (R306): 32-bit atomic exchange. -/
def execAtom32ExchB32 (o : FmtT) (s : State) : Host.Outcome State Fault Refusal := runPass decodeOp (opAtom32ExchB32 o) s

/-- ATOM32_CAS_B32 (R306): 32-bit atomic compare-and-swap. -/
def execAtom32CasB32 (o : FmtT) (s : State) : Host.Outcome State Fault Refusal := runPass decodeOp (opAtom32CasB32 o) s

/-- ATOM64_ADD_I64 (R306): 64-bit integer atomic add. -/
def execAtom64AddI64 (o : FmtT) (s : State) : Host.Outcome State Fault Refusal := runPass decodeOp (opAtom64AddI64 o) s

/-- ATOM64_ADD_F64 (R306): binary64 atomic add. -/
def execAtom64AddF64 (o : FmtT) (s : State) : Host.Outcome State Fault Refusal := runPass decodeOp (opAtom64AddF64 o) s

/-- ATOM64_MIN_I64 (R306): Signed 64-bit atomic minimum. -/
def execAtom64MinI64 (o : FmtT) (s : State) : Host.Outcome State Fault Refusal := runPass decodeOp (opAtom64MinI64 o) s

/-- ATOM64_MIN_N64 (R306): Unsigned 64-bit atomic minimum. -/
def execAtom64MinN64 (o : FmtT) (s : State) : Host.Outcome State Fault Refusal := runPass decodeOp (opAtom64MinN64 o) s

/-- ATOM64_MIN_F64 (R306): binary64 atomic minimum. -/
def execAtom64MinF64 (o : FmtT) (s : State) : Host.Outcome State Fault Refusal := runPass decodeOp (opAtom64MinF64 o) s

/-- ATOM64_MAX_I64 (R306): Signed 64-bit atomic maximum. -/
def execAtom64MaxI64 (o : FmtT) (s : State) : Host.Outcome State Fault Refusal := runPass decodeOp (opAtom64MaxI64 o) s

/-- ATOM64_MAX_N64 (R306): Unsigned 64-bit atomic maximum. -/
def execAtom64MaxN64 (o : FmtT) (s : State) : Host.Outcome State Fault Refusal := runPass decodeOp (opAtom64MaxN64 o) s

/-- ATOM64_MAX_F64 (R306): binary64 atomic maximum. -/
def execAtom64MaxF64 (o : FmtT) (s : State) : Host.Outcome State Fault Refusal := runPass decodeOp (opAtom64MaxF64 o) s

/-- ATOM64_AND_B64 (R306): 64-bit atomic AND. -/
def execAtom64AndB64 (o : FmtT) (s : State) : Host.Outcome State Fault Refusal := runPass decodeOp (opAtom64AndB64 o) s

/-- ATOM64_OR_B64 (R306): 64-bit atomic OR. -/
def execAtom64OrB64 (o : FmtT) (s : State) : Host.Outcome State Fault Refusal := runPass decodeOp (opAtom64OrB64 o) s

/-- ATOM64_XOR_B64 (R306): 64-bit atomic XOR. -/
def execAtom64XorB64 (o : FmtT) (s : State) : Host.Outcome State Fault Refusal := runPass decodeOp (opAtom64XorB64 o) s

/-- ATOM64_EXCH_B64 (R306): 64-bit atomic exchange. -/
def execAtom64ExchB64 (o : FmtT) (s : State) : Host.Outcome State Fault Refusal := runPass decodeOp (opAtom64ExchB64 o) s

/-- ATOM64_CAS_B64 (R306): 64-bit atomic compare-and-swap. -/
def execAtom64CasB64 (o : FmtT) (s : State) : Host.Outcome State Fault Refusal := runPass decodeOp (opAtom64CasB64 o) s

/-- ATOMX_ADD_BF16 (R306): BF16 atomic add on a half. -/
def execAtomxAddBf16 (o : FmtT) (s : State) : Host.Outcome State Fault Refusal := runPass decodeOp (opAtomxAddBf16 o) s

/-- ATOMX_MIN_BF16 (R306): BF16 atomic minimum. -/
def execAtomxMinBf16 (o : FmtT) (s : State) : Host.Outcome State Fault Refusal := runPass decodeOp (opAtomxMinBf16 o) s

/-- ATOMX_MAX_BF16 (R306): BF16 atomic maximum. -/
def execAtomxMaxBf16 (o : FmtT) (s : State) : Host.Outcome State Fault Refusal := runPass decodeOp (opAtomxMaxBf16 o) s

/-- ATOMX_ADD_BF16X2 (R306): Packed two-BF16 atomic add. -/
def execAtomxAddBf16x2 (o : FmtT) (s : State) : Host.Outcome State Fault Refusal := runPass decodeOp (opAtomxAddBf16x2 o) s

/-- ATOMX_MIN_BF16X2 (R306): Packed two-BF16 atomic minimum. -/
def execAtomxMinBf16x2 (o : FmtT) (s : State) : Host.Outcome State Fault Refusal := runPass decodeOp (opAtomxMinBf16x2 o) s

/-- ATOMX_MAX_BF16X2 (R306): Packed two-BF16 atomic maximum. -/
def execAtomxMaxBf16x2 (o : FmtT) (s : State) : Host.Outcome State Fault Refusal := runPass decodeOp (opAtomxMaxBf16x2 o) s

/-- ATOMX_ADD_F16X2 (R306): Packed two-binary16 atomic add. -/
def execAtomxAddF16x2 (o : FmtT) (s : State) : Host.Outcome State Fault Refusal := runPass decodeOp (opAtomxAddF16x2 o) s

/-- ATOMX_MIN_F16X2 (R306): Packed two-binary16 atomic minimum. -/
def execAtomxMinF16x2 (o : FmtT) (s : State) : Host.Outcome State Fault Refusal := runPass decodeOp (opAtomxMinF16x2 o) s

/-- ATOMX_MAX_F16X2 (R306): Packed two-binary16 atomic maximum. -/
def execAtomxMaxF16x2 (o : FmtT) (s : State) : Host.Outcome State Fault Refusal := runPass decodeOp (opAtomxMaxF16x2 o) s

/-- ATOMX_EXCH_B128 (R306): 128-bit atomic exchange. -/
def execAtomxExchB128 (o : FmtT) (s : State) : Host.Outcome State Fault Refusal := runPass decodeOp (opAtomxExchB128 o) s

/-- ATOMX_CAS_B128 (R306): 128-bit atomic compare-and-swap. -/
def execAtomxCasB128 (o : FmtT) (s : State) : Host.Outcome State Fault Refusal := runPass decodeOp (opAtomxCasB128 o) s

/-- PIN (R245): Pin a line in its home slice and return an outcome code. -/
def execPin (o : FmtN) (s : State) : Host.Outcome State Fault Refusal := runPass decodeOp (opPin o) s

/-- UNPIN (R245): Release the context's pin of a line. -/
def execUnpin (o : FmtNA) (s : State) : Host.Outcome State Fault Refusal := runPass decodeOp (opUnpin o) s

/-- CFLUSH (R246): Write a line's modified sectors from the slice to DRAM. -/
def execCflush (o : FmtNA) (s : State) : Host.Outcome State Fault Refusal := runPass decodeOp (opCflush o) s

/-- CINV (R246): Discard a line from the private cache and nearest-slice replica. -/
def execCinv (o : FmtNA) (s : State) : Host.Outcome State Fault Refusal := runPass decodeOp (opCinv o) s

/-- MCRD (R248): Multicast read of memory into the scratchpads of a core rectangle. -/
def execMcrd (o : FmtE) (s : State) : Host.Outcome State Fault Refusal := runPass decodeOp (opMcrd o) s

/-- MCST (R247): Store a word or dword to every copy of a replica region. -/
def execMcst (o : FmtNB) (s : State) : Host.Outcome State Fault Refusal := runPass decodeOp (opMcst o) s

/-- MSEND (R251): Send a 16- or 32-byte message to a scratchpad ring. -/
def execMsend (o : FmtNB) (s : State) : Host.Outcome State Fault Refusal := runPass decodeOp (opMsend o) s

/-- MWAIT (R252): Wait until a message ring in the own region is non-empty. -/
def execMwait (o : FmtNA) (s : State) : Host.Outcome State Fault Refusal := runPass decodeOp (opMwait o) s

/-- BAR_ARRIVE (R328): Release and arrive at a scoped hardware barrier. -/
def execBarArrive (o : FmtBarA) (s : State) : Host.Outcome State Fault Refusal := runPass decodeOp (opBarArrive o) s

/-- BAR_WAIT (R329): Hold the group until its barrier generation completes, then acquire. -/
def execBarWait (o : FmtBarW) (s : State) : Host.Outcome State Fault Refusal := runPass decodeOp (opBarWait o) s

/-- BOSET (R332): Set a byte-count barrier object. -/
def execBoset (o : FmtNB) (s : State) : Host.Outcome State Fault Refusal := runPass decodeOp (opBoset o) s

/-- BOADD (R332): Add to a byte-count barrier object, optionally with a release. -/
def execBoadd (o : FmtNB) (s : State) : Host.Outcome State Fault Refusal := runPass decodeOp (opBoadd o) s

/-- BOWAIT (R333): Wait until a barrier object's count reaches a target, then acquire. -/
def execBowait (o : FmtNB) (s : State) : Host.Outcome State Fault Refusal := runPass decodeOp (opBowait o) s

/-- FENCE (R326): Release, acquire or both at a scope. -/
def execFence (o : FmtFence) (s : State) : Host.Outcome State Fault Refusal := runPass decodeOp (opFence o) s

/-- QTAKE (R334): Group becomes IDLE awaiting a queue entry. -/
def execQtake (o : FmtUD) (s : State) : Host.Outcome State Fault Refusal := runPass decodeOp (opQtake o) s

/-- QPOST (R335): Release and post queue-entry images to a queue. -/
def execQpost (o : FmtU) (s : State) : Host.Outcome State Fault Refusal := runPass decodeOp (opQpost o) s

/-- TASKEND (R336): Set active threads DONE. -/
def execTaskend (o : FmtNG) (s : State) : Host.Outcome State Fault Refusal := runPass decodeOp (opTaskend o) s

/-- FINIT (R338): Release, then set a future's value and make it EMPTY. -/
def execFinit (o : FmtFin) (s : State) : Host.Outcome State Fault Refusal := runPass decodeOp (opFinit o) s

/-- FINIT_FULL (R338): FINIT in its FULL form, acting as FFILL. -/
def execFinitFull (o : FmtFin) (s : State) : Host.Outcome State Fault Refusal := runPass decodeOp (opFinitFull o) s

/-- FGET (R339): Read a future or park the entry and squash the task. -/
def execFget (o : FmtN) (s : State) : Host.Outcome State Fault Refusal := runPass decodeOp (opFget o) s

/-- FFILL (R338): Release, fill a future and release its parked entries. -/
def execFfill (o : FmtNB) (s : State) : Host.Outcome State Fault Refusal := runPass decodeOp (opFfill o) s

/-- CPY (R263): Issue a strided copy command to the quad's copy engine. -/
def execCpy (o : FmtE) (s : State) : Host.Outcome State Fault Refusal := runPass decodeOp (opCpy o) s

/-- CPYX (R264): Issue a layout-converting copy into the canonical deck layout. -/
def execCpyx (o : FmtE) (s : State) : Host.Outcome State Fault Refusal := runPass decodeOp (opCpyx o) s

/-- COLL (R267): Issue a collective command to the port die's collective engine. -/
def execColl (o : FmtE) (s : State) : Host.Outcome State Fault Refusal := runPass decodeOp (opColl o) s

/-- ESTAT (R270): Read an engine status count into a scalar. -/
def execEstat (o : FmtEst) (s : State) : Host.Outcome State Fault Refusal := runPass decodeOp (opEstat o) s

/-- MMA (R355): Queue a full matrix multiply-accumulate on a tile. -/
def execMma (o : FmtMma) (s : State) : Host.Outcome State Fault Refusal := runPass decodeOp (opMma o) s

/-- MMA_RA (R355): Slab MMA with A taken from a register panel. -/
def execMmaRa (o : FmtMmaR) (s : State) : Host.Outcome State Fault Refusal := runPass decodeOp (opMmaRa o) s

/-- MMA_RB (R355): Slab MMA with B taken from a register panel. -/
def execMmaRb (o : FmtMmaR) (s : State) : Host.Outcome State Fault Refusal := runPass decodeOp (opMmaRb o) s

/-- DZERO (R357): Claim a tile as F32 or F64 and zero it. -/
def execDzero (o : FmtZ) (s : State) : Host.Outcome State Fault Refusal := runPass decodeOp (opDzero o) s

/-- DZERO_FREE (R357): Free a tile after its earlier operations complete. -/
def execDzeroFree (o : FmtZ) (s : State) : Host.Outcome State Fault Refusal := runPass decodeOp (opDzeroFree o) s

/-- DRDROW (R358): Read one tile row into 32 lanes of registers. -/
def execDrdrow (o : FmtRow) (s : State) : Host.Outcome State Fault Refusal := runPass decodeOp (opDrdrow o) s

/-- DRDCOL (R358): Read one tile column into 32 lanes of registers. -/
def execDrdcol (o : FmtRow) (s : State) : Host.Outcome State Fault Refusal := runPass decodeOp (opDrdcol o) s

/-- DWRROW (R358): Write one tile row from 32 lanes of registers. -/
def execDwrrow (o : FmtRow) (s : State) : Host.Outcome State Fault Refusal := runPass decodeOp (opDwrrow o) s

/-- DRESTART (R359): Register or clear the group's deck restart address. -/
def execDrestart (o : FmtUO) (s : State) : Host.Outcome State Fault Refusal := runPass decodeOp (opDrestart o) s

/-- TWAIT (R254): Wait until a time register is ARRIVED or WITHDRAWN. -/
def execTwait (o : FmtTR) (s : State) : Host.Outcome State Fault Refusal := runPass decodeOp (opTwait o) s

/-- TWAITANY (R254): Wait until any masked time register is ARRIVED or WITHDRAWN. -/
def execTwaitany (o : FmtNA) (s : State) : Host.Outcome State Fault Refusal := runPass decodeOp (opTwaitany o) s

/-- TMIN (R255): Index of the masked time register with the earliest promise. -/
def execTmin (o : FmtN) (s : State) : Host.Outcome State Fault Refusal := runPass decodeOp (opTmin o) s

/-- TMOV (R256): Copy a time register's state, value and sticky bit. -/
def execTmov (o : FmtTM) (s : State) : Host.Outcome State Fault Refusal := runPass decodeOp (opTmov o) s

/-- TSTAT (R257): Read a time register's state bits. -/
def execTstat (o : FmtTD) (s : State) : Host.Outcome State Fault Refusal := runPass decodeOp (opTstat o) s

/-- TSET (R256): Set a time register ARRIVED with a value and clear sticky. -/
def execTset (o : FmtTS) (s : State) : Host.Outcome State Fault Refusal := runPass decodeOp (opTset o) s

/-- TSET_CLR (R256): Clear a time register's sticky breach bit alone. -/
def execTsetClr (o : FmtTS) (s : State) : Host.Outcome State Fault Refusal := runPass decodeOp (opTsetClr o) s

/-- TNOW (R257): Read the die reference counter. -/
def execTnow (o : FmtND) (s : State) : Host.Outcome State Fault Refusal := runPass decodeOp (opTnow o) s

/-- TDIFF (R257): Promise minus now for a time register. -/
def execTdiff (o : FmtTD) (s : State) : Host.Outcome State Fault Refusal := runPass decodeOp (opTdiff o) s

/-- YIELDT (R254): As TWAIT, yielding the group when no thread remains RUN. -/
def execYieldt (o : FmtTR) (s : State) : Host.Outcome State Fault Refusal := runPass decodeOp (opYieldt o) s

/-- TRAP (R401): Raise a TRAP of kind 3 with a code. -/
def execTrap (o : FmtK) (s : State) : Host.Outcome State Fault Refusal := runPass decodeOp (opTrap o) s

/-- BKPT (R401): Raise BREAKPOINT, or halt under a debugger. -/
def execBkpt (o : FmtK) (s : State) : Host.Outcome State Fault Refusal := runPass decodeOp (opBkpt o) s

/-- ERET (R402): Leave the handler and re-issue or resume the interrupted pass. -/
def execEret (o : FmtKA) (s : State) : Host.Outcome State Fault Refusal := runPass decodeOp (opEret o) s

/-- ERET_FAIL (R402): Leave the handler by failing the task. -/
def execEretFail (o : FmtKA) (s : State) : Host.Outcome State Fault Refusal := runPass decodeOp (opEretFail o) s

/-- SRD (R403): Read a per-group system value into a scalar. -/
def execSrd (o : FmtSrd) (s : State) : Host.Outcome State Fault Refusal := runPass decodeOp (opSrd o) s

/-- SRD_V (R403): Read a per-thread system value into a V register. -/
def execSrdV (o : FmtSrdV) (s : State) : Host.Outcome State Fault Refusal := runPass decodeOp (opSrdV o) s

/-- SWR (R403): Write MODE or FLAGS from a scalar. -/
def execSwr (o : FmtSwr) (s : State) : Host.Outcome State Fault Refusal := runPass decodeOp (opSwr o) s

/-- SWR_V (R403): Write a thread's EPC in the handler. -/
def execSwrV (o : FmtSwrV) (s : State) : Host.Outcome State Fault Refusal := runPass decodeOp (opSwrV o) s

/-- IDEMB (R383): Open an idempotent region and take its snapshot. -/
def execIdemb (o : FmtNK) (s : State) : Host.Outcome State Fault Refusal := runPass decodeOp (opIdemb o) s

/-- IDEME (R383): Close the idempotent region. -/
def execIdeme (o : FmtNK) (s : State) : Host.Outcome State Fault Refusal := runPass decodeOp (opIdeme o) s

/-- CBIND (R405): Bind an operand-cache entry to a direct register. -/
def execCbind (o : FmtCb) (s : State) : Host.Outcome State Fault Refusal := runPass decodeOp (opCbind o) s

/-- CUNBIND (R405): Remove an operand-cache binding. -/
def execCunbind (o : FmtCu) (s : State) : Host.Outcome State Fault Refusal := runPass decodeOp (opCunbind o) s

end Sys2Proof.Machine
end

