-- ==== Sys2Proof/Machine/Dispatch.lean ====
section
/-! DEFINITION. The one dispatch: one arm per constructor of `Instr`. -/

namespace Sys2Proof.Machine

def exec (i : Instr) (s : State) : Host.Outcome State Fault Refusal :=
  match i with
  | .add16 o => Sys2Proof.Machine.execAdd16 o s
  | .sub16 o => Sys2Proof.Machine.execSub16 o s
  | .and16 o => Sys2Proof.Machine.execAnd16 o s
  | .or16 o => Sys2Proof.Machine.execOr16 o s
  | .xor16 o => Sys2Proof.Machine.execXor16 o s
  | .shl16 o => Sys2Proof.Machine.execShl16 o s
  | .shr16 o => Sys2Proof.Machine.execShr16 o s
  | .min16 o => Sys2Proof.Machine.execMin16 o s
  | .max16 o => Sys2Proof.Machine.execMax16 o s
  | .mov16 o => Sys2Proof.Machine.execMov16 o s
  | .fadd16 o => Sys2Proof.Machine.execFadd16 o s
  | .fmul16 o => Sys2Proof.Machine.execFmul16 o s
  | .fmac16 o => Sys2Proof.Machine.execFmac16 o s
  | .padd2s16 o => Sys2Proof.Machine.execPadd2s16 o s
  | .pfma2s16 o => Sys2Proof.Machine.execPfma2s16 o s
  | .fmax16 o => Sys2Proof.Machine.execFmax16 o s
  | .add o => Sys2Proof.Machine.execAdd o s
  | .sub o => Sys2Proof.Machine.execSub o s
  | .mullo o => Sys2Proof.Machine.execMullo o s
  | .mulhi o => Sys2Proof.Machine.execMulhi o s
  | .mulhiu o => Sys2Proof.Machine.execMulhiu o s
  | .mad o => Sys2Proof.Machine.execMad o s
  | .absdiff o => Sys2Proof.Machine.execAbsdiff o s
  | .avg o => Sys2Proof.Machine.execAvg o s
  | .min o => Sys2Proof.Machine.execMin o s
  | .max o => Sys2Proof.Machine.execMax o s
  | .minu o => Sys2Proof.Machine.execMinu o s
  | .maxu o => Sys2Proof.Machine.execMaxu o s
  | .and o => Sys2Proof.Machine.execAnd o s
  | .or o => Sys2Proof.Machine.execOr o s
  | .xor o => Sys2Proof.Machine.execXor o s
  | .andn o => Sys2Proof.Machine.execAndn o s
  | .shl o => Sys2Proof.Machine.execShl o s
  | .shr o => Sys2Proof.Machine.execShr o s
  | .sar o => Sys2Proof.Machine.execSar o s
  | .rotl o => Sys2Proof.Machine.execRotl o s
  | .bfx o => Sys2Proof.Machine.execBfx o s
  | .bfi o => Sys2Proof.Machine.execBfi o s
  | .lea2 o => Sys2Proof.Machine.execLea2 o s
  | .lea3 o => Sys2Proof.Machine.execLea3 o s
  | .selp o => Sys2Proof.Machine.execSelp o s
  | .add64 o => Sys2Proof.Machine.execAdd64 o s
  | .sub64 o => Sys2Proof.Machine.execSub64 o s
  | .shl64 o => Sys2Proof.Machine.execShl64 o s
  | .shr64 o => Sys2Proof.Machine.execShr64 o s
  | .icmp o => Sys2Proof.Machine.execIcmp o s
  | .fcmp o => Sys2Proof.Machine.execFcmp o s
  | .addi o => Sys2Proof.Machine.execAddi o s
  | .andi o => Sys2Proof.Machine.execAndi o s
  | .ori o => Sys2Proof.Machine.execOri o s
  | .xori o => Sys2Proof.Machine.execXori o s
  | .shifti o => Sys2Proof.Machine.execShifti o s
  | .muli o => Sys2Proof.Machine.execMuli o s
  | .saddi o => Sys2Proof.Machine.execSaddi o s
  | .lui o => Sys2Proof.Machine.execLui o s
  | .llo o => Sys2Proof.Machine.execLlo o s
  | .adr o => Sys2Proof.Machine.execAdr o s
  | .slui o => Sys2Proof.Machine.execSlui o s
  | .sllo o => Sys2Proof.Machine.execSllo o s
  | .mov o => Sys2Proof.Machine.execMov o s
  | .not o => Sys2Proof.Machine.execNot o s
  | .neg o => Sys2Proof.Machine.execNeg o s
  | .abs o => Sys2Proof.Machine.execAbs o s
  | .clz o => Sys2Proof.Machine.execClz o s
  | .ctz o => Sys2Proof.Machine.execCtz o s
  | .popc o => Sys2Proof.Machine.execPopc o s
  | .brev o => Sys2Proof.Machine.execBrev o s
  | .bswap o => Sys2Proof.Machine.execBswap o s
  | .sext8 o => Sys2Proof.Machine.execSext8 o s
  | .sext16 o => Sys2Proof.Machine.execSext16 o s
  | .mov64 o => Sys2Proof.Machine.execMov64 o s
  | .movx o => Sys2Proof.Machine.execMovx o s
  | .movxw o => Sys2Proof.Machine.execMovxw o s
  | .iset o => Sys2Proof.Machine.execIset o s
  | .iget o => Sys2Proof.Machine.execIget o s
  | .scan o => Sys2Proof.Machine.execScan o s
  | .delay o => Sys2Proof.Machine.execDelay o s
  | .perm o => Sys2Proof.Machine.execPerm o s
  | .bfirst o => Sys2Proof.Machine.execBfirst o s
  | .blast o => Sys2Proof.Machine.execBlast o s
  | .rank o => Sys2Proof.Machine.execRank o s
  | .matchLanes o => Sys2Proof.Machine.execMatchLanes o s
  | .reduce o => Sys2Proof.Machine.execReduce o s
  | .vote o => Sys2Proof.Machine.execVote o s
  | .pand o => Sys2Proof.Machine.execPand o s
  | .por o => Sys2Proof.Machine.execPor o s
  | .pxor o => Sys2Proof.Machine.execPxor o s
  | .ptest o => Sys2Proof.Machine.execPtest o s
  | .pbit o => Sys2Proof.Machine.execPbit o s
  | .pget o => Sys2Proof.Machine.execPget o s
  | .sadd o => Sys2Proof.Machine.execSadd o s
  | .ssub o => Sys2Proof.Machine.execSsub o s
  | .smul o => Sys2Proof.Machine.execSmul o s
  | .sand o => Sys2Proof.Machine.execSand o s
  | .sor o => Sys2Proof.Machine.execSor o s
  | .sxor o => Sys2Proof.Machine.execSxor o s
  | .sshl o => Sys2Proof.Machine.execSshl o s
  | .sshr o => Sys2Proof.Machine.execSshr o s
  | .smov o => Sys2Proof.Machine.execSmov o s
  | .sfromv o => Sys2Proof.Machine.execSfromv o s
  | .sld o => Sys2Proof.Machine.execSld o s
  | .sldd o => Sys2Proof.Machine.execSldd o s
  | .sread o => Sys2Proof.Machine.execSread o s
  | .swrite o => Sys2Proof.Machine.execSwrite o s
  | .spopc o => Sys2Proof.Machine.execSpopc o s
  | .sctz o => Sys2Proof.Machine.execSctz o s
  | .sclz o => Sys2Proof.Machine.execSclz o s
  | .braAlways o => Sys2Proof.Machine.execBraAlways o s
  | .braThr o => Sys2Proof.Machine.execBraThr o s
  | .braThrNot o => Sys2Proof.Machine.execBraThrNot o s
  | .braAny o => Sys2Proof.Machine.execBraAny o s
  | .braAll o => Sys2Proof.Machine.execBraAll o s
  | .braNone o => Sys2Proof.Machine.execBraNone o s
  | .brt o => Sys2Proof.Machine.execBrt o s
  | .loop o => Sys2Proof.Machine.execLoop o s
  | .call o => Sys2Proof.Machine.execCall o s
  | .nop o => Sys2Proof.Machine.execNop o s
  | .jmp o => Sys2Proof.Machine.execJmp o s
  | .callr o => Sys2Proof.Machine.execCallr o s
  | .ret o => Sys2Proof.Machine.execRet o s
  | .brkloop o => Sys2Proof.Machine.execBrkloop o s
  | .endturn o => Sys2Proof.Machine.execEndturn o s
  | .yield o => Sys2Proof.Machine.execYield o s
  | .fadd o => Sys2Proof.Machine.execFadd o s
  | .fsub o => Sys2Proof.Machine.execFsub o s
  | .fmul o => Sys2Proof.Machine.execFmul o s
  | .ffma o => Sys2Proof.Machine.execFfma o s
  | .fmin o => Sys2Proof.Machine.execFmin o s
  | .fmax o => Sys2Proof.Machine.execFmax o s
  | .ffmal o => Sys2Proof.Machine.execFfmal o s
  | .fnma o => Sys2Proof.Machine.execFnma o s
  | .padd2 o => Sys2Proof.Machine.execPadd2 o s
  | .pmul2 o => Sys2Proof.Machine.execPmul2 o s
  | .pfma2 o => Sys2Proof.Machine.execPfma2 o s
  | .pmax2 o => Sys2Proof.Machine.execPmax2 o s
  | .dadd o => Sys2Proof.Machine.execDadd o s
  | .dsub o => Sys2Proof.Machine.execDsub o s
  | .dmul o => Sys2Proof.Machine.execDmul o s
  | .dfma o => Sys2Proof.Machine.execDfma o s
  | .dmin o => Sys2Proof.Machine.execDmin o s
  | .dmax o => Sys2Proof.Machine.execDmax o s
  | .fneg o => Sys2Proof.Machine.execFneg o s
  | .fabs o => Sys2Proof.Machine.execFabs o s
  | .fsqrt o => Sys2Proof.Machine.execFsqrt o s
  | .frcp o => Sys2Proof.Machine.execFrcp o s
  | .frsq o => Sys2Proof.Machine.execFrsq o s
  | .fexp2 o => Sys2Proof.Machine.execFexp2 o s
  | .flog2 o => Sys2Proof.Machine.execFlog2 o s
  | .fsinpi o => Sys2Proof.Machine.execFsinpi o s
  | .fcospi o => Sys2Proof.Machine.execFcospi o s
  | .frint o => Sys2Proof.Machine.execFrint o s
  | .fclass o => Sys2Proof.Machine.execFclass o s
  | .dneg o => Sys2Proof.Machine.execDneg o s
  | .dabs o => Sys2Proof.Machine.execDabs o s
  | .dsqrt o => Sys2Proof.Machine.execDsqrt o s
  | .drcp o => Sys2Proof.Machine.execDrcp o s
  | .drint o => Sys2Proof.Machine.execDrint o s
  | .dclass o => Sys2Proof.Machine.execDclass o s
  | .pneg2 o => Sys2Proof.Machine.execPneg2 o s
  | .pabs2 o => Sys2Proof.Machine.execPabs2 o s
  | .cvtF32I32 o => Sys2Proof.Machine.execCvtF32I32 o s
  | .cvtF32N32 o => Sys2Proof.Machine.execCvtF32N32 o s
  | .cvtI32F32 o => Sys2Proof.Machine.execCvtI32F32 o s
  | .cvtN32F32 o => Sys2Proof.Machine.execCvtN32F32 o s
  | .cvtF64F32 o => Sys2Proof.Machine.execCvtF64F32 o s
  | .cvtF32F64 o => Sys2Proof.Machine.execCvtF32F64 o s
  | .cvtF64I32 o => Sys2Proof.Machine.execCvtF64I32 o s
  | .cvtI32F64 o => Sys2Proof.Machine.execCvtI32F64 o s
  | .cvtF32F16 o => Sys2Proof.Machine.execCvtF32F16 o s
  | .cvtF16x2F32x2 o => Sys2Proof.Machine.execCvtF16x2F32x2 o s
  | .cvtBf16x2F32x2 o => Sys2Proof.Machine.execCvtBf16x2F32x2 o s
  | .cvtBf16x4E8x4 o => Sys2Proof.Machine.execCvtBf16x4E8x4 o s
  | .cvtE4m3x4Bf16x4 o => Sys2Proof.Machine.execCvtE4m3x4Bf16x4 o s
  | .cvtE5m2x4Bf16x4 o => Sys2Proof.Machine.execCvtE5m2x4Bf16x4 o s
  | .cvtBf16x2B4 o => Sys2Proof.Machine.execCvtBf16x2B4 o s
  | .cvtB4F32 o => Sys2Proof.Machine.execCvtB4F32 o s
  | .ldw o => Sys2Proof.Machine.execLdw o s
  | .ldd o => Sys2Proof.Machine.execLdd o s
  | .ldq o => Sys2Proof.Machine.execLdq o s
  | .ldsub o => Sys2Proof.Machine.execLdsub o s
  | .stw o => Sys2Proof.Machine.execStw o s
  | .std o => Sys2Proof.Machine.execStd o s
  | .stq o => Sys2Proof.Machine.execStq o s
  | .stsub o => Sys2Proof.Machine.execStsub o s
  | .atom32AddI32 o => Sys2Proof.Machine.execAtom32AddI32 o s
  | .atom32AddF32 o => Sys2Proof.Machine.execAtom32AddF32 o s
  | .atom32MinI32 o => Sys2Proof.Machine.execAtom32MinI32 o s
  | .atom32MinN32 o => Sys2Proof.Machine.execAtom32MinN32 o s
  | .atom32MinF32 o => Sys2Proof.Machine.execAtom32MinF32 o s
  | .atom32MaxI32 o => Sys2Proof.Machine.execAtom32MaxI32 o s
  | .atom32MaxN32 o => Sys2Proof.Machine.execAtom32MaxN32 o s
  | .atom32MaxF32 o => Sys2Proof.Machine.execAtom32MaxF32 o s
  | .atom32AndB32 o => Sys2Proof.Machine.execAtom32AndB32 o s
  | .atom32OrB32 o => Sys2Proof.Machine.execAtom32OrB32 o s
  | .atom32XorB32 o => Sys2Proof.Machine.execAtom32XorB32 o s
  | .atom32ExchB32 o => Sys2Proof.Machine.execAtom32ExchB32 o s
  | .atom32CasB32 o => Sys2Proof.Machine.execAtom32CasB32 o s
  | .atom64AddI64 o => Sys2Proof.Machine.execAtom64AddI64 o s
  | .atom64AddF64 o => Sys2Proof.Machine.execAtom64AddF64 o s
  | .atom64MinI64 o => Sys2Proof.Machine.execAtom64MinI64 o s
  | .atom64MinN64 o => Sys2Proof.Machine.execAtom64MinN64 o s
  | .atom64MinF64 o => Sys2Proof.Machine.execAtom64MinF64 o s
  | .atom64MaxI64 o => Sys2Proof.Machine.execAtom64MaxI64 o s
  | .atom64MaxN64 o => Sys2Proof.Machine.execAtom64MaxN64 o s
  | .atom64MaxF64 o => Sys2Proof.Machine.execAtom64MaxF64 o s
  | .atom64AndB64 o => Sys2Proof.Machine.execAtom64AndB64 o s
  | .atom64OrB64 o => Sys2Proof.Machine.execAtom64OrB64 o s
  | .atom64XorB64 o => Sys2Proof.Machine.execAtom64XorB64 o s
  | .atom64ExchB64 o => Sys2Proof.Machine.execAtom64ExchB64 o s
  | .atom64CasB64 o => Sys2Proof.Machine.execAtom64CasB64 o s
  | .atomxAddBf16 o => Sys2Proof.Machine.execAtomxAddBf16 o s
  | .atomxMinBf16 o => Sys2Proof.Machine.execAtomxMinBf16 o s
  | .atomxMaxBf16 o => Sys2Proof.Machine.execAtomxMaxBf16 o s
  | .atomxAddBf16x2 o => Sys2Proof.Machine.execAtomxAddBf16x2 o s
  | .atomxMinBf16x2 o => Sys2Proof.Machine.execAtomxMinBf16x2 o s
  | .atomxMaxBf16x2 o => Sys2Proof.Machine.execAtomxMaxBf16x2 o s
  | .atomxAddF16x2 o => Sys2Proof.Machine.execAtomxAddF16x2 o s
  | .atomxMinF16x2 o => Sys2Proof.Machine.execAtomxMinF16x2 o s
  | .atomxMaxF16x2 o => Sys2Proof.Machine.execAtomxMaxF16x2 o s
  | .atomxExchB128 o => Sys2Proof.Machine.execAtomxExchB128 o s
  | .atomxCasB128 o => Sys2Proof.Machine.execAtomxCasB128 o s
  | .pin o => Sys2Proof.Machine.execPin o s
  | .unpin o => Sys2Proof.Machine.execUnpin o s
  | .cflush o => Sys2Proof.Machine.execCflush o s
  | .cinv o => Sys2Proof.Machine.execCinv o s
  | .mcrd o => Sys2Proof.Machine.execMcrd o s
  | .mcst o => Sys2Proof.Machine.execMcst o s
  | .msend o => Sys2Proof.Machine.execMsend o s
  | .mwait o => Sys2Proof.Machine.execMwait o s
  | .barArrive o => Sys2Proof.Machine.execBarArrive o s
  | .barWait o => Sys2Proof.Machine.execBarWait o s
  | .boset o => Sys2Proof.Machine.execBoset o s
  | .boadd o => Sys2Proof.Machine.execBoadd o s
  | .bowait o => Sys2Proof.Machine.execBowait o s
  | .fence o => Sys2Proof.Machine.execFence o s
  | .qtake o => Sys2Proof.Machine.execQtake o s
  | .qpost o => Sys2Proof.Machine.execQpost o s
  | .qpostStatus id => Sys2Proof.Machine.execQpostStatus id s
  | .taskend o => Sys2Proof.Machine.execTaskend o s
  | .finit o => Sys2Proof.Machine.execFinit o s
  | .finitFull o => Sys2Proof.Machine.execFinitFull o s
  | .fget o => Sys2Proof.Machine.execFget o s
  | .fgetAnswer id => Sys2Proof.Machine.execFgetAnswer id s
  | .ffill o => Sys2Proof.Machine.execFfill o s
  | .heldEntryEnqueue ctx queue => Sys2Proof.Machine.execHeldEntryEnqueue ctx queue s
  | .cpy o => Sys2Proof.Machine.execCpy o s
  | .cpyx o => Sys2Proof.Machine.execCpyx o s
  | .coll o => Sys2Proof.Machine.execColl o s
  | .estat o => Sys2Proof.Machine.execEstat o s
  | .mma o => Sys2Proof.Machine.execMma o s
  | .mmaRa o => Sys2Proof.Machine.execMmaRa o s
  | .mmaRb o => Sys2Proof.Machine.execMmaRb o s
  | .dzero o => Sys2Proof.Machine.execDzero o s
  | .dzeroFree o => Sys2Proof.Machine.execDzeroFree o s
  | .drdrow o => Sys2Proof.Machine.execDrdrow o s
  | .drdcol o => Sys2Proof.Machine.execDrdcol o s
  | .dwrrow o => Sys2Proof.Machine.execDwrrow o s
  | .drestart o => Sys2Proof.Machine.execDrestart o s
  | .twait o => Sys2Proof.Machine.execTwait o s
  | .twaitany o => Sys2Proof.Machine.execTwaitany o s
  | .tmin o => Sys2Proof.Machine.execTmin o s
  | .tmov o => Sys2Proof.Machine.execTmov o s
  | .tstat o => Sys2Proof.Machine.execTstat o s
  | .tset o => Sys2Proof.Machine.execTset o s
  | .tsetClr o => Sys2Proof.Machine.execTsetClr o s
  | .tnow o => Sys2Proof.Machine.execTnow o s
  | .tdiff o => Sys2Proof.Machine.execTdiff o s
  | .yieldt o => Sys2Proof.Machine.execYieldt o s
  | .trap o => Sys2Proof.Machine.execTrap o s
  | .bkpt o => Sys2Proof.Machine.execBkpt o s
  | .eret o => Sys2Proof.Machine.execEret o s
  | .eretFail o => Sys2Proof.Machine.execEretFail o s
  | .srd o => Sys2Proof.Machine.execSrd o s
  | .srdV o => Sys2Proof.Machine.execSrdV o s
  | .swr o => Sys2Proof.Machine.execSwr o s
  | .swrV o => Sys2Proof.Machine.execSwrV o s
  | .idemb o => Sys2Proof.Machine.execIdemb o s
  | .ideme o => Sys2Proof.Machine.execIdeme o s
  | .cbind o => Sys2Proof.Machine.execCbind o s
  | .cunbind o => Sys2Proof.Machine.execCunbind o s
  | .turnStart place elapsed => Sys2Proof.Machine.execTurnStart place elapsed s
  | .codeFetchReturn id => Sys2Proof.Machine.execCodeFetchReturn id s
  | .probeAnswer id time => Sys2Proof.Machine.execProbeAnswer id time s
  | .loadValueArrival id => Sys2Proof.Machine.execLoadValueArrival id s
  | .breachNotice id time => Sys2Proof.Machine.execBreachNotice id time s
  | .promiseWithdrawal id cause => Sys2Proof.Machine.execPromiseWithdrawal id cause s
  | .promiseLate id => Sys2Proof.Machine.execPromiseLate id s
  | .translationWalk id => Sys2Proof.Machine.execTranslationWalk id s
  | .sliceAdmit id slot => Sys2Proof.Machine.execSliceAdmit id slot s
  | .lineReadServe line => Sys2Proof.Machine.execLineReadServe line s
  | .homeWriteApply id => Sys2Proof.Machine.execHomeWriteApply id s
  | .markerProcess source sink => Sys2Proof.Machine.execMarkerProcess source sink s
  | .atomicHomeStep id => Sys2Proof.Machine.execAtomicHomeStep id s
  | .atomicReply id => Sys2Proof.Machine.execAtomicReply id s
  | .pinOutcome id => Sys2Proof.Machine.execPinOutcome id s
  | .messageAppend id => Sys2Proof.Machine.execMessageAppend id s
  | .reductionEntryLeave core key => Sys2Proof.Machine.execReductionEntryLeave core key s
  | .overflowDrain ctx die => Sys2Proof.Machine.execOverflowDrain ctx die s
  | .taskEndUpdate id => Sys2Proof.Machine.execTaskEndUpdate id s
  | .hostEnqueue ctx session queue image => Sys2Proof.Machine.execHostEnqueue ctx session queue image s
  | .depCounterNotice entry => Sys2Proof.Machine.execDepCounterNotice entry s
  | .agingTick entry => Sys2Proof.Machine.execAgingTick entry s
  | .entryPull die => Sys2Proof.Machine.execEntryPull die s
  | .taskStart entry => Sys2Proof.Machine.execTaskStart entry s
  | .engineQuote id time => Sys2Proof.Machine.execEngineQuote id time s
  | .engineStart id => Sys2Proof.Machine.execEngineStart id s
  | .engineComplete id => Sys2Proof.Machine.execEngineComplete id s
  | .mcrdReceiverDelivery id receiver => Sys2Proof.Machine.execMcrdReceiverDelivery id receiver s
  | .collInstanceForm id agrees => Sys2Proof.Machine.execCollInstanceForm id agrees s
  | .deckOpStart quad => Sys2Proof.Machine.execDeckOpStart quad s
  | .deckReadReady quad => Sys2Proof.Machine.execDeckReadReady quad s
  | .deckOpComplete quad => Sys2Proof.Machine.execDeckOpComplete quad s
  | .dzeroWaitTimeout group => Sys2Proof.Machine.execDzeroWaitTimeout group s
  | .quantumExpiry core span => Sys2Proof.Machine.execQuantumExpiry core span s
  | .groupSave group => Sys2Proof.Machine.execGroupSave group s
  | .groupResident group => Sys2Proof.Machine.execGroupResident group s
  | .compaction core span => Sys2Proof.Machine.execCompaction core span s
  | .detRoundStart ctx => Sys2Proof.Machine.execDetRoundStart ctx s
  | .registerScrub group corrected words control => Sys2Proof.Machine.execRegisterScrub group corrected words control s
  | .dieFence die => Sys2Proof.Machine.execDieFence die s
  | .linkRetry link ids time => Sys2Proof.Machine.execLinkRetry link ids time s
  | .correctedMemoryError mdie ids time => Sys2Proof.Machine.execCorrectedMemoryError mdie ids time s
  | .clockStepDown r => Sys2Proof.Machine.execClockStepDown r s
  | .clockStepUp r => Sys2Proof.Machine.execClockStepUp r s
  | .emergencyThrottle r ids time => Sys2Proof.Machine.execEmergencyThrottle r ids time s
  | .refreshDouble r => Sys2Proof.Machine.execRefreshDouble r s
  | .sensorOvertempFence r => Sys2Proof.Machine.execSensorOvertempFence r s
  | .frequencySwitch die => Sys2Proof.Machine.execFrequencySwitch die s
  | .linkWidthReduce link failing => Sys2Proof.Machine.execLinkWidthReduce link failing s
  | .linkWidthIncrease link => Sys2Proof.Machine.execLinkWidthIncrease link s
  | .viaductPathChange link back => Sys2Proof.Machine.execViaductPathChange link back s
  | .powerOn trial => Sys2Proof.Machine.execPowerOn trial s
  | .ueInboundRequest r => Sys2Proof.Machine.execUeInboundRequest r s
  | .remoteWriteAck id => Sys2Proof.Machine.execRemoteWriteAck id s
  | .getVersion conn => Sys2Proof.Machine.execGetVersion conn s
  | .getCapabilities conn version => Sys2Proof.Machine.execGetCapabilities conn version s
  | .negotiateAlgorithms conn offered => Sys2Proof.Machine.execNegotiateAlgorithms conn offered s
  | .getDigests conn => Sys2Proof.Machine.execGetDigests conn s
  | .getCertificate conn slot offset len => Sys2Proof.Machine.execGetCertificate conn slot offset len s
  | .challenge conn slot nonce => Sys2Proof.Machine.execChallenge conn slot nonce s
  | .getMeasurements conn block => Sys2Proof.Machine.execGetMeasurements conn block s
  | .keyExchange conn slot pub => Sys2Proof.Machine.execKeyExchange conn slot pub s
  | .finish session verified => Sys2Proof.Machine.execFinish session verified s
  | .heartbeat session => Sys2Proof.Machine.execHeartbeat session s
  | .keyUpdate session => Sys2Proof.Machine.execKeyUpdate session s
  | .endSession session => Sys2Proof.Machine.execEndSession session s
  | .spdmUnsupported conn code => Sys2Proof.Machine.execSpdmUnsupported conn code s
  | .mgmtMalformed session port head => Sys2Proof.Machine.execMgmtMalformed session port head s
  | .ctxstart h descriptor => Sys2Proof.Machine.execCtxstart h descriptor s
  | .ctxend h => Sys2Proof.Machine.execCtxend h s
  | .ctxendComplete ctx => Sys2Proof.Machine.execCtxendComplete ctx s
  | .suspend h => Sys2Proof.Machine.execSuspend h s
  | .resume h => Sys2Proof.Machine.execResume h s
  | .tlbinv h base len force => Sys2Proof.Machine.execTlbinv h base len force s
  | .tlbinvComplete id => Sys2Proof.Machine.execTlbinvComplete id s
  | .hwinset h w => Sys2Proof.Machine.execHwinset h w s
  | .hwinsetComplete window => Sys2Proof.Machine.execHwinsetComplete window s
  | .keyset h mask domain => Sys2Proof.Machine.execKeyset h mask domain s
  | .keyerase h mask domain => Sys2Proof.Machine.execKeyerase h mask domain s
  | .modset h number => Sys2Proof.Machine.execModset h number s
  | .fwupdate h piece last => Sys2Proof.Machine.execFwupdate h piece last s
  | .dbgattach h => Sys2Proof.Machine.execDbgattach h s
  | .dbghalt h group => Sys2Proof.Machine.execDbghalt h group s
  | .dbghaltDie h die => Sys2Proof.Machine.execDbghaltDie h die s
  | .dbgrun h target => Sys2Proof.Machine.execDbgrun h target s
  | .dbgstep h group slot => Sys2Proof.Machine.execDbgstep h group slot s
  | .dbgread h group item => Sys2Proof.Machine.execDbgread h group item s
  | .dbgwrite h group item value => Sys2Proof.Machine.execDbgwrite h group item value s
  | .trcstart h t => Sys2Proof.Machine.execTrcstart h t s
  | .trcstop h => Sys2Proof.Machine.execTrcstop h s
  | .monread h u => Sys2Proof.Machine.execMonread h u s
  | .linkset h r => Sys2Proof.Machine.execLinkset h r s
  | .portmode h port mode => Sys2Proof.Machine.execPortmode h port mode s
  | .portRetrainDone port => Sys2Proof.Machine.execPortRetrainDone port s
  | .stallSample core span => Sys2Proof.Machine.execStallSample core span s
  | .podModuleLoss number => Sys2Proof.Machine.execPodModuleLoss number s

end Sys2Proof.Machine
end

