-- ==== Sys2Proof/Machine/Auto.lean ====
section
/-! DEFINITION. Which step comes next (log 4): what stands in the inbox; the pass of the group in focus; the oldest pending
work of the machine; the next turn; the passing of time. Every one of the machine's own steps is one that the inbox can
also bring, so any other order and timing is a run of the model with the inbox that says so. -/

namespace Sys2Proof.Machine

/-! ## Pending work, in a default order -/

/-- What a request awaits next. -/
def workReq (m : Memory) (r : Req) (d : Device) : Device :=
  match r.kind, r.st with
  | .load _, .sent | .uload, .sent =>
    if keyKind (r.keys.headD 0) = .scratch ∨ keyKind (r.keys.headD 0) = .host then evLineReadServe (r.keys.headD 0 / 128) m d
    else evSliceAdmit r.id 0 d
  | .load _, .admitted _ | .uload, .admitted _ => evLineReadServe (r.keys.headD 0 / 128) m d
  | .load _, .refused c | .uload, .refused c => evPromiseWithdrawal r.id c m d
  | .load _, _ | .uload, _ => evLoadArrival r.id d
  | .atomic _, .sent => evAtomicHomeStep r.id m d
  | .atomic _, _ => evAtomicReply r.id m d
  | .pin, _ => evPinOutcome r.id d
  | .fget, _ => evFgetAnswer r.id m d
  | .qpost .., _ => evQpostStatus r.id m d

def workWrite (m : Memory) (w : PWrite) (d : Device) : Device :=
  if w.applied then evRemoteWriteAck w.id d else evHomeWriteApply w.id m d

def workRed (m : Memory) (r : Red) (d : Device) : Device :=
  if r.atHome then d
  else if r.spilled then evOverflowDrain r.ctx (dieOf r.core) m d
  else evReductionLeave r.core (r.keys.headD 0) m d

/-- What a command awaits next; an instance of one module forms by itself, and the quote is free (log 9). -/
def workCmd (m : Memory) (c : Cmd) (d : Device) : Device :=
  match c.st with
  | .queued =>
    if c.kind = .coll ∧ !c.formed ∧ (members (collOf c).mask).length ≤ 1 then evCollForm c.id true m d
    else evEngineQuote c.id (d.refNow c.core + BitVec.ofNat 32 (min (Config.quote c.id) Config.horizon)) m d
  | .quoted => evEngineStart c.id d
  | .started =>
    if c.kind = .mcrd then match c.receivers.find? fun r => linesTo c r != mcrdLines c with
      | some r => evMcrdDelivery c.id r m d
      | none => evEngineComplete c.id m d
    else evEngineComplete c.id m d
  | .withdrawn _ => d

/-- What a deck operation awaits next: its start, its deck time, its delivery. -/
def workDeck (m : Memory) (o : DeckOp) (d : Device) : Device :=
  if o.readDone then evDeckRead o.quad d
  else if o.started.isNone then evDeckStart o.quad d
  else evDeckComplete o.quad m d

/-- What a queue entry awaits next. -/
def workEntry (m : Memory) (e : Entry) (d : Device) : Device :=
  if e.held then evHeldEnqueue e.ctx e.queue m d
  else if e.pulled.isSome then evTaskStart e.id m d
  else if e.watch.isSome then evDepNotice e.id m d
  else evAgingTick e.id d

def workGangs (m : Memory) (c : Ctx) (d : Device) : Device :=
  match c.gangs.find? fun k => k.toStart != [] with
  | some k => evTaskStart k.id m d
  | none => d

/-- A group that is to leave, or to become resident, or that waits for a tile. -/
def workGroup (m : Memory) (g : Group) (d : Device) : Device :=
  if g.wanted then evGroupSave g.gid m d
  else if g.dzeroAt.isSome ∧ g.place.isSome then evDzeroTimeout g.gid m d
  else evGroupResident g.gid m d

def workPending (m : Memory) (p : PendCmd) (d : Device) : Device :=
  match p with
  | .suspend _ => d
  | .ctxEnd h => evCtxendComplete h.ctx.toNat m d
  | .tlbInv id _ _ _ => evTlbinvComplete id d
  | .hwinSet _ _ w => evHwinsetComplete w.window.toNat d
  | .portMode _ port _ => evRetrainDone port d

def workLink (n : Nat) (d : Device) : Device :=
  match (d.link n).wantFull with
  | some true => evWidthIncrease n d
  | some false => evWidthReduce n false d
  | none => d

/-- A span whose quantum has passed. -/
def workSpan (m : Memory) (s : Span) (d : Device) : Device :=
  let d := evQuantum s.core s.num.toNat m d
  if d.groups.any fun g => g.core == s.core && g.place.isNone && g.partner.isNone then evCompaction s.core s.num.toNat m d else d

/-- The machine's pending work, each piece as the step that would take it on. -/
def works (m : Memory) (d : Device) : List (Device → Device) :=
  d.walks.map (fun w => evTranslationWalk w.id m) ++ d.fetches.map (fun f => evCodeFetchReturn f.id m)
    ++ d.reqs.map (workReq m) ++ d.writes.map (workWrite m) ++ d.markers.map (fun k => evMarkerProcess k.source k.sink)
    ++ d.reds.map (workRed m) ++ d.msgs.map (fun x => evMessageAppend x.id m) ++ d.cmds.map (workCmd m)
    ++ d.deckOps.map (workDeck m) ++ d.ends.map (fun u => evTaskEnd u.id m) ++ d.entries.map (workEntry m)
    ++ d.pendCmds.map (workPending m) ++ (List.range 4).map evFreqSwitch ++ (List.range 4).map workLink
    ++ d.groups.map (workGroup m) ++ d.spans.map (workSpan m) ++ (List.range 4).map (fun k => evEntryPull k m)
    ++ d.ctxs.map (workGangs m) ++ d.ctxs.map fun c => evDetRound c.num m

/-- The first of some steps that changes anything. -/
def firstChange (d : Device) (fs : List (Device → Device)) : Option Device :=
  match fs with
  | [] => none
  | f :: rest => let e := f d
    if e = d then firstChange d rest else some e

/-! ## Promises (R226, R229) -/

/-- A load whose promise comes within the time that one step can take: its value is to arrive by it. -/
def promiseNear (d : Device) (r : Req) : Bool :=
  isLoad r.kind && match r.promise with
    | some p => timeGe (d.refNow r.core + 2048) p
    | none => false

/-- What such a load awaits next; its value arrives on time. -/
def workPromise (m : Memory) (r : Req) (d : Device) : Device :=
  if r.st = .served then evLoadOnTime r.id d else workReq m r d

/-- Before time passes, the machine does what lets a value arrive by its promise; one that nothing can bring, as where its
unit is halted, becomes late (R226 to R229). -/
def promiseWork (m : Memory) (d : Device) : Option Device :=
  match d.reqs.filter (promiseNear d) with
  | [] => none
  | rs => firstChange d (rs.map (workPromise m) ++ works m d ++ rs.map fun r => evPromiseLate r.id)

/-- What a step of the machine does first: what promises ask for, and what the decks' own clocks have brought (R362). -/
def dueWork (m : Memory) (d : Device) : Option Device := (promiseWork m d).or (firstChange d (d.deckOps.map (workDeck m)))

/-! ## Turns and time -/

/-- A group for which a turn opportunity does something. -/
def stirs (m : Memory) (d : Device) (g : Group) : Bool :=
  coreRuns d g.core && (readyGroup m d g || g.moving != 0 || (g.place.isSome && g.hold == .yielded && !g.halted))

/-- The span that has waited longest among those with such a group. -/
def nextSpan (d : Device) (gs : List Group) : Option Span :=
  gs.foldl (fun best g => match g.place with
    | none => best
    | some (n, _) =>
      let s := d.spanOf g.core n
      match best with
      | none => some s
      | some b => if s.last < b.last then some s else best) none

/-- The next turn opportunity. -/
def nextTurn (m : Memory) (d : Device) : Option Device :=
  (nextSpan d (d.groups.filter (stirs m d))).map fun s =>
    evTurnStart { core := BitVec.ofNat 10 s.core, span := s.num, slot := s.slot } 0 m d

/-- A reference cycle passes on every die. -/
def passTime (d : Device) : Device :=
  { d with dies := d.dies.map fun x => if x.st = .running ∨ x.st = .halted then { x with tick := x.tick + 60 } else x }

/-- Work that the machine has when no pass can be taken. -/
def pending (m : Memory) (d : Device) : Option Device := (firstChange d (works m d)).or (nextTurn m d)

/-- A pass of the group in focus waits for something else to happen first. -/
def focusStalled (d : Device) : Bool :=
  match (d.focus.bind d.group?).bind (·.turn) with
  | some t => t.stalled
  | none => false

/-! ## The step -/

/-- The pass of the group in focus: fetch, decode, the instruction (R47, R48, R392). -/
def stepFocus (s : State) : Host.Outcome State Fault Refusal :=
  match prepare s.mem s.dev with
  | .done d => .next (commit s d)
  | .run w d => match decodeOp w with
    | some op => runPass decodeOp op { s with dev := d }
    | none => .next (commit s d)

/-- A step of the machine itself; none where nothing but time passes. -/
def stepOwn (s : State) : Option (Host.Outcome State Fault Refusal) :=
  if s.dev.focus.isSome then
    if focusStalled s.dev then
      match firstChange s.dev (works s.mem s.dev) with
      | some d => some (.next (commit s d))
      | none => some (stepFocus s)
    else some (stepFocus s)
  else (pending s.mem s.dev).map fun d => .next (commit s d)

/-- Puts an inbox back into the state that a step answers. -/
def keepInbox (l : List Instr) (o : Host.Outcome State Fault Refusal) : Host.Outcome State Fault Refusal :=
  match o with
  | .next t => .next { t with dev := { t.dev with inbox := l } }
  | x => x

/-- The step that the inbox brings: one that changes nothing yet waits while the machine has steps of its own; an
instruction word is no such step. -/
def stepInbox (i : Instr) (rest : List Instr) (s : State) : Host.Outcome State Fault Refusal :=
  let t : State := { s with dev := { s.dev with inbox := rest } }
  if (encode i).isSome then .next t
  else match exec i t with
    | .next u => if u = t then match stepOwn t with
        | some o => keepInbox (i :: rest) o
        | none => .next u
      else .next u
    | x => x

/-- One step of the machine: what is due, what the inbox brings, or what the machine does itself. -/
def stepAll (s : State) : Host.Outcome State Fault Refusal :=
  match dueWork s.mem s.dev, s.dev.inbox with
  | some d, _ => .next (commit s d)
  | none, i :: rest => stepInbox i rest s
  | none, [] =>
    if !s.dev.booted then .next (commit s (evPowerOn [] none s.dev))
    else match stepOwn s with
      | some o => o
      | none => .next (commit s (passTime s.dev))

/-! ## Placing an instruction -/

/-- The context that runs a placed instruction: code at 0, memory mapped by the translation below. -/
def loaderCtx : Ctx := { num := 0, host := none, codeBase := 0, root := 0, rects := [{ die := 0, clus := 0, x := 0, y := 0, w := 1, h := 1 }] }

/-- Its group: resident in slot 0 of span 0 of core 0, its turn begun, every thread RUN at 0. -/
def loaderGroup : Group :=
  { gid := 0, ctx := 0, core := 0, gidx := 0, d := 64, x := 128, place := some (0, 0), instantiated := true, turn := some {} }

/-- The translation of its first 4 KiB: to physical address 0, all access. -/
def loaderTrans : Trans :=
  { cluster := false, unit := 0, ctx := 0, va := 0, size := 4096, pa := 0, r := true, w := true, x := true, dom := 0 }

/-- The sector that holds the instruction, in the core's private cache (R48). -/
def loaderSector (w : Nat) : PSector := { core := 0, key := 0, data := BitVec.ofNat 256 (w % 2 ^ 32), version := 0 }

/-- The machine with an instruction word where its next pass fetches: powered on where it was not, the loader's context,
group and translation in front of all others, its group in focus, nothing in the inbox (log 1). -/
def placeWord (s : State) (w : Nat) : State :=
  let d := if s.dev.booted then s.dev else evPowerOn [] none s.dev
  { mem := memSet (memSet (memSet (memSet s.mem 0 (BitVec.ofNat 8 w)) 1 (BitVec.ofNat 8 (w / 2 ^ 8))) 2
      (BitVec.ofNat 8 (w / 2 ^ 16))) 3 (BitVec.ofNat 8 (w / 2 ^ 24))
    dev := { d with
      inbox := [], log := [], ctxs := loaderCtx :: d.ctxs, groups := loaderGroup :: d.groups, tlb := loaderTrans :: d.tlb
      pcache := loaderSector w :: d.pcache, focus := some 0
      spans := d.spans.map fun x => { x with lines := x.lines.filter fun l => l.ctx != 0 } } }

end Sys2Proof.Machine
end

