-- ==== Sys2Proof/Machine/OpOf.lean ====
section
/-! DEFINITION. The operation of an instruction as a pass runs it (the argument of its meaning); a step of the table without
an encoding is no pass and has none. -/

namespace Sys2Proof.Machine

/-- What an encoded instruction means in a pass. -/
def opOf : Instr → Option Op
  | .add16 o => some (opAdd16 o)
  | .sub16 o => some (opSub16 o)
  | .and16 o => some (opAnd16 o)
  | .or16 o => some (opOr16 o)
  | .xor16 o => some (opXor16 o)
  | .shl16 o => some (opShl16 o)
  | .shr16 o => some (opShr16 o)
  | .min16 o => some (opMin16 o)
  | .max16 o => some (opMax16 o)
  | .mov16 o => some (opMov16 o)
  | .fadd16 o => some (opFadd16 o)
  | .fmul16 o => some (opFmul16 o)
  | .fmac16 o => some (opFmac16 o)
  | .padd2s16 o => some (opPadd2s16 o)
  | .pfma2s16 o => some (opPfma2s16 o)
  | .fmax16 o => some (opFmax16 o)
  | .add o => some (opAdd o)
  | .sub o => some (opSub o)
  | .mullo o => some (opMullo o)
  | .mulhi o => some (opMulhi o)
  | .mulhiu o => some (opMulhiu o)
  | .mad o => some (opMad o)
  | .absdiff o => some (opAbsdiff o)
  | .avg o => some (opAvg o)
  | .min o => some (opMin o)
  | .max o => some (opMax o)
  | .minu o => some (opMinu o)
  | .maxu o => some (opMaxu o)
  | .and o => some (opAnd o)
  | .or o => some (opOr o)
  | .xor o => some (opXor o)
  | .andn o => some (opAndn o)
  | .shl o => some (opShl o)
  | .shr o => some (opShr o)
  | .sar o => some (opSar o)
  | .rotl o => some (opRotl o)
  | .bfx o => some (opBfx o)
  | .bfi o => some (opBfi o)
  | .lea2 o => some (opLea2 o)
  | .lea3 o => some (opLea3 o)
  | .selp o => some (opSelp o)
  | .add64 o => some (opAdd64 o)
  | .sub64 o => some (opSub64 o)
  | .shl64 o => some (opShl64 o)
  | .shr64 o => some (opShr64 o)
  | .icmp o => some (opIcmp o)
  | .fcmp o => some (opFcmp o)
  | .addi o => some (opAddi o)
  | .andi o => some (opAndi o)
  | .ori o => some (opOri o)
  | .xori o => some (opXori o)
  | .shifti o => some (opShifti o)
  | .muli o => some (opMuli o)
  | .saddi o => some (opSaddi o)
  | .lui o => some (opLui o)
  | .llo o => some (opLlo o)
  | .adr o => some (opAdr o)
  | .slui o => some (opSlui o)
  | .sllo o => some (opSllo o)
  | .mov o => some (opMov o)
  | .not o => some (opNot o)
  | .neg o => some (opNeg o)
  | .abs o => some (opAbs o)
  | .clz o => some (opClz o)
  | .ctz o => some (opCtz o)
  | .popc o => some (opPopc o)
  | .brev o => some (opBrev o)
  | .bswap o => some (opBswap o)
  | .sext8 o => some (opSext8 o)
  | .sext16 o => some (opSext16 o)
  | .mov64 o => some (opMov64 o)
  | .movx o => some (opMovx o)
  | .movxw o => some (opMovxw o)
  | .iset o => some (opIset o)
  | .iget o => some (opIget o)
  | .scan o => some (opScan o)
  | .delay o => some (opDelay o)
  | .perm o => some (opPerm o)
  | .bfirst o => some (opBfirst o)
  | .blast o => some (opBlast o)
  | .rank o => some (opRank o)
  | .matchLanes o => some (opMatchLanes o)
  | .reduce o => some (opReduce o)
  | .vote o => some (opVote o)
  | .pand o => some (opPand o)
  | .por o => some (opPor o)
  | .pxor o => some (opPxor o)
  | .ptest o => some (opPtest o)
  | .pbit o => some (opPbit o)
  | .pget o => some (opPget o)
  | .sadd o => some (opSadd o)
  | .ssub o => some (opSsub o)
  | .smul o => some (opSmul o)
  | .sand o => some (opSand o)
  | .sor o => some (opSor o)
  | .sxor o => some (opSxor o)
  | .sshl o => some (opSshl o)
  | .sshr o => some (opSshr o)
  | .smov o => some (opSmov o)
  | .sfromv o => some (opSfromv o)
  | .sld o => some (opSld o)
  | .sldd o => some (opSldd o)
  | .sread o => some (opSread o)
  | .swrite o => some (opSwrite o)
  | .spopc o => some (opSpopc o)
  | .sctz o => some (opSctz o)
  | .sclz o => some (opSclz o)
  | .braAlways o => some (opBraAlways o)
  | .braThr o => some (opBraThr o)
  | .braThrNot o => some (opBraThrNot o)
  | .braAny o => some (opBraAny o)
  | .braAll o => some (opBraAll o)
  | .braNone o => some (opBraNone o)
  | .brt o => some (opBrt o)
  | .loop o => some (opLoop o)
  | .call o => some (opCall o)
  | .nop o => some (opNop o)
  | .jmp o => some (opJmp o)
  | .callr o => some (opCallr o)
  | .ret o => some (opRet o)
  | .brkloop o => some (opBrkloop o)
  | .endturn o => some (opEndturn o)
  | .yield o => some (opYield o)
  | .fadd o => some (opFadd o)
  | .fsub o => some (opFsub o)
  | .fmul o => some (opFmul o)
  | .ffma o => some (opFfma o)
  | .fmin o => some (opFmin o)
  | .fmax o => some (opFmax o)
  | .ffmal o => some (opFfmal o)
  | .fnma o => some (opFnma o)
  | .padd2 o => some (opPadd2 o)
  | .pmul2 o => some (opPmul2 o)
  | .pfma2 o => some (opPfma2 o)
  | .pmax2 o => some (opPmax2 o)
  | .dadd o => some (opDadd o)
  | .dsub o => some (opDsub o)
  | .dmul o => some (opDmul o)
  | .dfma o => some (opDfma o)
  | .dmin o => some (opDmin o)
  | .dmax o => some (opDmax o)
  | .fneg o => some (opFneg o)
  | .fabs o => some (opFabs o)
  | .fsqrt o => some (opFsqrt o)
  | .frcp o => some (opFrcp o)
  | .frsq o => some (opFrsq o)
  | .fexp2 o => some (opFexp2 o)
  | .flog2 o => some (opFlog2 o)
  | .fsinpi o => some (opFsinpi o)
  | .fcospi o => some (opFcospi o)
  | .frint o => some (opFrint o)
  | .fclass o => some (opFclass o)
  | .dneg o => some (opDneg o)
  | .dabs o => some (opDabs o)
  | .dsqrt o => some (opDsqrt o)
  | .drcp o => some (opDrcp o)
  | .drint o => some (opDrint o)
  | .dclass o => some (opDclass o)
  | .pneg2 o => some (opPneg2 o)
  | .pabs2 o => some (opPabs2 o)
  | .cvtF32I32 o => some (opCvtF32I32 o)
  | .cvtF32N32 o => some (opCvtF32N32 o)
  | .cvtI32F32 o => some (opCvtI32F32 o)
  | .cvtN32F32 o => some (opCvtN32F32 o)
  | .cvtF64F32 o => some (opCvtF64F32 o)
  | .cvtF32F64 o => some (opCvtF32F64 o)
  | .cvtF64I32 o => some (opCvtF64I32 o)
  | .cvtI32F64 o => some (opCvtI32F64 o)
  | .cvtF32F16 o => some (opCvtF32F16 o)
  | .cvtF16x2F32x2 o => some (opCvtF16x2F32x2 o)
  | .cvtBf16x2F32x2 o => some (opCvtBf16x2F32x2 o)
  | .cvtBf16x4E8x4 o => some (opCvtBf16x4E8x4 o)
  | .cvtE4m3x4Bf16x4 o => some (opCvtE4m3x4Bf16x4 o)
  | .cvtE5m2x4Bf16x4 o => some (opCvtE5m2x4Bf16x4 o)
  | .cvtBf16x2B4 o => some (opCvtBf16x2B4 o)
  | .cvtB4F32 o => some (opCvtB4F32 o)
  | .ldw o => some (opLdw o)
  | .ldd o => some (opLdd o)
  | .ldq o => some (opLdq o)
  | .ldsub o => some (opLdsub o)
  | .stw o => some (opStw o)
  | .std o => some (opStd o)
  | .stq o => some (opStq o)
  | .stsub o => some (opStsub o)
  | .atom32AddI32 o => some (opAtom32AddI32 o)
  | .atom32AddF32 o => some (opAtom32AddF32 o)
  | .atom32MinI32 o => some (opAtom32MinI32 o)
  | .atom32MinN32 o => some (opAtom32MinN32 o)
  | .atom32MinF32 o => some (opAtom32MinF32 o)
  | .atom32MaxI32 o => some (opAtom32MaxI32 o)
  | .atom32MaxN32 o => some (opAtom32MaxN32 o)
  | .atom32MaxF32 o => some (opAtom32MaxF32 o)
  | .atom32AndB32 o => some (opAtom32AndB32 o)
  | .atom32OrB32 o => some (opAtom32OrB32 o)
  | .atom32XorB32 o => some (opAtom32XorB32 o)
  | .atom32ExchB32 o => some (opAtom32ExchB32 o)
  | .atom32CasB32 o => some (opAtom32CasB32 o)
  | .atom64AddI64 o => some (opAtom64AddI64 o)
  | .atom64AddF64 o => some (opAtom64AddF64 o)
  | .atom64MinI64 o => some (opAtom64MinI64 o)
  | .atom64MinN64 o => some (opAtom64MinN64 o)
  | .atom64MinF64 o => some (opAtom64MinF64 o)
  | .atom64MaxI64 o => some (opAtom64MaxI64 o)
  | .atom64MaxN64 o => some (opAtom64MaxN64 o)
  | .atom64MaxF64 o => some (opAtom64MaxF64 o)
  | .atom64AndB64 o => some (opAtom64AndB64 o)
  | .atom64OrB64 o => some (opAtom64OrB64 o)
  | .atom64XorB64 o => some (opAtom64XorB64 o)
  | .atom64ExchB64 o => some (opAtom64ExchB64 o)
  | .atom64CasB64 o => some (opAtom64CasB64 o)
  | .atomxAddBf16 o => some (opAtomxAddBf16 o)
  | .atomxMinBf16 o => some (opAtomxMinBf16 o)
  | .atomxMaxBf16 o => some (opAtomxMaxBf16 o)
  | .atomxAddBf16x2 o => some (opAtomxAddBf16x2 o)
  | .atomxMinBf16x2 o => some (opAtomxMinBf16x2 o)
  | .atomxMaxBf16x2 o => some (opAtomxMaxBf16x2 o)
  | .atomxAddF16x2 o => some (opAtomxAddF16x2 o)
  | .atomxMinF16x2 o => some (opAtomxMinF16x2 o)
  | .atomxMaxF16x2 o => some (opAtomxMaxF16x2 o)
  | .atomxExchB128 o => some (opAtomxExchB128 o)
  | .atomxCasB128 o => some (opAtomxCasB128 o)
  | .pin o => some (opPin o)
  | .unpin o => some (opUnpin o)
  | .cflush o => some (opCflush o)
  | .cinv o => some (opCinv o)
  | .mcrd o => some (opMcrd o)
  | .mcst o => some (opMcst o)
  | .msend o => some (opMsend o)
  | .mwait o => some (opMwait o)
  | .barArrive o => some (opBarArrive o)
  | .barWait o => some (opBarWait o)
  | .boset o => some (opBoset o)
  | .boadd o => some (opBoadd o)
  | .bowait o => some (opBowait o)
  | .fence o => some (opFence o)
  | .qtake o => some (opQtake o)
  | .qpost o => some (opQpost o)
  | .taskend o => some (opTaskend o)
  | .finit o => some (opFinit o)
  | .finitFull o => some (opFinitFull o)
  | .fget o => some (opFget o)
  | .ffill o => some (opFfill o)
  | .cpy o => some (opCpy o)
  | .cpyx o => some (opCpyx o)
  | .coll o => some (opColl o)
  | .estat o => some (opEstat o)
  | .mma o => some (opMma o)
  | .mmaRa o => some (opMmaRa o)
  | .mmaRb o => some (opMmaRb o)
  | .dzero o => some (opDzero o)
  | .dzeroFree o => some (opDzeroFree o)
  | .drdrow o => some (opDrdrow o)
  | .drdcol o => some (opDrdcol o)
  | .dwrrow o => some (opDwrrow o)
  | .drestart o => some (opDrestart o)
  | .twait o => some (opTwait o)
  | .twaitany o => some (opTwaitany o)
  | .tmin o => some (opTmin o)
  | .tmov o => some (opTmov o)
  | .tstat o => some (opTstat o)
  | .tset o => some (opTset o)
  | .tsetClr o => some (opTsetClr o)
  | .tnow o => some (opTnow o)
  | .tdiff o => some (opTdiff o)
  | .yieldt o => some (opYieldt o)
  | .trap o => some (opTrap o)
  | .bkpt o => some (opBkpt o)
  | .eret o => some (opEret o)
  | .eretFail o => some (opEretFail o)
  | .srd o => some (opSrd o)
  | .srdV o => some (opSrdV o)
  | .swr o => some (opSwr o)
  | .swrV o => some (opSwrV o)
  | .idemb o => some (opIdemb o)
  | .ideme o => some (opIdeme o)
  | .cbind o => some (opCbind o)
  | .cunbind o => some (opCunbind o)
  | .qpostStatus _ => none
  | .fgetAnswer _ => none
  | .heldEntryEnqueue _ _ => none
  | .turnStart _ _ => none
  | .codeFetchReturn _ => none
  | .probeAnswer _ _ => none
  | .loadValueArrival _ => none
  | .breachNotice _ _ => none
  | .promiseWithdrawal _ _ => none
  | .promiseLate _ => none
  | .translationWalk _ => none
  | .sliceAdmit _ _ => none
  | .lineReadServe _ => none
  | .homeWriteApply _ => none
  | .markerProcess _ _ => none
  | .atomicHomeStep _ => none
  | .atomicReply _ => none
  | .pinOutcome _ => none
  | .messageAppend _ => none
  | .reductionEntryLeave _ _ => none
  | .overflowDrain _ _ => none
  | .taskEndUpdate _ => none
  | .hostEnqueue _ _ _ _ => none
  | .depCounterNotice _ => none
  | .agingTick _ => none
  | .entryPull _ => none
  | .taskStart _ => none
  | .engineQuote _ _ => none
  | .engineStart _ => none
  | .engineComplete _ => none
  | .mcrdReceiverDelivery _ _ => none
  | .collInstanceForm _ _ => none
  | .deckOpStart _ => none
  | .deckReadReady _ => none
  | .deckOpComplete _ => none
  | .dzeroWaitTimeout _ => none
  | .quantumExpiry _ _ => none
  | .groupSave _ => none
  | .groupResident _ => none
  | .compaction _ _ => none
  | .detRoundStart _ => none
  | .registerScrub _ _ _ _ => none
  | .dieFence _ => none
  | .linkRetry _ _ _ => none
  | .correctedMemoryError _ _ _ => none
  | .clockStepDown _ => none
  | .clockStepUp _ => none
  | .emergencyThrottle _ _ _ => none
  | .refreshDouble _ => none
  | .sensorOvertempFence _ => none
  | .frequencySwitch _ => none
  | .linkWidthReduce _ _ => none
  | .linkWidthIncrease _ => none
  | .viaductPathChange _ _ => none
  | .powerOn _ => none
  | .ueInboundRequest _ => none
  | .remoteWriteAck _ => none
  | .getVersion _ => none
  | .getCapabilities _ _ => none
  | .negotiateAlgorithms _ _ => none
  | .getDigests _ => none
  | .getCertificate _ _ _ _ => none
  | .challenge _ _ _ => none
  | .getMeasurements _ _ => none
  | .keyExchange _ _ _ => none
  | .finish _ _ => none
  | .heartbeat _ => none
  | .keyUpdate _ => none
  | .endSession _ => none
  | .spdmUnsupported _ _ => none
  | .mgmtMalformed _ _ _ => none
  | .ctxstart _ _ => none
  | .ctxend _ => none
  | .ctxendComplete _ => none
  | .suspend _ => none
  | .resume _ => none
  | .tlbinv _ _ _ _ => none
  | .tlbinvComplete _ => none
  | .hwinset _ _ => none
  | .hwinsetComplete _ => none
  | .keyset _ _ _ => none
  | .keyerase _ _ _ => none
  | .modset _ _ => none
  | .fwupdate _ _ _ => none
  | .dbgattach _ => none
  | .dbghalt _ _ => none
  | .dbghaltDie _ _ => none
  | .dbgrun _ _ => none
  | .dbgstep _ _ _ => none
  | .dbgread _ _ _ => none
  | .dbgwrite _ _ _ _ => none
  | .trcstart _ _ => none
  | .trcstop _ => none
  | .monread _ _ => none
  | .linkset _ _ => none
  | .portmode _ _ _ => none
  | .portRetrainDone _ => none
  | .stallSample _ _ => none
  | .podModuleLoss _ => none

end Sys2Proof.Machine
end

