-- ==== Sys2Proof/WellFormed.lean ====
section
/-! DEFINITION. Well-formed instructions: the fields lie within their encoding (`fits`, so that the decoder reads the word
of the encoder back) and the operands are those their positions allow (`operandsOk`, the static rows of R121). An ill-formed
encoding that a program holds is no refusal: it raises the exception of R119 and R122. -/

namespace Sys2Proof

/-- A destination code of R87: 0x40 and 0x42 have names of their own. -/
def Dst.fits : Dst → Bool
  | .rsv n => n != 0 && n != 2
  | .v _ | .sup | .q => true

/-- A uniform source code of R117: 0x43 and 0x70 to 0x7F have names of their own. -/
def USrc.fits : USrc → Bool
  | .rsv n => decide (n.toNat < 48) && n != 3
  | .s _ | .zero | .imm _ => true

/-- A source that the five bits of R105 can name. -/
def Src.fits16 (s : Src) : Bool := decide (b16Code s < 32)

/-- The fields lie within the encoding of the row. -/
def Instr.fits : Instr → Bool
  | .add16 o => o.b.fits16 && !(o.d == 0 && o.b == .v 0)
  | .sub16 o => o.b.fits16
  | .and16 o => o.b.fits16
  | .or16 o => o.b.fits16
  | .xor16 o => o.b.fits16
  | .shl16 o => o.b.fits16
  | .shr16 o => o.b.fits16
  | .min16 o => o.b.fits16
  | .max16 o => o.b.fits16
  | .mov16 o => o.b.fits16
  | .fadd16 o => o.b.fits16
  | .fmul16 o => o.b.fits16
  | .fmac16 o => o.b.fits16
  | .padd2s16 o => o.b.fits16
  | .pfma2s16 o => o.b.fits16
  | .fmax16 o => o.b.fits16
  | .add o => o.d.fits
  | .sub o => o.d.fits
  | .mullo o => o.d.fits
  | .mulhi o => o.d.fits
  | .mulhiu o => o.d.fits
  | .mad o => o.d.fits
  | .absdiff o => o.d.fits
  | .avg o => o.d.fits
  | .min o => o.d.fits
  | .max o => o.d.fits
  | .minu o => o.d.fits
  | .maxu o => o.d.fits
  | .and o => o.d.fits
  | .or o => o.d.fits
  | .xor o => o.d.fits
  | .andn o => o.d.fits
  | .shl o => o.d.fits
  | .shr o => o.d.fits
  | .sar o => o.d.fits
  | .rotl o => o.d.fits
  | .bfx o => o.d.fits
  | .bfi o => o.d.fits
  | .lea2 o => o.d.fits
  | .lea3 o => o.d.fits
  | .selp o => o.d.fits && o.p != 0
  | .add64 o => o.d.fits
  | .sub64 o => o.d.fits
  | .shl64 o => o.d.fits
  | .shr64 o => o.d.fits
  | .icmp _ => true
  | .fcmp _ => true
  | .addi o => o.d.fits
  | .andi o => o.d.fits
  | .ori o => o.d.fits
  | .xori o => o.d.fits
  | .shifti o => o.d.fits
  | .muli o => o.d.fits
  | .saddi o => o.a.fits
  | .lui o => o.d.fits
  | .llo o => o.d.fits
  | .adr o => o.d.fits
  | .slui _ => true
  | .sllo _ => true
  | .mov o => o.d.fits
  | .not o => o.d.fits
  | .neg o => o.d.fits
  | .abs o => o.d.fits
  | .clz o => o.d.fits
  | .ctz o => o.d.fits
  | .popc o => o.d.fits
  | .brev o => o.d.fits
  | .bswap o => o.d.fits
  | .sext8 o => o.d.fits
  | .sext16 o => o.d.fits
  | .mov64 o => o.d.fits
  | .movx o => o.d.fits
  | .movxw _ => true
  | .iset _ => true
  | .iget o => o.d.fits
  | .scan o => o.d.fits
  | .delay o => o.d.fits
  | .perm o => o.d.fits
  | .bfirst o => o.d.fits
  | .blast o => o.d.fits
  | .rank o => o.d.fits
  | .matchLanes o => o.d.fits
  | .reduce _ => true
  | .vote _ => true
  | .pand _ => true
  | .por _ => true
  | .pxor _ => true
  | .ptest _ => true
  | .pbit _ => true
  | .pget o => o.d.fits
  | .sadd o => o.b.fits && o.a.fits
  | .ssub o => o.b.fits && o.a.fits
  | .smul o => o.b.fits && o.a.fits
  | .sand o => o.b.fits && o.a.fits
  | .sor o => o.b.fits && o.a.fits
  | .sxor o => o.b.fits && o.a.fits
  | .sshl o => o.b.fits && o.a.fits
  | .sshr o => o.b.fits && o.a.fits
  | .smov o => o.a.fits
  | .sfromv _ => true
  | .sld o => o.a.fits
  | .sldd o => o.a.fits
  | .sread o => o.g == 0
  | .swrite o => o.a.fits && o.d.fits
  | .spopc o => o.a.fits
  | .sctz o => o.a.fits
  | .sclz o => o.a.fits
  | .braAlways _ => true
  | .braThr _ => true
  | .braThrNot o => o.g != 0
  | .braAny o => o.g != 0
  | .braAll o => o.g != 0
  | .braNone o => o.g != 0
  | .brt _ => true
  | .loop _ => true
  | .call _ => true
  | .nop _ => true
  | .jmp _ => true
  | .callr o => o.a.fits
  | .ret o => o.a.fits
  | .brkloop _ => true
  | .endturn _ => true
  | .yield _ => true
  | .fadd o => o.d.fits
  | .fsub o => o.d.fits
  | .fmul o => o.d.fits
  | .ffma o => o.d.fits
  | .fmin o => o.d.fits
  | .fmax o => o.d.fits
  | .ffmal o => o.d.fits
  | .fnma o => o.d.fits
  | .padd2 o => o.d.fits
  | .pmul2 o => o.d.fits
  | .pfma2 o => o.d.fits
  | .pmax2 o => o.d.fits
  | .dadd o => o.d.fits
  | .dsub o => o.d.fits
  | .dmul o => o.d.fits
  | .dfma o => o.d.fits
  | .dmin o => o.d.fits
  | .dmax o => o.d.fits
  | .fneg o => o.d.fits
  | .fabs o => o.d.fits
  | .fsqrt o => o.d.fits
  | .frcp o => o.d.fits
  | .frsq o => o.d.fits
  | .fexp2 o => o.d.fits
  | .flog2 o => o.d.fits
  | .fsinpi o => o.d.fits
  | .fcospi o => o.d.fits
  | .frint o => o.d.fits
  | .fclass o => o.d.fits
  | .dneg o => o.d.fits
  | .dabs o => o.d.fits
  | .dsqrt o => o.d.fits
  | .drcp o => o.d.fits
  | .drint o => o.d.fits
  | .dclass o => o.d.fits
  | .pneg2 o => o.d.fits
  | .pabs2 o => o.d.fits
  | .cvtF32I32 o => o.d.fits
  | .cvtF32N32 o => o.d.fits
  | .cvtI32F32 o => o.d.fits
  | .cvtN32F32 o => o.d.fits
  | .cvtF64F32 o => o.d.fits && o.r == .dyn
  | .cvtF32F64 o => o.d.fits
  | .cvtF64I32 o => o.d.fits && o.r == .dyn
  | .cvtI32F64 o => o.d.fits
  | .cvtF32F16 o => o.d.fits && o.r == .dyn
  | .cvtF16x2F32x2 o => o.d.fits
  | .cvtBf16x2F32x2 o => o.d.fits
  | .cvtBf16x4E8x4 o => o.d.fits && o.r == .dyn
  | .cvtE4m3x4Bf16x4 o => o.d.fits
  | .cvtE5m2x4Bf16x4 o => o.d.fits
  | .cvtBf16x2B4 o => o.d.fits && o.r == .dyn
  | .cvtB4F32 o => o.d.fits
  | .ldw o => o.d.fits
  | .ldd o => o.d.fits
  | .ldq o => o.d.fits
  | .ldsub o => o.d.fits
  | .stw _ => true
  | .std _ => true
  | .stq _ => true
  | .stsub _ => true
  | .atom32AddI32 o => o.d.fits
  | .atom32AddF32 o => o.d.fits
  | .atom32MinI32 o => o.d.fits
  | .atom32MinN32 o => o.d.fits
  | .atom32MinF32 o => o.d.fits
  | .atom32MaxI32 o => o.d.fits
  | .atom32MaxN32 o => o.d.fits
  | .atom32MaxF32 o => o.d.fits
  | .atom32AndB32 o => o.d.fits
  | .atom32OrB32 o => o.d.fits
  | .atom32XorB32 o => o.d.fits
  | .atom32ExchB32 o => o.d.fits
  | .atom32CasB32 o => o.d.fits
  | .atom64AddI64 o => o.d.fits
  | .atom64AddF64 o => o.d.fits
  | .atom64MinI64 o => o.d.fits
  | .atom64MinN64 o => o.d.fits
  | .atom64MinF64 o => o.d.fits
  | .atom64MaxI64 o => o.d.fits
  | .atom64MaxN64 o => o.d.fits
  | .atom64MaxF64 o => o.d.fits
  | .atom64AndB64 o => o.d.fits
  | .atom64OrB64 o => o.d.fits
  | .atom64XorB64 o => o.d.fits
  | .atom64ExchB64 o => o.d.fits
  | .atom64CasB64 o => o.d.fits
  | .atomxAddBf16 o => o.d.fits
  | .atomxMinBf16 o => o.d.fits
  | .atomxMaxBf16 o => o.d.fits
  | .atomxAddBf16x2 o => o.d.fits
  | .atomxMinBf16x2 o => o.d.fits
  | .atomxMaxBf16x2 o => o.d.fits
  | .atomxAddF16x2 o => o.d.fits
  | .atomxMinF16x2 o => o.d.fits
  | .atomxMaxF16x2 o => o.d.fits
  | .atomxExchB128 o => o.d.fits
  | .atomxCasB128 o => o.d.fits
  | .pin o => o.d.fits
  | .unpin _ => true
  | .cflush _ => true
  | .cinv _ => true
  | .mcrd o => o.a.fits
  | .mcst _ => true
  | .msend _ => true
  | .mwait _ => true
  | .barArrive o => o.a.fits && decide (2 ≤ scopeCode o.sc)
  | .barWait o => decide (2 ≤ scopeCode o.sc)
  | .boset _ => true
  | .boadd _ => true
  | .bowait _ => true
  | .fence _ => true
  | .qtake _ => true
  | .qpost o => o.a.fits
  | .taskend _ => true
  | .finit _ => true
  | .finitFull _ => true
  | .fget o => o.d.fits
  | .ffill _ => true
  | .cpy o => o.a.fits
  | .cpyx o => o.a.fits
  | .coll o => o.a.fits
  | .estat _ => true
  | .mma o => o.n.fits
  | .mmaRa o => o.n.fits
  | .mmaRb o => o.n.fits
  | .dzero _ => true
  | .dzeroFree _ => true
  | .drdrow o => o.d.fits
  | .drdcol o => o.d.fits
  | .dwrrow o => o.d.fits
  | .drestart o => o.a.fits
  | .twait _ => true
  | .twaitany _ => true
  | .tmin o => o.d.fits
  | .tmov _ => true
  | .tstat o => o.d.fits
  | .tset _ => true
  | .tsetClr _ => true
  | .tnow o => o.d.fits
  | .tdiff o => o.d.fits
  | .yieldt _ => true
  | .trap _ => true
  | .bkpt _ => true
  | .eret _ => true
  | .eretFail _ => true
  | .srd _ => true
  | .srdV o => o.d.fits
  | .swr o => o.a.fits
  | .swrV _ => true
  | .idemb _ => true
  | .ideme _ => true
  | .cbind _ => true
  | .cunbind _ => true
  | .qpostStatus _ => true
  | .fgetAnswer _ => true
  | .heldEntryEnqueue _ _ => true
  | .turnStart _ _ => true
  | .codeFetchReturn _ => true
  | .probeAnswer _ _ => true
  | .loadValueArrival _ => true
  | .breachNotice _ _ => true
  | .promiseWithdrawal _ _ => true
  | .promiseLate _ => true
  | .translationWalk _ => true
  | .sliceAdmit _ _ => true
  | .lineReadServe _ => true
  | .homeWriteApply _ => true
  | .markerProcess _ _ => true
  | .atomicHomeStep _ => true
  | .atomicReply _ => true
  | .pinOutcome _ => true
  | .messageAppend _ => true
  | .reductionEntryLeave _ _ => true
  | .overflowDrain _ _ => true
  | .taskEndUpdate _ => true
  | .hostEnqueue _ _ _ _ => true
  | .depCounterNotice _ => true
  | .agingTick _ => true
  | .entryPull _ => true
  | .taskStart _ => true
  | .engineQuote _ _ => true
  | .engineStart _ => true
  | .engineComplete _ => true
  | .mcrdReceiverDelivery _ _ => true
  | .collInstanceForm _ _ => true
  | .deckOpStart _ => true
  | .deckReadReady _ => true
  | .deckOpComplete _ => true
  | .dzeroWaitTimeout _ => true
  | .quantumExpiry _ _ => true
  | .groupSave _ => true
  | .groupResident _ => true
  | .compaction _ _ => true
  | .detRoundStart _ => true
  | .registerScrub _ _ _ _ => true
  | .dieFence _ => true
  | .linkRetry _ _ _ => true
  | .correctedMemoryError _ _ _ => true
  | .clockStepDown _ => true
  | .clockStepUp _ => true
  | .emergencyThrottle _ _ _ => true
  | .refreshDouble _ => true
  | .sensorOvertempFence _ => true
  | .frequencySwitch _ => true
  | .linkWidthReduce _ _ => true
  | .linkWidthIncrease _ => true
  | .viaductPathChange _ _ => true
  | .powerOn _ => true
  | .ueInboundRequest _ => true
  | .remoteWriteAck _ => true
  | .getVersion _ => true
  | .getCapabilities _ _ => true
  | .negotiateAlgorithms _ _ => true
  | .getDigests _ => true
  | .getCertificate _ _ _ _ => true
  | .challenge _ _ _ => true
  | .getMeasurements _ _ => true
  | .keyExchange _ _ _ => true
  | .finish _ _ => true
  | .heartbeat _ => true
  | .keyUpdate _ => true
  | .endSession _ => true
  | .spdmUnsupported _ _ => true
  | .mgmtMalformed _ _ _ => true
  | .ctxstart _ _ => true
  | .ctxend _ => true
  | .ctxendComplete _ => true
  | .suspend _ => true
  | .resume _ => true
  | .tlbinv _ _ _ _ => true
  | .tlbinvComplete _ => true
  | .hwinset _ _ => true
  | .hwinsetComplete _ => true
  | .keyset _ _ _ => true
  | .keyerase _ _ _ => true
  | .modset _ _ => true
  | .fwupdate _ _ _ => true
  | .dbgattach _ => true
  | .dbghalt _ _ => true
  | .dbghaltDie _ _ => true
  | .dbgrun _ _ => true
  | .dbgstep _ _ _ => true
  | .dbgread _ _ _ => true
  | .dbgwrite _ _ _ _ => true
  | .trcstart _ _ => true
  | .trcstop _ => true
  | .monread _ _ => true
  | .linkset _ _ => true
  | .portmode _ _ _ => true
  | .portRetrainDone _ => true
  | .stallSample _ _ => true
  | .podModuleLoss _ => true

/-- The operands are those their positions allow (R72, R87, R116 to R118). -/
def Instr.operandsOk (i : Instr) : Bool :=
  match Machine.opOf i with
  | some op => Machine.operandsOk op.pos
  | none => true

/-- A well-formed instruction. -/
def Instr.wf (i : Instr) : Bool := i.fits && i.operandsOk

end Sys2Proof
end

