-- ==== Sys2Proof/Laws/Codes.lean ====
section
/-! SUPPORT. The codes of the operands and of the named choices: each decodes to what was encoded. -/

namespace Sys2Proof

set_option Elab.async false

theorem srcCode_lt (s : Src) : srcCode s < 128 := by
  cases s <;> simp only [srcCode] <;> omega

theorem dstCode_lt (s : Dst) : dstCode s < 128 := by
  cases s <;> simp only [dstCode] <;> omega

theorem usrcCode_lt (s : USrc) : usrcCode s < 128 := by
  cases s <;> simp only [usrcCode] <;> omega

theorem udstCode_lt (s : UDst) : udstCode s < 128 := by
  cases s <;> simp only [udstCode] <;> omega

theorem iCondCode_lt (s : ICond) : iCondCode s < 8 := by
  cases s <;> simp only [iCondCode] <;> omega

theorem fCondCode_lt (s : FCond) : fCondCode s < 8 := by
  cases s <;> simp only [fCondCode] <;> omega

theorem iCmpTyCode_lt (s : ICmpTy) : iCmpTyCode s < 4 := by
  cases s <;> simp only [iCmpTyCode] <;> omega

theorem fCmpTyCode_lt (s : FCmpTy) : fCmpTyCode s < 3 := by
  cases s <;> simp only [fCmpTyCode] <;> omega

theorem shiftKindCode_lt (s : ShiftKind) : shiftKindCode s < 4 := by
  cases s <;> simp only [shiftKindCode] <;> omega

theorem subSizeCode_lt (s : SubSize) : subSizeCode s < 4 := by
  cases s <;> simp only [subSizeCode] <;> omega

theorem timeTestCode_lt (s : TimeTest) : timeTestCode s < 4 := by
  cases s <;> simp only [timeTestCode] <;> omega

theorem scopeCode_lt (s : Scope) : scopeCode s < 8 := by
  cases s <;> simp only [scopeCode] <;> omega

theorem fenceKindCode_lt (s : FenceKind) : fenceKindCode s < 4 := by
  cases s <;> simp only [fenceKindCode] <;> omega

theorem estatKindCode_lt (s : EstatKind) : estatKindCode s < 3 := by
  cases s <;> simp only [estatKindCode] <;> omega

theorem scanOpCode_lt (s : ScanOp) : scanOpCode s < 8 := by
  cases s <;> simp only [scanOpCode] <;> omega

theorem rndSelCode_lt (s : RndSel) : rndSelCode s < 5 := by
  cases s <;> simp only [rndSelCode] <;> omega

theorem groupValCode_lt (s : GroupVal) : groupValCode s < 15 := by
  cases s <;> simp only [groupValCode] <;> omega

theorem threadValCode_lt (s : ThreadVal) : threadValCode s < 36 := by
  cases s <;> simp only [threadValCode] <;> omega

theorem fenceKindCode_pos (s : FenceKind) : 0 < fenceKindCode s := by
  cases s <;> decide

theorem threadValCode_ge (s : ThreadVal) : 32 ≤ threadValCode s := by
  cases s <;> decide

theorem iCond_back (s : ICond) : iCondOf (iCondCode s) = s := by
  cases s <;> rfl

theorem fCond_back (s : FCond) : fCondOf (fCondCode s) = s := by
  cases s <;> rfl

theorem iCmpTy_back (s : ICmpTy) : iCmpTyOf (iCmpTyCode s) = s := by
  cases s <;> rfl

theorem fCmpTy_back (s : FCmpTy) : fCmpTyOf (fCmpTyCode s) = s := by
  cases s <;> rfl

theorem shiftKind_back (s : ShiftKind) : shiftKindOf (shiftKindCode s) = s := by
  cases s <;> rfl

theorem subSize_back (s : SubSize) : subSizeOf (subSizeCode s) = s := by
  cases s <;> rfl

theorem timeTest_back (s : TimeTest) : timeTestOf (timeTestCode s) = s := by
  cases s <;> rfl

theorem scope_back (s : Scope) : scopeOf (scopeCode s) = s := by
  cases s <;> rfl

theorem fenceKind_back (s : FenceKind) : fenceKindOf (fenceKindCode s) = s := by
  cases s <;> rfl

theorem estatKind_back (s : EstatKind) : estatKindOf (estatKindCode s) = s := by
  cases s <;> rfl

theorem scanOp_back (s : ScanOp) : scanOpOf (scanOpCode s) = s := by
  cases s <;> rfl

theorem rndSel_back (s : RndSel) : rndSelOf (rndSelCode s) = s := by
  cases s <;> rfl

theorem groupVal_back (s : GroupVal) : groupValOf (groupValCode s) = s := by
  cases s <;> rfl

theorem threadVal_back (s : ThreadVal) : threadValOf (threadValCode s) = s := by
  cases s <;> rfl

theorem src_back (s : Src) : srcOfCode (srcCode s) = s := by
  cases s with
  | v r => revert r; decide
  | l0 | l1 | q | zero => rfl
  | rsv n => revert n; decide
  | c k => revert k; decide
  | s r => revert r; decide
  | imm i => revert i; decide

theorem dst_back (s : Dst) (h : s.fits = true) : dstOfCode (dstCode s) = s := by
  cases s with
  | v r => revert r; decide
  | sup | q => rfl
  | rsv n => revert n; decide

theorem usrc_back (s : USrc) (h : s.fits = true) : usrcOfCode (usrcCode s) = s := by
  cases s with
  | s r => revert r; decide
  | zero => rfl
  | rsv n => revert n; decide
  | imm i => revert i; decide

theorem udst_back (s : UDst) : udstOfCode (udstCode s) = s := by
  cases s with
  | s r => revert r; decide
  | rsv n => revert n; decide

theorem b16_back (s : Src) (h : s.fits16 = true) : b16Of (b16Code s) = s := by
  cases s with
  | v r => revert r; decide
  | l0 | l1 | q | zero => rfl
  | rsv n => revert n; decide
  | c k => revert k; decide
  | s r => revert r; decide
  | imm i => revert i; decide

theorem bit_back {w lo : Nat} {b : Bool} (h : w / 2 ^ lo % 2 = b.toNat) : bit w lo = b := by
  simp only [bit, h]; cases b <;> rfl

theorem bit_off {w lo : Nat} (h : w / 2 ^ lo % 2 = 0) : bit w lo = false := by
  simp only [bit, h]; rfl

theorem bit_on {w lo : Nat} (h : w / 2 ^ lo % 2 = 1) : bit w lo = true := by
  simp only [bit, h]; rfl

theorem field_back {w lo n : Nat} {b : BitVec n} (h : w / 2 ^ lo % 2 ^ n = b.toNat) : field w lo n = b := by
  apply BitVec.eq_of_toNat_eq; simp [field, h]

theorem ofNat_back {w n : Nat} {b : BitVec n} (h : w = b.toNat) : BitVec.ofNat n w = b := by simp [h]

theorem toNat_ne_zero {n : Nat} {b : BitVec n} (h : (b != 0#n) = true) : b.toNat ≠ 0 := by
  intro e; simp at h; exact h (BitVec.eq_of_toNat_eq (by simpa using e))

theorem rowOf32_00 {w : Nat} (h : bits w 1 6 = 0) : rowOf32 w = rowMajor00 w := by
  simp only [rowOf32, h]

theorem rowOf32_01 {w : Nat} (h : bits w 1 6 = 1) : rowOf32 w = rowMajor01 w := by
  simp only [rowOf32, h]

theorem rowOf32_02 {w : Nat} (h : bits w 1 6 = 2) : rowOf32 w = rowMajor02 w := by
  simp only [rowOf32, h]

theorem rowOf32_03 {w : Nat} (h : bits w 1 6 = 3) : rowOf32 w = rowMajor03 w := by
  simp only [rowOf32, h]

theorem rowOf32_04 {w : Nat} (h : bits w 1 6 = 4) : rowOf32 w = rowMajor04 w := by
  simp only [rowOf32, h]

theorem rowOf32_05 {w : Nat} (h : bits w 1 6 = 5) : rowOf32 w = rowMajor05 w := by
  simp only [rowOf32, h]

theorem rowOf32_06 {w : Nat} (h : bits w 1 6 = 6) : rowOf32 w = rowMajor06 w := by
  simp only [rowOf32, h]

theorem rowOf32_07 {w : Nat} (h : bits w 1 6 = 7) : rowOf32 w = rowMajor07 w := by
  simp only [rowOf32, h]

theorem rowOf32_08 {w : Nat} (h : bits w 1 6 = 8) : rowOf32 w = rowMajor08 w := by
  simp only [rowOf32, h]

theorem rowOf32_09 {w : Nat} (h : bits w 1 6 = 9) : rowOf32 w = rowMajor09 w := by
  simp only [rowOf32, h]

theorem rowOf32_0A {w : Nat} (h : bits w 1 6 = 10) : rowOf32 w = some .addi := by
  simp only [rowOf32, h]

theorem rowOf32_0B {w : Nat} (h : bits w 1 6 = 11) : rowOf32 w = some .andi := by
  simp only [rowOf32, h]

theorem rowOf32_0C {w : Nat} (h : bits w 1 6 = 12) : rowOf32 w = some .ori := by
  simp only [rowOf32, h]

theorem rowOf32_0D {w : Nat} (h : bits w 1 6 = 13) : rowOf32 w = some .xori := by
  simp only [rowOf32, h]

theorem rowOf32_0E {w : Nat} (h : bits w 1 6 = 14) : rowOf32 w = rowMajor0E w := by
  simp only [rowOf32, h]

theorem rowOf32_0F {w : Nat} (h : bits w 1 6 = 15) : rowOf32 w = some .muli := by
  simp only [rowOf32, h]

theorem rowOf32_10 {w : Nat} (h : bits w 1 6 = 16) : rowOf32 w = some .lui := by
  simp only [rowOf32, h]

theorem rowOf32_11 {w : Nat} (h : bits w 1 6 = 17) : rowOf32 w = rowMajor11 w := by
  simp only [rowOf32, h]

theorem rowOf32_12 {w : Nat} (h : bits w 1 6 = 18) : rowOf32 w = some .adr := by
  simp only [rowOf32, h]

theorem rowOf32_13 {w : Nat} (h : bits w 1 6 = 19) : rowOf32 w = rowMajor13 w := by
  simp only [rowOf32, h]

theorem rowOf32_14 {w : Nat} (h : bits w 1 6 = 20) : rowOf32 w = rowMajor14 w := by
  simp only [rowOf32, h]

theorem rowOf32_15 {w : Nat} (h : bits w 1 6 = 21) : rowOf32 w = rowMajor15 w := by
  simp only [rowOf32, h]

theorem rowOf32_18 {w : Nat} (h : bits w 1 6 = 24) : rowOf32 w = rowMajor18 w := by
  simp only [rowOf32, h]

theorem rowOf32_19 {w : Nat} (h : bits w 1 6 = 25) : rowOf32 w = rowMajor19 w := by
  simp only [rowOf32, h]

theorem rowOf32_1A {w : Nat} (h : bits w 1 6 = 26) : rowOf32 w = rowMajor1A w := by
  simp only [rowOf32, h]

theorem rowOf32_1B {w : Nat} (h : bits w 1 6 = 27) : rowOf32 w = rowMajor1B w := by
  simp only [rowOf32, h]

theorem rowOf32_1C {w : Nat} (h : bits w 1 6 = 28) : rowOf32 w = rowMajor1C w := by
  simp only [rowOf32, h]

theorem rowOf32_1D {w : Nat} (h : bits w 1 6 = 29) : rowOf32 w = rowMajor1D w := by
  simp only [rowOf32, h]

theorem rowOf32_1E {w : Nat} (h : bits w 1 6 = 30) : rowOf32 w = rowMajor1E w := by
  simp only [rowOf32, h]

theorem rowOf32_20 {w : Nat} (h : bits w 1 6 = 32) : rowOf32 w = some .ldw := by
  simp only [rowOf32, h]

theorem rowOf32_21 {w : Nat} (h : bits w 1 6 = 33) : rowOf32 w = some .ldd := by
  simp only [rowOf32, h]

theorem rowOf32_22 {w : Nat} (h : bits w 1 6 = 34) : rowOf32 w = some .ldq := by
  simp only [rowOf32, h]

theorem rowOf32_23 {w : Nat} (h : bits w 1 6 = 35) : rowOf32 w = some .ldsub := by
  simp only [rowOf32, h]

theorem rowOf32_24 {w : Nat} (h : bits w 1 6 = 36) : rowOf32 w = some .stw := by
  simp only [rowOf32, h]

theorem rowOf32_25 {w : Nat} (h : bits w 1 6 = 37) : rowOf32 w = some .std := by
  simp only [rowOf32, h]

theorem rowOf32_26 {w : Nat} (h : bits w 1 6 = 38) : rowOf32 w = some .stq := by
  simp only [rowOf32, h]

theorem rowOf32_27 {w : Nat} (h : bits w 1 6 = 39) : rowOf32 w = rowMajor27 w := by
  simp only [rowOf32, h]

theorem rowOf32_28 {w : Nat} (h : bits w 1 6 = 40) : rowOf32 w = rowMajor28 w := by
  simp only [rowOf32, h]

theorem rowOf32_29 {w : Nat} (h : bits w 1 6 = 41) : rowOf32 w = rowMajor29 w := by
  simp only [rowOf32, h]

theorem rowOf32_2A {w : Nat} (h : bits w 1 6 = 42) : rowOf32 w = rowMajor2A w := by
  simp only [rowOf32, h]

theorem rowOf32_2B {w : Nat} (h : bits w 1 6 = 43) : rowOf32 w = rowMajor2B w := by
  simp only [rowOf32, h]

theorem rowOf32_2C {w : Nat} (h : bits w 1 6 = 44) : rowOf32 w = rowMajor2C w := by
  simp only [rowOf32, h]

theorem rowOf32_2D {w : Nat} (h : bits w 1 6 = 45) : rowOf32 w = rowMajor2D w := by
  simp only [rowOf32, h]

theorem rowOf32_2E {w : Nat} (h : bits w 1 6 = 46) : rowOf32 w = rowMajor2E w := by
  simp only [rowOf32, h]

theorem rowOf32_2F {w : Nat} (h : bits w 1 6 = 47) : rowOf32 w = rowMajor2F w := by
  simp only [rowOf32, h]

theorem rowOf32_30 {w : Nat} (h : bits w 1 6 = 48) : rowOf32 w = rowMajor30 w := by
  simp only [rowOf32, h]

theorem rowOf32_31 {w : Nat} (h : bits w 1 6 = 49) : rowOf32 w = rowMajor31 w := by
  simp only [rowOf32, h]

theorem rowOf32_32 {w : Nat} (h : bits w 1 6 = 50) : rowOf32 w = some .saddi := by
  simp only [rowOf32, h]

theorem rowOf32_33 {w : Nat} (h : bits w 1 6 = 51) : rowOf32 w = rowMajor33 w := by
  simp only [rowOf32, h]

theorem rowOf32_34 {w : Nat} (h : bits w 1 6 = 52) : rowOf32 w = some .slui := by
  simp only [rowOf32, h]

theorem rowOf32_35 {w : Nat} (h : bits w 1 6 = 53) : rowOf32 w = rowMajor35 w := by
  simp only [rowOf32, h]

theorem rowOf32_38 {w : Nat} (h : bits w 1 6 = 56) : rowOf32 w = rowMajor38 w := by
  simp only [rowOf32, h]

theorem rowOf32_39 {w : Nat} (h : bits w 1 6 = 57) : rowOf32 w = some .brt := by
  simp only [rowOf32, h]

theorem rowOf32_3A {w : Nat} (h : bits w 1 6 = 58) : rowOf32 w = rowMajor3A w := by
  simp only [rowOf32, h]

theorem rowOf32_3B {w : Nat} (h : bits w 1 6 = 59) : rowOf32 w = rowMajor3B w := by
  simp only [rowOf32, h]

theorem rowOf32_3C {w : Nat} (h : bits w 1 6 = 60) : rowOf32 w = rowMajor3C w := by
  simp only [rowOf32, h]

theorem rowOf32_3D {w : Nat} (h : bits w 1 6 = 61) : rowOf32 w = rowMajor3D w := by
  simp only [rowOf32, h]

/-- Four bytes of a word below 2^32 are the word. -/
theorem leNat_wordBytes4 {w : Nat} (h : w < 2 ^ 32) (rest : List Byte) : leNat ((wordBytes 4 w ++ rest).take 4) = w := by
  simp only [wordBytes, List.cons_append, List.nil_append, List.take, leNat, BitVec.toNat_ofNat]; omega

theorem leNat_wordBytes2 {w : Nat} (h : w < 2 ^ 16) (rest : List Byte) : leNat ((wordBytes 2 w ++ rest).take 2) = w := by
  simp only [wordBytes, List.cons_append, List.nil_append, List.take, leNat, BitVec.toNat_ofNat]; omega

/-- The decoder reads a 32-bit word by its row. -/
theorem decode_word32 {w : Nat} {r : Row} {i : Instr} (hlt : w < 2 ^ 32) (hodd : w % 2 = 1) (hr : rowOf32 w = some r)
    (hi : rowInstr r w = i) (rest : List Byte) : decode (wordBytes 4 w ++ rest) = some (i, 4, rest) := by
  have h1 : wordSize (leNat ((wordBytes 4 w ++ rest).take 1)) = 4 := by
    simp only [wordBytes, List.cons_append, List.nil_append, List.take, leNat, BitVec.toNat_ofNat, wordSize]; split <;> omega
  have h2 := leNat_wordBytes4 hlt rest
  have h3 : rowOf w = some r := by rw [rowOf, if_neg (by omega), hr]
  have h4 : ¬ ((wordBytes 4 w ++ rest).length < 4 ∨ wordBytes 4 w ++ rest = []) := by simp [wordBytes]
  have h5 : (wordBytes 4 w ++ rest).drop 4 = rest := by simp [wordBytes]
  simp only [decode, h1]
  rw [if_neg h4, h2, h3, h5, Option.map_some, hi]

/-- The decoder reads a 16-bit word by its row. -/
theorem decode_word16 {w : Nat} {r : Row} {i : Instr} (hlt : w < 2 ^ 16) (heven : w % 2 = 0) (hr : rowOf16 w = some r)
    (hi : rowInstr r w = i) (rest : List Byte) : decode (wordBytes 2 w ++ rest) = some (i, 2, rest) := by
  have h1 : wordSize (leNat ((wordBytes 2 w ++ rest).take 1)) = 2 := by
    simp only [wordBytes, List.cons_append, List.nil_append, List.take, leNat, BitVec.toNat_ofNat, wordSize]; split <;> omega
  have h2 := leNat_wordBytes2 hlt rest
  have h3 : rowOf w = some r := by rw [rowOf, if_pos heven, show w % 65536 = w by omega, hr]
  have h4 : ¬ ((wordBytes 2 w ++ rest).length < 2 ∨ wordBytes 2 w ++ rest = []) := by simp [wordBytes]
  have h5 : (wordBytes 2 w ++ rest).drop 2 = rest := by simp [wordBytes]
  simp only [decode, h1]
  rw [if_neg h4, h2, h3, h5, Option.map_some, hi]

end Sys2Proof
end

