-- ==== Sys2Proof/Laws/Formats.lean ====
section
/-! SUPPORT. Each format: the fields read from the word of the encoder are the fields encoded. -/

namespace Sys2Proof

set_option Elab.async false

theorem dec16_back (J : Nat) (hJ : J < 32) (o : Fmt16) (h : o.b.fits16 = true) :
    dec16 (J + o.d.toNat * 2 ^ 5 + b16Code o.b * 2 ^ 11) = o := by
  have hb : b16Code o.b < 32 := of_decide_eq_true h
  have := o.d.isLt
  have e1 : bits (J + o.d.toNat * 2 ^ 5 + b16Code o.b * 2 ^ 11) 11 5 = b16Code o.b := by simp only [bits]; omega
  have e2 : field (J + o.d.toNat * 2 ^ 5 + b16Code o.b * 2 ^ 11) 5 6 = o.d := field_back (by omega)
  simp only [dec16, e1, e2, b16_back _ h]

theorem decA_back (J : Nat) (hJ : J < 512) (o : FmtA) (hd : o.d.fits = true) : decA (J + encA o) = o := by
  have := srcCode_lt o.b
  have := srcCode_lt o.a
  have := dstCode_lt o.d
  have := o.kb.toNat_lt
  have := o.ka.toNat_lt
  have e1 : bits (J + encA o) 25 7 = srcCode o.b := by simp only [bits, encA]; omega
  have e2 : bits (J + encA o) 18 7 = srcCode o.a := by simp only [bits, encA]; omega
  have e3 : bits (J + encA o) 11 7 = dstCode o.d := by simp only [bits, encA]; omega
  have e4 : bit (J + encA o) 10 = o.kb := bit_back (by simp only [encA]; omega)
  have e5 : bit (J + encA o) 9 = o.ka := bit_back (by simp only [encA]; omega)
  simp only [decA, e1, src_back, e2, src_back, e3, dst_back _ hd, e4, e5]

theorem decI_back (J : Nat) (hJ : J < 128) (o : FmtI) (hd : o.d.fits = true) : decI (J + encI o) = o := by
  have := o.imm.isLt
  have := srcCode_lt o.a
  have := dstCode_lt o.d
  have uh : o.imm.toNat / 2 ^ 4 < 128 := by omega
  have ul : o.imm.toNat % 2 ^ 4 < 16 := by omega
  have uh : o.imm.toNat / 2 ^ 4 < 128 := by omega
  have ul : o.imm.toNat % 2 ^ 4 < 16 := by omega
  have u1 : bits (J + encI o) 25 7 = o.imm.toNat / 2 ^ 4 := by simp only [bits, encI]; generalize o.imm.toNat / 2 ^ 4 = hi at *; generalize o.imm.toNat % 2 ^ 4 = lo at *; omega
  have v1 : bits (J + encI o) 7 4 = o.imm.toNat % 2 ^ 4 := by simp only [bits, encI]; generalize o.imm.toNat / 2 ^ 4 = hi at *; generalize o.imm.toNat % 2 ^ 4 = lo at *; omega
  have e1 : BitVec.ofNat 11 (bits (J + encI o) 25 7 * 2 ^ 4 + bits (J + encI o) 7 4) = o.imm := ofNat_back (by rw [u1, v1]; omega)
  have e2 : bits (J + encI o) 18 7 = srcCode o.a := by simp only [bits, encI]; generalize o.imm.toNat / 2 ^ 4 = hi at *; generalize o.imm.toNat % 2 ^ 4 = lo at *; omega
  have e3 : bits (J + encI o) 11 7 = dstCode o.d := by simp only [bits, encI]; generalize o.imm.toNat / 2 ^ 4 = hi at *; generalize o.imm.toNat % 2 ^ 4 = lo at *; omega
  simp only [decI, e1, e2, src_back, e3, dst_back _ hd]

theorem decN_back (M J : Nat) (hJ : J < 128) (o : FmtN) (hd : o.d.fits = true) : decN (M * 2 ^ 25 + J + encN o) = o := by
  have := srcCode_lt o.a
  have := dstCode_lt o.d
  have := o.k1.toNat_lt
  have := o.ka.toNat_lt
  have := o.g.isLt
  have e1 : bits (M * 2 ^ 25 + J + encN o) 18 7 = srcCode o.a := by simp only [bits, encN]; omega
  have e2 : bits (M * 2 ^ 25 + J + encN o) 11 7 = dstCode o.d := by simp only [bits, encN]; omega
  have e3 : bit (M * 2 ^ 25 + J + encN o) 10 = o.k1 := bit_back (by simp only [encN]; omega)
  have e4 : bit (M * 2 ^ 25 + J + encN o) 9 = o.ka := bit_back (by simp only [encN]; omega)
  have e5 : field (M * 2 ^ 25 + J + encN o) 7 2 = o.g := field_back (by simp only [encN]; omega)
  simp only [decN, e1, src_back, e2, dst_back _ hd, e3, e4, e5]

theorem decPL_back (M J : Nat) (hJ : J < 128) (o : FmtPL) : decPL (M * 2 ^ 25 + J + encPL o) = o := by
  have := o.nb.toNat_lt
  have := o.na.toNat_lt
  have := o.pb.isLt
  have := o.pa.isLt
  have := o.pd.isLt
  have := o.k1.toNat_lt
  have := o.ka.toNat_lt
  have := o.g.isLt
  have e1 : bit (M * 2 ^ 25 + J + encPL o) 23 = o.nb := bit_back (by simp only [encPL]; omega)
  have e2 : bit (M * 2 ^ 25 + J + encPL o) 22 = o.na := bit_back (by simp only [encPL]; omega)
  have e3 : field (M * 2 ^ 25 + J + encPL o) 20 2 = o.pb := field_back (by simp only [encPL]; omega)
  have e4 : field (M * 2 ^ 25 + J + encPL o) 18 2 = o.pa := field_back (by simp only [encPL]; omega)
  have e5 : field (M * 2 ^ 25 + J + encPL o) 11 2 = o.pd := field_back (by simp only [encPL]; omega)
  have e6 : bit (M * 2 ^ 25 + J + encPL o) 10 = o.k1 := bit_back (by simp only [encPL]; omega)
  have e7 : bit (M * 2 ^ 25 + J + encPL o) 9 = o.ka := bit_back (by simp only [encPL]; omega)
  have e8 : field (M * 2 ^ 25 + J + encPL o) 7 2 = o.g := field_back (by simp only [encPL]; omega)
  simp only [decPL, e1, e2, e3, e4, e5, e6, e7, e8]

theorem decUA_back (J : Nat) (hJ : J < 512) (o : FmtUA) (hb : o.b.fits = true) (ha : o.a.fits = true) : decUA (J + encUA o) = o := by
  have := usrcCode_lt o.b
  have := usrcCode_lt o.a
  have := udstCode_lt o.d
  have := o.kb.toNat_lt
  have := o.ka.toNat_lt
  have e1 : bits (J + encUA o) 25 7 = usrcCode o.b := by simp only [bits, encUA]; omega
  have e2 : bits (J + encUA o) 18 7 = usrcCode o.a := by simp only [bits, encUA]; omega
  have e3 : bits (J + encUA o) 11 7 = udstCode o.d := by simp only [bits, encUA]; omega
  have e4 : bit (J + encUA o) 10 = o.kb := bit_back (by simp only [encUA]; omega)
  have e5 : bit (J + encUA o) 9 = o.ka := bit_back (by simp only [encUA]; omega)
  simp only [decUA, e1, usrc_back _ hb, e2, usrc_back _ ha, e3, udst_back, e4, e5]

theorem decU_back (M J : Nat) (hJ : J < 128) (o : FmtU) (ha : o.a.fits = true) : decU (M * 2 ^ 25 + J + encU o) = o := by
  have := usrcCode_lt o.a
  have := udstCode_lt o.d
  have := o.k1.toNat_lt
  have := o.ka.toNat_lt
  have e1 : bits (M * 2 ^ 25 + J + encU o) 18 7 = usrcCode o.a := by simp only [bits, encU]; omega
  have e2 : bits (M * 2 ^ 25 + J + encU o) 11 7 = udstCode o.d := by simp only [bits, encU]; omega
  have e3 : bit (M * 2 ^ 25 + J + encU o) 10 = o.k1 := bit_back (by simp only [encU]; omega)
  have e4 : bit (M * 2 ^ 25 + J + encU o) 9 = o.ka := bit_back (by simp only [encU]; omega)
  simp only [decU, e1, usrc_back _ ha, e2, udst_back, e3, e4]

theorem decNG_back (M J : Nat) (hJ : J < 128) (o : FmtNG) : decNG (M * 2 ^ 25 + J + encNG o) = o := by
  have := o.k1.toNat_lt
  have := o.ka.toNat_lt
  have := o.g.isLt
  have e1 : bit (M * 2 ^ 25 + J + encNG o) 10 = o.k1 := bit_back (by simp only [encNG]; omega)
  have e2 : bit (M * 2 ^ 25 + J + encNG o) 9 = o.ka := bit_back (by simp only [encNG]; omega)
  have e3 : field (M * 2 ^ 25 + J + encNG o) 7 2 = o.g := field_back (by simp only [encNG]; omega)
  simp only [decNG, e1, e2, e3]

theorem decNA_back (M J : Nat) (hJ : J < 128) (o : FmtNA) : decNA (M * 2 ^ 25 + J + encNA o) = o := by
  have := srcCode_lt o.a
  have := o.k1.toNat_lt
  have := o.ka.toNat_lt
  have := o.g.isLt
  have e1 : bits (M * 2 ^ 25 + J + encNA o) 18 7 = srcCode o.a := by simp only [bits, encNA]; omega
  have e2 : bit (M * 2 ^ 25 + J + encNA o) 10 = o.k1 := bit_back (by simp only [encNA]; omega)
  have e3 : bit (M * 2 ^ 25 + J + encNA o) 9 = o.ka := bit_back (by simp only [encNA]; omega)
  have e4 : field (M * 2 ^ 25 + J + encNA o) 7 2 = o.g := field_back (by simp only [encNA]; omega)
  simp only [decNA, e1, src_back, e2, e3, e4]

theorem decUO_back (M J : Nat) (hJ : J < 128) (o : FmtUO) (ha : o.a.fits = true) : decUO (M * 2 ^ 25 + J + encUO o) = o := by
  have := usrcCode_lt o.a
  have := o.k1.toNat_lt
  have := o.ka.toNat_lt
  have e1 : bits (M * 2 ^ 25 + J + encUO o) 18 7 = usrcCode o.a := by simp only [bits, encUO]; omega
  have e2 : bit (M * 2 ^ 25 + J + encUO o) 10 = o.k1 := bit_back (by simp only [encUO]; omega)
  have e3 : bit (M * 2 ^ 25 + J + encUO o) 9 = o.ka := bit_back (by simp only [encUO]; omega)
  simp only [decUO, e1, usrc_back _ ha, e2, e3]

theorem decNK_back (M J : Nat) (hJ : J < 128) (o : FmtNK) : decNK (M * 2 ^ 25 + J + encNK o) = o := by
  have := o.k1.toNat_lt
  have := o.ka.toNat_lt
  have e1 : bit (M * 2 ^ 25 + J + encNK o) 10 = o.k1 := bit_back (by simp only [encNK]; omega)
  have e2 : bit (M * 2 ^ 25 + J + encNK o) 9 = o.ka := bit_back (by simp only [encNK]; omega)
  simp only [decNK, e1, e2]

theorem decCvt_back (M J : Nat) (hJ : J < 128) (o : FmtCvt) (hd : o.d.fits = true) : decCvt (M * 2 ^ 28 + J + encCvt o) = o := by
  have := rndSelCode_lt o.r
  have := srcCode_lt o.a
  have := dstCode_lt o.d
  have := o.k1.toNat_lt
  have := o.ka.toNat_lt
  have := o.g.isLt
  have e1 : bits (M * 2 ^ 28 + J + encCvt o) 25 3 = rndSelCode o.r := by simp only [bits, encCvt]; omega
  have e2 : bits (M * 2 ^ 28 + J + encCvt o) 18 7 = srcCode o.a := by simp only [bits, encCvt]; omega
  have e3 : bits (M * 2 ^ 28 + J + encCvt o) 11 7 = dstCode o.d := by simp only [bits, encCvt]; omega
  have e4 : bit (M * 2 ^ 28 + J + encCvt o) 10 = o.k1 := bit_back (by simp only [encCvt]; omega)
  have e5 : bit (M * 2 ^ 28 + J + encCvt o) 9 = o.ka := bit_back (by simp only [encCvt]; omega)
  have e6 : field (M * 2 ^ 28 + J + encCvt o) 7 2 = o.g := field_back (by simp only [encCvt]; omega)
  simp only [decCvt, e1, rndSel_back, e2, src_back, e3, dst_back _ hd, e4, e5, e6]

theorem decLd_back (J : Nat) (hJ : J < 128) (o : FmtLd) (hd : o.d.fits = true) : decLd (J + encLd o) = o := by
  have := o.off.isLt
  have := o.t.isLt
  have := srcCode_lt o.b
  have := dstCode_lt o.d
  have := o.g.isLt
  have e1 : field (J + encLd o) 27 5 = o.off := field_back (by simp only [encLd]; omega)
  have e2 : field (J + encLd o) 23 4 = o.t := field_back (by simp only [encLd]; omega)
  have e3 : bits (J + encLd o) 16 7 = srcCode o.b := by simp only [bits, encLd]; omega
  have e4 : bits (J + encLd o) 9 7 = dstCode o.d := by simp only [bits, encLd]; omega
  have e5 : field (J + encLd o) 7 2 = o.g := field_back (by simp only [encLd]; omega)
  simp only [decLd, e1, e2, e3, src_back, e4, dst_back _ hd, e5]

theorem decSt_back (J : Nat) (hJ : J < 128) (o : FmtSt) : decSt (J + encSt o) = o := by
  have := o.off.isLt
  have := o.t.isLt
  have := srcCode_lt o.b
  have := srcCode_lt o.x
  have := o.g.isLt
  have e1 : field (J + encSt o) 27 5 = o.off := field_back (by simp only [encSt]; omega)
  have e2 : field (J + encSt o) 23 4 = o.t := field_back (by simp only [encSt]; omega)
  have e3 : bits (J + encSt o) 16 7 = srcCode o.b := by simp only [bits, encSt]; omega
  have e4 : bits (J + encSt o) 9 7 = srcCode o.x := by simp only [bits, encSt]; omega
  have e5 : field (J + encSt o) 7 2 = o.g := field_back (by simp only [encSt]; omega)
  simp only [decSt, e1, e2, e3, src_back, e4, src_back, e5]

theorem decT_back (M J : Nat) (hJ : J < 128) (o : FmtT) (hd : o.d.fits = true) : decT (M * 2 ^ 28 + J + encT o) = o := by
  have := o.opnd.isLt
  have := o.addr.isLt
  have := dstCode_lt o.d
  have := o.g.isLt
  have e1 : field (M * 2 ^ 28 + J + encT o) 22 6 = o.opnd := field_back (by simp only [encT]; omega)
  have e2 : field (M * 2 ^ 28 + J + encT o) 16 6 = o.addr := field_back (by simp only [encT]; omega)
  have e3 : bits (M * 2 ^ 28 + J + encT o) 9 7 = dstCode o.d := by simp only [bits, encT]; omega
  have e4 : field (M * 2 ^ 28 + J + encT o) 7 2 = o.g := field_back (by simp only [encT]; omega)
  simp only [decT, e1, e2, e3, dst_back _ hd, e4]

theorem decE_back (M J : Nat) (hJ : J < 128) (o : FmtE) (ha : o.a.fits = true) : decE (M * 2 ^ 25 + J + encE o) = o := by
  have := usrcCode_lt o.a
  have := o.t.isLt
  have := o.k1.toNat_lt
  have := o.ka.toNat_lt
  have e1 : bits (M * 2 ^ 25 + J + encE o) 18 7 = usrcCode o.a := by simp only [bits, encE]; omega
  have e2 : field (M * 2 ^ 25 + J + encE o) 11 4 = o.t := field_back (by simp only [encE]; omega)
  have e3 : bit (M * 2 ^ 25 + J + encE o) 10 = o.k1 := bit_back (by simp only [encE]; omega)
  have e4 : bit (M * 2 ^ 25 + J + encE o) 9 = o.ka := bit_back (by simp only [encE]; omega)
  simp only [decE, e1, usrc_back _ ha, e2, e3, e4]

theorem decNB_back (M J : Nat) (hJ : J < 128) (o : FmtNB) : decNB (M * 2 ^ 25 + J + encNB o) = o := by
  have := srcCode_lt o.a
  have := srcCode_lt o.b
  have := o.k1.toNat_lt
  have := o.ka.toNat_lt
  have := o.g.isLt
  have e1 : bits (M * 2 ^ 25 + J + encNB o) 18 7 = srcCode o.a := by simp only [bits, encNB]; omega
  have e2 : bits (M * 2 ^ 25 + J + encNB o) 11 7 = srcCode o.b := by simp only [bits, encNB]; omega
  have e3 : bit (M * 2 ^ 25 + J + encNB o) 10 = o.k1 := bit_back (by simp only [encNB]; omega)
  have e4 : bit (M * 2 ^ 25 + J + encNB o) 9 = o.ka := bit_back (by simp only [encNB]; omega)
  have e5 : field (M * 2 ^ 25 + J + encNB o) 7 2 = o.g := field_back (by simp only [encNB]; omega)
  simp only [decNB, e1, src_back, e2, src_back, e3, e4, e5]

theorem decRow_back (M J : Nat) (hJ : J < 128) (o : FmtRow) (hd : o.d.fits = true) : decRow (M * 2 ^ 25 + J + encRow o) = o := by
  have := o.r.isLt
  have := o.z.isLt
  have := dstCode_lt o.d
  have := o.k1.toNat_lt
  have := o.ka.toNat_lt
  have e1 : field (M * 2 ^ 25 + J + encRow o) 21 4 = o.r := field_back (by simp only [encRow]; omega)
  have e2 : field (M * 2 ^ 25 + J + encRow o) 18 3 = o.z := field_back (by simp only [encRow]; omega)
  have e3 : bits (M * 2 ^ 25 + J + encRow o) 11 7 = dstCode o.d := by simp only [bits, encRow]; omega
  have e4 : bit (M * 2 ^ 25 + J + encRow o) 10 = o.k1 := bit_back (by simp only [encRow]; omega)
  have e5 : bit (M * 2 ^ 25 + J + encRow o) 9 = o.ka := bit_back (by simp only [encRow]; omega)
  simp only [decRow, e1, e2, e3, dst_back _ hd, e4, e5]

theorem encA_facts (J : Nat) (hJ : J < 512) (o : FmtA) :
    (J + encA o) % 2 = J % 2 ∧
    J + encA o < 2 ^ 32 ∧
    bits (J + encA o) 1 6 = J / 2 % 64 ∧
    bits (J + encA o) 7 2 = J / 128 % 4 := by
  have := srcCode_lt o.b
  have := srcCode_lt o.a
  have := dstCode_lt o.d
  have := o.kb.toNat_lt
  have := o.ka.toNat_lt
  simp only [bits, encA]
  refine ⟨?_, ?_, ?_, ?_⟩ <;> omega

theorem encI_facts (J : Nat) (hJ : J < 128) (o : FmtI) :
    (J + encI o) % 2 = J % 2 ∧
    J + encI o < 2 ^ 32 ∧
    bits (J + encI o) 1 6 = J / 2 % 64 := by
  have := o.imm.isLt
  have := srcCode_lt o.a
  have := dstCode_lt o.d
  simp only [bits, encI]
  refine ⟨?_, ?_, ?_⟩ <;> omega

theorem encN_facts (M J : Nat) (hM : M < 128) (hJ : J < 128) (o : FmtN) :
    (M * 2 ^ 25 + J + encN o) % 2 = J % 2 ∧
    M * 2 ^ 25 + J + encN o < 2 ^ 32 ∧
    bits (M * 2 ^ 25 + J + encN o) 1 6 = J / 2 % 64 ∧
    bits (M * 2 ^ 25 + J + encN o) 25 7 = M / 1 % 128 := by
  have := srcCode_lt o.a
  have := dstCode_lt o.d
  have := o.k1.toNat_lt
  have := o.ka.toNat_lt
  have := o.g.isLt
  simp only [bits, encN]
  refine ⟨?_, ?_, ?_, ?_⟩ <;> omega

theorem encPL_facts (M J : Nat) (hM : M < 128) (hJ : J < 128) (o : FmtPL) :
    (M * 2 ^ 25 + J + encPL o) % 2 = J % 2 ∧
    M * 2 ^ 25 + J + encPL o < 2 ^ 32 ∧
    bits (M * 2 ^ 25 + J + encPL o) 1 6 = J / 2 % 64 ∧
    bits (M * 2 ^ 25 + J + encPL o) 25 7 = M / 1 % 128 ∧
    bits (M * 2 ^ 25 + J + encPL o) 24 1 = 0 ∧
    bits (M * 2 ^ 25 + J + encPL o) 13 5 = 0 := by
  have := o.nb.toNat_lt
  have := o.na.toNat_lt
  have := o.pb.isLt
  have := o.pa.isLt
  have := o.pd.isLt
  have := o.k1.toNat_lt
  have := o.ka.toNat_lt
  have := o.g.isLt
  simp only [bits, encPL]
  refine ⟨?_, ?_, ?_, ?_, ?_, ?_⟩ <;> omega

theorem encUA_facts (J : Nat) (hJ : J < 512) (o : FmtUA) :
    (J + encUA o) % 2 = J % 2 ∧
    J + encUA o < 2 ^ 32 ∧
    bits (J + encUA o) 1 6 = J / 2 % 64 ∧
    bits (J + encUA o) 7 2 = J / 128 % 4 := by
  have := usrcCode_lt o.b
  have := usrcCode_lt o.a
  have := udstCode_lt o.d
  have := o.kb.toNat_lt
  have := o.ka.toNat_lt
  simp only [bits, encUA]
  refine ⟨?_, ?_, ?_, ?_⟩ <;> omega

theorem encU_facts (M J : Nat) (hM : M < 128) (hJ : J < 128) (o : FmtU) :
    (M * 2 ^ 25 + J + encU o) % 2 = J % 2 ∧
    M * 2 ^ 25 + J + encU o < 2 ^ 32 ∧
    bits (M * 2 ^ 25 + J + encU o) 1 6 = J / 2 % 64 ∧
    bits (M * 2 ^ 25 + J + encU o) 25 7 = M / 1 % 128 ∧
    bits (M * 2 ^ 25 + J + encU o) 7 2 = J / 128 % 4 := by
  have := usrcCode_lt o.a
  have := udstCode_lt o.d
  have := o.k1.toNat_lt
  have := o.ka.toNat_lt
  simp only [bits, encU]
  refine ⟨?_, ?_, ?_, ?_, ?_⟩ <;> omega

theorem encNG_facts (M J : Nat) (hM : M < 128) (hJ : J < 128) (o : FmtNG) :
    (M * 2 ^ 25 + J + encNG o) % 2 = J % 2 ∧
    M * 2 ^ 25 + J + encNG o < 2 ^ 32 ∧
    bits (M * 2 ^ 25 + J + encNG o) 1 6 = J / 2 % 64 ∧
    bits (M * 2 ^ 25 + J + encNG o) 25 7 = M / 1 % 128 ∧
    bits (M * 2 ^ 25 + J + encNG o) 11 14 = 0 := by
  have := o.k1.toNat_lt
  have := o.ka.toNat_lt
  have := o.g.isLt
  simp only [bits, encNG]
  refine ⟨?_, ?_, ?_, ?_, ?_⟩ <;> omega

theorem encNA_facts (M J : Nat) (hM : M < 128) (hJ : J < 128) (o : FmtNA) :
    (M * 2 ^ 25 + J + encNA o) % 2 = J % 2 ∧
    M * 2 ^ 25 + J + encNA o < 2 ^ 32 ∧
    bits (M * 2 ^ 25 + J + encNA o) 1 6 = J / 2 % 64 ∧
    bits (M * 2 ^ 25 + J + encNA o) 25 7 = M / 1 % 128 ∧
    bits (M * 2 ^ 25 + J + encNA o) 11 7 = 0 := by
  have := srcCode_lt o.a
  have := o.k1.toNat_lt
  have := o.ka.toNat_lt
  have := o.g.isLt
  simp only [bits, encNA]
  refine ⟨?_, ?_, ?_, ?_, ?_⟩ <;> omega

theorem encUO_facts (M J : Nat) (hM : M < 128) (hJ : J < 128) (o : FmtUO) :
    (M * 2 ^ 25 + J + encUO o) % 2 = J % 2 ∧
    M * 2 ^ 25 + J + encUO o < 2 ^ 32 ∧
    bits (M * 2 ^ 25 + J + encUO o) 1 6 = J / 2 % 64 ∧
    bits (M * 2 ^ 25 + J + encUO o) 25 7 = M / 1 % 128 ∧
    bits (M * 2 ^ 25 + J + encUO o) 11 7 = 0 ∧
    bits (M * 2 ^ 25 + J + encUO o) 7 2 = J / 128 % 4 := by
  have := usrcCode_lt o.a
  have := o.k1.toNat_lt
  have := o.ka.toNat_lt
  simp only [bits, encUO]
  refine ⟨?_, ?_, ?_, ?_, ?_, ?_⟩ <;> omega

theorem encNK_facts (M J : Nat) (hM : M < 128) (hJ : J < 128) (o : FmtNK) :
    (M * 2 ^ 25 + J + encNK o) % 2 = J % 2 ∧
    M * 2 ^ 25 + J + encNK o < 2 ^ 32 ∧
    bits (M * 2 ^ 25 + J + encNK o) 1 6 = J / 2 % 64 ∧
    bits (M * 2 ^ 25 + J + encNK o) 25 7 = M / 1 % 128 ∧
    bits (M * 2 ^ 25 + J + encNK o) 11 14 = 0 ∧
    bits (M * 2 ^ 25 + J + encNK o) 7 2 = J / 128 % 4 := by
  have := o.k1.toNat_lt
  have := o.ka.toNat_lt
  simp only [bits, encNK]
  refine ⟨?_, ?_, ?_, ?_, ?_, ?_⟩ <;> omega

theorem encCvt_facts (M J : Nat) (hM : M < 16) (hJ : J < 128) (o : FmtCvt) :
    (M * 2 ^ 28 + J + encCvt o) % 2 = J % 2 ∧
    M * 2 ^ 28 + J + encCvt o < 2 ^ 32 ∧
    bits (M * 2 ^ 28 + J + encCvt o) 1 6 = J / 2 % 64 ∧
    bits (M * 2 ^ 28 + J + encCvt o) 28 4 = M / 1 % 16 := by
  have := rndSelCode_lt o.r
  have := srcCode_lt o.a
  have := dstCode_lt o.d
  have := o.k1.toNat_lt
  have := o.ka.toNat_lt
  have := o.g.isLt
  simp only [bits, encCvt]
  refine ⟨?_, ?_, ?_, ?_⟩ <;> omega

theorem encLd_facts (J : Nat) (hJ : J < 128) (o : FmtLd) :
    (J + encLd o) % 2 = J % 2 ∧
    J + encLd o < 2 ^ 32 ∧
    bits (J + encLd o) 1 6 = J / 2 % 64 := by
  have := o.off.isLt
  have := o.t.isLt
  have := srcCode_lt o.b
  have := dstCode_lt o.d
  have := o.g.isLt
  simp only [bits, encLd]
  refine ⟨?_, ?_, ?_⟩ <;> omega

theorem encSt_facts (J : Nat) (hJ : J < 128) (o : FmtSt) :
    (J + encSt o) % 2 = J % 2 ∧
    J + encSt o < 2 ^ 32 ∧
    bits (J + encSt o) 1 6 = J / 2 % 64 := by
  have := o.off.isLt
  have := o.t.isLt
  have := srcCode_lt o.b
  have := srcCode_lt o.x
  have := o.g.isLt
  simp only [bits, encSt]
  refine ⟨?_, ?_, ?_⟩ <;> omega

theorem encT_facts (M J : Nat) (hM : M < 16) (hJ : J < 128) (o : FmtT) :
    (M * 2 ^ 28 + J + encT o) % 2 = J % 2 ∧
    M * 2 ^ 28 + J + encT o < 2 ^ 32 ∧
    bits (M * 2 ^ 28 + J + encT o) 1 6 = J / 2 % 64 ∧
    bits (M * 2 ^ 28 + J + encT o) 28 4 = M / 1 % 16 := by
  have := o.opnd.isLt
  have := o.addr.isLt
  have := dstCode_lt o.d
  have := o.g.isLt
  simp only [bits, encT]
  refine ⟨?_, ?_, ?_, ?_⟩ <;> omega

theorem encE_facts (M J : Nat) (hM : M < 128) (hJ : J < 128) (o : FmtE) :
    (M * 2 ^ 25 + J + encE o) % 2 = J % 2 ∧
    M * 2 ^ 25 + J + encE o < 2 ^ 32 ∧
    bits (M * 2 ^ 25 + J + encE o) 1 6 = J / 2 % 64 ∧
    bits (M * 2 ^ 25 + J + encE o) 25 7 = M / 1 % 128 ∧
    bits (M * 2 ^ 25 + J + encE o) 15 3 = 0 ∧
    bits (M * 2 ^ 25 + J + encE o) 7 2 = J / 128 % 4 := by
  have := usrcCode_lt o.a
  have := o.t.isLt
  have := o.k1.toNat_lt
  have := o.ka.toNat_lt
  simp only [bits, encE]
  refine ⟨?_, ?_, ?_, ?_, ?_, ?_⟩ <;> omega

theorem encNB_facts (M J : Nat) (hM : M < 128) (hJ : J < 128) (o : FmtNB) :
    (M * 2 ^ 25 + J + encNB o) % 2 = J % 2 ∧
    M * 2 ^ 25 + J + encNB o < 2 ^ 32 ∧
    bits (M * 2 ^ 25 + J + encNB o) 1 6 = J / 2 % 64 ∧
    bits (M * 2 ^ 25 + J + encNB o) 25 7 = M / 1 % 128 := by
  have := srcCode_lt o.a
  have := srcCode_lt o.b
  have := o.k1.toNat_lt
  have := o.ka.toNat_lt
  have := o.g.isLt
  simp only [bits, encNB]
  refine ⟨?_, ?_, ?_, ?_⟩ <;> omega

theorem encRow_facts (M J : Nat) (hM : M < 128) (hJ : J < 128) (o : FmtRow) :
    (M * 2 ^ 25 + J + encRow o) % 2 = J % 2 ∧
    M * 2 ^ 25 + J + encRow o < 2 ^ 32 ∧
    bits (M * 2 ^ 25 + J + encRow o) 1 6 = J / 2 % 64 ∧
    bits (M * 2 ^ 25 + J + encRow o) 25 7 = M / 1 % 128 ∧
    bits (M * 2 ^ 25 + J + encRow o) 7 2 = J / 128 % 4 := by
  have := o.r.isLt
  have := o.z.isLt
  have := dstCode_lt o.d
  have := o.k1.toNat_lt
  have := o.ka.toNat_lt
  simp only [bits, encRow]
  refine ⟨?_, ?_, ?_, ?_, ?_⟩ <;> omega

end Sys2Proof
end

