-- ==== Sys2Proof/Laws/PerInstr.lean ====
section
/-! SUPPORT. The families of LAWS.json: one lemma for each constructor of Instr. -/

namespace Sys2Proof.Laws

set_option Elab.async false
set_option linter.unusedSimpArgs false

/-- A family of LAWS.json: what the encoder writes for an instruction that fits its row, the decoder reads back, whatever
bytes follow. -/
def Encoded.Statement (i : Instr) : Prop :=
  i.fits = true → ∀ n w, encode i = some (n, w) → ∀ rest : List Byte, decode (wordBytes (n / 8) w ++ rest) = some (i, n / 8, rest)

theorem add16_word_ne (o : Fmt16) (hb : o.b.fits16 = true) (h : (!(o.d == 0 && o.b == .v 0)) = true) :
    0 + o.d.toNat * 2 ^ 5 + b16Code o.b * 2 ^ 11 ≠ 0 := by
  intro e
  have hd : o.d.toNat = 0 := by omega
  have hc : b16Code o.b = 0 := by omega
  have h1 : o.d = 0 := BitVec.eq_of_toNat_eq hd
  have h2 := b16_back o.b hb
  rw [hc] at h2
  rw [h1, ← h2] at h
  exact absurd h (by decide)

theorem Encoded.add16 (o : Fmt16) : Encoded.Statement (.add16 o) := by
  intro h n w he rest
  obtain ⟨rfl, rfl⟩ := Prod.mk.inj (Option.some.inj he)
  simp only [Instr.fits, Bool.and_eq_true] at h
  have hb : o.b.fits16 = true := h.1
  have hc : b16Code o.b < 32 := of_decide_eq_true hb
  have := o.d.isLt
  have e1 : bits (0 + o.d.toNat * 2 ^ 5 + b16Code o.b * 2 ^ 11) 1 4 = 0 := by simp only [bits]; omega
  have hz : 0 + o.d.toNat * 2 ^ 5 + b16Code o.b * 2 ^ 11 ≠ 0 := add16_word_ne o hb h.2
  exact decode_word16 (r := .add16) (i := .add16 o) (by omega) (by omega) (by simp only [rowOf16, if_neg hz, e1])
    (show Instr.add16 (dec16 _) = _ from congrArg Instr.add16 (dec16_back 0 (by decide) o hb)) rest

theorem Encoded.sub16 (o : Fmt16) : Encoded.Statement (.sub16 o) := by
  intro h n w he rest
  obtain ⟨rfl, rfl⟩ := Prod.mk.inj (Option.some.inj he)
  simp only [Instr.fits] at h
  have hb : o.b.fits16 = true := h
  have hc : b16Code o.b < 32 := of_decide_eq_true hb
  have := o.d.isLt
  have e1 : bits (2 + o.d.toNat * 2 ^ 5 + b16Code o.b * 2 ^ 11) 1 4 = 1 := by simp only [bits]; omega
  have hz : 2 + o.d.toNat * 2 ^ 5 + b16Code o.b * 2 ^ 11 ≠ 0 := by omega
  exact decode_word16 (r := .sub16) (i := .sub16 o) (by omega) (by omega) (by simp only [rowOf16, if_neg hz, e1])
    (show Instr.sub16 (dec16 _) = _ from congrArg Instr.sub16 (dec16_back 2 (by decide) o hb)) rest

theorem Encoded.and16 (o : Fmt16) : Encoded.Statement (.and16 o) := by
  intro h n w he rest
  obtain ⟨rfl, rfl⟩ := Prod.mk.inj (Option.some.inj he)
  simp only [Instr.fits] at h
  have hb : o.b.fits16 = true := h
  have hc : b16Code o.b < 32 := of_decide_eq_true hb
  have := o.d.isLt
  have e1 : bits (4 + o.d.toNat * 2 ^ 5 + b16Code o.b * 2 ^ 11) 1 4 = 2 := by simp only [bits]; omega
  have hz : 4 + o.d.toNat * 2 ^ 5 + b16Code o.b * 2 ^ 11 ≠ 0 := by omega
  exact decode_word16 (r := .and16) (i := .and16 o) (by omega) (by omega) (by simp only [rowOf16, if_neg hz, e1])
    (show Instr.and16 (dec16 _) = _ from congrArg Instr.and16 (dec16_back 4 (by decide) o hb)) rest

theorem Encoded.or16 (o : Fmt16) : Encoded.Statement (.or16 o) := by
  intro h n w he rest
  obtain ⟨rfl, rfl⟩ := Prod.mk.inj (Option.some.inj he)
  simp only [Instr.fits] at h
  have hb : o.b.fits16 = true := h
  have hc : b16Code o.b < 32 := of_decide_eq_true hb
  have := o.d.isLt
  have e1 : bits (6 + o.d.toNat * 2 ^ 5 + b16Code o.b * 2 ^ 11) 1 4 = 3 := by simp only [bits]; omega
  have hz : 6 + o.d.toNat * 2 ^ 5 + b16Code o.b * 2 ^ 11 ≠ 0 := by omega
  exact decode_word16 (r := .or16) (i := .or16 o) (by omega) (by omega) (by simp only [rowOf16, if_neg hz, e1])
    (show Instr.or16 (dec16 _) = _ from congrArg Instr.or16 (dec16_back 6 (by decide) o hb)) rest

theorem Encoded.xor16 (o : Fmt16) : Encoded.Statement (.xor16 o) := by
  intro h n w he rest
  obtain ⟨rfl, rfl⟩ := Prod.mk.inj (Option.some.inj he)
  simp only [Instr.fits] at h
  have hb : o.b.fits16 = true := h
  have hc : b16Code o.b < 32 := of_decide_eq_true hb
  have := o.d.isLt
  have e1 : bits (8 + o.d.toNat * 2 ^ 5 + b16Code o.b * 2 ^ 11) 1 4 = 4 := by simp only [bits]; omega
  have hz : 8 + o.d.toNat * 2 ^ 5 + b16Code o.b * 2 ^ 11 ≠ 0 := by omega
  exact decode_word16 (r := .xor16) (i := .xor16 o) (by omega) (by omega) (by simp only [rowOf16, if_neg hz, e1])
    (show Instr.xor16 (dec16 _) = _ from congrArg Instr.xor16 (dec16_back 8 (by decide) o hb)) rest

theorem Encoded.shl16 (o : Fmt16) : Encoded.Statement (.shl16 o) := by
  intro h n w he rest
  obtain ⟨rfl, rfl⟩ := Prod.mk.inj (Option.some.inj he)
  simp only [Instr.fits] at h
  have hb : o.b.fits16 = true := h
  have hc : b16Code o.b < 32 := of_decide_eq_true hb
  have := o.d.isLt
  have e1 : bits (10 + o.d.toNat * 2 ^ 5 + b16Code o.b * 2 ^ 11) 1 4 = 5 := by simp only [bits]; omega
  have hz : 10 + o.d.toNat * 2 ^ 5 + b16Code o.b * 2 ^ 11 ≠ 0 := by omega
  exact decode_word16 (r := .shl16) (i := .shl16 o) (by omega) (by omega) (by simp only [rowOf16, if_neg hz, e1])
    (show Instr.shl16 (dec16 _) = _ from congrArg Instr.shl16 (dec16_back 10 (by decide) o hb)) rest

theorem Encoded.shr16 (o : Fmt16) : Encoded.Statement (.shr16 o) := by
  intro h n w he rest
  obtain ⟨rfl, rfl⟩ := Prod.mk.inj (Option.some.inj he)
  simp only [Instr.fits] at h
  have hb : o.b.fits16 = true := h
  have hc : b16Code o.b < 32 := of_decide_eq_true hb
  have := o.d.isLt
  have e1 : bits (12 + o.d.toNat * 2 ^ 5 + b16Code o.b * 2 ^ 11) 1 4 = 6 := by simp only [bits]; omega
  have hz : 12 + o.d.toNat * 2 ^ 5 + b16Code o.b * 2 ^ 11 ≠ 0 := by omega
  exact decode_word16 (r := .shr16) (i := .shr16 o) (by omega) (by omega) (by simp only [rowOf16, if_neg hz, e1])
    (show Instr.shr16 (dec16 _) = _ from congrArg Instr.shr16 (dec16_back 12 (by decide) o hb)) rest

theorem Encoded.min16 (o : Fmt16) : Encoded.Statement (.min16 o) := by
  intro h n w he rest
  obtain ⟨rfl, rfl⟩ := Prod.mk.inj (Option.some.inj he)
  simp only [Instr.fits] at h
  have hb : o.b.fits16 = true := h
  have hc : b16Code o.b < 32 := of_decide_eq_true hb
  have := o.d.isLt
  have e1 : bits (14 + o.d.toNat * 2 ^ 5 + b16Code o.b * 2 ^ 11) 1 4 = 7 := by simp only [bits]; omega
  have hz : 14 + o.d.toNat * 2 ^ 5 + b16Code o.b * 2 ^ 11 ≠ 0 := by omega
  exact decode_word16 (r := .min16) (i := .min16 o) (by omega) (by omega) (by simp only [rowOf16, if_neg hz, e1])
    (show Instr.min16 (dec16 _) = _ from congrArg Instr.min16 (dec16_back 14 (by decide) o hb)) rest

theorem Encoded.max16 (o : Fmt16) : Encoded.Statement (.max16 o) := by
  intro h n w he rest
  obtain ⟨rfl, rfl⟩ := Prod.mk.inj (Option.some.inj he)
  simp only [Instr.fits] at h
  have hb : o.b.fits16 = true := h
  have hc : b16Code o.b < 32 := of_decide_eq_true hb
  have := o.d.isLt
  have e1 : bits (16 + o.d.toNat * 2 ^ 5 + b16Code o.b * 2 ^ 11) 1 4 = 8 := by simp only [bits]; omega
  have hz : 16 + o.d.toNat * 2 ^ 5 + b16Code o.b * 2 ^ 11 ≠ 0 := by omega
  exact decode_word16 (r := .max16) (i := .max16 o) (by omega) (by omega) (by simp only [rowOf16, if_neg hz, e1])
    (show Instr.max16 (dec16 _) = _ from congrArg Instr.max16 (dec16_back 16 (by decide) o hb)) rest

theorem Encoded.mov16 (o : Fmt16) : Encoded.Statement (.mov16 o) := by
  intro h n w he rest
  obtain ⟨rfl, rfl⟩ := Prod.mk.inj (Option.some.inj he)
  simp only [Instr.fits] at h
  have hb : o.b.fits16 = true := h
  have hc : b16Code o.b < 32 := of_decide_eq_true hb
  have := o.d.isLt
  have e1 : bits (18 + o.d.toNat * 2 ^ 5 + b16Code o.b * 2 ^ 11) 1 4 = 9 := by simp only [bits]; omega
  have hz : 18 + o.d.toNat * 2 ^ 5 + b16Code o.b * 2 ^ 11 ≠ 0 := by omega
  exact decode_word16 (r := .mov16) (i := .mov16 o) (by omega) (by omega) (by simp only [rowOf16, if_neg hz, e1])
    (show Instr.mov16 (dec16 _) = _ from congrArg Instr.mov16 (dec16_back 18 (by decide) o hb)) rest

theorem Encoded.fadd16 (o : Fmt16) : Encoded.Statement (.fadd16 o) := by
  intro h n w he rest
  obtain ⟨rfl, rfl⟩ := Prod.mk.inj (Option.some.inj he)
  simp only [Instr.fits] at h
  have hb : o.b.fits16 = true := h
  have hc : b16Code o.b < 32 := of_decide_eq_true hb
  have := o.d.isLt
  have e1 : bits (20 + o.d.toNat * 2 ^ 5 + b16Code o.b * 2 ^ 11) 1 4 = 10 := by simp only [bits]; omega
  have hz : 20 + o.d.toNat * 2 ^ 5 + b16Code o.b * 2 ^ 11 ≠ 0 := by omega
  exact decode_word16 (r := .fadd16) (i := .fadd16 o) (by omega) (by omega) (by simp only [rowOf16, if_neg hz, e1])
    (show Instr.fadd16 (dec16 _) = _ from congrArg Instr.fadd16 (dec16_back 20 (by decide) o hb)) rest

theorem Encoded.fmul16 (o : Fmt16) : Encoded.Statement (.fmul16 o) := by
  intro h n w he rest
  obtain ⟨rfl, rfl⟩ := Prod.mk.inj (Option.some.inj he)
  simp only [Instr.fits] at h
  have hb : o.b.fits16 = true := h
  have hc : b16Code o.b < 32 := of_decide_eq_true hb
  have := o.d.isLt
  have e1 : bits (22 + o.d.toNat * 2 ^ 5 + b16Code o.b * 2 ^ 11) 1 4 = 11 := by simp only [bits]; omega
  have hz : 22 + o.d.toNat * 2 ^ 5 + b16Code o.b * 2 ^ 11 ≠ 0 := by omega
  exact decode_word16 (r := .fmul16) (i := .fmul16 o) (by omega) (by omega) (by simp only [rowOf16, if_neg hz, e1])
    (show Instr.fmul16 (dec16 _) = _ from congrArg Instr.fmul16 (dec16_back 22 (by decide) o hb)) rest

theorem Encoded.fmac16 (o : Fmt16) : Encoded.Statement (.fmac16 o) := by
  intro h n w he rest
  obtain ⟨rfl, rfl⟩ := Prod.mk.inj (Option.some.inj he)
  simp only [Instr.fits] at h
  have hb : o.b.fits16 = true := h
  have hc : b16Code o.b < 32 := of_decide_eq_true hb
  have := o.d.isLt
  have e1 : bits (24 + o.d.toNat * 2 ^ 5 + b16Code o.b * 2 ^ 11) 1 4 = 12 := by simp only [bits]; omega
  have hz : 24 + o.d.toNat * 2 ^ 5 + b16Code o.b * 2 ^ 11 ≠ 0 := by omega
  exact decode_word16 (r := .fmac16) (i := .fmac16 o) (by omega) (by omega) (by simp only [rowOf16, if_neg hz, e1])
    (show Instr.fmac16 (dec16 _) = _ from congrArg Instr.fmac16 (dec16_back 24 (by decide) o hb)) rest

theorem Encoded.padd2s16 (o : Fmt16) : Encoded.Statement (.padd2s16 o) := by
  intro h n w he rest
  obtain ⟨rfl, rfl⟩ := Prod.mk.inj (Option.some.inj he)
  simp only [Instr.fits] at h
  have hb : o.b.fits16 = true := h
  have hc : b16Code o.b < 32 := of_decide_eq_true hb
  have := o.d.isLt
  have e1 : bits (26 + o.d.toNat * 2 ^ 5 + b16Code o.b * 2 ^ 11) 1 4 = 13 := by simp only [bits]; omega
  have hz : 26 + o.d.toNat * 2 ^ 5 + b16Code o.b * 2 ^ 11 ≠ 0 := by omega
  exact decode_word16 (r := .padd2s16) (i := .padd2s16 o) (by omega) (by omega) (by simp only [rowOf16, if_neg hz, e1])
    (show Instr.padd2s16 (dec16 _) = _ from congrArg Instr.padd2s16 (dec16_back 26 (by decide) o hb)) rest

theorem Encoded.pfma2s16 (o : Fmt16) : Encoded.Statement (.pfma2s16 o) := by
  intro h n w he rest
  obtain ⟨rfl, rfl⟩ := Prod.mk.inj (Option.some.inj he)
  simp only [Instr.fits] at h
  have hb : o.b.fits16 = true := h
  have hc : b16Code o.b < 32 := of_decide_eq_true hb
  have := o.d.isLt
  have e1 : bits (28 + o.d.toNat * 2 ^ 5 + b16Code o.b * 2 ^ 11) 1 4 = 14 := by simp only [bits]; omega
  have hz : 28 + o.d.toNat * 2 ^ 5 + b16Code o.b * 2 ^ 11 ≠ 0 := by omega
  exact decode_word16 (r := .pfma2s16) (i := .pfma2s16 o) (by omega) (by omega) (by simp only [rowOf16, if_neg hz, e1])
    (show Instr.pfma2s16 (dec16 _) = _ from congrArg Instr.pfma2s16 (dec16_back 28 (by decide) o hb)) rest

theorem Encoded.fmax16 (o : Fmt16) : Encoded.Statement (.fmax16 o) := by
  intro h n w he rest
  obtain ⟨rfl, rfl⟩ := Prod.mk.inj (Option.some.inj he)
  simp only [Instr.fits] at h
  have hb : o.b.fits16 = true := h
  have hc : b16Code o.b < 32 := of_decide_eq_true hb
  have := o.d.isLt
  have e1 : bits (30 + o.d.toNat * 2 ^ 5 + b16Code o.b * 2 ^ 11) 1 4 = 15 := by simp only [bits]; omega
  have hz : 30 + o.d.toNat * 2 ^ 5 + b16Code o.b * 2 ^ 11 ≠ 0 := by omega
  exact decode_word16 (r := .fmax16) (i := .fmax16 o) (by omega) (by omega) (by simp only [rowOf16, if_neg hz, e1])
    (show Instr.fmax16 (dec16 _) = _ from congrArg Instr.fmax16 (dec16_back 30 (by decide) o hb)) rest

theorem Encoded.add (o : FmtA) : Encoded.Statement (.add o) := by
  intro h n w he rest
  obtain ⟨rfl, rfl⟩ := Prod.mk.inj (Option.some.inj he)
  simp only [Instr.fits] at h
  have hd := h
  have r1 : bits (0x00000001 + encA o) 1 6 = 0 := (encA_facts 1 (by decide) o).2.2.1
  have r2 : bits (0x00000001 + encA o) 7 2 = 0 := (encA_facts 1 (by decide) o).2.2.2
  have hr : rowOf32 (0x00000001 + encA o) = some .add := by
    rw [rowOf32_00 r1]
    simp [rowMajor00, r2]
  exact decode_word32 (r := .add) (i := .add o) (encA_facts 1 (by decide) o).2.1 (encA_facts 1 (by decide) o).1 hr (show Instr.add (decA _) = _ from congrArg Instr.add (decA_back 1 (by decide) o hd)) rest

theorem Encoded.sub (o : FmtA) : Encoded.Statement (.sub o) := by
  intro h n w he rest
  obtain ⟨rfl, rfl⟩ := Prod.mk.inj (Option.some.inj he)
  simp only [Instr.fits] at h
  have hd := h
  have r1 : bits (0x00000081 + encA o) 1 6 = 0 := (encA_facts 129 (by decide) o).2.2.1
  have r2 : bits (0x00000081 + encA o) 7 2 = 1 := (encA_facts 129 (by decide) o).2.2.2
  have hr : rowOf32 (0x00000081 + encA o) = some .sub := by
    rw [rowOf32_00 r1]
    simp [rowMajor00, r2]
  exact decode_word32 (r := .sub) (i := .sub o) (encA_facts 129 (by decide) o).2.1 (encA_facts 129 (by decide) o).1 hr (show Instr.sub (decA _) = _ from congrArg Instr.sub (decA_back 129 (by decide) o hd)) rest

theorem Encoded.mullo (o : FmtA) : Encoded.Statement (.mullo o) := by
  intro h n w he rest
  obtain ⟨rfl, rfl⟩ := Prod.mk.inj (Option.some.inj he)
  simp only [Instr.fits] at h
  have hd := h
  have r1 : bits (0x00000101 + encA o) 1 6 = 0 := (encA_facts 257 (by decide) o).2.2.1
  have r2 : bits (0x00000101 + encA o) 7 2 = 2 := (encA_facts 257 (by decide) o).2.2.2
  have hr : rowOf32 (0x00000101 + encA o) = some .mullo := by
    rw [rowOf32_00 r1]
    simp [rowMajor00, r2]
  exact decode_word32 (r := .mullo) (i := .mullo o) (encA_facts 257 (by decide) o).2.1 (encA_facts 257 (by decide) o).1 hr (show Instr.mullo (decA _) = _ from congrArg Instr.mullo (decA_back 257 (by decide) o hd)) rest

theorem Encoded.mulhi (o : FmtA) : Encoded.Statement (.mulhi o) := by
  intro h n w he rest
  obtain ⟨rfl, rfl⟩ := Prod.mk.inj (Option.some.inj he)
  simp only [Instr.fits] at h
  have hd := h
  have r1 : bits (0x00000181 + encA o) 1 6 = 0 := (encA_facts 385 (by decide) o).2.2.1
  have r2 : bits (0x00000181 + encA o) 7 2 = 3 := (encA_facts 385 (by decide) o).2.2.2
  have hr : rowOf32 (0x00000181 + encA o) = some .mulhi := by
    rw [rowOf32_00 r1]
    simp [rowMajor00, r2]
  exact decode_word32 (r := .mulhi) (i := .mulhi o) (encA_facts 385 (by decide) o).2.1 (encA_facts 385 (by decide) o).1 hr (show Instr.mulhi (decA _) = _ from congrArg Instr.mulhi (decA_back 385 (by decide) o hd)) rest

theorem Encoded.mulhiu (o : FmtA) : Encoded.Statement (.mulhiu o) := by
  intro h n w he rest
  obtain ⟨rfl, rfl⟩ := Prod.mk.inj (Option.some.inj he)
  simp only [Instr.fits] at h
  have hd := h
  have r1 : bits (0x00000003 + encA o) 1 6 = 1 := (encA_facts 3 (by decide) o).2.2.1
  have r2 : bits (0x00000003 + encA o) 7 2 = 0 := (encA_facts 3 (by decide) o).2.2.2
  have hr : rowOf32 (0x00000003 + encA o) = some .mulhiu := by
    rw [rowOf32_01 r1]
    simp [rowMajor01, r2]
  exact decode_word32 (r := .mulhiu) (i := .mulhiu o) (encA_facts 3 (by decide) o).2.1 (encA_facts 3 (by decide) o).1 hr (show Instr.mulhiu (decA _) = _ from congrArg Instr.mulhiu (decA_back 3 (by decide) o hd)) rest

theorem Encoded.mad (o : FmtA) : Encoded.Statement (.mad o) := by
  intro h n w he rest
  obtain ⟨rfl, rfl⟩ := Prod.mk.inj (Option.some.inj he)
  simp only [Instr.fits] at h
  have hd := h
  have r1 : bits (0x00000083 + encA o) 1 6 = 1 := (encA_facts 131 (by decide) o).2.2.1
  have r2 : bits (0x00000083 + encA o) 7 2 = 1 := (encA_facts 131 (by decide) o).2.2.2
  have hr : rowOf32 (0x00000083 + encA o) = some .mad := by
    rw [rowOf32_01 r1]
    simp [rowMajor01, r2]
  exact decode_word32 (r := .mad) (i := .mad o) (encA_facts 131 (by decide) o).2.1 (encA_facts 131 (by decide) o).1 hr (show Instr.mad (decA _) = _ from congrArg Instr.mad (decA_back 131 (by decide) o hd)) rest

theorem Encoded.absdiff (o : FmtA) : Encoded.Statement (.absdiff o) := by
  intro h n w he rest
  obtain ⟨rfl, rfl⟩ := Prod.mk.inj (Option.some.inj he)
  simp only [Instr.fits] at h
  have hd := h
  have r1 : bits (0x00000103 + encA o) 1 6 = 1 := (encA_facts 259 (by decide) o).2.2.1
  have r2 : bits (0x00000103 + encA o) 7 2 = 2 := (encA_facts 259 (by decide) o).2.2.2
  have hr : rowOf32 (0x00000103 + encA o) = some .absdiff := by
    rw [rowOf32_01 r1]
    simp [rowMajor01, r2]
  exact decode_word32 (r := .absdiff) (i := .absdiff o) (encA_facts 259 (by decide) o).2.1 (encA_facts 259 (by decide) o).1 hr (show Instr.absdiff (decA _) = _ from congrArg Instr.absdiff (decA_back 259 (by decide) o hd)) rest

theorem Encoded.avg (o : FmtA) : Encoded.Statement (.avg o) := by
  intro h n w he rest
  obtain ⟨rfl, rfl⟩ := Prod.mk.inj (Option.some.inj he)
  simp only [Instr.fits] at h
  have hd := h
  have r1 : bits (0x00000183 + encA o) 1 6 = 1 := (encA_facts 387 (by decide) o).2.2.1
  have r2 : bits (0x00000183 + encA o) 7 2 = 3 := (encA_facts 387 (by decide) o).2.2.2
  have hr : rowOf32 (0x00000183 + encA o) = some .avg := by
    rw [rowOf32_01 r1]
    simp [rowMajor01, r2]
  exact decode_word32 (r := .avg) (i := .avg o) (encA_facts 387 (by decide) o).2.1 (encA_facts 387 (by decide) o).1 hr (show Instr.avg (decA _) = _ from congrArg Instr.avg (decA_back 387 (by decide) o hd)) rest

theorem Encoded.min (o : FmtA) : Encoded.Statement (.min o) := by
  intro h n w he rest
  obtain ⟨rfl, rfl⟩ := Prod.mk.inj (Option.some.inj he)
  simp only [Instr.fits] at h
  have hd := h
  have r1 : bits (0x00000005 + encA o) 1 6 = 2 := (encA_facts 5 (by decide) o).2.2.1
  have r2 : bits (0x00000005 + encA o) 7 2 = 0 := (encA_facts 5 (by decide) o).2.2.2
  have hr : rowOf32 (0x00000005 + encA o) = some .min := by
    rw [rowOf32_02 r1]
    simp [rowMajor02, r2]
  exact decode_word32 (r := .min) (i := .min o) (encA_facts 5 (by decide) o).2.1 (encA_facts 5 (by decide) o).1 hr (show Instr.min (decA _) = _ from congrArg Instr.min (decA_back 5 (by decide) o hd)) rest

theorem Encoded.max (o : FmtA) : Encoded.Statement (.max o) := by
  intro h n w he rest
  obtain ⟨rfl, rfl⟩ := Prod.mk.inj (Option.some.inj he)
  simp only [Instr.fits] at h
  have hd := h
  have r1 : bits (0x00000085 + encA o) 1 6 = 2 := (encA_facts 133 (by decide) o).2.2.1
  have r2 : bits (0x00000085 + encA o) 7 2 = 1 := (encA_facts 133 (by decide) o).2.2.2
  have hr : rowOf32 (0x00000085 + encA o) = some .max := by
    rw [rowOf32_02 r1]
    simp [rowMajor02, r2]
  exact decode_word32 (r := .max) (i := .max o) (encA_facts 133 (by decide) o).2.1 (encA_facts 133 (by decide) o).1 hr (show Instr.max (decA _) = _ from congrArg Instr.max (decA_back 133 (by decide) o hd)) rest

theorem Encoded.minu (o : FmtA) : Encoded.Statement (.minu o) := by
  intro h n w he rest
  obtain ⟨rfl, rfl⟩ := Prod.mk.inj (Option.some.inj he)
  simp only [Instr.fits] at h
  have hd := h
  have r1 : bits (0x00000105 + encA o) 1 6 = 2 := (encA_facts 261 (by decide) o).2.2.1
  have r2 : bits (0x00000105 + encA o) 7 2 = 2 := (encA_facts 261 (by decide) o).2.2.2
  have hr : rowOf32 (0x00000105 + encA o) = some .minu := by
    rw [rowOf32_02 r1]
    simp [rowMajor02, r2]
  exact decode_word32 (r := .minu) (i := .minu o) (encA_facts 261 (by decide) o).2.1 (encA_facts 261 (by decide) o).1 hr (show Instr.minu (decA _) = _ from congrArg Instr.minu (decA_back 261 (by decide) o hd)) rest

theorem Encoded.maxu (o : FmtA) : Encoded.Statement (.maxu o) := by
  intro h n w he rest
  obtain ⟨rfl, rfl⟩ := Prod.mk.inj (Option.some.inj he)
  simp only [Instr.fits] at h
  have hd := h
  have r1 : bits (0x00000185 + encA o) 1 6 = 2 := (encA_facts 389 (by decide) o).2.2.1
  have r2 : bits (0x00000185 + encA o) 7 2 = 3 := (encA_facts 389 (by decide) o).2.2.2
  have hr : rowOf32 (0x00000185 + encA o) = some .maxu := by
    rw [rowOf32_02 r1]
    simp [rowMajor02, r2]
  exact decode_word32 (r := .maxu) (i := .maxu o) (encA_facts 389 (by decide) o).2.1 (encA_facts 389 (by decide) o).1 hr (show Instr.maxu (decA _) = _ from congrArg Instr.maxu (decA_back 389 (by decide) o hd)) rest

theorem Encoded.and (o : FmtA) : Encoded.Statement (.and o) := by
  intro h n w he rest
  obtain ⟨rfl, rfl⟩ := Prod.mk.inj (Option.some.inj he)
  simp only [Instr.fits] at h
  have hd := h
  have r1 : bits (0x00000007 + encA o) 1 6 = 3 := (encA_facts 7 (by decide) o).2.2.1
  have r2 : bits (0x00000007 + encA o) 7 2 = 0 := (encA_facts 7 (by decide) o).2.2.2
  have hr : rowOf32 (0x00000007 + encA o) = some .and := by
    rw [rowOf32_03 r1]
    simp [rowMajor03, r2]
  exact decode_word32 (r := .and) (i := .and o) (encA_facts 7 (by decide) o).2.1 (encA_facts 7 (by decide) o).1 hr (show Instr.and (decA _) = _ from congrArg Instr.and (decA_back 7 (by decide) o hd)) rest

theorem Encoded.or (o : FmtA) : Encoded.Statement (.or o) := by
  intro h n w he rest
  obtain ⟨rfl, rfl⟩ := Prod.mk.inj (Option.some.inj he)
  simp only [Instr.fits] at h
  have hd := h
  have r1 : bits (0x00000087 + encA o) 1 6 = 3 := (encA_facts 135 (by decide) o).2.2.1
  have r2 : bits (0x00000087 + encA o) 7 2 = 1 := (encA_facts 135 (by decide) o).2.2.2
  have hr : rowOf32 (0x00000087 + encA o) = some .or := by
    rw [rowOf32_03 r1]
    simp [rowMajor03, r2]
  exact decode_word32 (r := .or) (i := .or o) (encA_facts 135 (by decide) o).2.1 (encA_facts 135 (by decide) o).1 hr (show Instr.or (decA _) = _ from congrArg Instr.or (decA_back 135 (by decide) o hd)) rest

theorem Encoded.xor (o : FmtA) : Encoded.Statement (.xor o) := by
  intro h n w he rest
  obtain ⟨rfl, rfl⟩ := Prod.mk.inj (Option.some.inj he)
  simp only [Instr.fits] at h
  have hd := h
  have r1 : bits (0x00000107 + encA o) 1 6 = 3 := (encA_facts 263 (by decide) o).2.2.1
  have r2 : bits (0x00000107 + encA o) 7 2 = 2 := (encA_facts 263 (by decide) o).2.2.2
  have hr : rowOf32 (0x00000107 + encA o) = some .xor := by
    rw [rowOf32_03 r1]
    simp [rowMajor03, r2]
  exact decode_word32 (r := .xor) (i := .xor o) (encA_facts 263 (by decide) o).2.1 (encA_facts 263 (by decide) o).1 hr (show Instr.xor (decA _) = _ from congrArg Instr.xor (decA_back 263 (by decide) o hd)) rest

theorem Encoded.andn (o : FmtA) : Encoded.Statement (.andn o) := by
  intro h n w he rest
  obtain ⟨rfl, rfl⟩ := Prod.mk.inj (Option.some.inj he)
  simp only [Instr.fits] at h
  have hd := h
  have r1 : bits (0x00000187 + encA o) 1 6 = 3 := (encA_facts 391 (by decide) o).2.2.1
  have r2 : bits (0x00000187 + encA o) 7 2 = 3 := (encA_facts 391 (by decide) o).2.2.2
  have hr : rowOf32 (0x00000187 + encA o) = some .andn := by
    rw [rowOf32_03 r1]
    simp [rowMajor03, r2]
  exact decode_word32 (r := .andn) (i := .andn o) (encA_facts 391 (by decide) o).2.1 (encA_facts 391 (by decide) o).1 hr (show Instr.andn (decA _) = _ from congrArg Instr.andn (decA_back 391 (by decide) o hd)) rest

theorem Encoded.shl (o : FmtA) : Encoded.Statement (.shl o) := by
  intro h n w he rest
  obtain ⟨rfl, rfl⟩ := Prod.mk.inj (Option.some.inj he)
  simp only [Instr.fits] at h
  have hd := h
  have r1 : bits (0x00000009 + encA o) 1 6 = 4 := (encA_facts 9 (by decide) o).2.2.1
  have r2 : bits (0x00000009 + encA o) 7 2 = 0 := (encA_facts 9 (by decide) o).2.2.2
  have hr : rowOf32 (0x00000009 + encA o) = some .shl := by
    rw [rowOf32_04 r1]
    simp [rowMajor04, r2]
  exact decode_word32 (r := .shl) (i := .shl o) (encA_facts 9 (by decide) o).2.1 (encA_facts 9 (by decide) o).1 hr (show Instr.shl (decA _) = _ from congrArg Instr.shl (decA_back 9 (by decide) o hd)) rest

theorem Encoded.shr (o : FmtA) : Encoded.Statement (.shr o) := by
  intro h n w he rest
  obtain ⟨rfl, rfl⟩ := Prod.mk.inj (Option.some.inj he)
  simp only [Instr.fits] at h
  have hd := h
  have r1 : bits (0x00000089 + encA o) 1 6 = 4 := (encA_facts 137 (by decide) o).2.2.1
  have r2 : bits (0x00000089 + encA o) 7 2 = 1 := (encA_facts 137 (by decide) o).2.2.2
  have hr : rowOf32 (0x00000089 + encA o) = some .shr := by
    rw [rowOf32_04 r1]
    simp [rowMajor04, r2]
  exact decode_word32 (r := .shr) (i := .shr o) (encA_facts 137 (by decide) o).2.1 (encA_facts 137 (by decide) o).1 hr (show Instr.shr (decA _) = _ from congrArg Instr.shr (decA_back 137 (by decide) o hd)) rest

theorem Encoded.sar (o : FmtA) : Encoded.Statement (.sar o) := by
  intro h n w he rest
  obtain ⟨rfl, rfl⟩ := Prod.mk.inj (Option.some.inj he)
  simp only [Instr.fits] at h
  have hd := h
  have r1 : bits (0x00000109 + encA o) 1 6 = 4 := (encA_facts 265 (by decide) o).2.2.1
  have r2 : bits (0x00000109 + encA o) 7 2 = 2 := (encA_facts 265 (by decide) o).2.2.2
  have hr : rowOf32 (0x00000109 + encA o) = some .sar := by
    rw [rowOf32_04 r1]
    simp [rowMajor04, r2]
  exact decode_word32 (r := .sar) (i := .sar o) (encA_facts 265 (by decide) o).2.1 (encA_facts 265 (by decide) o).1 hr (show Instr.sar (decA _) = _ from congrArg Instr.sar (decA_back 265 (by decide) o hd)) rest

theorem Encoded.rotl (o : FmtA) : Encoded.Statement (.rotl o) := by
  intro h n w he rest
  obtain ⟨rfl, rfl⟩ := Prod.mk.inj (Option.some.inj he)
  simp only [Instr.fits] at h
  have hd := h
  have r1 : bits (0x00000189 + encA o) 1 6 = 4 := (encA_facts 393 (by decide) o).2.2.1
  have r2 : bits (0x00000189 + encA o) 7 2 = 3 := (encA_facts 393 (by decide) o).2.2.2
  have hr : rowOf32 (0x00000189 + encA o) = some .rotl := by
    rw [rowOf32_04 r1]
    simp [rowMajor04, r2]
  exact decode_word32 (r := .rotl) (i := .rotl o) (encA_facts 393 (by decide) o).2.1 (encA_facts 393 (by decide) o).1 hr (show Instr.rotl (decA _) = _ from congrArg Instr.rotl (decA_back 393 (by decide) o hd)) rest

theorem Encoded.bfx (o : FmtA) : Encoded.Statement (.bfx o) := by
  intro h n w he rest
  obtain ⟨rfl, rfl⟩ := Prod.mk.inj (Option.some.inj he)
  simp only [Instr.fits] at h
  have hd := h
  have r1 : bits (0x0000000B + encA o) 1 6 = 5 := (encA_facts 11 (by decide) o).2.2.1
  have r2 : bits (0x0000000B + encA o) 7 2 = 0 := (encA_facts 11 (by decide) o).2.2.2
  have hr : rowOf32 (0x0000000B + encA o) = some .bfx := by
    rw [rowOf32_05 r1]
    simp [rowMajor05, r2]
  exact decode_word32 (r := .bfx) (i := .bfx o) (encA_facts 11 (by decide) o).2.1 (encA_facts 11 (by decide) o).1 hr (show Instr.bfx (decA _) = _ from congrArg Instr.bfx (decA_back 11 (by decide) o hd)) rest

theorem Encoded.bfi (o : FmtA) : Encoded.Statement (.bfi o) := by
  intro h n w he rest
  obtain ⟨rfl, rfl⟩ := Prod.mk.inj (Option.some.inj he)
  simp only [Instr.fits] at h
  have hd := h
  have r1 : bits (0x0000008B + encA o) 1 6 = 5 := (encA_facts 139 (by decide) o).2.2.1
  have r2 : bits (0x0000008B + encA o) 7 2 = 1 := (encA_facts 139 (by decide) o).2.2.2
  have hr : rowOf32 (0x0000008B + encA o) = some .bfi := by
    rw [rowOf32_05 r1]
    simp [rowMajor05, r2]
  exact decode_word32 (r := .bfi) (i := .bfi o) (encA_facts 139 (by decide) o).2.1 (encA_facts 139 (by decide) o).1 hr (show Instr.bfi (decA _) = _ from congrArg Instr.bfi (decA_back 139 (by decide) o hd)) rest

theorem Encoded.lea2 (o : FmtA) : Encoded.Statement (.lea2 o) := by
  intro h n w he rest
  obtain ⟨rfl, rfl⟩ := Prod.mk.inj (Option.some.inj he)
  simp only [Instr.fits] at h
  have hd := h
  have r1 : bits (0x0000010B + encA o) 1 6 = 5 := (encA_facts 267 (by decide) o).2.2.1
  have r2 : bits (0x0000010B + encA o) 7 2 = 2 := (encA_facts 267 (by decide) o).2.2.2
  have hr : rowOf32 (0x0000010B + encA o) = some .lea2 := by
    rw [rowOf32_05 r1]
    simp [rowMajor05, r2]
  exact decode_word32 (r := .lea2) (i := .lea2 o) (encA_facts 267 (by decide) o).2.1 (encA_facts 267 (by decide) o).1 hr (show Instr.lea2 (decA _) = _ from congrArg Instr.lea2 (decA_back 267 (by decide) o hd)) rest

theorem Encoded.lea3 (o : FmtA) : Encoded.Statement (.lea3 o) := by
  intro h n w he rest
  obtain ⟨rfl, rfl⟩ := Prod.mk.inj (Option.some.inj he)
  simp only [Instr.fits] at h
  have hd := h
  have r1 : bits (0x0000018B + encA o) 1 6 = 5 := (encA_facts 395 (by decide) o).2.2.1
  have r2 : bits (0x0000018B + encA o) 7 2 = 3 := (encA_facts 395 (by decide) o).2.2.2
  have hr : rowOf32 (0x0000018B + encA o) = some .lea3 := by
    rw [rowOf32_05 r1]
    simp [rowMajor05, r2]
  exact decode_word32 (r := .lea3) (i := .lea3 o) (encA_facts 395 (by decide) o).2.1 (encA_facts 395 (by decide) o).1 hr (show Instr.lea3 (decA _) = _ from congrArg Instr.lea3 (decA_back 395 (by decide) o hd)) rest

theorem Encoded.selp (o : FmtSel) : Encoded.Statement (.selp o) := by
  intro h n w he rest
  obtain ⟨rfl, rfl⟩ := Prod.mk.inj (Option.some.inj he)
  simp only [Instr.fits, Bool.and_eq_true] at h
  obtain ⟨hd, hx⟩ := h
  have := srcCode_lt o.b
  have := srcCode_lt o.a
  have := dstCode_lt o.d
  have := o.kb.toNat_lt
  have := o.ka.toNat_lt
  have := o.p.isLt
  have r1 : bits (0x0000000D + encSel o) 1 6 = 6 := by simp only [bits, encSel]; omega
  have r2 : bits (0x0000000D + encSel o) 7 2 = o.p.toNat := by simp only [bits, encSel]; omega
  have hr : rowOf32 (0x0000000D + encSel o) = some .selp := by
    rw [rowOf32_06 r1]
    have := toNat_ne_zero hx
    simp [rowMajor06, r2, *]
  have e1 : bits (0x0000000D + encSel o) 25 7 = srcCode o.b := by simp only [bits, encSel]; omega
  have e2 : bits (0x0000000D + encSel o) 18 7 = srcCode o.a := by simp only [bits, encSel]; omega
  have e3 : bits (0x0000000D + encSel o) 11 7 = dstCode o.d := by simp only [bits, encSel]; omega
  have e4 : bit (0x0000000D + encSel o) 10 = o.kb := bit_back (by simp only [encSel]; omega)
  have e5 : bit (0x0000000D + encSel o) 9 = o.ka := bit_back (by simp only [encSel]; omega)
  have e6 : field (0x0000000D + encSel o) 7 2 = o.p := field_back (by simp only [encSel]; omega)
  have hi : decSel (0x0000000D + encSel o) = o := by simp only [decSel, e1, src_back, e2, src_back, e3, dst_back _ hd, e4, e5, e6]
  exact decode_word32 (r := .selp) (i := .selp o) (by simp only [encSel]; omega) (by simp only [encSel]; omega) hr (show Instr.selp (decSel _) = _ from congrArg Instr.selp hi) rest

theorem Encoded.add64 (o : FmtA) : Encoded.Statement (.add64 o) := by
  intro h n w he rest
  obtain ⟨rfl, rfl⟩ := Prod.mk.inj (Option.some.inj he)
  simp only [Instr.fits] at h
  have hd := h
  have r1 : bits (0x0000000F + encA o) 1 6 = 7 := (encA_facts 15 (by decide) o).2.2.1
  have r2 : bits (0x0000000F + encA o) 7 2 = 0 := (encA_facts 15 (by decide) o).2.2.2
  have hr : rowOf32 (0x0000000F + encA o) = some .add64 := by
    rw [rowOf32_07 r1]
    simp [rowMajor07, r2]
  exact decode_word32 (r := .add64) (i := .add64 o) (encA_facts 15 (by decide) o).2.1 (encA_facts 15 (by decide) o).1 hr (show Instr.add64 (decA _) = _ from congrArg Instr.add64 (decA_back 15 (by decide) o hd)) rest

theorem Encoded.sub64 (o : FmtA) : Encoded.Statement (.sub64 o) := by
  intro h n w he rest
  obtain ⟨rfl, rfl⟩ := Prod.mk.inj (Option.some.inj he)
  simp only [Instr.fits] at h
  have hd := h
  have r1 : bits (0x0000008F + encA o) 1 6 = 7 := (encA_facts 143 (by decide) o).2.2.1
  have r2 : bits (0x0000008F + encA o) 7 2 = 1 := (encA_facts 143 (by decide) o).2.2.2
  have hr : rowOf32 (0x0000008F + encA o) = some .sub64 := by
    rw [rowOf32_07 r1]
    simp [rowMajor07, r2]
  exact decode_word32 (r := .sub64) (i := .sub64 o) (encA_facts 143 (by decide) o).2.1 (encA_facts 143 (by decide) o).1 hr (show Instr.sub64 (decA _) = _ from congrArg Instr.sub64 (decA_back 143 (by decide) o hd)) rest

theorem Encoded.shl64 (o : FmtA) : Encoded.Statement (.shl64 o) := by
  intro h n w he rest
  obtain ⟨rfl, rfl⟩ := Prod.mk.inj (Option.some.inj he)
  simp only [Instr.fits] at h
  have hd := h
  have r1 : bits (0x0000010F + encA o) 1 6 = 7 := (encA_facts 271 (by decide) o).2.2.1
  have r2 : bits (0x0000010F + encA o) 7 2 = 2 := (encA_facts 271 (by decide) o).2.2.2
  have hr : rowOf32 (0x0000010F + encA o) = some .shl64 := by
    rw [rowOf32_07 r1]
    simp [rowMajor07, r2]
  exact decode_word32 (r := .shl64) (i := .shl64 o) (encA_facts 271 (by decide) o).2.1 (encA_facts 271 (by decide) o).1 hr (show Instr.shl64 (decA _) = _ from congrArg Instr.shl64 (decA_back 271 (by decide) o hd)) rest

theorem Encoded.shr64 (o : FmtA) : Encoded.Statement (.shr64 o) := by
  intro h n w he rest
  obtain ⟨rfl, rfl⟩ := Prod.mk.inj (Option.some.inj he)
  simp only [Instr.fits] at h
  have hd := h
  have r1 : bits (0x0000018F + encA o) 1 6 = 7 := (encA_facts 399 (by decide) o).2.2.1
  have r2 : bits (0x0000018F + encA o) 7 2 = 3 := (encA_facts 399 (by decide) o).2.2.2
  have hr : rowOf32 (0x0000018F + encA o) = some .shr64 := by
    rw [rowOf32_07 r1]
    simp [rowMajor07, r2]
  exact decode_word32 (r := .shr64) (i := .shr64 o) (encA_facts 399 (by decide) o).2.1 (encA_facts 399 (by decide) o).1 hr (show Instr.shr64 (decA _) = _ from congrArg Instr.shr64 (decA_back 399 (by decide) o hd)) rest

theorem Encoded.icmp (o : FmtIC) : Encoded.Statement (.icmp o) := by
  intro h n w he rest
  obtain ⟨rfl, rfl⟩ := Prod.mk.inj (Option.some.inj he)
  simp only [Instr.fits] at h
  have := srcCode_lt o.b
  have := srcCode_lt o.a
  have := o.conj.toNat_lt
  have := iCondCode_lt o.cond
  have := o.p.isLt
  have := o.kb.toNat_lt
  have := o.ka.toNat_lt
  have := iCmpTyCode_lt o.ty
  have r1 : bits (0x00000011 + encIC o) 1 6 = 8 := by simp only [bits, encIC]; omega
  have r2 : bits (0x00000011 + encIC o) 17 1 = 0 := by simp only [bits, encIC]; omega
  have hr : rowOf32 (0x00000011 + encIC o) = some .icmp := by
    rw [rowOf32_08 r1]
    simp [rowMajor08, r2]
  have e1 : bits (0x00000011 + encIC o) 25 7 = srcCode o.b := by simp only [bits, encIC]; omega
  have e2 : bits (0x00000011 + encIC o) 18 7 = srcCode o.a := by simp only [bits, encIC]; omega
  have e3 : bit (0x00000011 + encIC o) 16 = o.conj := bit_back (by simp only [encIC]; omega)
  have e4 : bits (0x00000011 + encIC o) 13 3 = iCondCode o.cond := by simp only [bits, encIC]; omega
  have e5 : field (0x00000011 + encIC o) 11 2 = o.p := field_back (by simp only [encIC]; omega)
  have e6 : bit (0x00000011 + encIC o) 10 = o.kb := bit_back (by simp only [encIC]; omega)
  have e7 : bit (0x00000011 + encIC o) 9 = o.ka := bit_back (by simp only [encIC]; omega)
  have e8 : bits (0x00000011 + encIC o) 7 2 = iCmpTyCode o.ty := by simp only [bits, encIC]; omega
  have hi : decIC (0x00000011 + encIC o) = o := by simp only [decIC, e1, src_back, e2, src_back, e3, e4, iCond_back, e5, e6, e7, e8, iCmpTy_back]
  exact decode_word32 (r := .icmp) (i := .icmp o) (by simp only [encIC]; omega) (by simp only [encIC]; omega) hr (show Instr.icmp (decIC _) = _ from congrArg Instr.icmp hi) rest

theorem Encoded.fcmp (o : FmtFC) : Encoded.Statement (.fcmp o) := by
  intro h n w he rest
  obtain ⟨rfl, rfl⟩ := Prod.mk.inj (Option.some.inj he)
  simp only [Instr.fits] at h
  have := srcCode_lt o.b
  have := srcCode_lt o.a
  have := o.conj.toNat_lt
  have := fCondCode_lt o.cond
  have := o.p.isLt
  have := o.kb.toNat_lt
  have := o.ka.toNat_lt
  have := fCmpTyCode_lt o.ty
  have r1 : bits (0x00000013 + encFC o) 1 6 = 9 := by simp only [bits, encFC]; omega
  have r2 : bits (0x00000013 + encFC o) 17 1 = 0 := by simp only [bits, encFC]; omega
  have r3 : bits (0x00000013 + encFC o) 7 2 = fCmpTyCode o.ty := by simp only [bits, encFC]; omega
  have hr : rowOf32 (0x00000013 + encFC o) = some .fcmp := by
    rw [rowOf32_09 r1]
    simp [rowMajor09, r2, r3, *]
  have e1 : bits (0x00000013 + encFC o) 25 7 = srcCode o.b := by simp only [bits, encFC]; omega
  have e2 : bits (0x00000013 + encFC o) 18 7 = srcCode o.a := by simp only [bits, encFC]; omega
  have e3 : bit (0x00000013 + encFC o) 16 = o.conj := bit_back (by simp only [encFC]; omega)
  have e4 : bits (0x00000013 + encFC o) 13 3 = fCondCode o.cond := by simp only [bits, encFC]; omega
  have e5 : field (0x00000013 + encFC o) 11 2 = o.p := field_back (by simp only [encFC]; omega)
  have e6 : bit (0x00000013 + encFC o) 10 = o.kb := bit_back (by simp only [encFC]; omega)
  have e7 : bit (0x00000013 + encFC o) 9 = o.ka := bit_back (by simp only [encFC]; omega)
  have e8 : bits (0x00000013 + encFC o) 7 2 = fCmpTyCode o.ty := by simp only [bits, encFC]; omega
  have hi : decFC (0x00000013 + encFC o) = o := by simp only [decFC, e1, src_back, e2, src_back, e3, e4, fCond_back, e5, e6, e7, e8, fCmpTy_back]
  exact decode_word32 (r := .fcmp) (i := .fcmp o) (by simp only [encFC]; omega) (by simp only [encFC]; omega) hr (show Instr.fcmp (decFC _) = _ from congrArg Instr.fcmp hi) rest

theorem Encoded.addi (o : FmtI) : Encoded.Statement (.addi o) := by
  intro h n w he rest
  obtain ⟨rfl, rfl⟩ := Prod.mk.inj (Option.some.inj he)
  simp only [Instr.fits] at h
  have hd := h
  have r1 : bits (0x00000015 + encI o) 1 6 = 10 := (encI_facts 21 (by decide) o).2.2
  have hr : rowOf32 (0x00000015 + encI o) = some .addi := by
    rw [rowOf32_0A r1]
  exact decode_word32 (r := .addi) (i := .addi o) (encI_facts 21 (by decide) o).2.1 (encI_facts 21 (by decide) o).1 hr (show Instr.addi (decI _) = _ from congrArg Instr.addi (decI_back 21 (by decide) o hd)) rest

theorem Encoded.andi (o : FmtI) : Encoded.Statement (.andi o) := by
  intro h n w he rest
  obtain ⟨rfl, rfl⟩ := Prod.mk.inj (Option.some.inj he)
  simp only [Instr.fits] at h
  have hd := h
  have r1 : bits (0x00000017 + encI o) 1 6 = 11 := (encI_facts 23 (by decide) o).2.2
  have hr : rowOf32 (0x00000017 + encI o) = some .andi := by
    rw [rowOf32_0B r1]
  exact decode_word32 (r := .andi) (i := .andi o) (encI_facts 23 (by decide) o).2.1 (encI_facts 23 (by decide) o).1 hr (show Instr.andi (decI _) = _ from congrArg Instr.andi (decI_back 23 (by decide) o hd)) rest

theorem Encoded.ori (o : FmtI) : Encoded.Statement (.ori o) := by
  intro h n w he rest
  obtain ⟨rfl, rfl⟩ := Prod.mk.inj (Option.some.inj he)
  simp only [Instr.fits] at h
  have hd := h
  have r1 : bits (0x00000019 + encI o) 1 6 = 12 := (encI_facts 25 (by decide) o).2.2
  have hr : rowOf32 (0x00000019 + encI o) = some .ori := by
    rw [rowOf32_0C r1]
  exact decode_word32 (r := .ori) (i := .ori o) (encI_facts 25 (by decide) o).2.1 (encI_facts 25 (by decide) o).1 hr (show Instr.ori (decI _) = _ from congrArg Instr.ori (decI_back 25 (by decide) o hd)) rest

theorem Encoded.xori (o : FmtI) : Encoded.Statement (.xori o) := by
  intro h n w he rest
  obtain ⟨rfl, rfl⟩ := Prod.mk.inj (Option.some.inj he)
  simp only [Instr.fits] at h
  have hd := h
  have r1 : bits (0x0000001B + encI o) 1 6 = 13 := (encI_facts 27 (by decide) o).2.2
  have hr : rowOf32 (0x0000001B + encI o) = some .xori := by
    rw [rowOf32_0D r1]
  exact decode_word32 (r := .xori) (i := .xori o) (encI_facts 27 (by decide) o).2.1 (encI_facts 27 (by decide) o).1 hr (show Instr.xori (decI _) = _ from congrArg Instr.xori (decI_back 27 (by decide) o hd)) rest

theorem Encoded.shifti (o : FmtShift) : Encoded.Statement (.shifti o) := by
  intro h n w he rest
  obtain ⟨rfl, rfl⟩ := Prod.mk.inj (Option.some.inj he)
  simp only [Instr.fits] at h
  have hd := h
  have := shiftKindCode_lt o.kind
  have := o.amt.isLt
  have := srcCode_lt o.a
  have := dstCode_lt o.d
  have uh : o.amt.toNat / 2 ^ 4 < 2 := by omega
  have ul : o.amt.toNat % 2 ^ 4 < 16 := by omega
  have r1 : bits (0x0000001D + encShift o) 1 6 = 14 := by simp only [bits, encShift]; generalize o.amt.toNat / 2 ^ 4 = hi at *; generalize o.amt.toNat % 2 ^ 4 = lo at *; omega
  have r2 : bits (0x0000001D + encShift o) 26 4 = 0 := by simp only [bits, encShift]; generalize o.amt.toNat / 2 ^ 4 = hi at *; generalize o.amt.toNat % 2 ^ 4 = lo at *; omega
  have hr : rowOf32 (0x0000001D + encShift o) = some .shifti := by
    rw [rowOf32_0E r1]
    simp [rowMajor0E, r2]
  have uh : o.amt.toNat / 2 ^ 4 < 2 := by omega
  have ul : o.amt.toNat % 2 ^ 4 < 16 := by omega
  have e1 : bits (0x0000001D + encShift o) 30 2 = shiftKindCode o.kind := by simp only [bits, encShift]; generalize o.amt.toNat / 2 ^ 4 = hi at *; generalize o.amt.toNat % 2 ^ 4 = lo at *; omega
  have uh : o.amt.toNat / 2 ^ 4 < 2 := by omega
  have ul : o.amt.toNat % 2 ^ 4 < 16 := by omega
  have u2 : bits (0x0000001D + encShift o) 25 1 = o.amt.toNat / 2 ^ 4 := by simp only [bits, encShift]; generalize o.amt.toNat / 2 ^ 4 = hi at *; generalize o.amt.toNat % 2 ^ 4 = lo at *; omega
  have v2 : bits (0x0000001D + encShift o) 7 4 = o.amt.toNat % 2 ^ 4 := by simp only [bits, encShift]; generalize o.amt.toNat / 2 ^ 4 = hi at *; generalize o.amt.toNat % 2 ^ 4 = lo at *; omega
  have e2 : BitVec.ofNat 5 (bits (0x0000001D + encShift o) 25 1 * 2 ^ 4 + bits (0x0000001D + encShift o) 7 4) = o.amt := ofNat_back (by rw [u2, v2]; omega)
  have e3 : bits (0x0000001D + encShift o) 18 7 = srcCode o.a := by simp only [bits, encShift]; generalize o.amt.toNat / 2 ^ 4 = hi at *; generalize o.amt.toNat % 2 ^ 4 = lo at *; omega
  have e4 : bits (0x0000001D + encShift o) 11 7 = dstCode o.d := by simp only [bits, encShift]; generalize o.amt.toNat / 2 ^ 4 = hi at *; generalize o.amt.toNat % 2 ^ 4 = lo at *; omega
  have hi : decShift (0x0000001D + encShift o) = o := by simp only [decShift, e1, shiftKind_back, e2, e3, src_back, e4, dst_back _ hd]
  exact decode_word32 (r := .shifti) (i := .shifti o) (by simp only [encShift]; generalize o.amt.toNat / 2 ^ 4 = hi at *; generalize o.amt.toNat % 2 ^ 4 = lo at *; omega) (by simp only [encShift]; generalize o.amt.toNat / 2 ^ 4 = hi at *; generalize o.amt.toNat % 2 ^ 4 = lo at *; omega) hr (show Instr.shifti (decShift _) = _ from congrArg Instr.shifti hi) rest

theorem Encoded.muli (o : FmtI) : Encoded.Statement (.muli o) := by
  intro h n w he rest
  obtain ⟨rfl, rfl⟩ := Prod.mk.inj (Option.some.inj he)
  simp only [Instr.fits] at h
  have hd := h
  have r1 : bits (0x0000001F + encI o) 1 6 = 15 := (encI_facts 31 (by decide) o).2.2
  have hr : rowOf32 (0x0000001F + encI o) = some .muli := by
    rw [rowOf32_0F r1]
  exact decode_word32 (r := .muli) (i := .muli o) (encI_facts 31 (by decide) o).2.1 (encI_facts 31 (by decide) o).1 hr (show Instr.muli (decI _) = _ from congrArg Instr.muli (decI_back 31 (by decide) o hd)) rest

theorem Encoded.saddi (o : FmtUI) : Encoded.Statement (.saddi o) := by
  intro h n w he rest
  obtain ⟨rfl, rfl⟩ := Prod.mk.inj (Option.some.inj he)
  simp only [Instr.fits] at h
  have ha := h
  have := o.imm.isLt
  have := usrcCode_lt o.a
  have := udstCode_lt o.d
  have uh : o.imm.toNat / 2 ^ 4 < 128 := by omega
  have ul : o.imm.toNat % 2 ^ 4 < 16 := by omega
  have r1 : bits (0x00000065 + encUI o) 1 6 = 50 := by simp only [bits, encUI]; generalize o.imm.toNat / 2 ^ 4 = hi at *; generalize o.imm.toNat % 2 ^ 4 = lo at *; omega
  have hr : rowOf32 (0x00000065 + encUI o) = some .saddi := by
    rw [rowOf32_32 r1]
  have uh : o.imm.toNat / 2 ^ 4 < 128 := by omega
  have ul : o.imm.toNat % 2 ^ 4 < 16 := by omega
  have uh : o.imm.toNat / 2 ^ 4 < 128 := by omega
  have ul : o.imm.toNat % 2 ^ 4 < 16 := by omega
  have u1 : bits (0x00000065 + encUI o) 25 7 = o.imm.toNat / 2 ^ 4 := by simp only [bits, encUI]; generalize o.imm.toNat / 2 ^ 4 = hi at *; generalize o.imm.toNat % 2 ^ 4 = lo at *; omega
  have v1 : bits (0x00000065 + encUI o) 7 4 = o.imm.toNat % 2 ^ 4 := by simp only [bits, encUI]; generalize o.imm.toNat / 2 ^ 4 = hi at *; generalize o.imm.toNat % 2 ^ 4 = lo at *; omega
  have e1 : BitVec.ofNat 11 (bits (0x00000065 + encUI o) 25 7 * 2 ^ 4 + bits (0x00000065 + encUI o) 7 4) = o.imm := ofNat_back (by rw [u1, v1]; omega)
  have e2 : bits (0x00000065 + encUI o) 18 7 = usrcCode o.a := by simp only [bits, encUI]; generalize o.imm.toNat / 2 ^ 4 = hi at *; generalize o.imm.toNat % 2 ^ 4 = lo at *; omega
  have e3 : bits (0x00000065 + encUI o) 11 7 = udstCode o.d := by simp only [bits, encUI]; generalize o.imm.toNat / 2 ^ 4 = hi at *; generalize o.imm.toNat % 2 ^ 4 = lo at *; omega
  have hi : decUI (0x00000065 + encUI o) = o := by simp only [decUI, e1, e2, usrc_back _ ha, e3, udst_back]
  exact decode_word32 (r := .saddi) (i := .saddi o) (by simp only [encUI]; generalize o.imm.toNat / 2 ^ 4 = hi at *; generalize o.imm.toNat % 2 ^ 4 = lo at *; omega) (by simp only [encUI]; generalize o.imm.toNat / 2 ^ 4 = hi at *; generalize o.imm.toNat % 2 ^ 4 = lo at *; omega) hr (show Instr.saddi (decUI _) = _ from congrArg Instr.saddi hi) rest

theorem Encoded.lui (o : FmtL) : Encoded.Statement (.lui o) := by
  intro h n w he rest
  obtain ⟨rfl, rfl⟩ := Prod.mk.inj (Option.some.inj he)
  simp only [Instr.fits] at h
  have hd := h
  have := o.imm.isLt
  have := dstCode_lt o.d
  have uh : o.imm.toNat / 2 ^ 4 < 16384 := by omega
  have ul : o.imm.toNat % 2 ^ 4 < 16 := by omega
  have r1 : bits (0x00000021 + encL o) 1 6 = 16 := by simp only [bits, encL]; generalize o.imm.toNat / 2 ^ 4 = hi at *; generalize o.imm.toNat % 2 ^ 4 = lo at *; omega
  have hr : rowOf32 (0x00000021 + encL o) = some .lui := by
    rw [rowOf32_10 r1]
  have uh : o.imm.toNat / 2 ^ 4 < 16384 := by omega
  have ul : o.imm.toNat % 2 ^ 4 < 16 := by omega
  have uh : o.imm.toNat / 2 ^ 4 < 16384 := by omega
  have ul : o.imm.toNat % 2 ^ 4 < 16 := by omega
  have u1 : bits (0x00000021 + encL o) 18 14 = o.imm.toNat / 2 ^ 4 := by simp only [bits, encL]; generalize o.imm.toNat / 2 ^ 4 = hi at *; generalize o.imm.toNat % 2 ^ 4 = lo at *; omega
  have v1 : bits (0x00000021 + encL o) 7 4 = o.imm.toNat % 2 ^ 4 := by simp only [bits, encL]; generalize o.imm.toNat / 2 ^ 4 = hi at *; generalize o.imm.toNat % 2 ^ 4 = lo at *; omega
  have e1 : BitVec.ofNat 18 (bits (0x00000021 + encL o) 18 14 * 2 ^ 4 + bits (0x00000021 + encL o) 7 4) = o.imm := ofNat_back (by rw [u1, v1]; omega)
  have e2 : bits (0x00000021 + encL o) 11 7 = dstCode o.d := by simp only [bits, encL]; generalize o.imm.toNat / 2 ^ 4 = hi at *; generalize o.imm.toNat % 2 ^ 4 = lo at *; omega
  have hi : decL (0x00000021 + encL o) = o := by simp only [decL, e1, e2, dst_back _ hd]
  exact decode_word32 (r := .lui) (i := .lui o) (by simp only [encL]; generalize o.imm.toNat / 2 ^ 4 = hi at *; generalize o.imm.toNat % 2 ^ 4 = lo at *; omega) (by simp only [encL]; generalize o.imm.toNat / 2 ^ 4 = hi at *; generalize o.imm.toNat % 2 ^ 4 = lo at *; omega) hr (show Instr.lui (decL _) = _ from congrArg Instr.lui hi) rest

theorem Encoded.llo (o : FmtLo) : Encoded.Statement (.llo o) := by
  intro h n w he rest
  obtain ⟨rfl, rfl⟩ := Prod.mk.inj (Option.some.inj he)
  simp only [Instr.fits] at h
  have hd := h
  have := o.imm.isLt
  have := dstCode_lt o.d
  have uh : o.imm.toNat / 2 ^ 4 < 1024 := by omega
  have ul : o.imm.toNat % 2 ^ 4 < 16 := by omega
  have r1 : bits (0x00000023 + encLo o) 1 6 = 17 := by simp only [bits, encLo]; generalize o.imm.toNat / 2 ^ 4 = hi at *; generalize o.imm.toNat % 2 ^ 4 = lo at *; omega
  have r2 : bits (0x00000023 + encLo o) 28 4 = 0 := by simp only [bits, encLo]; generalize o.imm.toNat / 2 ^ 4 = hi at *; generalize o.imm.toNat % 2 ^ 4 = lo at *; omega
  have hr : rowOf32 (0x00000023 + encLo o) = some .llo := by
    rw [rowOf32_11 r1]
    simp [rowMajor11, r2]
  have uh : o.imm.toNat / 2 ^ 4 < 1024 := by omega
  have ul : o.imm.toNat % 2 ^ 4 < 16 := by omega
  have uh : o.imm.toNat / 2 ^ 4 < 1024 := by omega
  have ul : o.imm.toNat % 2 ^ 4 < 16 := by omega
  have u1 : bits (0x00000023 + encLo o) 18 10 = o.imm.toNat / 2 ^ 4 := by simp only [bits, encLo]; generalize o.imm.toNat / 2 ^ 4 = hi at *; generalize o.imm.toNat % 2 ^ 4 = lo at *; omega
  have v1 : bits (0x00000023 + encLo o) 7 4 = o.imm.toNat % 2 ^ 4 := by simp only [bits, encLo]; generalize o.imm.toNat / 2 ^ 4 = hi at *; generalize o.imm.toNat % 2 ^ 4 = lo at *; omega
  have e1 : BitVec.ofNat 14 (bits (0x00000023 + encLo o) 18 10 * 2 ^ 4 + bits (0x00000023 + encLo o) 7 4) = o.imm := ofNat_back (by rw [u1, v1]; omega)
  have e2 : bits (0x00000023 + encLo o) 11 7 = dstCode o.d := by simp only [bits, encLo]; generalize o.imm.toNat / 2 ^ 4 = hi at *; generalize o.imm.toNat % 2 ^ 4 = lo at *; omega
  have hi : decLo (0x00000023 + encLo o) = o := by simp only [decLo, e1, e2, dst_back _ hd]
  exact decode_word32 (r := .llo) (i := .llo o) (by simp only [encLo]; generalize o.imm.toNat / 2 ^ 4 = hi at *; generalize o.imm.toNat % 2 ^ 4 = lo at *; omega) (by simp only [encLo]; generalize o.imm.toNat / 2 ^ 4 = hi at *; generalize o.imm.toNat % 2 ^ 4 = lo at *; omega) hr (show Instr.llo (decLo _) = _ from congrArg Instr.llo hi) rest

theorem Encoded.adr (o : FmtL) : Encoded.Statement (.adr o) := by
  intro h n w he rest
  obtain ⟨rfl, rfl⟩ := Prod.mk.inj (Option.some.inj he)
  simp only [Instr.fits] at h
  have hd := h
  have := o.imm.isLt
  have := dstCode_lt o.d
  have uh : o.imm.toNat / 2 ^ 4 < 16384 := by omega
  have ul : o.imm.toNat % 2 ^ 4 < 16 := by omega
  have r1 : bits (0x00000025 + encL o) 1 6 = 18 := by simp only [bits, encL]; generalize o.imm.toNat / 2 ^ 4 = hi at *; generalize o.imm.toNat % 2 ^ 4 = lo at *; omega
  have hr : rowOf32 (0x00000025 + encL o) = some .adr := by
    rw [rowOf32_12 r1]
  have uh : o.imm.toNat / 2 ^ 4 < 16384 := by omega
  have ul : o.imm.toNat % 2 ^ 4 < 16 := by omega
  have uh : o.imm.toNat / 2 ^ 4 < 16384 := by omega
  have ul : o.imm.toNat % 2 ^ 4 < 16 := by omega
  have u1 : bits (0x00000025 + encL o) 18 14 = o.imm.toNat / 2 ^ 4 := by simp only [bits, encL]; generalize o.imm.toNat / 2 ^ 4 = hi at *; generalize o.imm.toNat % 2 ^ 4 = lo at *; omega
  have v1 : bits (0x00000025 + encL o) 7 4 = o.imm.toNat % 2 ^ 4 := by simp only [bits, encL]; generalize o.imm.toNat / 2 ^ 4 = hi at *; generalize o.imm.toNat % 2 ^ 4 = lo at *; omega
  have e1 : BitVec.ofNat 18 (bits (0x00000025 + encL o) 18 14 * 2 ^ 4 + bits (0x00000025 + encL o) 7 4) = o.imm := ofNat_back (by rw [u1, v1]; omega)
  have e2 : bits (0x00000025 + encL o) 11 7 = dstCode o.d := by simp only [bits, encL]; generalize o.imm.toNat / 2 ^ 4 = hi at *; generalize o.imm.toNat % 2 ^ 4 = lo at *; omega
  have hi : decL (0x00000025 + encL o) = o := by simp only [decL, e1, e2, dst_back _ hd]
  exact decode_word32 (r := .adr) (i := .adr o) (by simp only [encL]; generalize o.imm.toNat / 2 ^ 4 = hi at *; generalize o.imm.toNat % 2 ^ 4 = lo at *; omega) (by simp only [encL]; generalize o.imm.toNat / 2 ^ 4 = hi at *; generalize o.imm.toNat % 2 ^ 4 = lo at *; omega) hr (show Instr.adr (decL _) = _ from congrArg Instr.adr hi) rest

theorem Encoded.slui (o : FmtUL) : Encoded.Statement (.slui o) := by
  intro h n w he rest
  obtain ⟨rfl, rfl⟩ := Prod.mk.inj (Option.some.inj he)
  simp only [Instr.fits] at h
  have := o.imm.isLt
  have := udstCode_lt o.d
  have uh : o.imm.toNat / 2 ^ 4 < 16384 := by omega
  have ul : o.imm.toNat % 2 ^ 4 < 16 := by omega
  have r1 : bits (0x00000069 + encUL o) 1 6 = 52 := by simp only [bits, encUL]; generalize o.imm.toNat / 2 ^ 4 = hi at *; generalize o.imm.toNat % 2 ^ 4 = lo at *; omega
  have hr : rowOf32 (0x00000069 + encUL o) = some .slui := by
    rw [rowOf32_34 r1]
  have uh : o.imm.toNat / 2 ^ 4 < 16384 := by omega
  have ul : o.imm.toNat % 2 ^ 4 < 16 := by omega
  have uh : o.imm.toNat / 2 ^ 4 < 16384 := by omega
  have ul : o.imm.toNat % 2 ^ 4 < 16 := by omega
  have u1 : bits (0x00000069 + encUL o) 18 14 = o.imm.toNat / 2 ^ 4 := by simp only [bits, encUL]; generalize o.imm.toNat / 2 ^ 4 = hi at *; generalize o.imm.toNat % 2 ^ 4 = lo at *; omega
  have v1 : bits (0x00000069 + encUL o) 7 4 = o.imm.toNat % 2 ^ 4 := by simp only [bits, encUL]; generalize o.imm.toNat / 2 ^ 4 = hi at *; generalize o.imm.toNat % 2 ^ 4 = lo at *; omega
  have e1 : BitVec.ofNat 18 (bits (0x00000069 + encUL o) 18 14 * 2 ^ 4 + bits (0x00000069 + encUL o) 7 4) = o.imm := ofNat_back (by rw [u1, v1]; omega)
  have e2 : bits (0x00000069 + encUL o) 11 7 = udstCode o.d := by simp only [bits, encUL]; generalize o.imm.toNat / 2 ^ 4 = hi at *; generalize o.imm.toNat % 2 ^ 4 = lo at *; omega
  have hi : decUL (0x00000069 + encUL o) = o := by simp only [decUL, e1, e2, udst_back]
  exact decode_word32 (r := .slui) (i := .slui o) (by simp only [encUL]; generalize o.imm.toNat / 2 ^ 4 = hi at *; generalize o.imm.toNat % 2 ^ 4 = lo at *; omega) (by simp only [encUL]; generalize o.imm.toNat / 2 ^ 4 = hi at *; generalize o.imm.toNat % 2 ^ 4 = lo at *; omega) hr (show Instr.slui (decUL _) = _ from congrArg Instr.slui hi) rest

theorem Encoded.sllo (o : FmtULo) : Encoded.Statement (.sllo o) := by
  intro h n w he rest
  obtain ⟨rfl, rfl⟩ := Prod.mk.inj (Option.some.inj he)
  simp only [Instr.fits] at h
  have := o.imm.isLt
  have := udstCode_lt o.d
  have uh : o.imm.toNat / 2 ^ 4 < 1024 := by omega
  have ul : o.imm.toNat % 2 ^ 4 < 16 := by omega
  have r1 : bits (0x0000006B + encULo o) 1 6 = 53 := by simp only [bits, encULo]; generalize o.imm.toNat / 2 ^ 4 = hi at *; generalize o.imm.toNat % 2 ^ 4 = lo at *; omega
  have r2 : bits (0x0000006B + encULo o) 28 4 = 0 := by simp only [bits, encULo]; generalize o.imm.toNat / 2 ^ 4 = hi at *; generalize o.imm.toNat % 2 ^ 4 = lo at *; omega
  have hr : rowOf32 (0x0000006B + encULo o) = some .sllo := by
    rw [rowOf32_35 r1]
    simp [rowMajor35, r2]
  have uh : o.imm.toNat / 2 ^ 4 < 1024 := by omega
  have ul : o.imm.toNat % 2 ^ 4 < 16 := by omega
  have uh : o.imm.toNat / 2 ^ 4 < 1024 := by omega
  have ul : o.imm.toNat % 2 ^ 4 < 16 := by omega
  have u1 : bits (0x0000006B + encULo o) 18 10 = o.imm.toNat / 2 ^ 4 := by simp only [bits, encULo]; generalize o.imm.toNat / 2 ^ 4 = hi at *; generalize o.imm.toNat % 2 ^ 4 = lo at *; omega
  have v1 : bits (0x0000006B + encULo o) 7 4 = o.imm.toNat % 2 ^ 4 := by simp only [bits, encULo]; generalize o.imm.toNat / 2 ^ 4 = hi at *; generalize o.imm.toNat % 2 ^ 4 = lo at *; omega
  have e1 : BitVec.ofNat 14 (bits (0x0000006B + encULo o) 18 10 * 2 ^ 4 + bits (0x0000006B + encULo o) 7 4) = o.imm := ofNat_back (by rw [u1, v1]; omega)
  have e2 : bits (0x0000006B + encULo o) 11 7 = udstCode o.d := by simp only [bits, encULo]; generalize o.imm.toNat / 2 ^ 4 = hi at *; generalize o.imm.toNat % 2 ^ 4 = lo at *; omega
  have hi : decULo (0x0000006B + encULo o) = o := by simp only [decULo, e1, e2, udst_back]
  exact decode_word32 (r := .sllo) (i := .sllo o) (by simp only [encULo]; generalize o.imm.toNat / 2 ^ 4 = hi at *; generalize o.imm.toNat % 2 ^ 4 = lo at *; omega) (by simp only [encULo]; generalize o.imm.toNat / 2 ^ 4 = hi at *; generalize o.imm.toNat % 2 ^ 4 = lo at *; omega) hr (show Instr.sllo (decULo _) = _ from congrArg Instr.sllo hi) rest

theorem Encoded.mov (o : FmtN) : Encoded.Statement (.mov o) := by
  intro h n w he rest
  obtain ⟨rfl, rfl⟩ := Prod.mk.inj (Option.some.inj he)
  simp only [Instr.fits] at h
  have hd := h
  have r1 : bits (0x00000027 + encN o) 1 6 = 19 := (encN_facts 0 39 (by decide) (by decide) o).2.2.1
  have r2 : bits (0x00000027 + encN o) 25 7 = 0 := (encN_facts 0 39 (by decide) (by decide) o).2.2.2
  have hr : rowOf32 (0x00000027 + encN o) = some .mov := by
    rw [rowOf32_13 r1]
    simp [rowMajor13, r2]
  exact decode_word32 (r := .mov) (i := .mov o) (encN_facts 0 39 (by decide) (by decide) o).2.1 (encN_facts 0 39 (by decide) (by decide) o).1 hr (show Instr.mov (decN _) = _ from congrArg Instr.mov (decN_back 0 39 (by decide) o hd)) rest

theorem Encoded.not (o : FmtN) : Encoded.Statement (.not o) := by
  intro h n w he rest
  obtain ⟨rfl, rfl⟩ := Prod.mk.inj (Option.some.inj he)
  simp only [Instr.fits] at h
  have hd := h
  have r1 : bits (0x02000027 + encN o) 1 6 = 19 := (encN_facts 1 39 (by decide) (by decide) o).2.2.1
  have r2 : bits (0x02000027 + encN o) 25 7 = 1 := (encN_facts 1 39 (by decide) (by decide) o).2.2.2
  have hr : rowOf32 (0x02000027 + encN o) = some .not := by
    rw [rowOf32_13 r1]
    simp [rowMajor13, r2]
  exact decode_word32 (r := .not) (i := .not o) (encN_facts 1 39 (by decide) (by decide) o).2.1 (encN_facts 1 39 (by decide) (by decide) o).1 hr (show Instr.not (decN _) = _ from congrArg Instr.not (decN_back 1 39 (by decide) o hd)) rest

theorem Encoded.neg (o : FmtN) : Encoded.Statement (.neg o) := by
  intro h n w he rest
  obtain ⟨rfl, rfl⟩ := Prod.mk.inj (Option.some.inj he)
  simp only [Instr.fits] at h
  have hd := h
  have r1 : bits (0x04000027 + encN o) 1 6 = 19 := (encN_facts 2 39 (by decide) (by decide) o).2.2.1
  have r2 : bits (0x04000027 + encN o) 25 7 = 2 := (encN_facts 2 39 (by decide) (by decide) o).2.2.2
  have hr : rowOf32 (0x04000027 + encN o) = some .neg := by
    rw [rowOf32_13 r1]
    simp [rowMajor13, r2]
  exact decode_word32 (r := .neg) (i := .neg o) (encN_facts 2 39 (by decide) (by decide) o).2.1 (encN_facts 2 39 (by decide) (by decide) o).1 hr (show Instr.neg (decN _) = _ from congrArg Instr.neg (decN_back 2 39 (by decide) o hd)) rest

theorem Encoded.abs (o : FmtN) : Encoded.Statement (.abs o) := by
  intro h n w he rest
  obtain ⟨rfl, rfl⟩ := Prod.mk.inj (Option.some.inj he)
  simp only [Instr.fits] at h
  have hd := h
  have r1 : bits (0x06000027 + encN o) 1 6 = 19 := (encN_facts 3 39 (by decide) (by decide) o).2.2.1
  have r2 : bits (0x06000027 + encN o) 25 7 = 3 := (encN_facts 3 39 (by decide) (by decide) o).2.2.2
  have hr : rowOf32 (0x06000027 + encN o) = some .abs := by
    rw [rowOf32_13 r1]
    simp [rowMajor13, r2]
  exact decode_word32 (r := .abs) (i := .abs o) (encN_facts 3 39 (by decide) (by decide) o).2.1 (encN_facts 3 39 (by decide) (by decide) o).1 hr (show Instr.abs (decN _) = _ from congrArg Instr.abs (decN_back 3 39 (by decide) o hd)) rest

theorem Encoded.clz (o : FmtN) : Encoded.Statement (.clz o) := by
  intro h n w he rest
  obtain ⟨rfl, rfl⟩ := Prod.mk.inj (Option.some.inj he)
  simp only [Instr.fits] at h
  have hd := h
  have r1 : bits (0x08000027 + encN o) 1 6 = 19 := (encN_facts 4 39 (by decide) (by decide) o).2.2.1
  have r2 : bits (0x08000027 + encN o) 25 7 = 4 := (encN_facts 4 39 (by decide) (by decide) o).2.2.2
  have hr : rowOf32 (0x08000027 + encN o) = some .clz := by
    rw [rowOf32_13 r1]
    simp [rowMajor13, r2]
  exact decode_word32 (r := .clz) (i := .clz o) (encN_facts 4 39 (by decide) (by decide) o).2.1 (encN_facts 4 39 (by decide) (by decide) o).1 hr (show Instr.clz (decN _) = _ from congrArg Instr.clz (decN_back 4 39 (by decide) o hd)) rest

theorem Encoded.ctz (o : FmtN) : Encoded.Statement (.ctz o) := by
  intro h n w he rest
  obtain ⟨rfl, rfl⟩ := Prod.mk.inj (Option.some.inj he)
  simp only [Instr.fits] at h
  have hd := h
  have r1 : bits (0x0A000027 + encN o) 1 6 = 19 := (encN_facts 5 39 (by decide) (by decide) o).2.2.1
  have r2 : bits (0x0A000027 + encN o) 25 7 = 5 := (encN_facts 5 39 (by decide) (by decide) o).2.2.2
  have hr : rowOf32 (0x0A000027 + encN o) = some .ctz := by
    rw [rowOf32_13 r1]
    simp [rowMajor13, r2]
  exact decode_word32 (r := .ctz) (i := .ctz o) (encN_facts 5 39 (by decide) (by decide) o).2.1 (encN_facts 5 39 (by decide) (by decide) o).1 hr (show Instr.ctz (decN _) = _ from congrArg Instr.ctz (decN_back 5 39 (by decide) o hd)) rest

theorem Encoded.popc (o : FmtN) : Encoded.Statement (.popc o) := by
  intro h n w he rest
  obtain ⟨rfl, rfl⟩ := Prod.mk.inj (Option.some.inj he)
  simp only [Instr.fits] at h
  have hd := h
  have r1 : bits (0x0C000027 + encN o) 1 6 = 19 := (encN_facts 6 39 (by decide) (by decide) o).2.2.1
  have r2 : bits (0x0C000027 + encN o) 25 7 = 6 := (encN_facts 6 39 (by decide) (by decide) o).2.2.2
  have hr : rowOf32 (0x0C000027 + encN o) = some .popc := by
    rw [rowOf32_13 r1]
    simp [rowMajor13, r2]
  exact decode_word32 (r := .popc) (i := .popc o) (encN_facts 6 39 (by decide) (by decide) o).2.1 (encN_facts 6 39 (by decide) (by decide) o).1 hr (show Instr.popc (decN _) = _ from congrArg Instr.popc (decN_back 6 39 (by decide) o hd)) rest

theorem Encoded.brev (o : FmtN) : Encoded.Statement (.brev o) := by
  intro h n w he rest
  obtain ⟨rfl, rfl⟩ := Prod.mk.inj (Option.some.inj he)
  simp only [Instr.fits] at h
  have hd := h
  have r1 : bits (0x0E000027 + encN o) 1 6 = 19 := (encN_facts 7 39 (by decide) (by decide) o).2.2.1
  have r2 : bits (0x0E000027 + encN o) 25 7 = 7 := (encN_facts 7 39 (by decide) (by decide) o).2.2.2
  have hr : rowOf32 (0x0E000027 + encN o) = some .brev := by
    rw [rowOf32_13 r1]
    simp [rowMajor13, r2]
  exact decode_word32 (r := .brev) (i := .brev o) (encN_facts 7 39 (by decide) (by decide) o).2.1 (encN_facts 7 39 (by decide) (by decide) o).1 hr (show Instr.brev (decN _) = _ from congrArg Instr.brev (decN_back 7 39 (by decide) o hd)) rest

theorem Encoded.bswap (o : FmtN) : Encoded.Statement (.bswap o) := by
  intro h n w he rest
  obtain ⟨rfl, rfl⟩ := Prod.mk.inj (Option.some.inj he)
  simp only [Instr.fits] at h
  have hd := h
  have r1 : bits (0x10000027 + encN o) 1 6 = 19 := (encN_facts 8 39 (by decide) (by decide) o).2.2.1
  have r2 : bits (0x10000027 + encN o) 25 7 = 8 := (encN_facts 8 39 (by decide) (by decide) o).2.2.2
  have hr : rowOf32 (0x10000027 + encN o) = some .bswap := by
    rw [rowOf32_13 r1]
    simp [rowMajor13, r2]
  exact decode_word32 (r := .bswap) (i := .bswap o) (encN_facts 8 39 (by decide) (by decide) o).2.1 (encN_facts 8 39 (by decide) (by decide) o).1 hr (show Instr.bswap (decN _) = _ from congrArg Instr.bswap (decN_back 8 39 (by decide) o hd)) rest

theorem Encoded.sext8 (o : FmtN) : Encoded.Statement (.sext8 o) := by
  intro h n w he rest
  obtain ⟨rfl, rfl⟩ := Prod.mk.inj (Option.some.inj he)
  simp only [Instr.fits] at h
  have hd := h
  have r1 : bits (0x12000027 + encN o) 1 6 = 19 := (encN_facts 9 39 (by decide) (by decide) o).2.2.1
  have r2 : bits (0x12000027 + encN o) 25 7 = 9 := (encN_facts 9 39 (by decide) (by decide) o).2.2.2
  have hr : rowOf32 (0x12000027 + encN o) = some .sext8 := by
    rw [rowOf32_13 r1]
    simp [rowMajor13, r2]
  exact decode_word32 (r := .sext8) (i := .sext8 o) (encN_facts 9 39 (by decide) (by decide) o).2.1 (encN_facts 9 39 (by decide) (by decide) o).1 hr (show Instr.sext8 (decN _) = _ from congrArg Instr.sext8 (decN_back 9 39 (by decide) o hd)) rest

theorem Encoded.sext16 (o : FmtN) : Encoded.Statement (.sext16 o) := by
  intro h n w he rest
  obtain ⟨rfl, rfl⟩ := Prod.mk.inj (Option.some.inj he)
  simp only [Instr.fits] at h
  have hd := h
  have r1 : bits (0x14000027 + encN o) 1 6 = 19 := (encN_facts 10 39 (by decide) (by decide) o).2.2.1
  have r2 : bits (0x14000027 + encN o) 25 7 = 10 := (encN_facts 10 39 (by decide) (by decide) o).2.2.2
  have hr : rowOf32 (0x14000027 + encN o) = some .sext16 := by
    rw [rowOf32_13 r1]
    simp [rowMajor13, r2]
  exact decode_word32 (r := .sext16) (i := .sext16 o) (encN_facts 10 39 (by decide) (by decide) o).2.1 (encN_facts 10 39 (by decide) (by decide) o).1 hr (show Instr.sext16 (decN _) = _ from congrArg Instr.sext16 (decN_back 10 39 (by decide) o hd)) rest

theorem Encoded.mov64 (o : FmtN) : Encoded.Statement (.mov64 o) := by
  intro h n w he rest
  obtain ⟨rfl, rfl⟩ := Prod.mk.inj (Option.some.inj he)
  simp only [Instr.fits] at h
  have hd := h
  have r1 : bits (0x16000027 + encN o) 1 6 = 19 := (encN_facts 11 39 (by decide) (by decide) o).2.2.1
  have r2 : bits (0x16000027 + encN o) 25 7 = 11 := (encN_facts 11 39 (by decide) (by decide) o).2.2.2
  have hr : rowOf32 (0x16000027 + encN o) = some .mov64 := by
    rw [rowOf32_13 r1]
    simp [rowMajor13, r2]
  exact decode_word32 (r := .mov64) (i := .mov64 o) (encN_facts 11 39 (by decide) (by decide) o).2.1 (encN_facts 11 39 (by decide) (by decide) o).1 hr (show Instr.mov64 (decN _) = _ from congrArg Instr.mov64 (decN_back 11 39 (by decide) o hd)) rest

theorem Encoded.movx (o : FmtIdx) : Encoded.Statement (.movx o) := by
  intro h n w he rest
  obtain ⟨rfl, rfl⟩ := Prod.mk.inj (Option.some.inj he)
  simp only [Instr.fits] at h
  have hd := h
  have := o.i.isLt
  have := dstCode_lt o.d
  have := o.k1.toNat_lt
  have := o.ka.toNat_lt
  have := o.g.isLt
  have r1 : bits (0x20000027 + encIdx o) 1 6 = 19 := by simp only [bits, encIdx]; omega
  have r2 : bits (0x20000027 + encIdx o) 25 7 = 16 := by simp only [bits, encIdx]; omega
  have r3 : bits (0x20000027 + encIdx o) 20 5 = 0 := by simp only [bits, encIdx]; omega
  have hr : rowOf32 (0x20000027 + encIdx o) = some .movx := by
    rw [rowOf32_13 r1]
    simp [rowMajor13, r2, r3]
  have e1 : field (0x20000027 + encIdx o) 18 2 = o.i := field_back (by simp only [encIdx]; omega)
  have e2 : bits (0x20000027 + encIdx o) 11 7 = dstCode o.d := by simp only [bits, encIdx]; omega
  have e3 : bit (0x20000027 + encIdx o) 10 = o.k1 := bit_back (by simp only [encIdx]; omega)
  have e4 : bit (0x20000027 + encIdx o) 9 = o.ka := bit_back (by simp only [encIdx]; omega)
  have e5 : field (0x20000027 + encIdx o) 7 2 = o.g := field_back (by simp only [encIdx]; omega)
  have hi : decIdx (0x20000027 + encIdx o) = o := by simp only [decIdx, e1, e2, dst_back _ hd, e3, e4, e5]
  exact decode_word32 (r := .movx) (i := .movx o) (by simp only [encIdx]; omega) (by simp only [encIdx]; omega) hr (show Instr.movx (decIdx _) = _ from congrArg Instr.movx hi) rest

theorem Encoded.movxw (o : FmtIdxA) : Encoded.Statement (.movxw o) := by
  intro h n w he rest
  obtain ⟨rfl, rfl⟩ := Prod.mk.inj (Option.some.inj he)
  simp only [Instr.fits] at h
  have := srcCode_lt o.a
  have := o.i.isLt
  have := o.k1.toNat_lt
  have := o.ka.toNat_lt
  have := o.g.isLt
  have r1 : bits (0x22000027 + encIdxA o) 1 6 = 19 := by simp only [bits, encIdxA]; omega
  have r2 : bits (0x22000027 + encIdxA o) 25 7 = 17 := by simp only [bits, encIdxA]; omega
  have r3 : bits (0x22000027 + encIdxA o) 13 5 = 0 := by simp only [bits, encIdxA]; omega
  have hr : rowOf32 (0x22000027 + encIdxA o) = some .movxw := by
    rw [rowOf32_13 r1]
    simp [rowMajor13, r2, r3]
  have e1 : bits (0x22000027 + encIdxA o) 18 7 = srcCode o.a := by simp only [bits, encIdxA]; omega
  have e2 : field (0x22000027 + encIdxA o) 11 2 = o.i := field_back (by simp only [encIdxA]; omega)
  have e3 : bit (0x22000027 + encIdxA o) 10 = o.k1 := bit_back (by simp only [encIdxA]; omega)
  have e4 : bit (0x22000027 + encIdxA o) 9 = o.ka := bit_back (by simp only [encIdxA]; omega)
  have e5 : field (0x22000027 + encIdxA o) 7 2 = o.g := field_back (by simp only [encIdxA]; omega)
  have hi : decIdxA (0x22000027 + encIdxA o) = o := by simp only [decIdxA, e1, src_back, e2, e3, e4, e5]
  exact decode_word32 (r := .movxw) (i := .movxw o) (by simp only [encIdxA]; omega) (by simp only [encIdxA]; omega) hr (show Instr.movxw (decIdxA _) = _ from congrArg Instr.movxw hi) rest

theorem Encoded.iset (o : FmtIdxA) : Encoded.Statement (.iset o) := by
  intro h n w he rest
  obtain ⟨rfl, rfl⟩ := Prod.mk.inj (Option.some.inj he)
  simp only [Instr.fits] at h
  have := srcCode_lt o.a
  have := o.i.isLt
  have := o.k1.toNat_lt
  have := o.ka.toNat_lt
  have := o.g.isLt
  have r1 : bits (0x24000027 + encIdxA o) 1 6 = 19 := by simp only [bits, encIdxA]; omega
  have r2 : bits (0x24000027 + encIdxA o) 25 7 = 18 := by simp only [bits, encIdxA]; omega
  have r3 : bits (0x24000027 + encIdxA o) 13 5 = 0 := by simp only [bits, encIdxA]; omega
  have hr : rowOf32 (0x24000027 + encIdxA o) = some .iset := by
    rw [rowOf32_13 r1]
    simp [rowMajor13, r2, r3]
  have e1 : bits (0x24000027 + encIdxA o) 18 7 = srcCode o.a := by simp only [bits, encIdxA]; omega
  have e2 : field (0x24000027 + encIdxA o) 11 2 = o.i := field_back (by simp only [encIdxA]; omega)
  have e3 : bit (0x24000027 + encIdxA o) 10 = o.k1 := bit_back (by simp only [encIdxA]; omega)
  have e4 : bit (0x24000027 + encIdxA o) 9 = o.ka := bit_back (by simp only [encIdxA]; omega)
  have e5 : field (0x24000027 + encIdxA o) 7 2 = o.g := field_back (by simp only [encIdxA]; omega)
  have hi : decIdxA (0x24000027 + encIdxA o) = o := by simp only [decIdxA, e1, src_back, e2, e3, e4, e5]
  exact decode_word32 (r := .iset) (i := .iset o) (by simp only [encIdxA]; omega) (by simp only [encIdxA]; omega) hr (show Instr.iset (decIdxA _) = _ from congrArg Instr.iset hi) rest

theorem Encoded.iget (o : FmtIdx) : Encoded.Statement (.iget o) := by
  intro h n w he rest
  obtain ⟨rfl, rfl⟩ := Prod.mk.inj (Option.some.inj he)
  simp only [Instr.fits] at h
  have hd := h
  have := o.i.isLt
  have := dstCode_lt o.d
  have := o.k1.toNat_lt
  have := o.ka.toNat_lt
  have := o.g.isLt
  have r1 : bits (0x26000027 + encIdx o) 1 6 = 19 := by simp only [bits, encIdx]; omega
  have r2 : bits (0x26000027 + encIdx o) 25 7 = 19 := by simp only [bits, encIdx]; omega
  have r3 : bits (0x26000027 + encIdx o) 20 5 = 0 := by simp only [bits, encIdx]; omega
  have hr : rowOf32 (0x26000027 + encIdx o) = some .iget := by
    rw [rowOf32_13 r1]
    simp [rowMajor13, r2, r3]
  have e1 : field (0x26000027 + encIdx o) 18 2 = o.i := field_back (by simp only [encIdx]; omega)
  have e2 : bits (0x26000027 + encIdx o) 11 7 = dstCode o.d := by simp only [bits, encIdx]; omega
  have e3 : bit (0x26000027 + encIdx o) 10 = o.k1 := bit_back (by simp only [encIdx]; omega)
  have e4 : bit (0x26000027 + encIdx o) 9 = o.ka := bit_back (by simp only [encIdx]; omega)
  have e5 : field (0x26000027 + encIdx o) 7 2 = o.g := field_back (by simp only [encIdx]; omega)
  have hi : decIdx (0x26000027 + encIdx o) = o := by simp only [decIdx, e1, e2, dst_back _ hd, e3, e4, e5]
  exact decode_word32 (r := .iget) (i := .iget o) (by simp only [encIdx]; omega) (by simp only [encIdx]; omega) hr (show Instr.iget (decIdx _) = _ from congrArg Instr.iget hi) rest

theorem Encoded.scan (o : FmtScan) : Encoded.Statement (.scan o) := by
  intro h n w he rest
  obtain ⟨rfl, rfl⟩ := Prod.mk.inj (Option.some.inj he)
  simp only [Instr.fits] at h
  have hd := h
  have := scanOpCode_lt o.op
  have := o.seg.isLt
  have := srcCode_lt o.a
  have := dstCode_lt o.d
  have := o.k1.toNat_lt
  have := o.ka.toNat_lt
  have := o.g.isLt
  have r1 : bits (0x00000029 + encScan o) 1 6 = 20 := by simp only [bits, encScan]; omega
  have r2 : bits (0x00000029 + encScan o) 25 7 < 32 := by simp only [bits, encScan]; omega
  have hr : rowOf32 (0x00000029 + encScan o) = some .scan := by
    rw [rowOf32_14 r1]
    simp [rowMajor14, r2]
  have e1 : bits (0x00000029 + encScan o) 25 3 = scanOpCode o.op := by simp only [bits, encScan]; omega
  have e2 : field (0x00000029 + encScan o) 28 2 = o.seg := field_back (by simp only [encScan]; omega)
  have e3 : bits (0x00000029 + encScan o) 18 7 = srcCode o.a := by simp only [bits, encScan]; omega
  have e4 : bits (0x00000029 + encScan o) 11 7 = dstCode o.d := by simp only [bits, encScan]; omega
  have e5 : bit (0x00000029 + encScan o) 10 = o.k1 := bit_back (by simp only [encScan]; omega)
  have e6 : bit (0x00000029 + encScan o) 9 = o.ka := bit_back (by simp only [encScan]; omega)
  have e7 : field (0x00000029 + encScan o) 7 2 = o.g := field_back (by simp only [encScan]; omega)
  have hi : decScan (0x00000029 + encScan o) = o := by simp only [decScan, e1, scanOp_back, e2, e3, src_back, e4, dst_back _ hd, e5, e6, e7]
  exact decode_word32 (r := .scan) (i := .scan o) (by simp only [encScan]; omega) (by simp only [encScan]; omega) hr (show Instr.scan (decScan _) = _ from congrArg Instr.scan hi) rest

theorem Encoded.delay (o : FmtN) : Encoded.Statement (.delay o) := by
  intro h n w he rest
  obtain ⟨rfl, rfl⟩ := Prod.mk.inj (Option.some.inj he)
  simp only [Instr.fits] at h
  have hd := h
  have r1 : bits (0x40000029 + encN o) 1 6 = 20 := (encN_facts 32 41 (by decide) (by decide) o).2.2.1
  have r2 : bits (0x40000029 + encN o) 25 7 = 32 := (encN_facts 32 41 (by decide) (by decide) o).2.2.2
  have hr : rowOf32 (0x40000029 + encN o) = some .delay := by
    rw [rowOf32_14 r1]
    simp [rowMajor14, r2]
  exact decode_word32 (r := .delay) (i := .delay o) (encN_facts 32 41 (by decide) (by decide) o).2.1 (encN_facts 32 41 (by decide) (by decide) o).1 hr (show Instr.delay (decN _) = _ from congrArg Instr.delay (decN_back 32 41 (by decide) o hd)) rest

theorem Encoded.perm (o : FmtN) : Encoded.Statement (.perm o) := by
  intro h n w he rest
  obtain ⟨rfl, rfl⟩ := Prod.mk.inj (Option.some.inj he)
  simp only [Instr.fits] at h
  have hd := h
  have r1 : bits (0x42000029 + encN o) 1 6 = 20 := (encN_facts 33 41 (by decide) (by decide) o).2.2.1
  have r2 : bits (0x42000029 + encN o) 25 7 = 33 := (encN_facts 33 41 (by decide) (by decide) o).2.2.2
  have hr : rowOf32 (0x42000029 + encN o) = some .perm := by
    rw [rowOf32_14 r1]
    simp [rowMajor14, r2]
  exact decode_word32 (r := .perm) (i := .perm o) (encN_facts 33 41 (by decide) (by decide) o).2.1 (encN_facts 33 41 (by decide) (by decide) o).1 hr (show Instr.perm (decN _) = _ from congrArg Instr.perm (decN_back 33 41 (by decide) o hd)) rest

theorem Encoded.bfirst (o : FmtN) : Encoded.Statement (.bfirst o) := by
  intro h n w he rest
  obtain ⟨rfl, rfl⟩ := Prod.mk.inj (Option.some.inj he)
  simp only [Instr.fits] at h
  have hd := h
  have r1 : bits (0x44000029 + encN o) 1 6 = 20 := (encN_facts 34 41 (by decide) (by decide) o).2.2.1
  have r2 : bits (0x44000029 + encN o) 25 7 = 34 := (encN_facts 34 41 (by decide) (by decide) o).2.2.2
  have hr : rowOf32 (0x44000029 + encN o) = some .bfirst := by
    rw [rowOf32_14 r1]
    simp [rowMajor14, r2]
  exact decode_word32 (r := .bfirst) (i := .bfirst o) (encN_facts 34 41 (by decide) (by decide) o).2.1 (encN_facts 34 41 (by decide) (by decide) o).1 hr (show Instr.bfirst (decN _) = _ from congrArg Instr.bfirst (decN_back 34 41 (by decide) o hd)) rest

theorem Encoded.blast (o : FmtN) : Encoded.Statement (.blast o) := by
  intro h n w he rest
  obtain ⟨rfl, rfl⟩ := Prod.mk.inj (Option.some.inj he)
  simp only [Instr.fits] at h
  have hd := h
  have r1 : bits (0x46000029 + encN o) 1 6 = 20 := (encN_facts 35 41 (by decide) (by decide) o).2.2.1
  have r2 : bits (0x46000029 + encN o) 25 7 = 35 := (encN_facts 35 41 (by decide) (by decide) o).2.2.2
  have hr : rowOf32 (0x46000029 + encN o) = some .blast := by
    rw [rowOf32_14 r1]
    simp [rowMajor14, r2]
  exact decode_word32 (r := .blast) (i := .blast o) (encN_facts 35 41 (by decide) (by decide) o).2.1 (encN_facts 35 41 (by decide) (by decide) o).1 hr (show Instr.blast (decN _) = _ from congrArg Instr.blast (decN_back 35 41 (by decide) o hd)) rest

theorem Encoded.rank (o : FmtN) : Encoded.Statement (.rank o) := by
  intro h n w he rest
  obtain ⟨rfl, rfl⟩ := Prod.mk.inj (Option.some.inj he)
  simp only [Instr.fits] at h
  have hd := h
  have r1 : bits (0x48000029 + encN o) 1 6 = 20 := (encN_facts 36 41 (by decide) (by decide) o).2.2.1
  have r2 : bits (0x48000029 + encN o) 25 7 = 36 := (encN_facts 36 41 (by decide) (by decide) o).2.2.2
  have hr : rowOf32 (0x48000029 + encN o) = some .rank := by
    rw [rowOf32_14 r1]
    simp [rowMajor14, r2]
  exact decode_word32 (r := .rank) (i := .rank o) (encN_facts 36 41 (by decide) (by decide) o).2.1 (encN_facts 36 41 (by decide) (by decide) o).1 hr (show Instr.rank (decN _) = _ from congrArg Instr.rank (decN_back 36 41 (by decide) o hd)) rest

theorem Encoded.matchLanes (o : FmtN) : Encoded.Statement (.matchLanes o) := by
  intro h n w he rest
  obtain ⟨rfl, rfl⟩ := Prod.mk.inj (Option.some.inj he)
  simp only [Instr.fits] at h
  have hd := h
  have r1 : bits (0x4A000029 + encN o) 1 6 = 20 := (encN_facts 37 41 (by decide) (by decide) o).2.2.1
  have r2 : bits (0x4A000029 + encN o) 25 7 = 37 := (encN_facts 37 41 (by decide) (by decide) o).2.2.2
  have hr : rowOf32 (0x4A000029 + encN o) = some .matchLanes := by
    rw [rowOf32_14 r1]
    simp [rowMajor14, r2]
  exact decode_word32 (r := .matchLanes) (i := .matchLanes o) (encN_facts 37 41 (by decide) (by decide) o).2.1 (encN_facts 37 41 (by decide) (by decide) o).1 hr (show Instr.matchLanes (decN _) = _ from congrArg Instr.matchLanes (decN_back 37 41 (by decide) o hd)) rest

theorem Encoded.reduce (o : FmtRed) : Encoded.Statement (.reduce o) := by
  intro h n w he rest
  obtain ⟨rfl, rfl⟩ := Prod.mk.inj (Option.some.inj he)
  simp only [Instr.fits] at h
  have := scanOpCode_lt o.op
  have := srcCode_lt o.a
  have := udstCode_lt o.d
  have := o.k1.toNat_lt
  have := o.ka.toNat_lt
  have := o.g.isLt
  have r1 : bits (0x50000029 + encRed o) 1 6 = 20 := by simp only [bits, encRed]; omega
  have r2 : ¬ bits (0x50000029 + encRed o) 25 7 < 32 := by simp only [bits, encRed]; omega
  have q2 : 40 ≤ bits (0x50000029 + encRed o) 25 7 ∧ bits (0x50000029 + encRed o) 25 7 < 48 := by simp only [bits, encRed]; omega
  have hr : rowOf32 (0x50000029 + encRed o) = some .reduce := by
    rw [rowOf32_14 r1]
    simp [rowMajor14, r2, q2]
  have e1 : bits (0x50000029 + encRed o) 25 3 = scanOpCode o.op := by simp only [bits, encRed]; omega
  have e2 : bits (0x50000029 + encRed o) 18 7 = srcCode o.a := by simp only [bits, encRed]; omega
  have e3 : bits (0x50000029 + encRed o) 11 7 = udstCode o.d := by simp only [bits, encRed]; omega
  have e4 : bit (0x50000029 + encRed o) 10 = o.k1 := bit_back (by simp only [encRed]; omega)
  have e5 : bit (0x50000029 + encRed o) 9 = o.ka := bit_back (by simp only [encRed]; omega)
  have e6 : field (0x50000029 + encRed o) 7 2 = o.g := field_back (by simp only [encRed]; omega)
  have hi : decRed (0x50000029 + encRed o) = o := by simp only [decRed, e1, scanOp_back, e2, src_back, e3, udst_back, e4, e5, e6]
  exact decode_word32 (r := .reduce) (i := .reduce o) (by simp only [encRed]; omega) (by simp only [encRed]; omega) hr (show Instr.reduce (decRed _) = _ from congrArg Instr.reduce hi) rest

theorem Encoded.vote (o : FmtVote) : Encoded.Statement (.vote o) := by
  intro h n w he rest
  obtain ⟨rfl, rfl⟩ := Prod.mk.inj (Option.some.inj he)
  simp only [Instr.fits] at h
  have := srcCode_lt o.a
  have := udstCode_lt o.d
  have := o.k1.toNat_lt
  have := o.ka.toNat_lt
  have := o.g.isLt
  have r1 : bits (0x60000029 + encVote o) 1 6 = 20 := by simp only [bits, encVote]; omega
  have r2 : bits (0x60000029 + encVote o) 25 7 = 48 := by simp only [bits, encVote]; omega
  have hr : rowOf32 (0x60000029 + encVote o) = some .vote := by
    rw [rowOf32_14 r1]
    simp [rowMajor14, r2]
  have e1 : bits (0x60000029 + encVote o) 18 7 = srcCode o.a := by simp only [bits, encVote]; omega
  have e2 : bits (0x60000029 + encVote o) 11 7 = udstCode o.d := by simp only [bits, encVote]; omega
  have e3 : bit (0x60000029 + encVote o) 10 = o.k1 := bit_back (by simp only [encVote]; omega)
  have e4 : bit (0x60000029 + encVote o) 9 = o.ka := bit_back (by simp only [encVote]; omega)
  have e5 : field (0x60000029 + encVote o) 7 2 = o.g := field_back (by simp only [encVote]; omega)
  have hi : decVote (0x60000029 + encVote o) = o := by simp only [decVote, e1, src_back, e2, udst_back, e3, e4, e5]
  exact decode_word32 (r := .vote) (i := .vote o) (by simp only [encVote]; omega) (by simp only [encVote]; omega) hr (show Instr.vote (decVote _) = _ from congrArg Instr.vote hi) rest

theorem Encoded.pand (o : FmtPL) : Encoded.Statement (.pand o) := by
  intro h n w he rest
  obtain ⟨rfl, rfl⟩ := Prod.mk.inj (Option.some.inj he)
  simp only [Instr.fits] at h
  have r1 : bits (0x0000002B + encPL o) 1 6 = 21 := (encPL_facts 0 43 (by decide) (by decide) o).2.2.1
  have r2 : bits (0x0000002B + encPL o) 25 7 = 0 := (encPL_facts 0 43 (by decide) (by decide) o).2.2.2.1
  have r3 : bits (0x0000002B + encPL o) 24 1 = 0 := (encPL_facts 0 43 (by decide) (by decide) o).2.2.2.2.1
  have r4 : bits (0x0000002B + encPL o) 13 5 = 0 := (encPL_facts 0 43 (by decide) (by decide) o).2.2.2.2.2
  have hr : rowOf32 (0x0000002B + encPL o) = some .pand := by
    rw [rowOf32_15 r1]
    simp [rowMajor15, r2, r3, r4]
  exact decode_word32 (r := .pand) (i := .pand o) (encPL_facts 0 43 (by decide) (by decide) o).2.1 (encPL_facts 0 43 (by decide) (by decide) o).1 hr (show Instr.pand (decPL _) = _ from congrArg Instr.pand (decPL_back 0 43 (by decide) o)) rest

theorem Encoded.por (o : FmtPL) : Encoded.Statement (.por o) := by
  intro h n w he rest
  obtain ⟨rfl, rfl⟩ := Prod.mk.inj (Option.some.inj he)
  simp only [Instr.fits] at h
  have r1 : bits (0x0200002B + encPL o) 1 6 = 21 := (encPL_facts 1 43 (by decide) (by decide) o).2.2.1
  have r2 : bits (0x0200002B + encPL o) 25 7 = 1 := (encPL_facts 1 43 (by decide) (by decide) o).2.2.2.1
  have r3 : bits (0x0200002B + encPL o) 24 1 = 0 := (encPL_facts 1 43 (by decide) (by decide) o).2.2.2.2.1
  have r4 : bits (0x0200002B + encPL o) 13 5 = 0 := (encPL_facts 1 43 (by decide) (by decide) o).2.2.2.2.2
  have hr : rowOf32 (0x0200002B + encPL o) = some .por := by
    rw [rowOf32_15 r1]
    simp [rowMajor15, r2, r3, r4]
  exact decode_word32 (r := .por) (i := .por o) (encPL_facts 1 43 (by decide) (by decide) o).2.1 (encPL_facts 1 43 (by decide) (by decide) o).1 hr (show Instr.por (decPL _) = _ from congrArg Instr.por (decPL_back 1 43 (by decide) o)) rest

theorem Encoded.pxor (o : FmtPL) : Encoded.Statement (.pxor o) := by
  intro h n w he rest
  obtain ⟨rfl, rfl⟩ := Prod.mk.inj (Option.some.inj he)
  simp only [Instr.fits] at h
  have r1 : bits (0x0400002B + encPL o) 1 6 = 21 := (encPL_facts 2 43 (by decide) (by decide) o).2.2.1
  have r2 : bits (0x0400002B + encPL o) 25 7 = 2 := (encPL_facts 2 43 (by decide) (by decide) o).2.2.2.1
  have r3 : bits (0x0400002B + encPL o) 24 1 = 0 := (encPL_facts 2 43 (by decide) (by decide) o).2.2.2.2.1
  have r4 : bits (0x0400002B + encPL o) 13 5 = 0 := (encPL_facts 2 43 (by decide) (by decide) o).2.2.2.2.2
  have hr : rowOf32 (0x0400002B + encPL o) = some .pxor := by
    rw [rowOf32_15 r1]
    simp [rowMajor15, r2, r3, r4]
  exact decode_word32 (r := .pxor) (i := .pxor o) (encPL_facts 2 43 (by decide) (by decide) o).2.1 (encPL_facts 2 43 (by decide) (by decide) o).1 hr (show Instr.pxor (decPL _) = _ from congrArg Instr.pxor (decPL_back 2 43 (by decide) o)) rest

theorem Encoded.ptest (o : FmtPA) : Encoded.Statement (.ptest o) := by
  intro h n w he rest
  obtain ⟨rfl, rfl⟩ := Prod.mk.inj (Option.some.inj he)
  simp only [Instr.fits] at h
  have := srcCode_lt o.a
  have := o.pd.isLt
  have := o.k1.toNat_lt
  have := o.ka.toNat_lt
  have := o.g.isLt
  have r1 : bits (0x1000002B + encPA o) 1 6 = 21 := by simp only [bits, encPA]; omega
  have r2 : bits (0x1000002B + encPA o) 25 7 = 8 := by simp only [bits, encPA]; omega
  have r3 : bits (0x1000002B + encPA o) 13 5 = 0 := by simp only [bits, encPA]; omega
  have hr : rowOf32 (0x1000002B + encPA o) = some .ptest := by
    rw [rowOf32_15 r1]
    simp [rowMajor15, r2, r3]
  have e1 : bits (0x1000002B + encPA o) 18 7 = srcCode o.a := by simp only [bits, encPA]; omega
  have e2 : field (0x1000002B + encPA o) 11 2 = o.pd := field_back (by simp only [encPA]; omega)
  have e3 : bit (0x1000002B + encPA o) 10 = o.k1 := bit_back (by simp only [encPA]; omega)
  have e4 : bit (0x1000002B + encPA o) 9 = o.ka := bit_back (by simp only [encPA]; omega)
  have e5 : field (0x1000002B + encPA o) 7 2 = o.g := field_back (by simp only [encPA]; omega)
  have hi : decPA (0x1000002B + encPA o) = o := by simp only [decPA, e1, src_back, e2, e3, e4, e5]
  exact decode_word32 (r := .ptest) (i := .ptest o) (by simp only [encPA]; omega) (by simp only [encPA]; omega) hr (show Instr.ptest (decPA _) = _ from congrArg Instr.ptest hi) rest

theorem Encoded.pbit (o : FmtPA) : Encoded.Statement (.pbit o) := by
  intro h n w he rest
  obtain ⟨rfl, rfl⟩ := Prod.mk.inj (Option.some.inj he)
  simp only [Instr.fits] at h
  have := srcCode_lt o.a
  have := o.pd.isLt
  have := o.k1.toNat_lt
  have := o.ka.toNat_lt
  have := o.g.isLt
  have r1 : bits (0x1200002B + encPA o) 1 6 = 21 := by simp only [bits, encPA]; omega
  have r2 : bits (0x1200002B + encPA o) 25 7 = 9 := by simp only [bits, encPA]; omega
  have r3 : bits (0x1200002B + encPA o) 13 5 = 0 := by simp only [bits, encPA]; omega
  have hr : rowOf32 (0x1200002B + encPA o) = some .pbit := by
    rw [rowOf32_15 r1]
    simp [rowMajor15, r2, r3]
  have e1 : bits (0x1200002B + encPA o) 18 7 = srcCode o.a := by simp only [bits, encPA]; omega
  have e2 : field (0x1200002B + encPA o) 11 2 = o.pd := field_back (by simp only [encPA]; omega)
  have e3 : bit (0x1200002B + encPA o) 10 = o.k1 := bit_back (by simp only [encPA]; omega)
  have e4 : bit (0x1200002B + encPA o) 9 = o.ka := bit_back (by simp only [encPA]; omega)
  have e5 : field (0x1200002B + encPA o) 7 2 = o.g := field_back (by simp only [encPA]; omega)
  have hi : decPA (0x1200002B + encPA o) = o := by simp only [decPA, e1, src_back, e2, e3, e4, e5]
  exact decode_word32 (r := .pbit) (i := .pbit o) (by simp only [encPA]; omega) (by simp only [encPA]; omega) hr (show Instr.pbit (decPA _) = _ from congrArg Instr.pbit hi) rest

theorem Encoded.pget (o : FmtPG) : Encoded.Statement (.pget o) := by
  intro h n w he rest
  obtain ⟨rfl, rfl⟩ := Prod.mk.inj (Option.some.inj he)
  simp only [Instr.fits] at h
  have hd := h
  have := o.pa.isLt
  have := dstCode_lt o.d
  have := o.k1.toNat_lt
  have := o.ka.toNat_lt
  have := o.g.isLt
  have r1 : bits (0x1400002B + encPG o) 1 6 = 21 := by simp only [bits, encPG]; omega
  have r2 : bits (0x1400002B + encPG o) 25 7 = 10 := by simp only [bits, encPG]; omega
  have r3 : bits (0x1400002B + encPG o) 20 5 = 0 := by simp only [bits, encPG]; omega
  have hr : rowOf32 (0x1400002B + encPG o) = some .pget := by
    rw [rowOf32_15 r1]
    simp [rowMajor15, r2, r3]
  have e1 : field (0x1400002B + encPG o) 18 2 = o.pa := field_back (by simp only [encPG]; omega)
  have e2 : bits (0x1400002B + encPG o) 11 7 = dstCode o.d := by simp only [bits, encPG]; omega
  have e3 : bit (0x1400002B + encPG o) 10 = o.k1 := bit_back (by simp only [encPG]; omega)
  have e4 : bit (0x1400002B + encPG o) 9 = o.ka := bit_back (by simp only [encPG]; omega)
  have e5 : field (0x1400002B + encPG o) 7 2 = o.g := field_back (by simp only [encPG]; omega)
  have hi : decPG (0x1400002B + encPG o) = o := by simp only [decPG, e1, e2, dst_back _ hd, e3, e4, e5]
  exact decode_word32 (r := .pget) (i := .pget o) (by simp only [encPG]; omega) (by simp only [encPG]; omega) hr (show Instr.pget (decPG _) = _ from congrArg Instr.pget hi) rest

theorem Encoded.sadd (o : FmtUA) : Encoded.Statement (.sadd o) := by
  intro h n w he rest
  obtain ⟨rfl, rfl⟩ := Prod.mk.inj (Option.some.inj he)
  simp only [Instr.fits, Bool.and_eq_true] at h
  obtain ⟨hb, ha⟩ := h
  have r1 : bits (0x00000061 + encUA o) 1 6 = 48 := (encUA_facts 97 (by decide) o).2.2.1
  have r2 : bits (0x00000061 + encUA o) 7 2 = 0 := (encUA_facts 97 (by decide) o).2.2.2
  have hr : rowOf32 (0x00000061 + encUA o) = some .sadd := by
    rw [rowOf32_30 r1]
    simp [rowMajor30, r2]
  exact decode_word32 (r := .sadd) (i := .sadd o) (encUA_facts 97 (by decide) o).2.1 (encUA_facts 97 (by decide) o).1 hr (show Instr.sadd (decUA _) = _ from congrArg Instr.sadd (decUA_back 97 (by decide) o hb ha)) rest

theorem Encoded.ssub (o : FmtUA) : Encoded.Statement (.ssub o) := by
  intro h n w he rest
  obtain ⟨rfl, rfl⟩ := Prod.mk.inj (Option.some.inj he)
  simp only [Instr.fits, Bool.and_eq_true] at h
  obtain ⟨hb, ha⟩ := h
  have r1 : bits (0x000000E1 + encUA o) 1 6 = 48 := (encUA_facts 225 (by decide) o).2.2.1
  have r2 : bits (0x000000E1 + encUA o) 7 2 = 1 := (encUA_facts 225 (by decide) o).2.2.2
  have hr : rowOf32 (0x000000E1 + encUA o) = some .ssub := by
    rw [rowOf32_30 r1]
    simp [rowMajor30, r2]
  exact decode_word32 (r := .ssub) (i := .ssub o) (encUA_facts 225 (by decide) o).2.1 (encUA_facts 225 (by decide) o).1 hr (show Instr.ssub (decUA _) = _ from congrArg Instr.ssub (decUA_back 225 (by decide) o hb ha)) rest

theorem Encoded.smul (o : FmtUA) : Encoded.Statement (.smul o) := by
  intro h n w he rest
  obtain ⟨rfl, rfl⟩ := Prod.mk.inj (Option.some.inj he)
  simp only [Instr.fits, Bool.and_eq_true] at h
  obtain ⟨hb, ha⟩ := h
  have r1 : bits (0x00000161 + encUA o) 1 6 = 48 := (encUA_facts 353 (by decide) o).2.2.1
  have r2 : bits (0x00000161 + encUA o) 7 2 = 2 := (encUA_facts 353 (by decide) o).2.2.2
  have hr : rowOf32 (0x00000161 + encUA o) = some .smul := by
    rw [rowOf32_30 r1]
    simp [rowMajor30, r2]
  exact decode_word32 (r := .smul) (i := .smul o) (encUA_facts 353 (by decide) o).2.1 (encUA_facts 353 (by decide) o).1 hr (show Instr.smul (decUA _) = _ from congrArg Instr.smul (decUA_back 353 (by decide) o hb ha)) rest

theorem Encoded.sand (o : FmtUA) : Encoded.Statement (.sand o) := by
  intro h n w he rest
  obtain ⟨rfl, rfl⟩ := Prod.mk.inj (Option.some.inj he)
  simp only [Instr.fits, Bool.and_eq_true] at h
  obtain ⟨hb, ha⟩ := h
  have r1 : bits (0x000001E1 + encUA o) 1 6 = 48 := (encUA_facts 481 (by decide) o).2.2.1
  have r2 : bits (0x000001E1 + encUA o) 7 2 = 3 := (encUA_facts 481 (by decide) o).2.2.2
  have hr : rowOf32 (0x000001E1 + encUA o) = some .sand := by
    rw [rowOf32_30 r1]
    simp [rowMajor30, r2]
  exact decode_word32 (r := .sand) (i := .sand o) (encUA_facts 481 (by decide) o).2.1 (encUA_facts 481 (by decide) o).1 hr (show Instr.sand (decUA _) = _ from congrArg Instr.sand (decUA_back 481 (by decide) o hb ha)) rest

theorem Encoded.sor (o : FmtUA) : Encoded.Statement (.sor o) := by
  intro h n w he rest
  obtain ⟨rfl, rfl⟩ := Prod.mk.inj (Option.some.inj he)
  simp only [Instr.fits, Bool.and_eq_true] at h
  obtain ⟨hb, ha⟩ := h
  have r1 : bits (0x00000063 + encUA o) 1 6 = 49 := (encUA_facts 99 (by decide) o).2.2.1
  have r2 : bits (0x00000063 + encUA o) 7 2 = 0 := (encUA_facts 99 (by decide) o).2.2.2
  have hr : rowOf32 (0x00000063 + encUA o) = some .sor := by
    rw [rowOf32_31 r1]
    simp [rowMajor31, r2]
  exact decode_word32 (r := .sor) (i := .sor o) (encUA_facts 99 (by decide) o).2.1 (encUA_facts 99 (by decide) o).1 hr (show Instr.sor (decUA _) = _ from congrArg Instr.sor (decUA_back 99 (by decide) o hb ha)) rest

theorem Encoded.sxor (o : FmtUA) : Encoded.Statement (.sxor o) := by
  intro h n w he rest
  obtain ⟨rfl, rfl⟩ := Prod.mk.inj (Option.some.inj he)
  simp only [Instr.fits, Bool.and_eq_true] at h
  obtain ⟨hb, ha⟩ := h
  have r1 : bits (0x000000E3 + encUA o) 1 6 = 49 := (encUA_facts 227 (by decide) o).2.2.1
  have r2 : bits (0x000000E3 + encUA o) 7 2 = 1 := (encUA_facts 227 (by decide) o).2.2.2
  have hr : rowOf32 (0x000000E3 + encUA o) = some .sxor := by
    rw [rowOf32_31 r1]
    simp [rowMajor31, r2]
  exact decode_word32 (r := .sxor) (i := .sxor o) (encUA_facts 227 (by decide) o).2.1 (encUA_facts 227 (by decide) o).1 hr (show Instr.sxor (decUA _) = _ from congrArg Instr.sxor (decUA_back 227 (by decide) o hb ha)) rest

theorem Encoded.sshl (o : FmtUA) : Encoded.Statement (.sshl o) := by
  intro h n w he rest
  obtain ⟨rfl, rfl⟩ := Prod.mk.inj (Option.some.inj he)
  simp only [Instr.fits, Bool.and_eq_true] at h
  obtain ⟨hb, ha⟩ := h
  have r1 : bits (0x00000163 + encUA o) 1 6 = 49 := (encUA_facts 355 (by decide) o).2.2.1
  have r2 : bits (0x00000163 + encUA o) 7 2 = 2 := (encUA_facts 355 (by decide) o).2.2.2
  have hr : rowOf32 (0x00000163 + encUA o) = some .sshl := by
    rw [rowOf32_31 r1]
    simp [rowMajor31, r2]
  exact decode_word32 (r := .sshl) (i := .sshl o) (encUA_facts 355 (by decide) o).2.1 (encUA_facts 355 (by decide) o).1 hr (show Instr.sshl (decUA _) = _ from congrArg Instr.sshl (decUA_back 355 (by decide) o hb ha)) rest

theorem Encoded.sshr (o : FmtUA) : Encoded.Statement (.sshr o) := by
  intro h n w he rest
  obtain ⟨rfl, rfl⟩ := Prod.mk.inj (Option.some.inj he)
  simp only [Instr.fits, Bool.and_eq_true] at h
  obtain ⟨hb, ha⟩ := h
  have r1 : bits (0x000001E3 + encUA o) 1 6 = 49 := (encUA_facts 483 (by decide) o).2.2.1
  have r2 : bits (0x000001E3 + encUA o) 7 2 = 3 := (encUA_facts 483 (by decide) o).2.2.2
  have hr : rowOf32 (0x000001E3 + encUA o) = some .sshr := by
    rw [rowOf32_31 r1]
    simp [rowMajor31, r2]
  exact decode_word32 (r := .sshr) (i := .sshr o) (encUA_facts 483 (by decide) o).2.1 (encUA_facts 483 (by decide) o).1 hr (show Instr.sshr (decUA _) = _ from congrArg Instr.sshr (decUA_back 483 (by decide) o hb ha)) rest

theorem Encoded.smov (o : FmtU) : Encoded.Statement (.smov o) := by
  intro h n w he rest
  obtain ⟨rfl, rfl⟩ := Prod.mk.inj (Option.some.inj he)
  simp only [Instr.fits] at h
  have ha := h
  have r1 : bits (0x00000067 + encU o) 1 6 = 51 := (encU_facts 0 103 (by decide) (by decide) o).2.2.1
  have r2 : bits (0x00000067 + encU o) 25 7 = 0 := (encU_facts 0 103 (by decide) (by decide) o).2.2.2.1
  have r3 : bits (0x00000067 + encU o) 7 2 = 0 := (encU_facts 0 103 (by decide) (by decide) o).2.2.2.2
  have hr : rowOf32 (0x00000067 + encU o) = some .smov := by
    rw [rowOf32_33 r1]
    simp [rowMajor33, r2, r3]
  exact decode_word32 (r := .smov) (i := .smov o) (encU_facts 0 103 (by decide) (by decide) o).2.1 (encU_facts 0 103 (by decide) (by decide) o).1 hr (show Instr.smov (decU _) = _ from congrArg Instr.smov (decU_back 0 103 (by decide) o ha)) rest

theorem Encoded.sfromv (o : FmtUV) : Encoded.Statement (.sfromv o) := by
  intro h n w he rest
  obtain ⟨rfl, rfl⟩ := Prod.mk.inj (Option.some.inj he)
  simp only [Instr.fits] at h
  have := srcCode_lt o.a
  have := udstCode_lt o.d
  have := o.k1.toNat_lt
  have := o.ka.toNat_lt
  have := o.g.isLt
  have r1 : bits (0x02000067 + encUV o) 1 6 = 51 := by simp only [bits, encUV]; omega
  have r2 : bits (0x02000067 + encUV o) 25 7 = 1 := by simp only [bits, encUV]; omega
  have hr : rowOf32 (0x02000067 + encUV o) = some .sfromv := by
    rw [rowOf32_33 r1]
    simp [rowMajor33, r2]
  have e1 : bits (0x02000067 + encUV o) 18 7 = srcCode o.a := by simp only [bits, encUV]; omega
  have e2 : bits (0x02000067 + encUV o) 11 7 = udstCode o.d := by simp only [bits, encUV]; omega
  have e3 : bit (0x02000067 + encUV o) 10 = o.k1 := bit_back (by simp only [encUV]; omega)
  have e4 : bit (0x02000067 + encUV o) 9 = o.ka := bit_back (by simp only [encUV]; omega)
  have e5 : field (0x02000067 + encUV o) 7 2 = o.g := field_back (by simp only [encUV]; omega)
  have hi : decUV (0x02000067 + encUV o) = o := by simp only [decUV, e1, src_back, e2, udst_back, e3, e4, e5]
  exact decode_word32 (r := .sfromv) (i := .sfromv o) (by simp only [encUV]; omega) (by simp only [encUV]; omega) hr (show Instr.sfromv (decUV _) = _ from congrArg Instr.sfromv hi) rest

theorem Encoded.sld (o : FmtU) : Encoded.Statement (.sld o) := by
  intro h n w he rest
  obtain ⟨rfl, rfl⟩ := Prod.mk.inj (Option.some.inj he)
  simp only [Instr.fits] at h
  have ha := h
  have r1 : bits (0x04000067 + encU o) 1 6 = 51 := (encU_facts 2 103 (by decide) (by decide) o).2.2.1
  have r2 : bits (0x04000067 + encU o) 25 7 = 2 := (encU_facts 2 103 (by decide) (by decide) o).2.2.2.1
  have r3 : bits (0x04000067 + encU o) 7 2 = 0 := (encU_facts 2 103 (by decide) (by decide) o).2.2.2.2
  have hr : rowOf32 (0x04000067 + encU o) = some .sld := by
    rw [rowOf32_33 r1]
    simp [rowMajor33, r2, r3]
  exact decode_word32 (r := .sld) (i := .sld o) (encU_facts 2 103 (by decide) (by decide) o).2.1 (encU_facts 2 103 (by decide) (by decide) o).1 hr (show Instr.sld (decU _) = _ from congrArg Instr.sld (decU_back 2 103 (by decide) o ha)) rest

theorem Encoded.sldd (o : FmtU) : Encoded.Statement (.sldd o) := by
  intro h n w he rest
  obtain ⟨rfl, rfl⟩ := Prod.mk.inj (Option.some.inj he)
  simp only [Instr.fits] at h
  have ha := h
  have r1 : bits (0x06000067 + encU o) 1 6 = 51 := (encU_facts 3 103 (by decide) (by decide) o).2.2.1
  have r2 : bits (0x06000067 + encU o) 25 7 = 3 := (encU_facts 3 103 (by decide) (by decide) o).2.2.2.1
  have r3 : bits (0x06000067 + encU o) 7 2 = 0 := (encU_facts 3 103 (by decide) (by decide) o).2.2.2.2
  have hr : rowOf32 (0x06000067 + encU o) = some .sldd := by
    rw [rowOf32_33 r1]
    simp [rowMajor33, r2, r3]
  exact decode_word32 (r := .sldd) (i := .sldd o) (encU_facts 3 103 (by decide) (by decide) o).2.1 (encU_facts 3 103 (by decide) (by decide) o).1 hr (show Instr.sldd (decU _) = _ from congrArg Instr.sldd (decU_back 3 103 (by decide) o ha)) rest

theorem Encoded.sread (o : FmtUV) : Encoded.Statement (.sread o) := by
  intro h n w he rest
  obtain ⟨rfl, rfl⟩ := Prod.mk.inj (Option.some.inj he)
  simp only [Instr.fits] at h
  have hx := h
  have := srcCode_lt o.a
  have := udstCode_lt o.d
  have := o.k1.toNat_lt
  have := o.ka.toNat_lt
  have := o.g.isLt
  have r1 : bits (0x08000067 + encUV o) 1 6 = 51 := by simp only [bits, encUV]; omega
  have r2 : bits (0x08000067 + encUV o) 25 7 = 4 := by simp only [bits, encUV]; omega
  have r3 : bits (0x08000067 + encUV o) 7 2 = o.g.toNat := by simp only [bits, encUV]; omega
  have hr : rowOf32 (0x08000067 + encUV o) = some .sread := by
    rw [rowOf32_33 r1]
    have : o.g.toNat = 0 := by rw [eq_of_beq hx]; rfl
    simp [rowMajor33, r2, r3, *]
  have e1 : bits (0x08000067 + encUV o) 18 7 = srcCode o.a := by simp only [bits, encUV]; omega
  have e2 : bits (0x08000067 + encUV o) 11 7 = udstCode o.d := by simp only [bits, encUV]; omega
  have e3 : bit (0x08000067 + encUV o) 10 = o.k1 := bit_back (by simp only [encUV]; omega)
  have e4 : bit (0x08000067 + encUV o) 9 = o.ka := bit_back (by simp only [encUV]; omega)
  have e5 : field (0x08000067 + encUV o) 7 2 = o.g := field_back (by simp only [encUV]; omega)
  have hi : decUV (0x08000067 + encUV o) = o := by simp only [decUV, e1, src_back, e2, udst_back, e3, e4, e5]
  exact decode_word32 (r := .sread) (i := .sread o) (by simp only [encUV]; omega) (by simp only [encUV]; omega) hr (show Instr.sread (decUV _) = _ from congrArg Instr.sread hi) rest

theorem Encoded.swrite (o : FmtVU) : Encoded.Statement (.swrite o) := by
  intro h n w he rest
  obtain ⟨rfl, rfl⟩ := Prod.mk.inj (Option.some.inj he)
  simp only [Instr.fits, Bool.and_eq_true] at h
  obtain ⟨ha, hd⟩ := h
  have := usrcCode_lt o.a
  have := dstCode_lt o.d
  have := o.k1.toNat_lt
  have := o.ka.toNat_lt
  have r1 : bits (0x0A000067 + encVU o) 1 6 = 51 := by simp only [bits, encVU]; omega
  have r2 : bits (0x0A000067 + encVU o) 25 7 = 5 := by simp only [bits, encVU]; omega
  have r3 : bits (0x0A000067 + encVU o) 7 2 = 0 := by simp only [bits, encVU]; omega
  have hr : rowOf32 (0x0A000067 + encVU o) = some .swrite := by
    rw [rowOf32_33 r1]
    simp [rowMajor33, r2, r3]
  have e1 : bits (0x0A000067 + encVU o) 18 7 = usrcCode o.a := by simp only [bits, encVU]; omega
  have e2 : bits (0x0A000067 + encVU o) 11 7 = dstCode o.d := by simp only [bits, encVU]; omega
  have e3 : bit (0x0A000067 + encVU o) 10 = o.k1 := bit_back (by simp only [encVU]; omega)
  have e4 : bit (0x0A000067 + encVU o) 9 = o.ka := bit_back (by simp only [encVU]; omega)
  have hi : decVU (0x0A000067 + encVU o) = o := by simp only [decVU, e1, usrc_back _ ha, e2, dst_back _ hd, e3, e4]
  exact decode_word32 (r := .swrite) (i := .swrite o) (by simp only [encVU]; omega) (by simp only [encVU]; omega) hr (show Instr.swrite (decVU _) = _ from congrArg Instr.swrite hi) rest

theorem Encoded.spopc (o : FmtU) : Encoded.Statement (.spopc o) := by
  intro h n w he rest
  obtain ⟨rfl, rfl⟩ := Prod.mk.inj (Option.some.inj he)
  simp only [Instr.fits] at h
  have ha := h
  have r1 : bits (0x0C000067 + encU o) 1 6 = 51 := (encU_facts 6 103 (by decide) (by decide) o).2.2.1
  have r2 : bits (0x0C000067 + encU o) 25 7 = 6 := (encU_facts 6 103 (by decide) (by decide) o).2.2.2.1
  have r3 : bits (0x0C000067 + encU o) 7 2 = 0 := (encU_facts 6 103 (by decide) (by decide) o).2.2.2.2
  have hr : rowOf32 (0x0C000067 + encU o) = some .spopc := by
    rw [rowOf32_33 r1]
    simp [rowMajor33, r2, r3]
  exact decode_word32 (r := .spopc) (i := .spopc o) (encU_facts 6 103 (by decide) (by decide) o).2.1 (encU_facts 6 103 (by decide) (by decide) o).1 hr (show Instr.spopc (decU _) = _ from congrArg Instr.spopc (decU_back 6 103 (by decide) o ha)) rest

theorem Encoded.sctz (o : FmtU) : Encoded.Statement (.sctz o) := by
  intro h n w he rest
  obtain ⟨rfl, rfl⟩ := Prod.mk.inj (Option.some.inj he)
  simp only [Instr.fits] at h
  have ha := h
  have r1 : bits (0x0E000067 + encU o) 1 6 = 51 := (encU_facts 7 103 (by decide) (by decide) o).2.2.1
  have r2 : bits (0x0E000067 + encU o) 25 7 = 7 := (encU_facts 7 103 (by decide) (by decide) o).2.2.2.1
  have r3 : bits (0x0E000067 + encU o) 7 2 = 0 := (encU_facts 7 103 (by decide) (by decide) o).2.2.2.2
  have hr : rowOf32 (0x0E000067 + encU o) = some .sctz := by
    rw [rowOf32_33 r1]
    simp [rowMajor33, r2, r3]
  exact decode_word32 (r := .sctz) (i := .sctz o) (encU_facts 7 103 (by decide) (by decide) o).2.1 (encU_facts 7 103 (by decide) (by decide) o).1 hr (show Instr.sctz (decU _) = _ from congrArg Instr.sctz (decU_back 7 103 (by decide) o ha)) rest

theorem Encoded.sclz (o : FmtU) : Encoded.Statement (.sclz o) := by
  intro h n w he rest
  obtain ⟨rfl, rfl⟩ := Prod.mk.inj (Option.some.inj he)
  simp only [Instr.fits] at h
  have ha := h
  have r1 : bits (0x10000067 + encU o) 1 6 = 51 := (encU_facts 8 103 (by decide) (by decide) o).2.2.1
  have r2 : bits (0x10000067 + encU o) 25 7 = 8 := (encU_facts 8 103 (by decide) (by decide) o).2.2.2.1
  have r3 : bits (0x10000067 + encU o) 7 2 = 0 := (encU_facts 8 103 (by decide) (by decide) o).2.2.2.2
  have hr : rowOf32 (0x10000067 + encU o) = some .sclz := by
    rw [rowOf32_33 r1]
    simp [rowMajor33, r2, r3]
  exact decode_word32 (r := .sclz) (i := .sclz o) (encU_facts 8 103 (by decide) (by decide) o).2.1 (encU_facts 8 103 (by decide) (by decide) o).1 hr (show Instr.sclz (decU _) = _ from congrArg Instr.sclz (decU_back 8 103 (by decide) o ha)) rest

theorem Encoded.braAlways (o : FmtJ) : Encoded.Statement (.braAlways o) := by
  intro h n w he rest
  obtain ⟨rfl, rfl⟩ := Prod.mk.inj (Option.some.inj he)
  simp only [Instr.fits] at h
  have := o.off.isLt
  have r1 : bits (0x00000071 + encJ o) 1 6 = 56 := by simp only [bits, encJ]; omega
  have r2 : bits (0x00000071 + encJ o) 9 4 = 0 := by simp only [bits, encJ]; omega
  have r3 : bits (0x00000071 + encJ o) 7 2 = 0 := by simp only [bits, encJ]; omega
  have hr : rowOf32 (0x00000071 + encJ o) = some .braAlways := by
    rw [rowOf32_38 r1]
    simp [rowMajor38, r2, r3]
  have e1 : field (0x00000071 + encJ o) 13 19 = o.off := field_back (by simp only [encJ]; omega)
  have hi : decJ (0x00000071 + encJ o) = o := by simp only [decJ, e1]
  exact decode_word32 (r := .braAlways) (i := .braAlways o) (by simp only [encJ]; omega) (by simp only [encJ]; omega) hr (show Instr.braAlways (decJ _) = _ from congrArg Instr.braAlways hi) rest

theorem Encoded.braThr (o : FmtB) : Encoded.Statement (.braThr o) := by
  intro h n w he rest
  obtain ⟨rfl, rfl⟩ := Prod.mk.inj (Option.some.inj he)
  simp only [Instr.fits] at h
  have := o.off.isLt
  have := o.g.isLt
  have r1 : bits (0x00000271 + encB o) 1 6 = 56 := by simp only [bits, encB]; omega
  have r2 : bits (0x00000271 + encB o) 9 4 = 1 := by simp only [bits, encB]; omega
  have hr : rowOf32 (0x00000271 + encB o) = some .braThr := by
    rw [rowOf32_38 r1]
    simp [rowMajor38, r2]
  have e1 : field (0x00000271 + encB o) 13 19 = o.off := field_back (by simp only [encB]; omega)
  have e2 : field (0x00000271 + encB o) 7 2 = o.g := field_back (by simp only [encB]; omega)
  have hi : decB (0x00000271 + encB o) = o := by simp only [decB, e1, e2]
  exact decode_word32 (r := .braThr) (i := .braThr o) (by simp only [encB]; omega) (by simp only [encB]; omega) hr (show Instr.braThr (decB _) = _ from congrArg Instr.braThr hi) rest

theorem Encoded.braThrNot (o : FmtB) : Encoded.Statement (.braThrNot o) := by
  intro h n w he rest
  obtain ⟨rfl, rfl⟩ := Prod.mk.inj (Option.some.inj he)
  simp only [Instr.fits] at h
  have hx := h
  have := o.off.isLt
  have := o.g.isLt
  have r1 : bits (0x00000471 + encB o) 1 6 = 56 := by simp only [bits, encB]; omega
  have r2 : bits (0x00000471 + encB o) 9 4 = 2 := by simp only [bits, encB]; omega
  have r3 : bits (0x00000471 + encB o) 7 2 = o.g.toNat := by simp only [bits, encB]; omega
  have hr : rowOf32 (0x00000471 + encB o) = some .braThrNot := by
    rw [rowOf32_38 r1]
    have := toNat_ne_zero hx
    simp [rowMajor38, r2, r3, *]
  have e1 : field (0x00000471 + encB o) 13 19 = o.off := field_back (by simp only [encB]; omega)
  have e2 : field (0x00000471 + encB o) 7 2 = o.g := field_back (by simp only [encB]; omega)
  have hi : decB (0x00000471 + encB o) = o := by simp only [decB, e1, e2]
  exact decode_word32 (r := .braThrNot) (i := .braThrNot o) (by simp only [encB]; omega) (by simp only [encB]; omega) hr (show Instr.braThrNot (decB _) = _ from congrArg Instr.braThrNot hi) rest

theorem Encoded.braAny (o : FmtB) : Encoded.Statement (.braAny o) := by
  intro h n w he rest
  obtain ⟨rfl, rfl⟩ := Prod.mk.inj (Option.some.inj he)
  simp only [Instr.fits] at h
  have hx := h
  have := o.off.isLt
  have := o.g.isLt
  have r1 : bits (0x00000671 + encB o) 1 6 = 56 := by simp only [bits, encB]; omega
  have r2 : bits (0x00000671 + encB o) 9 4 = 3 := by simp only [bits, encB]; omega
  have r3 : bits (0x00000671 + encB o) 7 2 = o.g.toNat := by simp only [bits, encB]; omega
  have hr : rowOf32 (0x00000671 + encB o) = some .braAny := by
    rw [rowOf32_38 r1]
    have := toNat_ne_zero hx
    simp [rowMajor38, r2, r3, *]
  have e1 : field (0x00000671 + encB o) 13 19 = o.off := field_back (by simp only [encB]; omega)
  have e2 : field (0x00000671 + encB o) 7 2 = o.g := field_back (by simp only [encB]; omega)
  have hi : decB (0x00000671 + encB o) = o := by simp only [decB, e1, e2]
  exact decode_word32 (r := .braAny) (i := .braAny o) (by simp only [encB]; omega) (by simp only [encB]; omega) hr (show Instr.braAny (decB _) = _ from congrArg Instr.braAny hi) rest

theorem Encoded.braAll (o : FmtB) : Encoded.Statement (.braAll o) := by
  intro h n w he rest
  obtain ⟨rfl, rfl⟩ := Prod.mk.inj (Option.some.inj he)
  simp only [Instr.fits] at h
  have hx := h
  have := o.off.isLt
  have := o.g.isLt
  have r1 : bits (0x00000871 + encB o) 1 6 = 56 := by simp only [bits, encB]; omega
  have r2 : bits (0x00000871 + encB o) 9 4 = 4 := by simp only [bits, encB]; omega
  have r3 : bits (0x00000871 + encB o) 7 2 = o.g.toNat := by simp only [bits, encB]; omega
  have hr : rowOf32 (0x00000871 + encB o) = some .braAll := by
    rw [rowOf32_38 r1]
    have := toNat_ne_zero hx
    simp [rowMajor38, r2, r3, *]
  have e1 : field (0x00000871 + encB o) 13 19 = o.off := field_back (by simp only [encB]; omega)
  have e2 : field (0x00000871 + encB o) 7 2 = o.g := field_back (by simp only [encB]; omega)
  have hi : decB (0x00000871 + encB o) = o := by simp only [decB, e1, e2]
  exact decode_word32 (r := .braAll) (i := .braAll o) (by simp only [encB]; omega) (by simp only [encB]; omega) hr (show Instr.braAll (decB _) = _ from congrArg Instr.braAll hi) rest

theorem Encoded.braNone (o : FmtB) : Encoded.Statement (.braNone o) := by
  intro h n w he rest
  obtain ⟨rfl, rfl⟩ := Prod.mk.inj (Option.some.inj he)
  simp only [Instr.fits] at h
  have hx := h
  have := o.off.isLt
  have := o.g.isLt
  have r1 : bits (0x00000A71 + encB o) 1 6 = 56 := by simp only [bits, encB]; omega
  have r2 : bits (0x00000A71 + encB o) 9 4 = 5 := by simp only [bits, encB]; omega
  have r3 : bits (0x00000A71 + encB o) 7 2 = o.g.toNat := by simp only [bits, encB]; omega
  have hr : rowOf32 (0x00000A71 + encB o) = some .braNone := by
    rw [rowOf32_38 r1]
    have := toNat_ne_zero hx
    simp [rowMajor38, r2, r3, *]
  have e1 : field (0x00000A71 + encB o) 13 19 = o.off := field_back (by simp only [encB]; omega)
  have e2 : field (0x00000A71 + encB o) 7 2 = o.g := field_back (by simp only [encB]; omega)
  have hi : decB (0x00000A71 + encB o) = o := by simp only [decB, e1, e2]
  exact decode_word32 (r := .braNone) (i := .braNone o) (by simp only [encB]; omega) (by simp only [encB]; omega) hr (show Instr.braNone (decB _) = _ from congrArg Instr.braNone hi) rest

theorem Encoded.brt (o : FmtBT) : Encoded.Statement (.brt o) := by
  intro h n w he rest
  obtain ⟨rfl, rfl⟩ := Prod.mk.inj (Option.some.inj he)
  simp only [Instr.fits] at h
  have := o.off.isLt
  have := o.t.isLt
  have := timeTestCode_lt o.test
  have r1 : bits (0x00000073 + encBT o) 1 6 = 57 := by simp only [bits, encBT]; omega
  have hr : rowOf32 (0x00000073 + encBT o) = some .brt := by
    rw [rowOf32_39 r1]
  have e1 : field (0x00000073 + encBT o) 13 19 = o.off := field_back (by simp only [encBT]; omega)
  have e2 : field (0x00000073 + encBT o) 9 4 = o.t := field_back (by simp only [encBT]; omega)
  have e3 : bits (0x00000073 + encBT o) 7 2 = timeTestCode o.test := by simp only [bits, encBT]; omega
  have hi : decBT (0x00000073 + encBT o) = o := by simp only [decBT, e1, e2, e3, timeTest_back]
  exact decode_word32 (r := .brt) (i := .brt o) (by simp only [encBT]; omega) (by simp only [encBT]; omega) hr (show Instr.brt (decBT _) = _ from congrArg Instr.brt hi) rest

theorem Encoded.loop (o : FmtLoop) : Encoded.Statement (.loop o) := by
  intro h n w he rest
  obtain ⟨rfl, rfl⟩ := Prod.mk.inj (Option.some.inj he)
  simp only [Instr.fits] at h
  have := o.off.isLt
  have := o.s.isLt
  have r1 : bits (0x00000075 + encLoop o) 1 6 = 58 := by simp only [bits, encLoop]; omega
  have r2 : bits (0x00000075 + encLoop o) 7 2 = 0 := by simp only [bits, encLoop]; omega
  have hr : rowOf32 (0x00000075 + encLoop o) = some .loop := by
    rw [rowOf32_3A r1]
    simp [rowMajor3A, r2]
  have e1 : field (0x00000075 + encLoop o) 13 19 = o.off := field_back (by simp only [encLoop]; omega)
  have e2 : field (0x00000075 + encLoop o) 9 4 = o.s := field_back (by simp only [encLoop]; omega)
  have hi : decLoop (0x00000075 + encLoop o) = o := by simp only [decLoop, e1, e2]
  exact decode_word32 (r := .loop) (i := .loop o) (by simp only [encLoop]; omega) (by simp only [encLoop]; omega) hr (show Instr.loop (decLoop _) = _ from congrArg Instr.loop hi) rest

theorem Encoded.call (o : FmtJ) : Encoded.Statement (.call o) := by
  intro h n w he rest
  obtain ⟨rfl, rfl⟩ := Prod.mk.inj (Option.some.inj he)
  simp only [Instr.fits] at h
  have := o.off.isLt
  have r1 : bits (0x00000077 + encJ o) 1 6 = 59 := by simp only [bits, encJ]; omega
  have r2 : bits (0x00000077 + encJ o) 7 6 = 0 := by simp only [bits, encJ]; omega
  have hr : rowOf32 (0x00000077 + encJ o) = some .call := by
    rw [rowOf32_3B r1]
    simp [rowMajor3B, r2]
  have e1 : field (0x00000077 + encJ o) 13 19 = o.off := field_back (by simp only [encJ]; omega)
  have hi : decJ (0x00000077 + encJ o) = o := by simp only [decJ, e1]
  exact decode_word32 (r := .call) (i := .call o) (by simp only [encJ]; omega) (by simp only [encJ]; omega) hr (show Instr.call (decJ _) = _ from congrArg Instr.call hi) rest

theorem Encoded.nop (o : FmtNG) : Encoded.Statement (.nop o) := by
  intro h n w he rest
  obtain ⟨rfl, rfl⟩ := Prod.mk.inj (Option.some.inj he)
  simp only [Instr.fits] at h
  have r1 : bits (0x00000079 + encNG o) 1 6 = 60 := (encNG_facts 0 121 (by decide) (by decide) o).2.2.1
  have r2 : bits (0x00000079 + encNG o) 25 7 = 0 := (encNG_facts 0 121 (by decide) (by decide) o).2.2.2.1
  have r3 : bits (0x00000079 + encNG o) 11 14 = 0 := (encNG_facts 0 121 (by decide) (by decide) o).2.2.2.2
  have hr : rowOf32 (0x00000079 + encNG o) = some .nop := by
    rw [rowOf32_3C r1]
    simp [rowMajor3C, r2, r3]
  exact decode_word32 (r := .nop) (i := .nop o) (encNG_facts 0 121 (by decide) (by decide) o).2.1 (encNG_facts 0 121 (by decide) (by decide) o).1 hr (show Instr.nop (decNG _) = _ from congrArg Instr.nop (decNG_back 0 121 (by decide) o)) rest

theorem Encoded.jmp (o : FmtNA) : Encoded.Statement (.jmp o) := by
  intro h n w he rest
  obtain ⟨rfl, rfl⟩ := Prod.mk.inj (Option.some.inj he)
  simp only [Instr.fits] at h
  have r1 : bits (0x02000079 + encNA o) 1 6 = 60 := (encNA_facts 1 121 (by decide) (by decide) o).2.2.1
  have r2 : bits (0x02000079 + encNA o) 25 7 = 1 := (encNA_facts 1 121 (by decide) (by decide) o).2.2.2.1
  have r3 : bits (0x02000079 + encNA o) 11 7 = 0 := (encNA_facts 1 121 (by decide) (by decide) o).2.2.2.2
  have hr : rowOf32 (0x02000079 + encNA o) = some .jmp := by
    rw [rowOf32_3C r1]
    simp [rowMajor3C, r2, r3]
  exact decode_word32 (r := .jmp) (i := .jmp o) (encNA_facts 1 121 (by decide) (by decide) o).2.1 (encNA_facts 1 121 (by decide) (by decide) o).1 hr (show Instr.jmp (decNA _) = _ from congrArg Instr.jmp (decNA_back 1 121 (by decide) o)) rest

theorem Encoded.callr (o : FmtUO) : Encoded.Statement (.callr o) := by
  intro h n w he rest
  obtain ⟨rfl, rfl⟩ := Prod.mk.inj (Option.some.inj he)
  simp only [Instr.fits] at h
  have ha := h
  have r1 : bits (0x04000079 + encUO o) 1 6 = 60 := (encUO_facts 2 121 (by decide) (by decide) o).2.2.1
  have r2 : bits (0x04000079 + encUO o) 25 7 = 2 := (encUO_facts 2 121 (by decide) (by decide) o).2.2.2.1
  have r3 : bits (0x04000079 + encUO o) 11 7 = 0 := (encUO_facts 2 121 (by decide) (by decide) o).2.2.2.2.1
  have r4 : bits (0x04000079 + encUO o) 7 2 = 0 := (encUO_facts 2 121 (by decide) (by decide) o).2.2.2.2.2
  have hr : rowOf32 (0x04000079 + encUO o) = some .callr := by
    rw [rowOf32_3C r1]
    simp [rowMajor3C, r2, r3, r4]
  exact decode_word32 (r := .callr) (i := .callr o) (encUO_facts 2 121 (by decide) (by decide) o).2.1 (encUO_facts 2 121 (by decide) (by decide) o).1 hr (show Instr.callr (decUO _) = _ from congrArg Instr.callr (decUO_back 2 121 (by decide) o ha)) rest

theorem Encoded.ret (o : FmtUO) : Encoded.Statement (.ret o) := by
  intro h n w he rest
  obtain ⟨rfl, rfl⟩ := Prod.mk.inj (Option.some.inj he)
  simp only [Instr.fits] at h
  have ha := h
  have r1 : bits (0x06000079 + encUO o) 1 6 = 60 := (encUO_facts 3 121 (by decide) (by decide) o).2.2.1
  have r2 : bits (0x06000079 + encUO o) 25 7 = 3 := (encUO_facts 3 121 (by decide) (by decide) o).2.2.2.1
  have r3 : bits (0x06000079 + encUO o) 11 7 = 0 := (encUO_facts 3 121 (by decide) (by decide) o).2.2.2.2.1
  have r4 : bits (0x06000079 + encUO o) 7 2 = 0 := (encUO_facts 3 121 (by decide) (by decide) o).2.2.2.2.2
  have hr : rowOf32 (0x06000079 + encUO o) = some .ret := by
    rw [rowOf32_3C r1]
    simp [rowMajor3C, r2, r3, r4]
  exact decode_word32 (r := .ret) (i := .ret o) (encUO_facts 3 121 (by decide) (by decide) o).2.1 (encUO_facts 3 121 (by decide) (by decide) o).1 hr (show Instr.ret (decUO _) = _ from congrArg Instr.ret (decUO_back 3 121 (by decide) o ha)) rest

theorem Encoded.brkloop (o : FmtNG) : Encoded.Statement (.brkloop o) := by
  intro h n w he rest
  obtain ⟨rfl, rfl⟩ := Prod.mk.inj (Option.some.inj he)
  simp only [Instr.fits] at h
  have r1 : bits (0x08000079 + encNG o) 1 6 = 60 := (encNG_facts 4 121 (by decide) (by decide) o).2.2.1
  have r2 : bits (0x08000079 + encNG o) 25 7 = 4 := (encNG_facts 4 121 (by decide) (by decide) o).2.2.2.1
  have r3 : bits (0x08000079 + encNG o) 11 14 = 0 := (encNG_facts 4 121 (by decide) (by decide) o).2.2.2.2
  have hr : rowOf32 (0x08000079 + encNG o) = some .brkloop := by
    rw [rowOf32_3C r1]
    simp [rowMajor3C, r2, r3]
  exact decode_word32 (r := .brkloop) (i := .brkloop o) (encNG_facts 4 121 (by decide) (by decide) o).2.1 (encNG_facts 4 121 (by decide) (by decide) o).1 hr (show Instr.brkloop (decNG _) = _ from congrArg Instr.brkloop (decNG_back 4 121 (by decide) o)) rest

theorem Encoded.endturn (o : FmtNK) : Encoded.Statement (.endturn o) := by
  intro h n w he rest
  obtain ⟨rfl, rfl⟩ := Prod.mk.inj (Option.some.inj he)
  simp only [Instr.fits] at h
  have r1 : bits (0x0A000079 + encNK o) 1 6 = 60 := (encNK_facts 5 121 (by decide) (by decide) o).2.2.1
  have r2 : bits (0x0A000079 + encNK o) 25 7 = 5 := (encNK_facts 5 121 (by decide) (by decide) o).2.2.2.1
  have r3 : bits (0x0A000079 + encNK o) 11 14 = 0 := (encNK_facts 5 121 (by decide) (by decide) o).2.2.2.2.1
  have r4 : bits (0x0A000079 + encNK o) 7 2 = 0 := (encNK_facts 5 121 (by decide) (by decide) o).2.2.2.2.2
  have hr : rowOf32 (0x0A000079 + encNK o) = some .endturn := by
    rw [rowOf32_3C r1]
    simp [rowMajor3C, r2, r3, r4]
  exact decode_word32 (r := .endturn) (i := .endturn o) (encNK_facts 5 121 (by decide) (by decide) o).2.1 (encNK_facts 5 121 (by decide) (by decide) o).1 hr (show Instr.endturn (decNK _) = _ from congrArg Instr.endturn (decNK_back 5 121 (by decide) o)) rest

theorem Encoded.yield (o : FmtNK) : Encoded.Statement (.yield o) := by
  intro h n w he rest
  obtain ⟨rfl, rfl⟩ := Prod.mk.inj (Option.some.inj he)
  simp only [Instr.fits] at h
  have r1 : bits (0x0C000079 + encNK o) 1 6 = 60 := (encNK_facts 6 121 (by decide) (by decide) o).2.2.1
  have r2 : bits (0x0C000079 + encNK o) 25 7 = 6 := (encNK_facts 6 121 (by decide) (by decide) o).2.2.2.1
  have r3 : bits (0x0C000079 + encNK o) 11 14 = 0 := (encNK_facts 6 121 (by decide) (by decide) o).2.2.2.2.1
  have r4 : bits (0x0C000079 + encNK o) 7 2 = 0 := (encNK_facts 6 121 (by decide) (by decide) o).2.2.2.2.2
  have hr : rowOf32 (0x0C000079 + encNK o) = some .yield := by
    rw [rowOf32_3C r1]
    simp [rowMajor3C, r2, r3, r4]
  exact decode_word32 (r := .yield) (i := .yield o) (encNK_facts 6 121 (by decide) (by decide) o).2.1 (encNK_facts 6 121 (by decide) (by decide) o).1 hr (show Instr.yield (decNK _) = _ from congrArg Instr.yield (decNK_back 6 121 (by decide) o)) rest

theorem Encoded.fadd (o : FmtA) : Encoded.Statement (.fadd o) := by
  intro h n w he rest
  obtain ⟨rfl, rfl⟩ := Prod.mk.inj (Option.some.inj he)
  simp only [Instr.fits] at h
  have hd := h
  have r1 : bits (0x00000031 + encA o) 1 6 = 24 := (encA_facts 49 (by decide) o).2.2.1
  have r2 : bits (0x00000031 + encA o) 7 2 = 0 := (encA_facts 49 (by decide) o).2.2.2
  have hr : rowOf32 (0x00000031 + encA o) = some .fadd := by
    rw [rowOf32_18 r1]
    simp [rowMajor18, r2]
  exact decode_word32 (r := .fadd) (i := .fadd o) (encA_facts 49 (by decide) o).2.1 (encA_facts 49 (by decide) o).1 hr (show Instr.fadd (decA _) = _ from congrArg Instr.fadd (decA_back 49 (by decide) o hd)) rest

theorem Encoded.fsub (o : FmtA) : Encoded.Statement (.fsub o) := by
  intro h n w he rest
  obtain ⟨rfl, rfl⟩ := Prod.mk.inj (Option.some.inj he)
  simp only [Instr.fits] at h
  have hd := h
  have r1 : bits (0x000000B1 + encA o) 1 6 = 24 := (encA_facts 177 (by decide) o).2.2.1
  have r2 : bits (0x000000B1 + encA o) 7 2 = 1 := (encA_facts 177 (by decide) o).2.2.2
  have hr : rowOf32 (0x000000B1 + encA o) = some .fsub := by
    rw [rowOf32_18 r1]
    simp [rowMajor18, r2]
  exact decode_word32 (r := .fsub) (i := .fsub o) (encA_facts 177 (by decide) o).2.1 (encA_facts 177 (by decide) o).1 hr (show Instr.fsub (decA _) = _ from congrArg Instr.fsub (decA_back 177 (by decide) o hd)) rest

theorem Encoded.fmul (o : FmtA) : Encoded.Statement (.fmul o) := by
  intro h n w he rest
  obtain ⟨rfl, rfl⟩ := Prod.mk.inj (Option.some.inj he)
  simp only [Instr.fits] at h
  have hd := h
  have r1 : bits (0x00000131 + encA o) 1 6 = 24 := (encA_facts 305 (by decide) o).2.2.1
  have r2 : bits (0x00000131 + encA o) 7 2 = 2 := (encA_facts 305 (by decide) o).2.2.2
  have hr : rowOf32 (0x00000131 + encA o) = some .fmul := by
    rw [rowOf32_18 r1]
    simp [rowMajor18, r2]
  exact decode_word32 (r := .fmul) (i := .fmul o) (encA_facts 305 (by decide) o).2.1 (encA_facts 305 (by decide) o).1 hr (show Instr.fmul (decA _) = _ from congrArg Instr.fmul (decA_back 305 (by decide) o hd)) rest

theorem Encoded.ffma (o : FmtA) : Encoded.Statement (.ffma o) := by
  intro h n w he rest
  obtain ⟨rfl, rfl⟩ := Prod.mk.inj (Option.some.inj he)
  simp only [Instr.fits] at h
  have hd := h
  have r1 : bits (0x000001B1 + encA o) 1 6 = 24 := (encA_facts 433 (by decide) o).2.2.1
  have r2 : bits (0x000001B1 + encA o) 7 2 = 3 := (encA_facts 433 (by decide) o).2.2.2
  have hr : rowOf32 (0x000001B1 + encA o) = some .ffma := by
    rw [rowOf32_18 r1]
    simp [rowMajor18, r2]
  exact decode_word32 (r := .ffma) (i := .ffma o) (encA_facts 433 (by decide) o).2.1 (encA_facts 433 (by decide) o).1 hr (show Instr.ffma (decA _) = _ from congrArg Instr.ffma (decA_back 433 (by decide) o hd)) rest

theorem Encoded.fmin (o : FmtA) : Encoded.Statement (.fmin o) := by
  intro h n w he rest
  obtain ⟨rfl, rfl⟩ := Prod.mk.inj (Option.some.inj he)
  simp only [Instr.fits] at h
  have hd := h
  have r1 : bits (0x00000033 + encA o) 1 6 = 25 := (encA_facts 51 (by decide) o).2.2.1
  have r2 : bits (0x00000033 + encA o) 7 2 = 0 := (encA_facts 51 (by decide) o).2.2.2
  have hr : rowOf32 (0x00000033 + encA o) = some .fmin := by
    rw [rowOf32_19 r1]
    simp [rowMajor19, r2]
  exact decode_word32 (r := .fmin) (i := .fmin o) (encA_facts 51 (by decide) o).2.1 (encA_facts 51 (by decide) o).1 hr (show Instr.fmin (decA _) = _ from congrArg Instr.fmin (decA_back 51 (by decide) o hd)) rest

theorem Encoded.fmax (o : FmtA) : Encoded.Statement (.fmax o) := by
  intro h n w he rest
  obtain ⟨rfl, rfl⟩ := Prod.mk.inj (Option.some.inj he)
  simp only [Instr.fits] at h
  have hd := h
  have r1 : bits (0x000000B3 + encA o) 1 6 = 25 := (encA_facts 179 (by decide) o).2.2.1
  have r2 : bits (0x000000B3 + encA o) 7 2 = 1 := (encA_facts 179 (by decide) o).2.2.2
  have hr : rowOf32 (0x000000B3 + encA o) = some .fmax := by
    rw [rowOf32_19 r1]
    simp [rowMajor19, r2]
  exact decode_word32 (r := .fmax) (i := .fmax o) (encA_facts 179 (by decide) o).2.1 (encA_facts 179 (by decide) o).1 hr (show Instr.fmax (decA _) = _ from congrArg Instr.fmax (decA_back 179 (by decide) o hd)) rest

theorem Encoded.ffmal (o : FmtA) : Encoded.Statement (.ffmal o) := by
  intro h n w he rest
  obtain ⟨rfl, rfl⟩ := Prod.mk.inj (Option.some.inj he)
  simp only [Instr.fits] at h
  have hd := h
  have r1 : bits (0x00000133 + encA o) 1 6 = 25 := (encA_facts 307 (by decide) o).2.2.1
  have r2 : bits (0x00000133 + encA o) 7 2 = 2 := (encA_facts 307 (by decide) o).2.2.2
  have hr : rowOf32 (0x00000133 + encA o) = some .ffmal := by
    rw [rowOf32_19 r1]
    simp [rowMajor19, r2]
  exact decode_word32 (r := .ffmal) (i := .ffmal o) (encA_facts 307 (by decide) o).2.1 (encA_facts 307 (by decide) o).1 hr (show Instr.ffmal (decA _) = _ from congrArg Instr.ffmal (decA_back 307 (by decide) o hd)) rest

theorem Encoded.fnma (o : FmtA) : Encoded.Statement (.fnma o) := by
  intro h n w he rest
  obtain ⟨rfl, rfl⟩ := Prod.mk.inj (Option.some.inj he)
  simp only [Instr.fits] at h
  have hd := h
  have r1 : bits (0x000001B3 + encA o) 1 6 = 25 := (encA_facts 435 (by decide) o).2.2.1
  have r2 : bits (0x000001B3 + encA o) 7 2 = 3 := (encA_facts 435 (by decide) o).2.2.2
  have hr : rowOf32 (0x000001B3 + encA o) = some .fnma := by
    rw [rowOf32_19 r1]
    simp [rowMajor19, r2]
  exact decode_word32 (r := .fnma) (i := .fnma o) (encA_facts 435 (by decide) o).2.1 (encA_facts 435 (by decide) o).1 hr (show Instr.fnma (decA _) = _ from congrArg Instr.fnma (decA_back 435 (by decide) o hd)) rest

theorem Encoded.padd2 (o : FmtA) : Encoded.Statement (.padd2 o) := by
  intro h n w he rest
  obtain ⟨rfl, rfl⟩ := Prod.mk.inj (Option.some.inj he)
  simp only [Instr.fits] at h
  have hd := h
  have r1 : bits (0x00000035 + encA o) 1 6 = 26 := (encA_facts 53 (by decide) o).2.2.1
  have r2 : bits (0x00000035 + encA o) 7 2 = 0 := (encA_facts 53 (by decide) o).2.2.2
  have hr : rowOf32 (0x00000035 + encA o) = some .padd2 := by
    rw [rowOf32_1A r1]
    simp [rowMajor1A, r2]
  exact decode_word32 (r := .padd2) (i := .padd2 o) (encA_facts 53 (by decide) o).2.1 (encA_facts 53 (by decide) o).1 hr (show Instr.padd2 (decA _) = _ from congrArg Instr.padd2 (decA_back 53 (by decide) o hd)) rest

theorem Encoded.pmul2 (o : FmtA) : Encoded.Statement (.pmul2 o) := by
  intro h n w he rest
  obtain ⟨rfl, rfl⟩ := Prod.mk.inj (Option.some.inj he)
  simp only [Instr.fits] at h
  have hd := h
  have r1 : bits (0x000000B5 + encA o) 1 6 = 26 := (encA_facts 181 (by decide) o).2.2.1
  have r2 : bits (0x000000B5 + encA o) 7 2 = 1 := (encA_facts 181 (by decide) o).2.2.2
  have hr : rowOf32 (0x000000B5 + encA o) = some .pmul2 := by
    rw [rowOf32_1A r1]
    simp [rowMajor1A, r2]
  exact decode_word32 (r := .pmul2) (i := .pmul2 o) (encA_facts 181 (by decide) o).2.1 (encA_facts 181 (by decide) o).1 hr (show Instr.pmul2 (decA _) = _ from congrArg Instr.pmul2 (decA_back 181 (by decide) o hd)) rest

theorem Encoded.pfma2 (o : FmtA) : Encoded.Statement (.pfma2 o) := by
  intro h n w he rest
  obtain ⟨rfl, rfl⟩ := Prod.mk.inj (Option.some.inj he)
  simp only [Instr.fits] at h
  have hd := h
  have r1 : bits (0x00000135 + encA o) 1 6 = 26 := (encA_facts 309 (by decide) o).2.2.1
  have r2 : bits (0x00000135 + encA o) 7 2 = 2 := (encA_facts 309 (by decide) o).2.2.2
  have hr : rowOf32 (0x00000135 + encA o) = some .pfma2 := by
    rw [rowOf32_1A r1]
    simp [rowMajor1A, r2]
  exact decode_word32 (r := .pfma2) (i := .pfma2 o) (encA_facts 309 (by decide) o).2.1 (encA_facts 309 (by decide) o).1 hr (show Instr.pfma2 (decA _) = _ from congrArg Instr.pfma2 (decA_back 309 (by decide) o hd)) rest

theorem Encoded.pmax2 (o : FmtA) : Encoded.Statement (.pmax2 o) := by
  intro h n w he rest
  obtain ⟨rfl, rfl⟩ := Prod.mk.inj (Option.some.inj he)
  simp only [Instr.fits] at h
  have hd := h
  have r1 : bits (0x000001B5 + encA o) 1 6 = 26 := (encA_facts 437 (by decide) o).2.2.1
  have r2 : bits (0x000001B5 + encA o) 7 2 = 3 := (encA_facts 437 (by decide) o).2.2.2
  have hr : rowOf32 (0x000001B5 + encA o) = some .pmax2 := by
    rw [rowOf32_1A r1]
    simp [rowMajor1A, r2]
  exact decode_word32 (r := .pmax2) (i := .pmax2 o) (encA_facts 437 (by decide) o).2.1 (encA_facts 437 (by decide) o).1 hr (show Instr.pmax2 (decA _) = _ from congrArg Instr.pmax2 (decA_back 437 (by decide) o hd)) rest

theorem Encoded.dadd (o : FmtA) : Encoded.Statement (.dadd o) := by
  intro h n w he rest
  obtain ⟨rfl, rfl⟩ := Prod.mk.inj (Option.some.inj he)
  simp only [Instr.fits] at h
  have hd := h
  have r1 : bits (0x00000037 + encA o) 1 6 = 27 := (encA_facts 55 (by decide) o).2.2.1
  have r2 : bits (0x00000037 + encA o) 7 2 = 0 := (encA_facts 55 (by decide) o).2.2.2
  have hr : rowOf32 (0x00000037 + encA o) = some .dadd := by
    rw [rowOf32_1B r1]
    simp [rowMajor1B, r2]
  exact decode_word32 (r := .dadd) (i := .dadd o) (encA_facts 55 (by decide) o).2.1 (encA_facts 55 (by decide) o).1 hr (show Instr.dadd (decA _) = _ from congrArg Instr.dadd (decA_back 55 (by decide) o hd)) rest

theorem Encoded.dsub (o : FmtA) : Encoded.Statement (.dsub o) := by
  intro h n w he rest
  obtain ⟨rfl, rfl⟩ := Prod.mk.inj (Option.some.inj he)
  simp only [Instr.fits] at h
  have hd := h
  have r1 : bits (0x000000B7 + encA o) 1 6 = 27 := (encA_facts 183 (by decide) o).2.2.1
  have r2 : bits (0x000000B7 + encA o) 7 2 = 1 := (encA_facts 183 (by decide) o).2.2.2
  have hr : rowOf32 (0x000000B7 + encA o) = some .dsub := by
    rw [rowOf32_1B r1]
    simp [rowMajor1B, r2]
  exact decode_word32 (r := .dsub) (i := .dsub o) (encA_facts 183 (by decide) o).2.1 (encA_facts 183 (by decide) o).1 hr (show Instr.dsub (decA _) = _ from congrArg Instr.dsub (decA_back 183 (by decide) o hd)) rest

theorem Encoded.dmul (o : FmtA) : Encoded.Statement (.dmul o) := by
  intro h n w he rest
  obtain ⟨rfl, rfl⟩ := Prod.mk.inj (Option.some.inj he)
  simp only [Instr.fits] at h
  have hd := h
  have r1 : bits (0x00000137 + encA o) 1 6 = 27 := (encA_facts 311 (by decide) o).2.2.1
  have r2 : bits (0x00000137 + encA o) 7 2 = 2 := (encA_facts 311 (by decide) o).2.2.2
  have hr : rowOf32 (0x00000137 + encA o) = some .dmul := by
    rw [rowOf32_1B r1]
    simp [rowMajor1B, r2]
  exact decode_word32 (r := .dmul) (i := .dmul o) (encA_facts 311 (by decide) o).2.1 (encA_facts 311 (by decide) o).1 hr (show Instr.dmul (decA _) = _ from congrArg Instr.dmul (decA_back 311 (by decide) o hd)) rest

theorem Encoded.dfma (o : FmtA) : Encoded.Statement (.dfma o) := by
  intro h n w he rest
  obtain ⟨rfl, rfl⟩ := Prod.mk.inj (Option.some.inj he)
  simp only [Instr.fits] at h
  have hd := h
  have r1 : bits (0x000001B7 + encA o) 1 6 = 27 := (encA_facts 439 (by decide) o).2.2.1
  have r2 : bits (0x000001B7 + encA o) 7 2 = 3 := (encA_facts 439 (by decide) o).2.2.2
  have hr : rowOf32 (0x000001B7 + encA o) = some .dfma := by
    rw [rowOf32_1B r1]
    simp [rowMajor1B, r2]
  exact decode_word32 (r := .dfma) (i := .dfma o) (encA_facts 439 (by decide) o).2.1 (encA_facts 439 (by decide) o).1 hr (show Instr.dfma (decA _) = _ from congrArg Instr.dfma (decA_back 439 (by decide) o hd)) rest

theorem Encoded.dmin (o : FmtA) : Encoded.Statement (.dmin o) := by
  intro h n w he rest
  obtain ⟨rfl, rfl⟩ := Prod.mk.inj (Option.some.inj he)
  simp only [Instr.fits] at h
  have hd := h
  have r1 : bits (0x00000039 + encA o) 1 6 = 28 := (encA_facts 57 (by decide) o).2.2.1
  have r2 : bits (0x00000039 + encA o) 7 2 = 0 := (encA_facts 57 (by decide) o).2.2.2
  have hr : rowOf32 (0x00000039 + encA o) = some .dmin := by
    rw [rowOf32_1C r1]
    simp [rowMajor1C, r2]
  exact decode_word32 (r := .dmin) (i := .dmin o) (encA_facts 57 (by decide) o).2.1 (encA_facts 57 (by decide) o).1 hr (show Instr.dmin (decA _) = _ from congrArg Instr.dmin (decA_back 57 (by decide) o hd)) rest

theorem Encoded.dmax (o : FmtA) : Encoded.Statement (.dmax o) := by
  intro h n w he rest
  obtain ⟨rfl, rfl⟩ := Prod.mk.inj (Option.some.inj he)
  simp only [Instr.fits] at h
  have hd := h
  have r1 : bits (0x000000B9 + encA o) 1 6 = 28 := (encA_facts 185 (by decide) o).2.2.1
  have r2 : bits (0x000000B9 + encA o) 7 2 = 1 := (encA_facts 185 (by decide) o).2.2.2
  have hr : rowOf32 (0x000000B9 + encA o) = some .dmax := by
    rw [rowOf32_1C r1]
    simp [rowMajor1C, r2]
  exact decode_word32 (r := .dmax) (i := .dmax o) (encA_facts 185 (by decide) o).2.1 (encA_facts 185 (by decide) o).1 hr (show Instr.dmax (decA _) = _ from congrArg Instr.dmax (decA_back 185 (by decide) o hd)) rest

theorem Encoded.fneg (o : FmtN) : Encoded.Statement (.fneg o) := by
  intro h n w he rest
  obtain ⟨rfl, rfl⟩ := Prod.mk.inj (Option.some.inj he)
  simp only [Instr.fits] at h
  have hd := h
  have r1 : bits (0x0000003B + encN o) 1 6 = 29 := (encN_facts 0 59 (by decide) (by decide) o).2.2.1
  have r2 : bits (0x0000003B + encN o) 25 7 = 0 := (encN_facts 0 59 (by decide) (by decide) o).2.2.2
  have hr : rowOf32 (0x0000003B + encN o) = some .fneg := by
    rw [rowOf32_1D r1]
    simp [rowMajor1D, r2]
  exact decode_word32 (r := .fneg) (i := .fneg o) (encN_facts 0 59 (by decide) (by decide) o).2.1 (encN_facts 0 59 (by decide) (by decide) o).1 hr (show Instr.fneg (decN _) = _ from congrArg Instr.fneg (decN_back 0 59 (by decide) o hd)) rest

theorem Encoded.fabs (o : FmtN) : Encoded.Statement (.fabs o) := by
  intro h n w he rest
  obtain ⟨rfl, rfl⟩ := Prod.mk.inj (Option.some.inj he)
  simp only [Instr.fits] at h
  have hd := h
  have r1 : bits (0x0200003B + encN o) 1 6 = 29 := (encN_facts 1 59 (by decide) (by decide) o).2.2.1
  have r2 : bits (0x0200003B + encN o) 25 7 = 1 := (encN_facts 1 59 (by decide) (by decide) o).2.2.2
  have hr : rowOf32 (0x0200003B + encN o) = some .fabs := by
    rw [rowOf32_1D r1]
    simp [rowMajor1D, r2]
  exact decode_word32 (r := .fabs) (i := .fabs o) (encN_facts 1 59 (by decide) (by decide) o).2.1 (encN_facts 1 59 (by decide) (by decide) o).1 hr (show Instr.fabs (decN _) = _ from congrArg Instr.fabs (decN_back 1 59 (by decide) o hd)) rest

theorem Encoded.fsqrt (o : FmtN) : Encoded.Statement (.fsqrt o) := by
  intro h n w he rest
  obtain ⟨rfl, rfl⟩ := Prod.mk.inj (Option.some.inj he)
  simp only [Instr.fits] at h
  have hd := h
  have r1 : bits (0x0400003B + encN o) 1 6 = 29 := (encN_facts 2 59 (by decide) (by decide) o).2.2.1
  have r2 : bits (0x0400003B + encN o) 25 7 = 2 := (encN_facts 2 59 (by decide) (by decide) o).2.2.2
  have hr : rowOf32 (0x0400003B + encN o) = some .fsqrt := by
    rw [rowOf32_1D r1]
    simp [rowMajor1D, r2]
  exact decode_word32 (r := .fsqrt) (i := .fsqrt o) (encN_facts 2 59 (by decide) (by decide) o).2.1 (encN_facts 2 59 (by decide) (by decide) o).1 hr (show Instr.fsqrt (decN _) = _ from congrArg Instr.fsqrt (decN_back 2 59 (by decide) o hd)) rest

theorem Encoded.frcp (o : FmtN) : Encoded.Statement (.frcp o) := by
  intro h n w he rest
  obtain ⟨rfl, rfl⟩ := Prod.mk.inj (Option.some.inj he)
  simp only [Instr.fits] at h
  have hd := h
  have r1 : bits (0x0600003B + encN o) 1 6 = 29 := (encN_facts 3 59 (by decide) (by decide) o).2.2.1
  have r2 : bits (0x0600003B + encN o) 25 7 = 3 := (encN_facts 3 59 (by decide) (by decide) o).2.2.2
  have hr : rowOf32 (0x0600003B + encN o) = some .frcp := by
    rw [rowOf32_1D r1]
    simp [rowMajor1D, r2]
  exact decode_word32 (r := .frcp) (i := .frcp o) (encN_facts 3 59 (by decide) (by decide) o).2.1 (encN_facts 3 59 (by decide) (by decide) o).1 hr (show Instr.frcp (decN _) = _ from congrArg Instr.frcp (decN_back 3 59 (by decide) o hd)) rest

theorem Encoded.frsq (o : FmtN) : Encoded.Statement (.frsq o) := by
  intro h n w he rest
  obtain ⟨rfl, rfl⟩ := Prod.mk.inj (Option.some.inj he)
  simp only [Instr.fits] at h
  have hd := h
  have r1 : bits (0x0800003B + encN o) 1 6 = 29 := (encN_facts 4 59 (by decide) (by decide) o).2.2.1
  have r2 : bits (0x0800003B + encN o) 25 7 = 4 := (encN_facts 4 59 (by decide) (by decide) o).2.2.2
  have hr : rowOf32 (0x0800003B + encN o) = some .frsq := by
    rw [rowOf32_1D r1]
    simp [rowMajor1D, r2]
  exact decode_word32 (r := .frsq) (i := .frsq o) (encN_facts 4 59 (by decide) (by decide) o).2.1 (encN_facts 4 59 (by decide) (by decide) o).1 hr (show Instr.frsq (decN _) = _ from congrArg Instr.frsq (decN_back 4 59 (by decide) o hd)) rest

theorem Encoded.fexp2 (o : FmtN) : Encoded.Statement (.fexp2 o) := by
  intro h n w he rest
  obtain ⟨rfl, rfl⟩ := Prod.mk.inj (Option.some.inj he)
  simp only [Instr.fits] at h
  have hd := h
  have r1 : bits (0x0A00003B + encN o) 1 6 = 29 := (encN_facts 5 59 (by decide) (by decide) o).2.2.1
  have r2 : bits (0x0A00003B + encN o) 25 7 = 5 := (encN_facts 5 59 (by decide) (by decide) o).2.2.2
  have hr : rowOf32 (0x0A00003B + encN o) = some .fexp2 := by
    rw [rowOf32_1D r1]
    simp [rowMajor1D, r2]
  exact decode_word32 (r := .fexp2) (i := .fexp2 o) (encN_facts 5 59 (by decide) (by decide) o).2.1 (encN_facts 5 59 (by decide) (by decide) o).1 hr (show Instr.fexp2 (decN _) = _ from congrArg Instr.fexp2 (decN_back 5 59 (by decide) o hd)) rest

theorem Encoded.flog2 (o : FmtN) : Encoded.Statement (.flog2 o) := by
  intro h n w he rest
  obtain ⟨rfl, rfl⟩ := Prod.mk.inj (Option.some.inj he)
  simp only [Instr.fits] at h
  have hd := h
  have r1 : bits (0x0C00003B + encN o) 1 6 = 29 := (encN_facts 6 59 (by decide) (by decide) o).2.2.1
  have r2 : bits (0x0C00003B + encN o) 25 7 = 6 := (encN_facts 6 59 (by decide) (by decide) o).2.2.2
  have hr : rowOf32 (0x0C00003B + encN o) = some .flog2 := by
    rw [rowOf32_1D r1]
    simp [rowMajor1D, r2]
  exact decode_word32 (r := .flog2) (i := .flog2 o) (encN_facts 6 59 (by decide) (by decide) o).2.1 (encN_facts 6 59 (by decide) (by decide) o).1 hr (show Instr.flog2 (decN _) = _ from congrArg Instr.flog2 (decN_back 6 59 (by decide) o hd)) rest

theorem Encoded.fsinpi (o : FmtN) : Encoded.Statement (.fsinpi o) := by
  intro h n w he rest
  obtain ⟨rfl, rfl⟩ := Prod.mk.inj (Option.some.inj he)
  simp only [Instr.fits] at h
  have hd := h
  have r1 : bits (0x0E00003B + encN o) 1 6 = 29 := (encN_facts 7 59 (by decide) (by decide) o).2.2.1
  have r2 : bits (0x0E00003B + encN o) 25 7 = 7 := (encN_facts 7 59 (by decide) (by decide) o).2.2.2
  have hr : rowOf32 (0x0E00003B + encN o) = some .fsinpi := by
    rw [rowOf32_1D r1]
    simp [rowMajor1D, r2]
  exact decode_word32 (r := .fsinpi) (i := .fsinpi o) (encN_facts 7 59 (by decide) (by decide) o).2.1 (encN_facts 7 59 (by decide) (by decide) o).1 hr (show Instr.fsinpi (decN _) = _ from congrArg Instr.fsinpi (decN_back 7 59 (by decide) o hd)) rest

theorem Encoded.fcospi (o : FmtN) : Encoded.Statement (.fcospi o) := by
  intro h n w he rest
  obtain ⟨rfl, rfl⟩ := Prod.mk.inj (Option.some.inj he)
  simp only [Instr.fits] at h
  have hd := h
  have r1 : bits (0x1000003B + encN o) 1 6 = 29 := (encN_facts 8 59 (by decide) (by decide) o).2.2.1
  have r2 : bits (0x1000003B + encN o) 25 7 = 8 := (encN_facts 8 59 (by decide) (by decide) o).2.2.2
  have hr : rowOf32 (0x1000003B + encN o) = some .fcospi := by
    rw [rowOf32_1D r1]
    simp [rowMajor1D, r2]
  exact decode_word32 (r := .fcospi) (i := .fcospi o) (encN_facts 8 59 (by decide) (by decide) o).2.1 (encN_facts 8 59 (by decide) (by decide) o).1 hr (show Instr.fcospi (decN _) = _ from congrArg Instr.fcospi (decN_back 8 59 (by decide) o hd)) rest

theorem Encoded.frint (o : FmtN) : Encoded.Statement (.frint o) := by
  intro h n w he rest
  obtain ⟨rfl, rfl⟩ := Prod.mk.inj (Option.some.inj he)
  simp only [Instr.fits] at h
  have hd := h
  have r1 : bits (0x1200003B + encN o) 1 6 = 29 := (encN_facts 9 59 (by decide) (by decide) o).2.2.1
  have r2 : bits (0x1200003B + encN o) 25 7 = 9 := (encN_facts 9 59 (by decide) (by decide) o).2.2.2
  have hr : rowOf32 (0x1200003B + encN o) = some .frint := by
    rw [rowOf32_1D r1]
    simp [rowMajor1D, r2]
  exact decode_word32 (r := .frint) (i := .frint o) (encN_facts 9 59 (by decide) (by decide) o).2.1 (encN_facts 9 59 (by decide) (by decide) o).1 hr (show Instr.frint (decN _) = _ from congrArg Instr.frint (decN_back 9 59 (by decide) o hd)) rest

theorem Encoded.fclass (o : FmtN) : Encoded.Statement (.fclass o) := by
  intro h n w he rest
  obtain ⟨rfl, rfl⟩ := Prod.mk.inj (Option.some.inj he)
  simp only [Instr.fits] at h
  have hd := h
  have r1 : bits (0x1400003B + encN o) 1 6 = 29 := (encN_facts 10 59 (by decide) (by decide) o).2.2.1
  have r2 : bits (0x1400003B + encN o) 25 7 = 10 := (encN_facts 10 59 (by decide) (by decide) o).2.2.2
  have hr : rowOf32 (0x1400003B + encN o) = some .fclass := by
    rw [rowOf32_1D r1]
    simp [rowMajor1D, r2]
  exact decode_word32 (r := .fclass) (i := .fclass o) (encN_facts 10 59 (by decide) (by decide) o).2.1 (encN_facts 10 59 (by decide) (by decide) o).1 hr (show Instr.fclass (decN _) = _ from congrArg Instr.fclass (decN_back 10 59 (by decide) o hd)) rest

theorem Encoded.dneg (o : FmtN) : Encoded.Statement (.dneg o) := by
  intro h n w he rest
  obtain ⟨rfl, rfl⟩ := Prod.mk.inj (Option.some.inj he)
  simp only [Instr.fits] at h
  have hd := h
  have r1 : bits (0x2000003B + encN o) 1 6 = 29 := (encN_facts 16 59 (by decide) (by decide) o).2.2.1
  have r2 : bits (0x2000003B + encN o) 25 7 = 16 := (encN_facts 16 59 (by decide) (by decide) o).2.2.2
  have hr : rowOf32 (0x2000003B + encN o) = some .dneg := by
    rw [rowOf32_1D r1]
    simp [rowMajor1D, r2]
  exact decode_word32 (r := .dneg) (i := .dneg o) (encN_facts 16 59 (by decide) (by decide) o).2.1 (encN_facts 16 59 (by decide) (by decide) o).1 hr (show Instr.dneg (decN _) = _ from congrArg Instr.dneg (decN_back 16 59 (by decide) o hd)) rest

theorem Encoded.dabs (o : FmtN) : Encoded.Statement (.dabs o) := by
  intro h n w he rest
  obtain ⟨rfl, rfl⟩ := Prod.mk.inj (Option.some.inj he)
  simp only [Instr.fits] at h
  have hd := h
  have r1 : bits (0x2200003B + encN o) 1 6 = 29 := (encN_facts 17 59 (by decide) (by decide) o).2.2.1
  have r2 : bits (0x2200003B + encN o) 25 7 = 17 := (encN_facts 17 59 (by decide) (by decide) o).2.2.2
  have hr : rowOf32 (0x2200003B + encN o) = some .dabs := by
    rw [rowOf32_1D r1]
    simp [rowMajor1D, r2]
  exact decode_word32 (r := .dabs) (i := .dabs o) (encN_facts 17 59 (by decide) (by decide) o).2.1 (encN_facts 17 59 (by decide) (by decide) o).1 hr (show Instr.dabs (decN _) = _ from congrArg Instr.dabs (decN_back 17 59 (by decide) o hd)) rest

theorem Encoded.dsqrt (o : FmtN) : Encoded.Statement (.dsqrt o) := by
  intro h n w he rest
  obtain ⟨rfl, rfl⟩ := Prod.mk.inj (Option.some.inj he)
  simp only [Instr.fits] at h
  have hd := h
  have r1 : bits (0x2400003B + encN o) 1 6 = 29 := (encN_facts 18 59 (by decide) (by decide) o).2.2.1
  have r2 : bits (0x2400003B + encN o) 25 7 = 18 := (encN_facts 18 59 (by decide) (by decide) o).2.2.2
  have hr : rowOf32 (0x2400003B + encN o) = some .dsqrt := by
    rw [rowOf32_1D r1]
    simp [rowMajor1D, r2]
  exact decode_word32 (r := .dsqrt) (i := .dsqrt o) (encN_facts 18 59 (by decide) (by decide) o).2.1 (encN_facts 18 59 (by decide) (by decide) o).1 hr (show Instr.dsqrt (decN _) = _ from congrArg Instr.dsqrt (decN_back 18 59 (by decide) o hd)) rest

theorem Encoded.drcp (o : FmtN) : Encoded.Statement (.drcp o) := by
  intro h n w he rest
  obtain ⟨rfl, rfl⟩ := Prod.mk.inj (Option.some.inj he)
  simp only [Instr.fits] at h
  have hd := h
  have r1 : bits (0x2600003B + encN o) 1 6 = 29 := (encN_facts 19 59 (by decide) (by decide) o).2.2.1
  have r2 : bits (0x2600003B + encN o) 25 7 = 19 := (encN_facts 19 59 (by decide) (by decide) o).2.2.2
  have hr : rowOf32 (0x2600003B + encN o) = some .drcp := by
    rw [rowOf32_1D r1]
    simp [rowMajor1D, r2]
  exact decode_word32 (r := .drcp) (i := .drcp o) (encN_facts 19 59 (by decide) (by decide) o).2.1 (encN_facts 19 59 (by decide) (by decide) o).1 hr (show Instr.drcp (decN _) = _ from congrArg Instr.drcp (decN_back 19 59 (by decide) o hd)) rest

theorem Encoded.drint (o : FmtN) : Encoded.Statement (.drint o) := by
  intro h n w he rest
  obtain ⟨rfl, rfl⟩ := Prod.mk.inj (Option.some.inj he)
  simp only [Instr.fits] at h
  have hd := h
  have r1 : bits (0x2800003B + encN o) 1 6 = 29 := (encN_facts 20 59 (by decide) (by decide) o).2.2.1
  have r2 : bits (0x2800003B + encN o) 25 7 = 20 := (encN_facts 20 59 (by decide) (by decide) o).2.2.2
  have hr : rowOf32 (0x2800003B + encN o) = some .drint := by
    rw [rowOf32_1D r1]
    simp [rowMajor1D, r2]
  exact decode_word32 (r := .drint) (i := .drint o) (encN_facts 20 59 (by decide) (by decide) o).2.1 (encN_facts 20 59 (by decide) (by decide) o).1 hr (show Instr.drint (decN _) = _ from congrArg Instr.drint (decN_back 20 59 (by decide) o hd)) rest

theorem Encoded.dclass (o : FmtN) : Encoded.Statement (.dclass o) := by
  intro h n w he rest
  obtain ⟨rfl, rfl⟩ := Prod.mk.inj (Option.some.inj he)
  simp only [Instr.fits] at h
  have hd := h
  have r1 : bits (0x2A00003B + encN o) 1 6 = 29 := (encN_facts 21 59 (by decide) (by decide) o).2.2.1
  have r2 : bits (0x2A00003B + encN o) 25 7 = 21 := (encN_facts 21 59 (by decide) (by decide) o).2.2.2
  have hr : rowOf32 (0x2A00003B + encN o) = some .dclass := by
    rw [rowOf32_1D r1]
    simp [rowMajor1D, r2]
  exact decode_word32 (r := .dclass) (i := .dclass o) (encN_facts 21 59 (by decide) (by decide) o).2.1 (encN_facts 21 59 (by decide) (by decide) o).1 hr (show Instr.dclass (decN _) = _ from congrArg Instr.dclass (decN_back 21 59 (by decide) o hd)) rest

theorem Encoded.pneg2 (o : FmtN) : Encoded.Statement (.pneg2 o) := by
  intro h n w he rest
  obtain ⟨rfl, rfl⟩ := Prod.mk.inj (Option.some.inj he)
  simp only [Instr.fits] at h
  have hd := h
  have r1 : bits (0x3000003B + encN o) 1 6 = 29 := (encN_facts 24 59 (by decide) (by decide) o).2.2.1
  have r2 : bits (0x3000003B + encN o) 25 7 = 24 := (encN_facts 24 59 (by decide) (by decide) o).2.2.2
  have hr : rowOf32 (0x3000003B + encN o) = some .pneg2 := by
    rw [rowOf32_1D r1]
    simp [rowMajor1D, r2]
  exact decode_word32 (r := .pneg2) (i := .pneg2 o) (encN_facts 24 59 (by decide) (by decide) o).2.1 (encN_facts 24 59 (by decide) (by decide) o).1 hr (show Instr.pneg2 (decN _) = _ from congrArg Instr.pneg2 (decN_back 24 59 (by decide) o hd)) rest

theorem Encoded.pabs2 (o : FmtN) : Encoded.Statement (.pabs2 o) := by
  intro h n w he rest
  obtain ⟨rfl, rfl⟩ := Prod.mk.inj (Option.some.inj he)
  simp only [Instr.fits] at h
  have hd := h
  have r1 : bits (0x3200003B + encN o) 1 6 = 29 := (encN_facts 25 59 (by decide) (by decide) o).2.2.1
  have r2 : bits (0x3200003B + encN o) 25 7 = 25 := (encN_facts 25 59 (by decide) (by decide) o).2.2.2
  have hr : rowOf32 (0x3200003B + encN o) = some .pabs2 := by
    rw [rowOf32_1D r1]
    simp [rowMajor1D, r2]
  exact decode_word32 (r := .pabs2) (i := .pabs2 o) (encN_facts 25 59 (by decide) (by decide) o).2.1 (encN_facts 25 59 (by decide) (by decide) o).1 hr (show Instr.pabs2 (decN _) = _ from congrArg Instr.pabs2 (decN_back 25 59 (by decide) o hd)) rest

theorem Encoded.cvtF32I32 (o : FmtCvt) : Encoded.Statement (.cvtF32I32 o) := by
  intro h n w he rest
  obtain ⟨rfl, rfl⟩ := Prod.mk.inj (Option.some.inj he)
  simp only [Instr.fits] at h
  have hd := h
  have := rndSelCode_lt o.r
  have := srcCode_lt o.a
  have := dstCode_lt o.d
  have := o.k1.toNat_lt
  have := o.ka.toNat_lt
  have := o.g.isLt
  have r1 : bits (0x0000003D + encCvt o) 1 6 = 30 := (encCvt_facts 0 61 (by decide) (by decide) o).2.2.1
  have r2 : bits (0x0000003D + encCvt o) 28 4 = 0 := (encCvt_facts 0 61 (by decide) (by decide) o).2.2.2
  have r3 : bits (0x0000003D + encCvt o) 25 3 = rndSelCode o.r := by simp only [bits, encCvt]; omega
  have hr : rowOf32 (0x0000003D + encCvt o) = some .cvtF32I32 := by
    rw [rowOf32_1E r1]
    simp [rowMajor1E, r2, r3, *]
  exact decode_word32 (r := .cvtF32I32) (i := .cvtF32I32 o) (encCvt_facts 0 61 (by decide) (by decide) o).2.1 (encCvt_facts 0 61 (by decide) (by decide) o).1 hr (show Instr.cvtF32I32 (decCvt _) = _ from congrArg Instr.cvtF32I32 (decCvt_back 0 61 (by decide) o hd)) rest

theorem Encoded.cvtF32N32 (o : FmtCvt) : Encoded.Statement (.cvtF32N32 o) := by
  intro h n w he rest
  obtain ⟨rfl, rfl⟩ := Prod.mk.inj (Option.some.inj he)
  simp only [Instr.fits] at h
  have hd := h
  have := rndSelCode_lt o.r
  have := srcCode_lt o.a
  have := dstCode_lt o.d
  have := o.k1.toNat_lt
  have := o.ka.toNat_lt
  have := o.g.isLt
  have r1 : bits (0x1000003D + encCvt o) 1 6 = 30 := (encCvt_facts 1 61 (by decide) (by decide) o).2.2.1
  have r2 : bits (0x1000003D + encCvt o) 28 4 = 1 := (encCvt_facts 1 61 (by decide) (by decide) o).2.2.2
  have r3 : bits (0x1000003D + encCvt o) 25 3 = rndSelCode o.r := by simp only [bits, encCvt]; omega
  have hr : rowOf32 (0x1000003D + encCvt o) = some .cvtF32N32 := by
    rw [rowOf32_1E r1]
    simp [rowMajor1E, r2, r3, *]
  exact decode_word32 (r := .cvtF32N32) (i := .cvtF32N32 o) (encCvt_facts 1 61 (by decide) (by decide) o).2.1 (encCvt_facts 1 61 (by decide) (by decide) o).1 hr (show Instr.cvtF32N32 (decCvt _) = _ from congrArg Instr.cvtF32N32 (decCvt_back 1 61 (by decide) o hd)) rest

theorem Encoded.cvtI32F32 (o : FmtCvt) : Encoded.Statement (.cvtI32F32 o) := by
  intro h n w he rest
  obtain ⟨rfl, rfl⟩ := Prod.mk.inj (Option.some.inj he)
  simp only [Instr.fits] at h
  have hd := h
  have := rndSelCode_lt o.r
  have := srcCode_lt o.a
  have := dstCode_lt o.d
  have := o.k1.toNat_lt
  have := o.ka.toNat_lt
  have := o.g.isLt
  have r1 : bits (0x2000003D + encCvt o) 1 6 = 30 := (encCvt_facts 2 61 (by decide) (by decide) o).2.2.1
  have r2 : bits (0x2000003D + encCvt o) 28 4 = 2 := (encCvt_facts 2 61 (by decide) (by decide) o).2.2.2
  have r3 : bits (0x2000003D + encCvt o) 25 3 = rndSelCode o.r := by simp only [bits, encCvt]; omega
  have hr : rowOf32 (0x2000003D + encCvt o) = some .cvtI32F32 := by
    rw [rowOf32_1E r1]
    simp [rowMajor1E, r2, r3, *]
  exact decode_word32 (r := .cvtI32F32) (i := .cvtI32F32 o) (encCvt_facts 2 61 (by decide) (by decide) o).2.1 (encCvt_facts 2 61 (by decide) (by decide) o).1 hr (show Instr.cvtI32F32 (decCvt _) = _ from congrArg Instr.cvtI32F32 (decCvt_back 2 61 (by decide) o hd)) rest

theorem Encoded.cvtN32F32 (o : FmtCvt) : Encoded.Statement (.cvtN32F32 o) := by
  intro h n w he rest
  obtain ⟨rfl, rfl⟩ := Prod.mk.inj (Option.some.inj he)
  simp only [Instr.fits] at h
  have hd := h
  have := rndSelCode_lt o.r
  have := srcCode_lt o.a
  have := dstCode_lt o.d
  have := o.k1.toNat_lt
  have := o.ka.toNat_lt
  have := o.g.isLt
  have r1 : bits (0x3000003D + encCvt o) 1 6 = 30 := (encCvt_facts 3 61 (by decide) (by decide) o).2.2.1
  have r2 : bits (0x3000003D + encCvt o) 28 4 = 3 := (encCvt_facts 3 61 (by decide) (by decide) o).2.2.2
  have r3 : bits (0x3000003D + encCvt o) 25 3 = rndSelCode o.r := by simp only [bits, encCvt]; omega
  have hr : rowOf32 (0x3000003D + encCvt o) = some .cvtN32F32 := by
    rw [rowOf32_1E r1]
    simp [rowMajor1E, r2, r3, *]
  exact decode_word32 (r := .cvtN32F32) (i := .cvtN32F32 o) (encCvt_facts 3 61 (by decide) (by decide) o).2.1 (encCvt_facts 3 61 (by decide) (by decide) o).1 hr (show Instr.cvtN32F32 (decCvt _) = _ from congrArg Instr.cvtN32F32 (decCvt_back 3 61 (by decide) o hd)) rest

theorem Encoded.cvtF64F32 (o : FmtCvt) : Encoded.Statement (.cvtF64F32 o) := by
  intro h n w he rest
  obtain ⟨rfl, rfl⟩ := Prod.mk.inj (Option.some.inj he)
  simp only [Instr.fits, Bool.and_eq_true] at h
  obtain ⟨hd, hx⟩ := h
  have := rndSelCode_lt o.r
  have := srcCode_lt o.a
  have := dstCode_lt o.d
  have := o.k1.toNat_lt
  have := o.ka.toNat_lt
  have := o.g.isLt
  have r1 : bits (0x4000003D + encCvt o) 1 6 = 30 := (encCvt_facts 4 61 (by decide) (by decide) o).2.2.1
  have r2 : bits (0x4000003D + encCvt o) 28 4 = 4 := (encCvt_facts 4 61 (by decide) (by decide) o).2.2.2
  have r3 : bits (0x4000003D + encCvt o) 25 3 = rndSelCode o.r := by simp only [bits, encCvt]; omega
  have hr : rowOf32 (0x4000003D + encCvt o) = some .cvtF64F32 := by
    rw [rowOf32_1E r1]
    have : rndSelCode o.r = 0 := by rw [eq_of_beq hx]; rfl
    simp [rowMajor1E, r2, r3, *]
  exact decode_word32 (r := .cvtF64F32) (i := .cvtF64F32 o) (encCvt_facts 4 61 (by decide) (by decide) o).2.1 (encCvt_facts 4 61 (by decide) (by decide) o).1 hr (show Instr.cvtF64F32 (decCvt _) = _ from congrArg Instr.cvtF64F32 (decCvt_back 4 61 (by decide) o hd)) rest

theorem Encoded.cvtF32F64 (o : FmtCvt) : Encoded.Statement (.cvtF32F64 o) := by
  intro h n w he rest
  obtain ⟨rfl, rfl⟩ := Prod.mk.inj (Option.some.inj he)
  simp only [Instr.fits] at h
  have hd := h
  have := rndSelCode_lt o.r
  have := srcCode_lt o.a
  have := dstCode_lt o.d
  have := o.k1.toNat_lt
  have := o.ka.toNat_lt
  have := o.g.isLt
  have r1 : bits (0x5000003D + encCvt o) 1 6 = 30 := (encCvt_facts 5 61 (by decide) (by decide) o).2.2.1
  have r2 : bits (0x5000003D + encCvt o) 28 4 = 5 := (encCvt_facts 5 61 (by decide) (by decide) o).2.2.2
  have r3 : bits (0x5000003D + encCvt o) 25 3 = rndSelCode o.r := by simp only [bits, encCvt]; omega
  have hr : rowOf32 (0x5000003D + encCvt o) = some .cvtF32F64 := by
    rw [rowOf32_1E r1]
    simp [rowMajor1E, r2, r3, *]
  exact decode_word32 (r := .cvtF32F64) (i := .cvtF32F64 o) (encCvt_facts 5 61 (by decide) (by decide) o).2.1 (encCvt_facts 5 61 (by decide) (by decide) o).1 hr (show Instr.cvtF32F64 (decCvt _) = _ from congrArg Instr.cvtF32F64 (decCvt_back 5 61 (by decide) o hd)) rest

theorem Encoded.cvtF64I32 (o : FmtCvt) : Encoded.Statement (.cvtF64I32 o) := by
  intro h n w he rest
  obtain ⟨rfl, rfl⟩ := Prod.mk.inj (Option.some.inj he)
  simp only [Instr.fits, Bool.and_eq_true] at h
  obtain ⟨hd, hx⟩ := h
  have := rndSelCode_lt o.r
  have := srcCode_lt o.a
  have := dstCode_lt o.d
  have := o.k1.toNat_lt
  have := o.ka.toNat_lt
  have := o.g.isLt
  have r1 : bits (0x6000003D + encCvt o) 1 6 = 30 := (encCvt_facts 6 61 (by decide) (by decide) o).2.2.1
  have r2 : bits (0x6000003D + encCvt o) 28 4 = 6 := (encCvt_facts 6 61 (by decide) (by decide) o).2.2.2
  have r3 : bits (0x6000003D + encCvt o) 25 3 = rndSelCode o.r := by simp only [bits, encCvt]; omega
  have hr : rowOf32 (0x6000003D + encCvt o) = some .cvtF64I32 := by
    rw [rowOf32_1E r1]
    have : rndSelCode o.r = 0 := by rw [eq_of_beq hx]; rfl
    simp [rowMajor1E, r2, r3, *]
  exact decode_word32 (r := .cvtF64I32) (i := .cvtF64I32 o) (encCvt_facts 6 61 (by decide) (by decide) o).2.1 (encCvt_facts 6 61 (by decide) (by decide) o).1 hr (show Instr.cvtF64I32 (decCvt _) = _ from congrArg Instr.cvtF64I32 (decCvt_back 6 61 (by decide) o hd)) rest

theorem Encoded.cvtI32F64 (o : FmtCvt) : Encoded.Statement (.cvtI32F64 o) := by
  intro h n w he rest
  obtain ⟨rfl, rfl⟩ := Prod.mk.inj (Option.some.inj he)
  simp only [Instr.fits] at h
  have hd := h
  have := rndSelCode_lt o.r
  have := srcCode_lt o.a
  have := dstCode_lt o.d
  have := o.k1.toNat_lt
  have := o.ka.toNat_lt
  have := o.g.isLt
  have r1 : bits (0x7000003D + encCvt o) 1 6 = 30 := (encCvt_facts 7 61 (by decide) (by decide) o).2.2.1
  have r2 : bits (0x7000003D + encCvt o) 28 4 = 7 := (encCvt_facts 7 61 (by decide) (by decide) o).2.2.2
  have r3 : bits (0x7000003D + encCvt o) 25 3 = rndSelCode o.r := by simp only [bits, encCvt]; omega
  have hr : rowOf32 (0x7000003D + encCvt o) = some .cvtI32F64 := by
    rw [rowOf32_1E r1]
    simp [rowMajor1E, r2, r3, *]
  exact decode_word32 (r := .cvtI32F64) (i := .cvtI32F64 o) (encCvt_facts 7 61 (by decide) (by decide) o).2.1 (encCvt_facts 7 61 (by decide) (by decide) o).1 hr (show Instr.cvtI32F64 (decCvt _) = _ from congrArg Instr.cvtI32F64 (decCvt_back 7 61 (by decide) o hd)) rest

theorem Encoded.cvtF32F16 (o : FmtCvt) : Encoded.Statement (.cvtF32F16 o) := by
  intro h n w he rest
  obtain ⟨rfl, rfl⟩ := Prod.mk.inj (Option.some.inj he)
  simp only [Instr.fits, Bool.and_eq_true] at h
  obtain ⟨hd, hx⟩ := h
  have := rndSelCode_lt o.r
  have := srcCode_lt o.a
  have := dstCode_lt o.d
  have := o.k1.toNat_lt
  have := o.ka.toNat_lt
  have := o.g.isLt
  have r1 : bits (0x8000003D + encCvt o) 1 6 = 30 := (encCvt_facts 8 61 (by decide) (by decide) o).2.2.1
  have r2 : bits (0x8000003D + encCvt o) 28 4 = 8 := (encCvt_facts 8 61 (by decide) (by decide) o).2.2.2
  have r3 : bits (0x8000003D + encCvt o) 25 3 = rndSelCode o.r := by simp only [bits, encCvt]; omega
  have hr : rowOf32 (0x8000003D + encCvt o) = some .cvtF32F16 := by
    rw [rowOf32_1E r1]
    have : rndSelCode o.r = 0 := by rw [eq_of_beq hx]; rfl
    simp [rowMajor1E, r2, r3, *]
  exact decode_word32 (r := .cvtF32F16) (i := .cvtF32F16 o) (encCvt_facts 8 61 (by decide) (by decide) o).2.1 (encCvt_facts 8 61 (by decide) (by decide) o).1 hr (show Instr.cvtF32F16 (decCvt _) = _ from congrArg Instr.cvtF32F16 (decCvt_back 8 61 (by decide) o hd)) rest

theorem Encoded.cvtF16x2F32x2 (o : FmtCvt) : Encoded.Statement (.cvtF16x2F32x2 o) := by
  intro h n w he rest
  obtain ⟨rfl, rfl⟩ := Prod.mk.inj (Option.some.inj he)
  simp only [Instr.fits] at h
  have hd := h
  have := rndSelCode_lt o.r
  have := srcCode_lt o.a
  have := dstCode_lt o.d
  have := o.k1.toNat_lt
  have := o.ka.toNat_lt
  have := o.g.isLt
  have r1 : bits (0x9000003D + encCvt o) 1 6 = 30 := (encCvt_facts 9 61 (by decide) (by decide) o).2.2.1
  have r2 : bits (0x9000003D + encCvt o) 28 4 = 9 := (encCvt_facts 9 61 (by decide) (by decide) o).2.2.2
  have r3 : bits (0x9000003D + encCvt o) 25 3 = rndSelCode o.r := by simp only [bits, encCvt]; omega
  have hr : rowOf32 (0x9000003D + encCvt o) = some .cvtF16x2F32x2 := by
    rw [rowOf32_1E r1]
    simp [rowMajor1E, r2, r3, *]
  exact decode_word32 (r := .cvtF16x2F32x2) (i := .cvtF16x2F32x2 o) (encCvt_facts 9 61 (by decide) (by decide) o).2.1 (encCvt_facts 9 61 (by decide) (by decide) o).1 hr (show Instr.cvtF16x2F32x2 (decCvt _) = _ from congrArg Instr.cvtF16x2F32x2 (decCvt_back 9 61 (by decide) o hd)) rest

theorem Encoded.cvtBf16x2F32x2 (o : FmtCvt) : Encoded.Statement (.cvtBf16x2F32x2 o) := by
  intro h n w he rest
  obtain ⟨rfl, rfl⟩ := Prod.mk.inj (Option.some.inj he)
  simp only [Instr.fits] at h
  have hd := h
  have := rndSelCode_lt o.r
  have := srcCode_lt o.a
  have := dstCode_lt o.d
  have := o.k1.toNat_lt
  have := o.ka.toNat_lt
  have := o.g.isLt
  have r1 : bits (0xA000003D + encCvt o) 1 6 = 30 := (encCvt_facts 10 61 (by decide) (by decide) o).2.2.1
  have r2 : bits (0xA000003D + encCvt o) 28 4 = 10 := (encCvt_facts 10 61 (by decide) (by decide) o).2.2.2
  have r3 : bits (0xA000003D + encCvt o) 25 3 = rndSelCode o.r := by simp only [bits, encCvt]; omega
  have hr : rowOf32 (0xA000003D + encCvt o) = some .cvtBf16x2F32x2 := by
    rw [rowOf32_1E r1]
    simp [rowMajor1E, r2, r3, *]
  exact decode_word32 (r := .cvtBf16x2F32x2) (i := .cvtBf16x2F32x2 o) (encCvt_facts 10 61 (by decide) (by decide) o).2.1 (encCvt_facts 10 61 (by decide) (by decide) o).1 hr (show Instr.cvtBf16x2F32x2 (decCvt _) = _ from congrArg Instr.cvtBf16x2F32x2 (decCvt_back 10 61 (by decide) o hd)) rest

theorem Encoded.cvtBf16x4E8x4 (o : FmtCvt) : Encoded.Statement (.cvtBf16x4E8x4 o) := by
  intro h n w he rest
  obtain ⟨rfl, rfl⟩ := Prod.mk.inj (Option.some.inj he)
  simp only [Instr.fits, Bool.and_eq_true] at h
  obtain ⟨hd, hx⟩ := h
  have := rndSelCode_lt o.r
  have := srcCode_lt o.a
  have := dstCode_lt o.d
  have := o.k1.toNat_lt
  have := o.ka.toNat_lt
  have := o.g.isLt
  have r1 : bits (0xB000003D + encCvt o) 1 6 = 30 := (encCvt_facts 11 61 (by decide) (by decide) o).2.2.1
  have r2 : bits (0xB000003D + encCvt o) 28 4 = 11 := (encCvt_facts 11 61 (by decide) (by decide) o).2.2.2
  have r3 : bits (0xB000003D + encCvt o) 25 3 = rndSelCode o.r := by simp only [bits, encCvt]; omega
  have hr : rowOf32 (0xB000003D + encCvt o) = some .cvtBf16x4E8x4 := by
    rw [rowOf32_1E r1]
    have : rndSelCode o.r = 0 := by rw [eq_of_beq hx]; rfl
    simp [rowMajor1E, r2, r3, *]
  exact decode_word32 (r := .cvtBf16x4E8x4) (i := .cvtBf16x4E8x4 o) (encCvt_facts 11 61 (by decide) (by decide) o).2.1 (encCvt_facts 11 61 (by decide) (by decide) o).1 hr (show Instr.cvtBf16x4E8x4 (decCvt _) = _ from congrArg Instr.cvtBf16x4E8x4 (decCvt_back 11 61 (by decide) o hd)) rest

theorem Encoded.cvtE4m3x4Bf16x4 (o : FmtCvt) : Encoded.Statement (.cvtE4m3x4Bf16x4 o) := by
  intro h n w he rest
  obtain ⟨rfl, rfl⟩ := Prod.mk.inj (Option.some.inj he)
  simp only [Instr.fits] at h
  have hd := h
  have := rndSelCode_lt o.r
  have := srcCode_lt o.a
  have := dstCode_lt o.d
  have := o.k1.toNat_lt
  have := o.ka.toNat_lt
  have := o.g.isLt
  have r1 : bits (0xC000003D + encCvt o) 1 6 = 30 := (encCvt_facts 12 61 (by decide) (by decide) o).2.2.1
  have r2 : bits (0xC000003D + encCvt o) 28 4 = 12 := (encCvt_facts 12 61 (by decide) (by decide) o).2.2.2
  have r3 : bits (0xC000003D + encCvt o) 25 3 = rndSelCode o.r := by simp only [bits, encCvt]; omega
  have hr : rowOf32 (0xC000003D + encCvt o) = some .cvtE4m3x4Bf16x4 := by
    rw [rowOf32_1E r1]
    simp [rowMajor1E, r2, r3, *]
  exact decode_word32 (r := .cvtE4m3x4Bf16x4) (i := .cvtE4m3x4Bf16x4 o) (encCvt_facts 12 61 (by decide) (by decide) o).2.1 (encCvt_facts 12 61 (by decide) (by decide) o).1 hr (show Instr.cvtE4m3x4Bf16x4 (decCvt _) = _ from congrArg Instr.cvtE4m3x4Bf16x4 (decCvt_back 12 61 (by decide) o hd)) rest

theorem Encoded.cvtE5m2x4Bf16x4 (o : FmtCvt) : Encoded.Statement (.cvtE5m2x4Bf16x4 o) := by
  intro h n w he rest
  obtain ⟨rfl, rfl⟩ := Prod.mk.inj (Option.some.inj he)
  simp only [Instr.fits] at h
  have hd := h
  have := rndSelCode_lt o.r
  have := srcCode_lt o.a
  have := dstCode_lt o.d
  have := o.k1.toNat_lt
  have := o.ka.toNat_lt
  have := o.g.isLt
  have r1 : bits (0xD000003D + encCvt o) 1 6 = 30 := (encCvt_facts 13 61 (by decide) (by decide) o).2.2.1
  have r2 : bits (0xD000003D + encCvt o) 28 4 = 13 := (encCvt_facts 13 61 (by decide) (by decide) o).2.2.2
  have r3 : bits (0xD000003D + encCvt o) 25 3 = rndSelCode o.r := by simp only [bits, encCvt]; omega
  have hr : rowOf32 (0xD000003D + encCvt o) = some .cvtE5m2x4Bf16x4 := by
    rw [rowOf32_1E r1]
    simp [rowMajor1E, r2, r3, *]
  exact decode_word32 (r := .cvtE5m2x4Bf16x4) (i := .cvtE5m2x4Bf16x4 o) (encCvt_facts 13 61 (by decide) (by decide) o).2.1 (encCvt_facts 13 61 (by decide) (by decide) o).1 hr (show Instr.cvtE5m2x4Bf16x4 (decCvt _) = _ from congrArg Instr.cvtE5m2x4Bf16x4 (decCvt_back 13 61 (by decide) o hd)) rest

theorem Encoded.cvtBf16x2B4 (o : FmtCvt) : Encoded.Statement (.cvtBf16x2B4 o) := by
  intro h n w he rest
  obtain ⟨rfl, rfl⟩ := Prod.mk.inj (Option.some.inj he)
  simp only [Instr.fits, Bool.and_eq_true] at h
  obtain ⟨hd, hx⟩ := h
  have := rndSelCode_lt o.r
  have := srcCode_lt o.a
  have := dstCode_lt o.d
  have := o.k1.toNat_lt
  have := o.ka.toNat_lt
  have := o.g.isLt
  have r1 : bits (0xE000003D + encCvt o) 1 6 = 30 := (encCvt_facts 14 61 (by decide) (by decide) o).2.2.1
  have r2 : bits (0xE000003D + encCvt o) 28 4 = 14 := (encCvt_facts 14 61 (by decide) (by decide) o).2.2.2
  have r3 : bits (0xE000003D + encCvt o) 25 3 = rndSelCode o.r := by simp only [bits, encCvt]; omega
  have hr : rowOf32 (0xE000003D + encCvt o) = some .cvtBf16x2B4 := by
    rw [rowOf32_1E r1]
    have : rndSelCode o.r = 0 := by rw [eq_of_beq hx]; rfl
    simp [rowMajor1E, r2, r3, *]
  exact decode_word32 (r := .cvtBf16x2B4) (i := .cvtBf16x2B4 o) (encCvt_facts 14 61 (by decide) (by decide) o).2.1 (encCvt_facts 14 61 (by decide) (by decide) o).1 hr (show Instr.cvtBf16x2B4 (decCvt _) = _ from congrArg Instr.cvtBf16x2B4 (decCvt_back 14 61 (by decide) o hd)) rest

theorem Encoded.cvtB4F32 (o : FmtCvt) : Encoded.Statement (.cvtB4F32 o) := by
  intro h n w he rest
  obtain ⟨rfl, rfl⟩ := Prod.mk.inj (Option.some.inj he)
  simp only [Instr.fits] at h
  have hd := h
  have := rndSelCode_lt o.r
  have := srcCode_lt o.a
  have := dstCode_lt o.d
  have := o.k1.toNat_lt
  have := o.ka.toNat_lt
  have := o.g.isLt
  have r1 : bits (0xF000003D + encCvt o) 1 6 = 30 := (encCvt_facts 15 61 (by decide) (by decide) o).2.2.1
  have r2 : bits (0xF000003D + encCvt o) 28 4 = 15 := (encCvt_facts 15 61 (by decide) (by decide) o).2.2.2
  have r3 : bits (0xF000003D + encCvt o) 25 3 = rndSelCode o.r := by simp only [bits, encCvt]; omega
  have hr : rowOf32 (0xF000003D + encCvt o) = some .cvtB4F32 := by
    rw [rowOf32_1E r1]
    simp [rowMajor1E, r2, r3, *]
  exact decode_word32 (r := .cvtB4F32) (i := .cvtB4F32 o) (encCvt_facts 15 61 (by decide) (by decide) o).2.1 (encCvt_facts 15 61 (by decide) (by decide) o).1 hr (show Instr.cvtB4F32 (decCvt _) = _ from congrArg Instr.cvtB4F32 (decCvt_back 15 61 (by decide) o hd)) rest

theorem Encoded.ldw (o : FmtLd) : Encoded.Statement (.ldw o) := by
  intro h n w he rest
  obtain ⟨rfl, rfl⟩ := Prod.mk.inj (Option.some.inj he)
  simp only [Instr.fits] at h
  have hd := h
  have r1 : bits (0x00000041 + encLd o) 1 6 = 32 := (encLd_facts 65 (by decide) o).2.2
  have hr : rowOf32 (0x00000041 + encLd o) = some .ldw := by
    rw [rowOf32_20 r1]
  exact decode_word32 (r := .ldw) (i := .ldw o) (encLd_facts 65 (by decide) o).2.1 (encLd_facts 65 (by decide) o).1 hr (show Instr.ldw (decLd _) = _ from congrArg Instr.ldw (decLd_back 65 (by decide) o hd)) rest

theorem Encoded.ldd (o : FmtLd) : Encoded.Statement (.ldd o) := by
  intro h n w he rest
  obtain ⟨rfl, rfl⟩ := Prod.mk.inj (Option.some.inj he)
  simp only [Instr.fits] at h
  have hd := h
  have r1 : bits (0x00000043 + encLd o) 1 6 = 33 := (encLd_facts 67 (by decide) o).2.2
  have hr : rowOf32 (0x00000043 + encLd o) = some .ldd := by
    rw [rowOf32_21 r1]
  exact decode_word32 (r := .ldd) (i := .ldd o) (encLd_facts 67 (by decide) o).2.1 (encLd_facts 67 (by decide) o).1 hr (show Instr.ldd (decLd _) = _ from congrArg Instr.ldd (decLd_back 67 (by decide) o hd)) rest

theorem Encoded.ldq (o : FmtLd) : Encoded.Statement (.ldq o) := by
  intro h n w he rest
  obtain ⟨rfl, rfl⟩ := Prod.mk.inj (Option.some.inj he)
  simp only [Instr.fits] at h
  have hd := h
  have r1 : bits (0x00000045 + encLd o) 1 6 = 34 := (encLd_facts 69 (by decide) o).2.2
  have hr : rowOf32 (0x00000045 + encLd o) = some .ldq := by
    rw [rowOf32_22 r1]
  exact decode_word32 (r := .ldq) (i := .ldq o) (encLd_facts 69 (by decide) o).2.1 (encLd_facts 69 (by decide) o).1 hr (show Instr.ldq (decLd _) = _ from congrArg Instr.ldq (decLd_back 69 (by decide) o hd)) rest

theorem Encoded.ldsub (o : FmtLdSub) : Encoded.Statement (.ldsub o) := by
  intro h n w he rest
  obtain ⟨rfl, rfl⟩ := Prod.mk.inj (Option.some.inj he)
  simp only [Instr.fits] at h
  have hd := h
  have := subSizeCode_lt o.sz
  have := o.off.isLt
  have := o.t.isLt
  have := srcCode_lt o.b
  have := dstCode_lt o.d
  have := o.g.isLt
  have r1 : bits (0x00000047 + encLdSub o) 1 6 = 35 := by simp only [bits, encLdSub]; omega
  have hr : rowOf32 (0x00000047 + encLdSub o) = some .ldsub := by
    rw [rowOf32_23 r1]
  have e1 : bits (0x00000047 + encLdSub o) 30 2 = subSizeCode o.sz := by simp only [bits, encLdSub]; omega
  have e2 : field (0x00000047 + encLdSub o) 27 3 = o.off := field_back (by simp only [encLdSub]; omega)
  have e3 : field (0x00000047 + encLdSub o) 23 4 = o.t := field_back (by simp only [encLdSub]; omega)
  have e4 : bits (0x00000047 + encLdSub o) 16 7 = srcCode o.b := by simp only [bits, encLdSub]; omega
  have e5 : bits (0x00000047 + encLdSub o) 9 7 = dstCode o.d := by simp only [bits, encLdSub]; omega
  have e6 : field (0x00000047 + encLdSub o) 7 2 = o.g := field_back (by simp only [encLdSub]; omega)
  have hi : decLdSub (0x00000047 + encLdSub o) = o := by simp only [decLdSub, e1, subSize_back, e2, e3, e4, src_back, e5, dst_back _ hd, e6]
  exact decode_word32 (r := .ldsub) (i := .ldsub o) (by simp only [encLdSub]; omega) (by simp only [encLdSub]; omega) hr (show Instr.ldsub (decLdSub _) = _ from congrArg Instr.ldsub hi) rest

theorem Encoded.stw (o : FmtSt) : Encoded.Statement (.stw o) := by
  intro h n w he rest
  obtain ⟨rfl, rfl⟩ := Prod.mk.inj (Option.some.inj he)
  simp only [Instr.fits] at h
  have r1 : bits (0x00000049 + encSt o) 1 6 = 36 := (encSt_facts 73 (by decide) o).2.2
  have hr : rowOf32 (0x00000049 + encSt o) = some .stw := by
    rw [rowOf32_24 r1]
  exact decode_word32 (r := .stw) (i := .stw o) (encSt_facts 73 (by decide) o).2.1 (encSt_facts 73 (by decide) o).1 hr (show Instr.stw (decSt _) = _ from congrArg Instr.stw (decSt_back 73 (by decide) o)) rest

theorem Encoded.std (o : FmtSt) : Encoded.Statement (.std o) := by
  intro h n w he rest
  obtain ⟨rfl, rfl⟩ := Prod.mk.inj (Option.some.inj he)
  simp only [Instr.fits] at h
  have r1 : bits (0x0000004B + encSt o) 1 6 = 37 := (encSt_facts 75 (by decide) o).2.2
  have hr : rowOf32 (0x0000004B + encSt o) = some .std := by
    rw [rowOf32_25 r1]
  exact decode_word32 (r := .std) (i := .std o) (encSt_facts 75 (by decide) o).2.1 (encSt_facts 75 (by decide) o).1 hr (show Instr.std (decSt _) = _ from congrArg Instr.std (decSt_back 75 (by decide) o)) rest

theorem Encoded.stq (o : FmtSt) : Encoded.Statement (.stq o) := by
  intro h n w he rest
  obtain ⟨rfl, rfl⟩ := Prod.mk.inj (Option.some.inj he)
  simp only [Instr.fits] at h
  have r1 : bits (0x0000004D + encSt o) 1 6 = 38 := (encSt_facts 77 (by decide) o).2.2
  have hr : rowOf32 (0x0000004D + encSt o) = some .stq := by
    rw [rowOf32_26 r1]
  exact decode_word32 (r := .stq) (i := .stq o) (encSt_facts 77 (by decide) o).2.1 (encSt_facts 77 (by decide) o).1 hr (show Instr.stq (decSt _) = _ from congrArg Instr.stq (decSt_back 77 (by decide) o)) rest

theorem Encoded.stsub (o : FmtStSub) : Encoded.Statement (.stsub o) := by
  intro h n w he rest
  obtain ⟨rfl, rfl⟩ := Prod.mk.inj (Option.some.inj he)
  simp only [Instr.fits] at h
  have := o.half.toNat_lt
  have := o.off.isLt
  have := o.t.isLt
  have := srcCode_lt o.b
  have := srcCode_lt o.x
  have := o.g.isLt
  have r1 : bits (0x0000004F + encStSub o) 1 6 = 39 := by simp only [bits, encStSub]; omega
  have r2 : bits (0x0000004F + encStSub o) 31 1 = 0 := by simp only [bits, encStSub]; omega
  have hr : rowOf32 (0x0000004F + encStSub o) = some .stsub := by
    rw [rowOf32_27 r1]
    simp [rowMajor27, r2]
  have e1 : bit (0x0000004F + encStSub o) 30 = o.half := bit_back (by simp only [encStSub]; omega)
  have e2 : field (0x0000004F + encStSub o) 27 3 = o.off := field_back (by simp only [encStSub]; omega)
  have e3 : field (0x0000004F + encStSub o) 23 4 = o.t := field_back (by simp only [encStSub]; omega)
  have e4 : bits (0x0000004F + encStSub o) 16 7 = srcCode o.b := by simp only [bits, encStSub]; omega
  have e5 : bits (0x0000004F + encStSub o) 9 7 = srcCode o.x := by simp only [bits, encStSub]; omega
  have e6 : field (0x0000004F + encStSub o) 7 2 = o.g := field_back (by simp only [encStSub]; omega)
  have hi : decStSub (0x0000004F + encStSub o) = o := by simp only [decStSub, e1, e2, e3, e4, src_back, e5, src_back, e6]
  exact decode_word32 (r := .stsub) (i := .stsub o) (by simp only [encStSub]; omega) (by simp only [encStSub]; omega) hr (show Instr.stsub (decStSub _) = _ from congrArg Instr.stsub hi) rest

theorem Encoded.atom32AddI32 (o : FmtT) : Encoded.Statement (.atom32AddI32 o) := by
  intro h n w he rest
  obtain ⟨rfl, rfl⟩ := Prod.mk.inj (Option.some.inj he)
  simp only [Instr.fits] at h
  have hd := h
  have r1 : bits (0x00000051 + encT o) 1 6 = 40 := (encT_facts 0 81 (by decide) (by decide) o).2.2.1
  have r2 : bits (0x00000051 + encT o) 28 4 = 0 := (encT_facts 0 81 (by decide) (by decide) o).2.2.2
  have hr : rowOf32 (0x00000051 + encT o) = some .atom32AddI32 := by
    rw [rowOf32_28 r1]
    simp [rowMajor28, r2]
  exact decode_word32 (r := .atom32AddI32) (i := .atom32AddI32 o) (encT_facts 0 81 (by decide) (by decide) o).2.1 (encT_facts 0 81 (by decide) (by decide) o).1 hr (show Instr.atom32AddI32 (decT _) = _ from congrArg Instr.atom32AddI32 (decT_back 0 81 (by decide) o hd)) rest

theorem Encoded.atom32AddF32 (o : FmtT) : Encoded.Statement (.atom32AddF32 o) := by
  intro h n w he rest
  obtain ⟨rfl, rfl⟩ := Prod.mk.inj (Option.some.inj he)
  simp only [Instr.fits] at h
  have hd := h
  have r1 : bits (0x10000051 + encT o) 1 6 = 40 := (encT_facts 1 81 (by decide) (by decide) o).2.2.1
  have r2 : bits (0x10000051 + encT o) 28 4 = 1 := (encT_facts 1 81 (by decide) (by decide) o).2.2.2
  have hr : rowOf32 (0x10000051 + encT o) = some .atom32AddF32 := by
    rw [rowOf32_28 r1]
    simp [rowMajor28, r2]
  exact decode_word32 (r := .atom32AddF32) (i := .atom32AddF32 o) (encT_facts 1 81 (by decide) (by decide) o).2.1 (encT_facts 1 81 (by decide) (by decide) o).1 hr (show Instr.atom32AddF32 (decT _) = _ from congrArg Instr.atom32AddF32 (decT_back 1 81 (by decide) o hd)) rest

theorem Encoded.atom32MinI32 (o : FmtT) : Encoded.Statement (.atom32MinI32 o) := by
  intro h n w he rest
  obtain ⟨rfl, rfl⟩ := Prod.mk.inj (Option.some.inj he)
  simp only [Instr.fits] at h
  have hd := h
  have r1 : bits (0x20000051 + encT o) 1 6 = 40 := (encT_facts 2 81 (by decide) (by decide) o).2.2.1
  have r2 : bits (0x20000051 + encT o) 28 4 = 2 := (encT_facts 2 81 (by decide) (by decide) o).2.2.2
  have hr : rowOf32 (0x20000051 + encT o) = some .atom32MinI32 := by
    rw [rowOf32_28 r1]
    simp [rowMajor28, r2]
  exact decode_word32 (r := .atom32MinI32) (i := .atom32MinI32 o) (encT_facts 2 81 (by decide) (by decide) o).2.1 (encT_facts 2 81 (by decide) (by decide) o).1 hr (show Instr.atom32MinI32 (decT _) = _ from congrArg Instr.atom32MinI32 (decT_back 2 81 (by decide) o hd)) rest

theorem Encoded.atom32MinN32 (o : FmtT) : Encoded.Statement (.atom32MinN32 o) := by
  intro h n w he rest
  obtain ⟨rfl, rfl⟩ := Prod.mk.inj (Option.some.inj he)
  simp only [Instr.fits] at h
  have hd := h
  have r1 : bits (0x30000051 + encT o) 1 6 = 40 := (encT_facts 3 81 (by decide) (by decide) o).2.2.1
  have r2 : bits (0x30000051 + encT o) 28 4 = 3 := (encT_facts 3 81 (by decide) (by decide) o).2.2.2
  have hr : rowOf32 (0x30000051 + encT o) = some .atom32MinN32 := by
    rw [rowOf32_28 r1]
    simp [rowMajor28, r2]
  exact decode_word32 (r := .atom32MinN32) (i := .atom32MinN32 o) (encT_facts 3 81 (by decide) (by decide) o).2.1 (encT_facts 3 81 (by decide) (by decide) o).1 hr (show Instr.atom32MinN32 (decT _) = _ from congrArg Instr.atom32MinN32 (decT_back 3 81 (by decide) o hd)) rest

theorem Encoded.atom32MinF32 (o : FmtT) : Encoded.Statement (.atom32MinF32 o) := by
  intro h n w he rest
  obtain ⟨rfl, rfl⟩ := Prod.mk.inj (Option.some.inj he)
  simp only [Instr.fits] at h
  have hd := h
  have r1 : bits (0x40000051 + encT o) 1 6 = 40 := (encT_facts 4 81 (by decide) (by decide) o).2.2.1
  have r2 : bits (0x40000051 + encT o) 28 4 = 4 := (encT_facts 4 81 (by decide) (by decide) o).2.2.2
  have hr : rowOf32 (0x40000051 + encT o) = some .atom32MinF32 := by
    rw [rowOf32_28 r1]
    simp [rowMajor28, r2]
  exact decode_word32 (r := .atom32MinF32) (i := .atom32MinF32 o) (encT_facts 4 81 (by decide) (by decide) o).2.1 (encT_facts 4 81 (by decide) (by decide) o).1 hr (show Instr.atom32MinF32 (decT _) = _ from congrArg Instr.atom32MinF32 (decT_back 4 81 (by decide) o hd)) rest

theorem Encoded.atom32MaxI32 (o : FmtT) : Encoded.Statement (.atom32MaxI32 o) := by
  intro h n w he rest
  obtain ⟨rfl, rfl⟩ := Prod.mk.inj (Option.some.inj he)
  simp only [Instr.fits] at h
  have hd := h
  have r1 : bits (0x50000051 + encT o) 1 6 = 40 := (encT_facts 5 81 (by decide) (by decide) o).2.2.1
  have r2 : bits (0x50000051 + encT o) 28 4 = 5 := (encT_facts 5 81 (by decide) (by decide) o).2.2.2
  have hr : rowOf32 (0x50000051 + encT o) = some .atom32MaxI32 := by
    rw [rowOf32_28 r1]
    simp [rowMajor28, r2]
  exact decode_word32 (r := .atom32MaxI32) (i := .atom32MaxI32 o) (encT_facts 5 81 (by decide) (by decide) o).2.1 (encT_facts 5 81 (by decide) (by decide) o).1 hr (show Instr.atom32MaxI32 (decT _) = _ from congrArg Instr.atom32MaxI32 (decT_back 5 81 (by decide) o hd)) rest

theorem Encoded.atom32MaxN32 (o : FmtT) : Encoded.Statement (.atom32MaxN32 o) := by
  intro h n w he rest
  obtain ⟨rfl, rfl⟩ := Prod.mk.inj (Option.some.inj he)
  simp only [Instr.fits] at h
  have hd := h
  have r1 : bits (0x60000051 + encT o) 1 6 = 40 := (encT_facts 6 81 (by decide) (by decide) o).2.2.1
  have r2 : bits (0x60000051 + encT o) 28 4 = 6 := (encT_facts 6 81 (by decide) (by decide) o).2.2.2
  have hr : rowOf32 (0x60000051 + encT o) = some .atom32MaxN32 := by
    rw [rowOf32_28 r1]
    simp [rowMajor28, r2]
  exact decode_word32 (r := .atom32MaxN32) (i := .atom32MaxN32 o) (encT_facts 6 81 (by decide) (by decide) o).2.1 (encT_facts 6 81 (by decide) (by decide) o).1 hr (show Instr.atom32MaxN32 (decT _) = _ from congrArg Instr.atom32MaxN32 (decT_back 6 81 (by decide) o hd)) rest

theorem Encoded.atom32MaxF32 (o : FmtT) : Encoded.Statement (.atom32MaxF32 o) := by
  intro h n w he rest
  obtain ⟨rfl, rfl⟩ := Prod.mk.inj (Option.some.inj he)
  simp only [Instr.fits] at h
  have hd := h
  have r1 : bits (0x70000051 + encT o) 1 6 = 40 := (encT_facts 7 81 (by decide) (by decide) o).2.2.1
  have r2 : bits (0x70000051 + encT o) 28 4 = 7 := (encT_facts 7 81 (by decide) (by decide) o).2.2.2
  have hr : rowOf32 (0x70000051 + encT o) = some .atom32MaxF32 := by
    rw [rowOf32_28 r1]
    simp [rowMajor28, r2]
  exact decode_word32 (r := .atom32MaxF32) (i := .atom32MaxF32 o) (encT_facts 7 81 (by decide) (by decide) o).2.1 (encT_facts 7 81 (by decide) (by decide) o).1 hr (show Instr.atom32MaxF32 (decT _) = _ from congrArg Instr.atom32MaxF32 (decT_back 7 81 (by decide) o hd)) rest

theorem Encoded.atom32AndB32 (o : FmtT) : Encoded.Statement (.atom32AndB32 o) := by
  intro h n w he rest
  obtain ⟨rfl, rfl⟩ := Prod.mk.inj (Option.some.inj he)
  simp only [Instr.fits] at h
  have hd := h
  have r1 : bits (0x80000051 + encT o) 1 6 = 40 := (encT_facts 8 81 (by decide) (by decide) o).2.2.1
  have r2 : bits (0x80000051 + encT o) 28 4 = 8 := (encT_facts 8 81 (by decide) (by decide) o).2.2.2
  have hr : rowOf32 (0x80000051 + encT o) = some .atom32AndB32 := by
    rw [rowOf32_28 r1]
    simp [rowMajor28, r2]
  exact decode_word32 (r := .atom32AndB32) (i := .atom32AndB32 o) (encT_facts 8 81 (by decide) (by decide) o).2.1 (encT_facts 8 81 (by decide) (by decide) o).1 hr (show Instr.atom32AndB32 (decT _) = _ from congrArg Instr.atom32AndB32 (decT_back 8 81 (by decide) o hd)) rest

theorem Encoded.atom32OrB32 (o : FmtT) : Encoded.Statement (.atom32OrB32 o) := by
  intro h n w he rest
  obtain ⟨rfl, rfl⟩ := Prod.mk.inj (Option.some.inj he)
  simp only [Instr.fits] at h
  have hd := h
  have r1 : bits (0x90000051 + encT o) 1 6 = 40 := (encT_facts 9 81 (by decide) (by decide) o).2.2.1
  have r2 : bits (0x90000051 + encT o) 28 4 = 9 := (encT_facts 9 81 (by decide) (by decide) o).2.2.2
  have hr : rowOf32 (0x90000051 + encT o) = some .atom32OrB32 := by
    rw [rowOf32_28 r1]
    simp [rowMajor28, r2]
  exact decode_word32 (r := .atom32OrB32) (i := .atom32OrB32 o) (encT_facts 9 81 (by decide) (by decide) o).2.1 (encT_facts 9 81 (by decide) (by decide) o).1 hr (show Instr.atom32OrB32 (decT _) = _ from congrArg Instr.atom32OrB32 (decT_back 9 81 (by decide) o hd)) rest

theorem Encoded.atom32XorB32 (o : FmtT) : Encoded.Statement (.atom32XorB32 o) := by
  intro h n w he rest
  obtain ⟨rfl, rfl⟩ := Prod.mk.inj (Option.some.inj he)
  simp only [Instr.fits] at h
  have hd := h
  have r1 : bits (0xA0000051 + encT o) 1 6 = 40 := (encT_facts 10 81 (by decide) (by decide) o).2.2.1
  have r2 : bits (0xA0000051 + encT o) 28 4 = 10 := (encT_facts 10 81 (by decide) (by decide) o).2.2.2
  have hr : rowOf32 (0xA0000051 + encT o) = some .atom32XorB32 := by
    rw [rowOf32_28 r1]
    simp [rowMajor28, r2]
  exact decode_word32 (r := .atom32XorB32) (i := .atom32XorB32 o) (encT_facts 10 81 (by decide) (by decide) o).2.1 (encT_facts 10 81 (by decide) (by decide) o).1 hr (show Instr.atom32XorB32 (decT _) = _ from congrArg Instr.atom32XorB32 (decT_back 10 81 (by decide) o hd)) rest

theorem Encoded.atom32ExchB32 (o : FmtT) : Encoded.Statement (.atom32ExchB32 o) := by
  intro h n w he rest
  obtain ⟨rfl, rfl⟩ := Prod.mk.inj (Option.some.inj he)
  simp only [Instr.fits] at h
  have hd := h
  have r1 : bits (0xB0000051 + encT o) 1 6 = 40 := (encT_facts 11 81 (by decide) (by decide) o).2.2.1
  have r2 : bits (0xB0000051 + encT o) 28 4 = 11 := (encT_facts 11 81 (by decide) (by decide) o).2.2.2
  have hr : rowOf32 (0xB0000051 + encT o) = some .atom32ExchB32 := by
    rw [rowOf32_28 r1]
    simp [rowMajor28, r2]
  exact decode_word32 (r := .atom32ExchB32) (i := .atom32ExchB32 o) (encT_facts 11 81 (by decide) (by decide) o).2.1 (encT_facts 11 81 (by decide) (by decide) o).1 hr (show Instr.atom32ExchB32 (decT _) = _ from congrArg Instr.atom32ExchB32 (decT_back 11 81 (by decide) o hd)) rest

theorem Encoded.atom32CasB32 (o : FmtT) : Encoded.Statement (.atom32CasB32 o) := by
  intro h n w he rest
  obtain ⟨rfl, rfl⟩ := Prod.mk.inj (Option.some.inj he)
  simp only [Instr.fits] at h
  have hd := h
  have r1 : bits (0xC0000051 + encT o) 1 6 = 40 := (encT_facts 12 81 (by decide) (by decide) o).2.2.1
  have r2 : bits (0xC0000051 + encT o) 28 4 = 12 := (encT_facts 12 81 (by decide) (by decide) o).2.2.2
  have hr : rowOf32 (0xC0000051 + encT o) = some .atom32CasB32 := by
    rw [rowOf32_28 r1]
    simp [rowMajor28, r2]
  exact decode_word32 (r := .atom32CasB32) (i := .atom32CasB32 o) (encT_facts 12 81 (by decide) (by decide) o).2.1 (encT_facts 12 81 (by decide) (by decide) o).1 hr (show Instr.atom32CasB32 (decT _) = _ from congrArg Instr.atom32CasB32 (decT_back 12 81 (by decide) o hd)) rest

theorem Encoded.atom64AddI64 (o : FmtT) : Encoded.Statement (.atom64AddI64 o) := by
  intro h n w he rest
  obtain ⟨rfl, rfl⟩ := Prod.mk.inj (Option.some.inj he)
  simp only [Instr.fits] at h
  have hd := h
  have r1 : bits (0x00000053 + encT o) 1 6 = 41 := (encT_facts 0 83 (by decide) (by decide) o).2.2.1
  have r2 : bits (0x00000053 + encT o) 28 4 = 0 := (encT_facts 0 83 (by decide) (by decide) o).2.2.2
  have hr : rowOf32 (0x00000053 + encT o) = some .atom64AddI64 := by
    rw [rowOf32_29 r1]
    simp [rowMajor29, r2]
  exact decode_word32 (r := .atom64AddI64) (i := .atom64AddI64 o) (encT_facts 0 83 (by decide) (by decide) o).2.1 (encT_facts 0 83 (by decide) (by decide) o).1 hr (show Instr.atom64AddI64 (decT _) = _ from congrArg Instr.atom64AddI64 (decT_back 0 83 (by decide) o hd)) rest

theorem Encoded.atom64AddF64 (o : FmtT) : Encoded.Statement (.atom64AddF64 o) := by
  intro h n w he rest
  obtain ⟨rfl, rfl⟩ := Prod.mk.inj (Option.some.inj he)
  simp only [Instr.fits] at h
  have hd := h
  have r1 : bits (0x10000053 + encT o) 1 6 = 41 := (encT_facts 1 83 (by decide) (by decide) o).2.2.1
  have r2 : bits (0x10000053 + encT o) 28 4 = 1 := (encT_facts 1 83 (by decide) (by decide) o).2.2.2
  have hr : rowOf32 (0x10000053 + encT o) = some .atom64AddF64 := by
    rw [rowOf32_29 r1]
    simp [rowMajor29, r2]
  exact decode_word32 (r := .atom64AddF64) (i := .atom64AddF64 o) (encT_facts 1 83 (by decide) (by decide) o).2.1 (encT_facts 1 83 (by decide) (by decide) o).1 hr (show Instr.atom64AddF64 (decT _) = _ from congrArg Instr.atom64AddF64 (decT_back 1 83 (by decide) o hd)) rest

theorem Encoded.atom64MinI64 (o : FmtT) : Encoded.Statement (.atom64MinI64 o) := by
  intro h n w he rest
  obtain ⟨rfl, rfl⟩ := Prod.mk.inj (Option.some.inj he)
  simp only [Instr.fits] at h
  have hd := h
  have r1 : bits (0x20000053 + encT o) 1 6 = 41 := (encT_facts 2 83 (by decide) (by decide) o).2.2.1
  have r2 : bits (0x20000053 + encT o) 28 4 = 2 := (encT_facts 2 83 (by decide) (by decide) o).2.2.2
  have hr : rowOf32 (0x20000053 + encT o) = some .atom64MinI64 := by
    rw [rowOf32_29 r1]
    simp [rowMajor29, r2]
  exact decode_word32 (r := .atom64MinI64) (i := .atom64MinI64 o) (encT_facts 2 83 (by decide) (by decide) o).2.1 (encT_facts 2 83 (by decide) (by decide) o).1 hr (show Instr.atom64MinI64 (decT _) = _ from congrArg Instr.atom64MinI64 (decT_back 2 83 (by decide) o hd)) rest

theorem Encoded.atom64MinN64 (o : FmtT) : Encoded.Statement (.atom64MinN64 o) := by
  intro h n w he rest
  obtain ⟨rfl, rfl⟩ := Prod.mk.inj (Option.some.inj he)
  simp only [Instr.fits] at h
  have hd := h
  have r1 : bits (0x30000053 + encT o) 1 6 = 41 := (encT_facts 3 83 (by decide) (by decide) o).2.2.1
  have r2 : bits (0x30000053 + encT o) 28 4 = 3 := (encT_facts 3 83 (by decide) (by decide) o).2.2.2
  have hr : rowOf32 (0x30000053 + encT o) = some .atom64MinN64 := by
    rw [rowOf32_29 r1]
    simp [rowMajor29, r2]
  exact decode_word32 (r := .atom64MinN64) (i := .atom64MinN64 o) (encT_facts 3 83 (by decide) (by decide) o).2.1 (encT_facts 3 83 (by decide) (by decide) o).1 hr (show Instr.atom64MinN64 (decT _) = _ from congrArg Instr.atom64MinN64 (decT_back 3 83 (by decide) o hd)) rest

theorem Encoded.atom64MinF64 (o : FmtT) : Encoded.Statement (.atom64MinF64 o) := by
  intro h n w he rest
  obtain ⟨rfl, rfl⟩ := Prod.mk.inj (Option.some.inj he)
  simp only [Instr.fits] at h
  have hd := h
  have r1 : bits (0x40000053 + encT o) 1 6 = 41 := (encT_facts 4 83 (by decide) (by decide) o).2.2.1
  have r2 : bits (0x40000053 + encT o) 28 4 = 4 := (encT_facts 4 83 (by decide) (by decide) o).2.2.2
  have hr : rowOf32 (0x40000053 + encT o) = some .atom64MinF64 := by
    rw [rowOf32_29 r1]
    simp [rowMajor29, r2]
  exact decode_word32 (r := .atom64MinF64) (i := .atom64MinF64 o) (encT_facts 4 83 (by decide) (by decide) o).2.1 (encT_facts 4 83 (by decide) (by decide) o).1 hr (show Instr.atom64MinF64 (decT _) = _ from congrArg Instr.atom64MinF64 (decT_back 4 83 (by decide) o hd)) rest

theorem Encoded.atom64MaxI64 (o : FmtT) : Encoded.Statement (.atom64MaxI64 o) := by
  intro h n w he rest
  obtain ⟨rfl, rfl⟩ := Prod.mk.inj (Option.some.inj he)
  simp only [Instr.fits] at h
  have hd := h
  have r1 : bits (0x50000053 + encT o) 1 6 = 41 := (encT_facts 5 83 (by decide) (by decide) o).2.2.1
  have r2 : bits (0x50000053 + encT o) 28 4 = 5 := (encT_facts 5 83 (by decide) (by decide) o).2.2.2
  have hr : rowOf32 (0x50000053 + encT o) = some .atom64MaxI64 := by
    rw [rowOf32_29 r1]
    simp [rowMajor29, r2]
  exact decode_word32 (r := .atom64MaxI64) (i := .atom64MaxI64 o) (encT_facts 5 83 (by decide) (by decide) o).2.1 (encT_facts 5 83 (by decide) (by decide) o).1 hr (show Instr.atom64MaxI64 (decT _) = _ from congrArg Instr.atom64MaxI64 (decT_back 5 83 (by decide) o hd)) rest

theorem Encoded.atom64MaxN64 (o : FmtT) : Encoded.Statement (.atom64MaxN64 o) := by
  intro h n w he rest
  obtain ⟨rfl, rfl⟩ := Prod.mk.inj (Option.some.inj he)
  simp only [Instr.fits] at h
  have hd := h
  have r1 : bits (0x60000053 + encT o) 1 6 = 41 := (encT_facts 6 83 (by decide) (by decide) o).2.2.1
  have r2 : bits (0x60000053 + encT o) 28 4 = 6 := (encT_facts 6 83 (by decide) (by decide) o).2.2.2
  have hr : rowOf32 (0x60000053 + encT o) = some .atom64MaxN64 := by
    rw [rowOf32_29 r1]
    simp [rowMajor29, r2]
  exact decode_word32 (r := .atom64MaxN64) (i := .atom64MaxN64 o) (encT_facts 6 83 (by decide) (by decide) o).2.1 (encT_facts 6 83 (by decide) (by decide) o).1 hr (show Instr.atom64MaxN64 (decT _) = _ from congrArg Instr.atom64MaxN64 (decT_back 6 83 (by decide) o hd)) rest

theorem Encoded.atom64MaxF64 (o : FmtT) : Encoded.Statement (.atom64MaxF64 o) := by
  intro h n w he rest
  obtain ⟨rfl, rfl⟩ := Prod.mk.inj (Option.some.inj he)
  simp only [Instr.fits] at h
  have hd := h
  have r1 : bits (0x70000053 + encT o) 1 6 = 41 := (encT_facts 7 83 (by decide) (by decide) o).2.2.1
  have r2 : bits (0x70000053 + encT o) 28 4 = 7 := (encT_facts 7 83 (by decide) (by decide) o).2.2.2
  have hr : rowOf32 (0x70000053 + encT o) = some .atom64MaxF64 := by
    rw [rowOf32_29 r1]
    simp [rowMajor29, r2]
  exact decode_word32 (r := .atom64MaxF64) (i := .atom64MaxF64 o) (encT_facts 7 83 (by decide) (by decide) o).2.1 (encT_facts 7 83 (by decide) (by decide) o).1 hr (show Instr.atom64MaxF64 (decT _) = _ from congrArg Instr.atom64MaxF64 (decT_back 7 83 (by decide) o hd)) rest

theorem Encoded.atom64AndB64 (o : FmtT) : Encoded.Statement (.atom64AndB64 o) := by
  intro h n w he rest
  obtain ⟨rfl, rfl⟩ := Prod.mk.inj (Option.some.inj he)
  simp only [Instr.fits] at h
  have hd := h
  have r1 : bits (0x80000053 + encT o) 1 6 = 41 := (encT_facts 8 83 (by decide) (by decide) o).2.2.1
  have r2 : bits (0x80000053 + encT o) 28 4 = 8 := (encT_facts 8 83 (by decide) (by decide) o).2.2.2
  have hr : rowOf32 (0x80000053 + encT o) = some .atom64AndB64 := by
    rw [rowOf32_29 r1]
    simp [rowMajor29, r2]
  exact decode_word32 (r := .atom64AndB64) (i := .atom64AndB64 o) (encT_facts 8 83 (by decide) (by decide) o).2.1 (encT_facts 8 83 (by decide) (by decide) o).1 hr (show Instr.atom64AndB64 (decT _) = _ from congrArg Instr.atom64AndB64 (decT_back 8 83 (by decide) o hd)) rest

theorem Encoded.atom64OrB64 (o : FmtT) : Encoded.Statement (.atom64OrB64 o) := by
  intro h n w he rest
  obtain ⟨rfl, rfl⟩ := Prod.mk.inj (Option.some.inj he)
  simp only [Instr.fits] at h
  have hd := h
  have r1 : bits (0x90000053 + encT o) 1 6 = 41 := (encT_facts 9 83 (by decide) (by decide) o).2.2.1
  have r2 : bits (0x90000053 + encT o) 28 4 = 9 := (encT_facts 9 83 (by decide) (by decide) o).2.2.2
  have hr : rowOf32 (0x90000053 + encT o) = some .atom64OrB64 := by
    rw [rowOf32_29 r1]
    simp [rowMajor29, r2]
  exact decode_word32 (r := .atom64OrB64) (i := .atom64OrB64 o) (encT_facts 9 83 (by decide) (by decide) o).2.1 (encT_facts 9 83 (by decide) (by decide) o).1 hr (show Instr.atom64OrB64 (decT _) = _ from congrArg Instr.atom64OrB64 (decT_back 9 83 (by decide) o hd)) rest

theorem Encoded.atom64XorB64 (o : FmtT) : Encoded.Statement (.atom64XorB64 o) := by
  intro h n w he rest
  obtain ⟨rfl, rfl⟩ := Prod.mk.inj (Option.some.inj he)
  simp only [Instr.fits] at h
  have hd := h
  have r1 : bits (0xA0000053 + encT o) 1 6 = 41 := (encT_facts 10 83 (by decide) (by decide) o).2.2.1
  have r2 : bits (0xA0000053 + encT o) 28 4 = 10 := (encT_facts 10 83 (by decide) (by decide) o).2.2.2
  have hr : rowOf32 (0xA0000053 + encT o) = some .atom64XorB64 := by
    rw [rowOf32_29 r1]
    simp [rowMajor29, r2]
  exact decode_word32 (r := .atom64XorB64) (i := .atom64XorB64 o) (encT_facts 10 83 (by decide) (by decide) o).2.1 (encT_facts 10 83 (by decide) (by decide) o).1 hr (show Instr.atom64XorB64 (decT _) = _ from congrArg Instr.atom64XorB64 (decT_back 10 83 (by decide) o hd)) rest

theorem Encoded.atom64ExchB64 (o : FmtT) : Encoded.Statement (.atom64ExchB64 o) := by
  intro h n w he rest
  obtain ⟨rfl, rfl⟩ := Prod.mk.inj (Option.some.inj he)
  simp only [Instr.fits] at h
  have hd := h
  have r1 : bits (0xB0000053 + encT o) 1 6 = 41 := (encT_facts 11 83 (by decide) (by decide) o).2.2.1
  have r2 : bits (0xB0000053 + encT o) 28 4 = 11 := (encT_facts 11 83 (by decide) (by decide) o).2.2.2
  have hr : rowOf32 (0xB0000053 + encT o) = some .atom64ExchB64 := by
    rw [rowOf32_29 r1]
    simp [rowMajor29, r2]
  exact decode_word32 (r := .atom64ExchB64) (i := .atom64ExchB64 o) (encT_facts 11 83 (by decide) (by decide) o).2.1 (encT_facts 11 83 (by decide) (by decide) o).1 hr (show Instr.atom64ExchB64 (decT _) = _ from congrArg Instr.atom64ExchB64 (decT_back 11 83 (by decide) o hd)) rest

theorem Encoded.atom64CasB64 (o : FmtT) : Encoded.Statement (.atom64CasB64 o) := by
  intro h n w he rest
  obtain ⟨rfl, rfl⟩ := Prod.mk.inj (Option.some.inj he)
  simp only [Instr.fits] at h
  have hd := h
  have r1 : bits (0xC0000053 + encT o) 1 6 = 41 := (encT_facts 12 83 (by decide) (by decide) o).2.2.1
  have r2 : bits (0xC0000053 + encT o) 28 4 = 12 := (encT_facts 12 83 (by decide) (by decide) o).2.2.2
  have hr : rowOf32 (0xC0000053 + encT o) = some .atom64CasB64 := by
    rw [rowOf32_29 r1]
    simp [rowMajor29, r2]
  exact decode_word32 (r := .atom64CasB64) (i := .atom64CasB64 o) (encT_facts 12 83 (by decide) (by decide) o).2.1 (encT_facts 12 83 (by decide) (by decide) o).1 hr (show Instr.atom64CasB64 (decT _) = _ from congrArg Instr.atom64CasB64 (decT_back 12 83 (by decide) o hd)) rest

theorem Encoded.atomxAddBf16 (o : FmtT) : Encoded.Statement (.atomxAddBf16 o) := by
  intro h n w he rest
  obtain ⟨rfl, rfl⟩ := Prod.mk.inj (Option.some.inj he)
  simp only [Instr.fits] at h
  have hd := h
  have r1 : bits (0x00000055 + encT o) 1 6 = 42 := (encT_facts 0 85 (by decide) (by decide) o).2.2.1
  have r2 : bits (0x00000055 + encT o) 28 4 = 0 := (encT_facts 0 85 (by decide) (by decide) o).2.2.2
  have hr : rowOf32 (0x00000055 + encT o) = some .atomxAddBf16 := by
    rw [rowOf32_2A r1]
    simp [rowMajor2A, r2]
  exact decode_word32 (r := .atomxAddBf16) (i := .atomxAddBf16 o) (encT_facts 0 85 (by decide) (by decide) o).2.1 (encT_facts 0 85 (by decide) (by decide) o).1 hr (show Instr.atomxAddBf16 (decT _) = _ from congrArg Instr.atomxAddBf16 (decT_back 0 85 (by decide) o hd)) rest

theorem Encoded.atomxMinBf16 (o : FmtT) : Encoded.Statement (.atomxMinBf16 o) := by
  intro h n w he rest
  obtain ⟨rfl, rfl⟩ := Prod.mk.inj (Option.some.inj he)
  simp only [Instr.fits] at h
  have hd := h
  have r1 : bits (0x10000055 + encT o) 1 6 = 42 := (encT_facts 1 85 (by decide) (by decide) o).2.2.1
  have r2 : bits (0x10000055 + encT o) 28 4 = 1 := (encT_facts 1 85 (by decide) (by decide) o).2.2.2
  have hr : rowOf32 (0x10000055 + encT o) = some .atomxMinBf16 := by
    rw [rowOf32_2A r1]
    simp [rowMajor2A, r2]
  exact decode_word32 (r := .atomxMinBf16) (i := .atomxMinBf16 o) (encT_facts 1 85 (by decide) (by decide) o).2.1 (encT_facts 1 85 (by decide) (by decide) o).1 hr (show Instr.atomxMinBf16 (decT _) = _ from congrArg Instr.atomxMinBf16 (decT_back 1 85 (by decide) o hd)) rest

theorem Encoded.atomxMaxBf16 (o : FmtT) : Encoded.Statement (.atomxMaxBf16 o) := by
  intro h n w he rest
  obtain ⟨rfl, rfl⟩ := Prod.mk.inj (Option.some.inj he)
  simp only [Instr.fits] at h
  have hd := h
  have r1 : bits (0x20000055 + encT o) 1 6 = 42 := (encT_facts 2 85 (by decide) (by decide) o).2.2.1
  have r2 : bits (0x20000055 + encT o) 28 4 = 2 := (encT_facts 2 85 (by decide) (by decide) o).2.2.2
  have hr : rowOf32 (0x20000055 + encT o) = some .atomxMaxBf16 := by
    rw [rowOf32_2A r1]
    simp [rowMajor2A, r2]
  exact decode_word32 (r := .atomxMaxBf16) (i := .atomxMaxBf16 o) (encT_facts 2 85 (by decide) (by decide) o).2.1 (encT_facts 2 85 (by decide) (by decide) o).1 hr (show Instr.atomxMaxBf16 (decT _) = _ from congrArg Instr.atomxMaxBf16 (decT_back 2 85 (by decide) o hd)) rest

theorem Encoded.atomxAddBf16x2 (o : FmtT) : Encoded.Statement (.atomxAddBf16x2 o) := by
  intro h n w he rest
  obtain ⟨rfl, rfl⟩ := Prod.mk.inj (Option.some.inj he)
  simp only [Instr.fits] at h
  have hd := h
  have r1 : bits (0x30000055 + encT o) 1 6 = 42 := (encT_facts 3 85 (by decide) (by decide) o).2.2.1
  have r2 : bits (0x30000055 + encT o) 28 4 = 3 := (encT_facts 3 85 (by decide) (by decide) o).2.2.2
  have hr : rowOf32 (0x30000055 + encT o) = some .atomxAddBf16x2 := by
    rw [rowOf32_2A r1]
    simp [rowMajor2A, r2]
  exact decode_word32 (r := .atomxAddBf16x2) (i := .atomxAddBf16x2 o) (encT_facts 3 85 (by decide) (by decide) o).2.1 (encT_facts 3 85 (by decide) (by decide) o).1 hr (show Instr.atomxAddBf16x2 (decT _) = _ from congrArg Instr.atomxAddBf16x2 (decT_back 3 85 (by decide) o hd)) rest

theorem Encoded.atomxMinBf16x2 (o : FmtT) : Encoded.Statement (.atomxMinBf16x2 o) := by
  intro h n w he rest
  obtain ⟨rfl, rfl⟩ := Prod.mk.inj (Option.some.inj he)
  simp only [Instr.fits] at h
  have hd := h
  have r1 : bits (0x40000055 + encT o) 1 6 = 42 := (encT_facts 4 85 (by decide) (by decide) o).2.2.1
  have r2 : bits (0x40000055 + encT o) 28 4 = 4 := (encT_facts 4 85 (by decide) (by decide) o).2.2.2
  have hr : rowOf32 (0x40000055 + encT o) = some .atomxMinBf16x2 := by
    rw [rowOf32_2A r1]
    simp [rowMajor2A, r2]
  exact decode_word32 (r := .atomxMinBf16x2) (i := .atomxMinBf16x2 o) (encT_facts 4 85 (by decide) (by decide) o).2.1 (encT_facts 4 85 (by decide) (by decide) o).1 hr (show Instr.atomxMinBf16x2 (decT _) = _ from congrArg Instr.atomxMinBf16x2 (decT_back 4 85 (by decide) o hd)) rest

theorem Encoded.atomxMaxBf16x2 (o : FmtT) : Encoded.Statement (.atomxMaxBf16x2 o) := by
  intro h n w he rest
  obtain ⟨rfl, rfl⟩ := Prod.mk.inj (Option.some.inj he)
  simp only [Instr.fits] at h
  have hd := h
  have r1 : bits (0x50000055 + encT o) 1 6 = 42 := (encT_facts 5 85 (by decide) (by decide) o).2.2.1
  have r2 : bits (0x50000055 + encT o) 28 4 = 5 := (encT_facts 5 85 (by decide) (by decide) o).2.2.2
  have hr : rowOf32 (0x50000055 + encT o) = some .atomxMaxBf16x2 := by
    rw [rowOf32_2A r1]
    simp [rowMajor2A, r2]
  exact decode_word32 (r := .atomxMaxBf16x2) (i := .atomxMaxBf16x2 o) (encT_facts 5 85 (by decide) (by decide) o).2.1 (encT_facts 5 85 (by decide) (by decide) o).1 hr (show Instr.atomxMaxBf16x2 (decT _) = _ from congrArg Instr.atomxMaxBf16x2 (decT_back 5 85 (by decide) o hd)) rest

theorem Encoded.atomxAddF16x2 (o : FmtT) : Encoded.Statement (.atomxAddF16x2 o) := by
  intro h n w he rest
  obtain ⟨rfl, rfl⟩ := Prod.mk.inj (Option.some.inj he)
  simp only [Instr.fits] at h
  have hd := h
  have r1 : bits (0x60000055 + encT o) 1 6 = 42 := (encT_facts 6 85 (by decide) (by decide) o).2.2.1
  have r2 : bits (0x60000055 + encT o) 28 4 = 6 := (encT_facts 6 85 (by decide) (by decide) o).2.2.2
  have hr : rowOf32 (0x60000055 + encT o) = some .atomxAddF16x2 := by
    rw [rowOf32_2A r1]
    simp [rowMajor2A, r2]
  exact decode_word32 (r := .atomxAddF16x2) (i := .atomxAddF16x2 o) (encT_facts 6 85 (by decide) (by decide) o).2.1 (encT_facts 6 85 (by decide) (by decide) o).1 hr (show Instr.atomxAddF16x2 (decT _) = _ from congrArg Instr.atomxAddF16x2 (decT_back 6 85 (by decide) o hd)) rest

theorem Encoded.atomxMinF16x2 (o : FmtT) : Encoded.Statement (.atomxMinF16x2 o) := by
  intro h n w he rest
  obtain ⟨rfl, rfl⟩ := Prod.mk.inj (Option.some.inj he)
  simp only [Instr.fits] at h
  have hd := h
  have r1 : bits (0x70000055 + encT o) 1 6 = 42 := (encT_facts 7 85 (by decide) (by decide) o).2.2.1
  have r2 : bits (0x70000055 + encT o) 28 4 = 7 := (encT_facts 7 85 (by decide) (by decide) o).2.2.2
  have hr : rowOf32 (0x70000055 + encT o) = some .atomxMinF16x2 := by
    rw [rowOf32_2A r1]
    simp [rowMajor2A, r2]
  exact decode_word32 (r := .atomxMinF16x2) (i := .atomxMinF16x2 o) (encT_facts 7 85 (by decide) (by decide) o).2.1 (encT_facts 7 85 (by decide) (by decide) o).1 hr (show Instr.atomxMinF16x2 (decT _) = _ from congrArg Instr.atomxMinF16x2 (decT_back 7 85 (by decide) o hd)) rest

theorem Encoded.atomxMaxF16x2 (o : FmtT) : Encoded.Statement (.atomxMaxF16x2 o) := by
  intro h n w he rest
  obtain ⟨rfl, rfl⟩ := Prod.mk.inj (Option.some.inj he)
  simp only [Instr.fits] at h
  have hd := h
  have r1 : bits (0x80000055 + encT o) 1 6 = 42 := (encT_facts 8 85 (by decide) (by decide) o).2.2.1
  have r2 : bits (0x80000055 + encT o) 28 4 = 8 := (encT_facts 8 85 (by decide) (by decide) o).2.2.2
  have hr : rowOf32 (0x80000055 + encT o) = some .atomxMaxF16x2 := by
    rw [rowOf32_2A r1]
    simp [rowMajor2A, r2]
  exact decode_word32 (r := .atomxMaxF16x2) (i := .atomxMaxF16x2 o) (encT_facts 8 85 (by decide) (by decide) o).2.1 (encT_facts 8 85 (by decide) (by decide) o).1 hr (show Instr.atomxMaxF16x2 (decT _) = _ from congrArg Instr.atomxMaxF16x2 (decT_back 8 85 (by decide) o hd)) rest

theorem Encoded.atomxExchB128 (o : FmtT) : Encoded.Statement (.atomxExchB128 o) := by
  intro h n w he rest
  obtain ⟨rfl, rfl⟩ := Prod.mk.inj (Option.some.inj he)
  simp only [Instr.fits] at h
  have hd := h
  have r1 : bits (0x90000055 + encT o) 1 6 = 42 := (encT_facts 9 85 (by decide) (by decide) o).2.2.1
  have r2 : bits (0x90000055 + encT o) 28 4 = 9 := (encT_facts 9 85 (by decide) (by decide) o).2.2.2
  have hr : rowOf32 (0x90000055 + encT o) = some .atomxExchB128 := by
    rw [rowOf32_2A r1]
    simp [rowMajor2A, r2]
  exact decode_word32 (r := .atomxExchB128) (i := .atomxExchB128 o) (encT_facts 9 85 (by decide) (by decide) o).2.1 (encT_facts 9 85 (by decide) (by decide) o).1 hr (show Instr.atomxExchB128 (decT _) = _ from congrArg Instr.atomxExchB128 (decT_back 9 85 (by decide) o hd)) rest

theorem Encoded.atomxCasB128 (o : FmtT) : Encoded.Statement (.atomxCasB128 o) := by
  intro h n w he rest
  obtain ⟨rfl, rfl⟩ := Prod.mk.inj (Option.some.inj he)
  simp only [Instr.fits] at h
  have hd := h
  have r1 : bits (0xA0000055 + encT o) 1 6 = 42 := (encT_facts 10 85 (by decide) (by decide) o).2.2.1
  have r2 : bits (0xA0000055 + encT o) 28 4 = 10 := (encT_facts 10 85 (by decide) (by decide) o).2.2.2
  have hr : rowOf32 (0xA0000055 + encT o) = some .atomxCasB128 := by
    rw [rowOf32_2A r1]
    simp [rowMajor2A, r2]
  exact decode_word32 (r := .atomxCasB128) (i := .atomxCasB128 o) (encT_facts 10 85 (by decide) (by decide) o).2.1 (encT_facts 10 85 (by decide) (by decide) o).1 hr (show Instr.atomxCasB128 (decT _) = _ from congrArg Instr.atomxCasB128 (decT_back 10 85 (by decide) o hd)) rest

theorem Encoded.pin (o : FmtN) : Encoded.Statement (.pin o) := by
  intro h n w he rest
  obtain ⟨rfl, rfl⟩ := Prod.mk.inj (Option.some.inj he)
  simp only [Instr.fits] at h
  have hd := h
  have r1 : bits (0x00000057 + encN o) 1 6 = 43 := (encN_facts 0 87 (by decide) (by decide) o).2.2.1
  have r2 : bits (0x00000057 + encN o) 25 7 = 0 := (encN_facts 0 87 (by decide) (by decide) o).2.2.2
  have hr : rowOf32 (0x00000057 + encN o) = some .pin := by
    rw [rowOf32_2B r1]
    simp [rowMajor2B, r2]
  exact decode_word32 (r := .pin) (i := .pin o) (encN_facts 0 87 (by decide) (by decide) o).2.1 (encN_facts 0 87 (by decide) (by decide) o).1 hr (show Instr.pin (decN _) = _ from congrArg Instr.pin (decN_back 0 87 (by decide) o hd)) rest

theorem Encoded.unpin (o : FmtNA) : Encoded.Statement (.unpin o) := by
  intro h n w he rest
  obtain ⟨rfl, rfl⟩ := Prod.mk.inj (Option.some.inj he)
  simp only [Instr.fits] at h
  have r1 : bits (0x02000057 + encNA o) 1 6 = 43 := (encNA_facts 1 87 (by decide) (by decide) o).2.2.1
  have r2 : bits (0x02000057 + encNA o) 25 7 = 1 := (encNA_facts 1 87 (by decide) (by decide) o).2.2.2.1
  have r3 : bits (0x02000057 + encNA o) 11 7 = 0 := (encNA_facts 1 87 (by decide) (by decide) o).2.2.2.2
  have hr : rowOf32 (0x02000057 + encNA o) = some .unpin := by
    rw [rowOf32_2B r1]
    simp [rowMajor2B, r2, r3]
  exact decode_word32 (r := .unpin) (i := .unpin o) (encNA_facts 1 87 (by decide) (by decide) o).2.1 (encNA_facts 1 87 (by decide) (by decide) o).1 hr (show Instr.unpin (decNA _) = _ from congrArg Instr.unpin (decNA_back 1 87 (by decide) o)) rest

theorem Encoded.cflush (o : FmtNA) : Encoded.Statement (.cflush o) := by
  intro h n w he rest
  obtain ⟨rfl, rfl⟩ := Prod.mk.inj (Option.some.inj he)
  simp only [Instr.fits] at h
  have r1 : bits (0x04000057 + encNA o) 1 6 = 43 := (encNA_facts 2 87 (by decide) (by decide) o).2.2.1
  have r2 : bits (0x04000057 + encNA o) 25 7 = 2 := (encNA_facts 2 87 (by decide) (by decide) o).2.2.2.1
  have r3 : bits (0x04000057 + encNA o) 11 7 = 0 := (encNA_facts 2 87 (by decide) (by decide) o).2.2.2.2
  have hr : rowOf32 (0x04000057 + encNA o) = some .cflush := by
    rw [rowOf32_2B r1]
    simp [rowMajor2B, r2, r3]
  exact decode_word32 (r := .cflush) (i := .cflush o) (encNA_facts 2 87 (by decide) (by decide) o).2.1 (encNA_facts 2 87 (by decide) (by decide) o).1 hr (show Instr.cflush (decNA _) = _ from congrArg Instr.cflush (decNA_back 2 87 (by decide) o)) rest

theorem Encoded.cinv (o : FmtNA) : Encoded.Statement (.cinv o) := by
  intro h n w he rest
  obtain ⟨rfl, rfl⟩ := Prod.mk.inj (Option.some.inj he)
  simp only [Instr.fits] at h
  have r1 : bits (0x06000057 + encNA o) 1 6 = 43 := (encNA_facts 3 87 (by decide) (by decide) o).2.2.1
  have r2 : bits (0x06000057 + encNA o) 25 7 = 3 := (encNA_facts 3 87 (by decide) (by decide) o).2.2.2.1
  have r3 : bits (0x06000057 + encNA o) 11 7 = 0 := (encNA_facts 3 87 (by decide) (by decide) o).2.2.2.2
  have hr : rowOf32 (0x06000057 + encNA o) = some .cinv := by
    rw [rowOf32_2B r1]
    simp [rowMajor2B, r2, r3]
  exact decode_word32 (r := .cinv) (i := .cinv o) (encNA_facts 3 87 (by decide) (by decide) o).2.1 (encNA_facts 3 87 (by decide) (by decide) o).1 hr (show Instr.cinv (decNA _) = _ from congrArg Instr.cinv (decNA_back 3 87 (by decide) o)) rest

theorem Encoded.mcrd (o : FmtE) : Encoded.Statement (.mcrd o) := by
  intro h n w he rest
  obtain ⟨rfl, rfl⟩ := Prod.mk.inj (Option.some.inj he)
  simp only [Instr.fits] at h
  have ha := h
  have r1 : bits (0x08000057 + encE o) 1 6 = 43 := (encE_facts 4 87 (by decide) (by decide) o).2.2.1
  have r2 : bits (0x08000057 + encE o) 25 7 = 4 := (encE_facts 4 87 (by decide) (by decide) o).2.2.2.1
  have r3 : bits (0x08000057 + encE o) 15 3 = 0 := (encE_facts 4 87 (by decide) (by decide) o).2.2.2.2.1
  have r4 : bits (0x08000057 + encE o) 7 2 = 0 := (encE_facts 4 87 (by decide) (by decide) o).2.2.2.2.2
  have hr : rowOf32 (0x08000057 + encE o) = some .mcrd := by
    rw [rowOf32_2B r1]
    simp [rowMajor2B, r2, r3, r4]
  exact decode_word32 (r := .mcrd) (i := .mcrd o) (encE_facts 4 87 (by decide) (by decide) o).2.1 (encE_facts 4 87 (by decide) (by decide) o).1 hr (show Instr.mcrd (decE _) = _ from congrArg Instr.mcrd (decE_back 4 87 (by decide) o ha)) rest

theorem Encoded.mcst (o : FmtNB) : Encoded.Statement (.mcst o) := by
  intro h n w he rest
  obtain ⟨rfl, rfl⟩ := Prod.mk.inj (Option.some.inj he)
  simp only [Instr.fits] at h
  have r1 : bits (0x0A000057 + encNB o) 1 6 = 43 := (encNB_facts 5 87 (by decide) (by decide) o).2.2.1
  have r2 : bits (0x0A000057 + encNB o) 25 7 = 5 := (encNB_facts 5 87 (by decide) (by decide) o).2.2.2
  have hr : rowOf32 (0x0A000057 + encNB o) = some .mcst := by
    rw [rowOf32_2B r1]
    simp [rowMajor2B, r2]
  exact decode_word32 (r := .mcst) (i := .mcst o) (encNB_facts 5 87 (by decide) (by decide) o).2.1 (encNB_facts 5 87 (by decide) (by decide) o).1 hr (show Instr.mcst (decNB _) = _ from congrArg Instr.mcst (decNB_back 5 87 (by decide) o)) rest

theorem Encoded.msend (o : FmtNB) : Encoded.Statement (.msend o) := by
  intro h n w he rest
  obtain ⟨rfl, rfl⟩ := Prod.mk.inj (Option.some.inj he)
  simp only [Instr.fits] at h
  have r1 : bits (0x0C000057 + encNB o) 1 6 = 43 := (encNB_facts 6 87 (by decide) (by decide) o).2.2.1
  have r2 : bits (0x0C000057 + encNB o) 25 7 = 6 := (encNB_facts 6 87 (by decide) (by decide) o).2.2.2
  have hr : rowOf32 (0x0C000057 + encNB o) = some .msend := by
    rw [rowOf32_2B r1]
    simp [rowMajor2B, r2]
  exact decode_word32 (r := .msend) (i := .msend o) (encNB_facts 6 87 (by decide) (by decide) o).2.1 (encNB_facts 6 87 (by decide) (by decide) o).1 hr (show Instr.msend (decNB _) = _ from congrArg Instr.msend (decNB_back 6 87 (by decide) o)) rest

theorem Encoded.mwait (o : FmtNA) : Encoded.Statement (.mwait o) := by
  intro h n w he rest
  obtain ⟨rfl, rfl⟩ := Prod.mk.inj (Option.some.inj he)
  simp only [Instr.fits] at h
  have r1 : bits (0x0E000057 + encNA o) 1 6 = 43 := (encNA_facts 7 87 (by decide) (by decide) o).2.2.1
  have r2 : bits (0x0E000057 + encNA o) 25 7 = 7 := (encNA_facts 7 87 (by decide) (by decide) o).2.2.2.1
  have r3 : bits (0x0E000057 + encNA o) 11 7 = 0 := (encNA_facts 7 87 (by decide) (by decide) o).2.2.2.2
  have hr : rowOf32 (0x0E000057 + encNA o) = some .mwait := by
    rw [rowOf32_2B r1]
    simp [rowMajor2B, r2, r3]
  exact decode_word32 (r := .mwait) (i := .mwait o) (encNA_facts 7 87 (by decide) (by decide) o).2.1 (encNA_facts 7 87 (by decide) (by decide) o).1 hr (show Instr.mwait (decNA _) = _ from congrArg Instr.mwait (decNA_back 7 87 (by decide) o)) rest

theorem Encoded.barArrive (o : FmtBarA) : Encoded.Statement (.barArrive o) := by
  intro h n w he rest
  obtain ⟨rfl, rfl⟩ := Prod.mk.inj (Option.some.inj he)
  simp only [Instr.fits, Bool.and_eq_true] at h
  obtain ⟨ha, hx⟩ := h
  have := usrcCode_lt o.a
  have := scopeCode_lt o.sc
  have := o.k1.toNat_lt
  have := o.ka.toNat_lt
  have r1 : bits (0x00000059 + encBarA o) 1 6 = 44 := by simp only [bits, encBarA]; omega
  have r2 : bits (0x00000059 + encBarA o) 25 7 = 0 := by simp only [bits, encBarA]; omega
  have r3 : bits (0x00000059 + encBarA o) 14 4 = 0 := by simp only [bits, encBarA]; omega
  have r4 : bits (0x00000059 + encBarA o) 7 2 = 0 := by simp only [bits, encBarA]; omega
  have r5 : bits (0x00000059 + encBarA o) 11 3 = scopeCode o.sc := by simp only [bits, encBarA]; omega
  have hr : rowOf32 (0x00000059 + encBarA o) = some .barArrive := by
    rw [rowOf32_2C r1]
    have := of_decide_eq_true hx
    simp [rowMajor2C, r2, r3, r4, r5, *]
  have e1 : bits (0x00000059 + encBarA o) 18 7 = usrcCode o.a := by simp only [bits, encBarA]; omega
  have e2 : bits (0x00000059 + encBarA o) 11 3 = scopeCode o.sc := by simp only [bits, encBarA]; omega
  have e3 : bit (0x00000059 + encBarA o) 10 = o.k1 := bit_back (by simp only [encBarA]; omega)
  have e4 : bit (0x00000059 + encBarA o) 9 = o.ka := bit_back (by simp only [encBarA]; omega)
  have hi : decBarA (0x00000059 + encBarA o) = o := by simp only [decBarA, e1, usrc_back _ ha, e2, scope_back, e3, e4]
  exact decode_word32 (r := .barArrive) (i := .barArrive o) (by simp only [encBarA]; omega) (by simp only [encBarA]; omega) hr (show Instr.barArrive (decBarA _) = _ from congrArg Instr.barArrive hi) rest

theorem Encoded.barWait (o : FmtBarW) : Encoded.Statement (.barWait o) := by
  intro h n w he rest
  obtain ⟨rfl, rfl⟩ := Prod.mk.inj (Option.some.inj he)
  simp only [Instr.fits] at h
  have hx := h
  have := o.k.isLt
  have := scopeCode_lt o.sc
  have := o.k1.toNat_lt
  have := o.ka.toNat_lt
  have r1 : bits (0x02000059 + encBarW o) 1 6 = 44 := by simp only [bits, encBarW]; omega
  have r2 : bits (0x02000059 + encBarW o) 25 7 = 1 := by simp only [bits, encBarW]; omega
  have r3 : bits (0x02000059 + encBarW o) 22 3 = 0 := by simp only [bits, encBarW]; omega
  have r4 : bits (0x02000059 + encBarW o) 14 4 = 0 := by simp only [bits, encBarW]; omega
  have r5 : bits (0x02000059 + encBarW o) 7 2 = 0 := by simp only [bits, encBarW]; omega
  have r6 : bits (0x02000059 + encBarW o) 11 3 = scopeCode o.sc := by simp only [bits, encBarW]; omega
  have hr : rowOf32 (0x02000059 + encBarW o) = some .barWait := by
    rw [rowOf32_2C r1]
    have := of_decide_eq_true hx
    simp [rowMajor2C, r2, r3, r4, r5, r6, *]
  have e1 : field (0x02000059 + encBarW o) 18 4 = o.k := field_back (by simp only [encBarW]; omega)
  have e2 : bits (0x02000059 + encBarW o) 11 3 = scopeCode o.sc := by simp only [bits, encBarW]; omega
  have e3 : bit (0x02000059 + encBarW o) 10 = o.k1 := bit_back (by simp only [encBarW]; omega)
  have e4 : bit (0x02000059 + encBarW o) 9 = o.ka := bit_back (by simp only [encBarW]; omega)
  have hi : decBarW (0x02000059 + encBarW o) = o := by simp only [decBarW, e1, e2, scope_back, e3, e4]
  exact decode_word32 (r := .barWait) (i := .barWait o) (by simp only [encBarW]; omega) (by simp only [encBarW]; omega) hr (show Instr.barWait (decBarW _) = _ from congrArg Instr.barWait hi) rest

theorem Encoded.boset (o : FmtNB) : Encoded.Statement (.boset o) := by
  intro h n w he rest
  obtain ⟨rfl, rfl⟩ := Prod.mk.inj (Option.some.inj he)
  simp only [Instr.fits] at h
  have r1 : bits (0x08000059 + encNB o) 1 6 = 44 := (encNB_facts 4 89 (by decide) (by decide) o).2.2.1
  have r2 : bits (0x08000059 + encNB o) 25 7 = 4 := (encNB_facts 4 89 (by decide) (by decide) o).2.2.2
  have hr : rowOf32 (0x08000059 + encNB o) = some .boset := by
    rw [rowOf32_2C r1]
    simp [rowMajor2C, r2]
  exact decode_word32 (r := .boset) (i := .boset o) (encNB_facts 4 89 (by decide) (by decide) o).2.1 (encNB_facts 4 89 (by decide) (by decide) o).1 hr (show Instr.boset (decNB _) = _ from congrArg Instr.boset (decNB_back 4 89 (by decide) o)) rest

theorem Encoded.boadd (o : FmtNB) : Encoded.Statement (.boadd o) := by
  intro h n w he rest
  obtain ⟨rfl, rfl⟩ := Prod.mk.inj (Option.some.inj he)
  simp only [Instr.fits] at h
  have r1 : bits (0x0A000059 + encNB o) 1 6 = 44 := (encNB_facts 5 89 (by decide) (by decide) o).2.2.1
  have r2 : bits (0x0A000059 + encNB o) 25 7 = 5 := (encNB_facts 5 89 (by decide) (by decide) o).2.2.2
  have hr : rowOf32 (0x0A000059 + encNB o) = some .boadd := by
    rw [rowOf32_2C r1]
    simp [rowMajor2C, r2]
  exact decode_word32 (r := .boadd) (i := .boadd o) (encNB_facts 5 89 (by decide) (by decide) o).2.1 (encNB_facts 5 89 (by decide) (by decide) o).1 hr (show Instr.boadd (decNB _) = _ from congrArg Instr.boadd (decNB_back 5 89 (by decide) o)) rest

theorem Encoded.bowait (o : FmtNB) : Encoded.Statement (.bowait o) := by
  intro h n w he rest
  obtain ⟨rfl, rfl⟩ := Prod.mk.inj (Option.some.inj he)
  simp only [Instr.fits] at h
  have r1 : bits (0x0C000059 + encNB o) 1 6 = 44 := (encNB_facts 6 89 (by decide) (by decide) o).2.2.1
  have r2 : bits (0x0C000059 + encNB o) 25 7 = 6 := (encNB_facts 6 89 (by decide) (by decide) o).2.2.2
  have hr : rowOf32 (0x0C000059 + encNB o) = some .bowait := by
    rw [rowOf32_2C r1]
    simp [rowMajor2C, r2]
  exact decode_word32 (r := .bowait) (i := .bowait o) (encNB_facts 6 89 (by decide) (by decide) o).2.1 (encNB_facts 6 89 (by decide) (by decide) o).1 hr (show Instr.bowait (decNB _) = _ from congrArg Instr.bowait (decNB_back 6 89 (by decide) o)) rest

theorem Encoded.fence (o : FmtFence) : Encoded.Statement (.fence o) := by
  intro h n w he rest
  obtain ⟨rfl, rfl⟩ := Prod.mk.inj (Option.some.inj he)
  simp only [Instr.fits] at h
  have := fenceKindCode_lt o.kind
  have := fenceKindCode_pos o.kind
  have := scopeCode_lt o.sc
  have := o.k1.toNat_lt
  have := o.ka.toNat_lt
  have := o.g.isLt
  have r1 : bits (0x10000059 + encFence o) 1 6 = 44 := by simp only [bits, encFence]; omega
  have r2 : bits (0x10000059 + encFence o) 25 7 = 8 := by simp only [bits, encFence]; omega
  have r3 : bits (0x10000059 + encFence o) 23 2 = 0 := by simp only [bits, encFence]; omega
  have r4 : bits (0x10000059 + encFence o) 11 7 = 0 := by simp only [bits, encFence]; omega
  have r5 : bits (0x10000059 + encFence o) 21 2 = fenceKindCode o.kind := by simp only [bits, encFence]; omega
  have hr : rowOf32 (0x10000059 + encFence o) = some .fence := by
    rw [rowOf32_2C r1]
    have : fenceKindCode o.kind ≠ 0 := by omega
    simp [rowMajor2C, r2, r3, r4, r5, *]
  have e1 : bits (0x10000059 + encFence o) 21 2 = fenceKindCode o.kind := by simp only [bits, encFence]; omega
  have e2 : bits (0x10000059 + encFence o) 18 3 = scopeCode o.sc := by simp only [bits, encFence]; omega
  have e3 : bit (0x10000059 + encFence o) 10 = o.k1 := bit_back (by simp only [encFence]; omega)
  have e4 : bit (0x10000059 + encFence o) 9 = o.ka := bit_back (by simp only [encFence]; omega)
  have e5 : field (0x10000059 + encFence o) 7 2 = o.g := field_back (by simp only [encFence]; omega)
  have hi : decFence (0x10000059 + encFence o) = o := by simp only [decFence, e1, fenceKind_back, e2, scope_back, e3, e4, e5]
  exact decode_word32 (r := .fence) (i := .fence o) (by simp only [encFence]; omega) (by simp only [encFence]; omega) hr (show Instr.fence (decFence _) = _ from congrArg Instr.fence hi) rest

theorem Encoded.qtake (o : FmtUD) : Encoded.Statement (.qtake o) := by
  intro h n w he rest
  obtain ⟨rfl, rfl⟩ := Prod.mk.inj (Option.some.inj he)
  simp only [Instr.fits] at h
  have := udstCode_lt o.d
  have := o.k1.toNat_lt
  have := o.ka.toNat_lt
  have r1 : bits (0x20000059 + encUD o) 1 6 = 44 := by simp only [bits, encUD]; omega
  have r2 : bits (0x20000059 + encUD o) 25 7 = 16 := by simp only [bits, encUD]; omega
  have r3 : bits (0x20000059 + encUD o) 18 7 = 0 := by simp only [bits, encUD]; omega
  have r4 : bits (0x20000059 + encUD o) 7 2 = 0 := by simp only [bits, encUD]; omega
  have hr : rowOf32 (0x20000059 + encUD o) = some .qtake := by
    rw [rowOf32_2C r1]
    simp [rowMajor2C, r2, r3, r4]
  have e1 : bits (0x20000059 + encUD o) 11 7 = udstCode o.d := by simp only [bits, encUD]; omega
  have e2 : bit (0x20000059 + encUD o) 10 = o.k1 := bit_back (by simp only [encUD]; omega)
  have e3 : bit (0x20000059 + encUD o) 9 = o.ka := bit_back (by simp only [encUD]; omega)
  have hi : decUD (0x20000059 + encUD o) = o := by simp only [decUD, e1, udst_back, e2, e3]
  exact decode_word32 (r := .qtake) (i := .qtake o) (by simp only [encUD]; omega) (by simp only [encUD]; omega) hr (show Instr.qtake (decUD _) = _ from congrArg Instr.qtake hi) rest

theorem Encoded.qpost (o : FmtU) : Encoded.Statement (.qpost o) := by
  intro h n w he rest
  obtain ⟨rfl, rfl⟩ := Prod.mk.inj (Option.some.inj he)
  simp only [Instr.fits] at h
  have ha := h
  have r1 : bits (0x22000059 + encU o) 1 6 = 44 := (encU_facts 17 89 (by decide) (by decide) o).2.2.1
  have r2 : bits (0x22000059 + encU o) 25 7 = 17 := (encU_facts 17 89 (by decide) (by decide) o).2.2.2.1
  have r3 : bits (0x22000059 + encU o) 7 2 = 0 := (encU_facts 17 89 (by decide) (by decide) o).2.2.2.2
  have hr : rowOf32 (0x22000059 + encU o) = some .qpost := by
    rw [rowOf32_2C r1]
    simp [rowMajor2C, r2, r3]
  exact decode_word32 (r := .qpost) (i := .qpost o) (encU_facts 17 89 (by decide) (by decide) o).2.1 (encU_facts 17 89 (by decide) (by decide) o).1 hr (show Instr.qpost (decU _) = _ from congrArg Instr.qpost (decU_back 17 89 (by decide) o ha)) rest

theorem Encoded.taskend (o : FmtNG) : Encoded.Statement (.taskend o) := by
  intro h n w he rest
  obtain ⟨rfl, rfl⟩ := Prod.mk.inj (Option.some.inj he)
  simp only [Instr.fits] at h
  have r1 : bits (0x24000059 + encNG o) 1 6 = 44 := (encNG_facts 18 89 (by decide) (by decide) o).2.2.1
  have r2 : bits (0x24000059 + encNG o) 25 7 = 18 := (encNG_facts 18 89 (by decide) (by decide) o).2.2.2.1
  have r3 : bits (0x24000059 + encNG o) 11 14 = 0 := (encNG_facts 18 89 (by decide) (by decide) o).2.2.2.2
  have hr : rowOf32 (0x24000059 + encNG o) = some .taskend := by
    rw [rowOf32_2C r1]
    simp [rowMajor2C, r2, r3]
  exact decode_word32 (r := .taskend) (i := .taskend o) (encNG_facts 18 89 (by decide) (by decide) o).2.1 (encNG_facts 18 89 (by decide) (by decide) o).1 hr (show Instr.taskend (decNG _) = _ from congrArg Instr.taskend (decNG_back 18 89 (by decide) o)) rest

theorem Encoded.finit (o : FmtFin) : Encoded.Statement (.finit o) := by
  intro h n w he rest
  obtain ⟨rfl, rfl⟩ := Prod.mk.inj (Option.some.inj he)
  simp only [Instr.fits] at h
  have := srcCode_lt o.a
  have := srcCode_lt o.b
  have := o.ka.toNat_lt
  have := o.g.isLt
  have r1 : bits (0x30000059 + encFin o) 1 6 = 44 := by simp only [bits, encFin]; omega
  have r2 : bits (0x30000059 + encFin o) 25 7 = 24 := by simp only [bits, encFin]; omega
  have r3 : bit (0x30000059 + encFin o) 10 = false := bit_off (by simp only [encFin]; omega)
  have hr : rowOf32 (0x30000059 + encFin o) = some .finit := by
    rw [rowOf32_2C r1]
    simp [rowMajor2C, r2, r3]
  have e1 : bits (0x30000059 + encFin o) 18 7 = srcCode o.a := by simp only [bits, encFin]; omega
  have e2 : bits (0x30000059 + encFin o) 11 7 = srcCode o.b := by simp only [bits, encFin]; omega
  have e3 : bit (0x30000059 + encFin o) 9 = o.ka := bit_back (by simp only [encFin]; omega)
  have e4 : field (0x30000059 + encFin o) 7 2 = o.g := field_back (by simp only [encFin]; omega)
  have hi : decFin (0x30000059 + encFin o) = o := by simp only [decFin, e1, src_back, e2, src_back, e3, e4]
  exact decode_word32 (r := .finit) (i := .finit o) (by simp only [encFin]; omega) (by simp only [encFin]; omega) hr (show Instr.finit (decFin _) = _ from congrArg Instr.finit hi) rest

theorem Encoded.finitFull (o : FmtFin) : Encoded.Statement (.finitFull o) := by
  intro h n w he rest
  obtain ⟨rfl, rfl⟩ := Prod.mk.inj (Option.some.inj he)
  simp only [Instr.fits] at h
  have := srcCode_lt o.a
  have := srcCode_lt o.b
  have := o.ka.toNat_lt
  have := o.g.isLt
  have r1 : bits (0x30000459 + encFin o) 1 6 = 44 := by simp only [bits, encFin]; omega
  have r2 : bits (0x30000459 + encFin o) 25 7 = 24 := by simp only [bits, encFin]; omega
  have r3 : bit (0x30000459 + encFin o) 10 = true := bit_on (by simp only [encFin]; omega)
  have hr : rowOf32 (0x30000459 + encFin o) = some .finitFull := by
    rw [rowOf32_2C r1]
    simp [rowMajor2C, r2, r3]
  have e1 : bits (0x30000459 + encFin o) 18 7 = srcCode o.a := by simp only [bits, encFin]; omega
  have e2 : bits (0x30000459 + encFin o) 11 7 = srcCode o.b := by simp only [bits, encFin]; omega
  have e3 : bit (0x30000459 + encFin o) 9 = o.ka := bit_back (by simp only [encFin]; omega)
  have e4 : field (0x30000459 + encFin o) 7 2 = o.g := field_back (by simp only [encFin]; omega)
  have hi : decFin (0x30000459 + encFin o) = o := by simp only [decFin, e1, src_back, e2, src_back, e3, e4]
  exact decode_word32 (r := .finitFull) (i := .finitFull o) (by simp only [encFin]; omega) (by simp only [encFin]; omega) hr (show Instr.finitFull (decFin _) = _ from congrArg Instr.finitFull hi) rest

theorem Encoded.fget (o : FmtN) : Encoded.Statement (.fget o) := by
  intro h n w he rest
  obtain ⟨rfl, rfl⟩ := Prod.mk.inj (Option.some.inj he)
  simp only [Instr.fits] at h
  have hd := h
  have r1 : bits (0x32000059 + encN o) 1 6 = 44 := (encN_facts 25 89 (by decide) (by decide) o).2.2.1
  have r2 : bits (0x32000059 + encN o) 25 7 = 25 := (encN_facts 25 89 (by decide) (by decide) o).2.2.2
  have hr : rowOf32 (0x32000059 + encN o) = some .fget := by
    rw [rowOf32_2C r1]
    simp [rowMajor2C, r2]
  exact decode_word32 (r := .fget) (i := .fget o) (encN_facts 25 89 (by decide) (by decide) o).2.1 (encN_facts 25 89 (by decide) (by decide) o).1 hr (show Instr.fget (decN _) = _ from congrArg Instr.fget (decN_back 25 89 (by decide) o hd)) rest

theorem Encoded.ffill (o : FmtNB) : Encoded.Statement (.ffill o) := by
  intro h n w he rest
  obtain ⟨rfl, rfl⟩ := Prod.mk.inj (Option.some.inj he)
  simp only [Instr.fits] at h
  have r1 : bits (0x34000059 + encNB o) 1 6 = 44 := (encNB_facts 26 89 (by decide) (by decide) o).2.2.1
  have r2 : bits (0x34000059 + encNB o) 25 7 = 26 := (encNB_facts 26 89 (by decide) (by decide) o).2.2.2
  have hr : rowOf32 (0x34000059 + encNB o) = some .ffill := by
    rw [rowOf32_2C r1]
    simp [rowMajor2C, r2]
  exact decode_word32 (r := .ffill) (i := .ffill o) (encNB_facts 26 89 (by decide) (by decide) o).2.1 (encNB_facts 26 89 (by decide) (by decide) o).1 hr (show Instr.ffill (decNB _) = _ from congrArg Instr.ffill (decNB_back 26 89 (by decide) o)) rest

theorem Encoded.cpy (o : FmtE) : Encoded.Statement (.cpy o) := by
  intro h n w he rest
  obtain ⟨rfl, rfl⟩ := Prod.mk.inj (Option.some.inj he)
  simp only [Instr.fits] at h
  have ha := h
  have r1 : bits (0x0000005B + encE o) 1 6 = 45 := (encE_facts 0 91 (by decide) (by decide) o).2.2.1
  have r2 : bits (0x0000005B + encE o) 25 7 = 0 := (encE_facts 0 91 (by decide) (by decide) o).2.2.2.1
  have r3 : bits (0x0000005B + encE o) 15 3 = 0 := (encE_facts 0 91 (by decide) (by decide) o).2.2.2.2.1
  have r4 : bits (0x0000005B + encE o) 7 2 = 0 := (encE_facts 0 91 (by decide) (by decide) o).2.2.2.2.2
  have hr : rowOf32 (0x0000005B + encE o) = some .cpy := by
    rw [rowOf32_2D r1]
    simp [rowMajor2D, r2, r3, r4]
  exact decode_word32 (r := .cpy) (i := .cpy o) (encE_facts 0 91 (by decide) (by decide) o).2.1 (encE_facts 0 91 (by decide) (by decide) o).1 hr (show Instr.cpy (decE _) = _ from congrArg Instr.cpy (decE_back 0 91 (by decide) o ha)) rest

theorem Encoded.cpyx (o : FmtE) : Encoded.Statement (.cpyx o) := by
  intro h n w he rest
  obtain ⟨rfl, rfl⟩ := Prod.mk.inj (Option.some.inj he)
  simp only [Instr.fits] at h
  have ha := h
  have r1 : bits (0x0200005B + encE o) 1 6 = 45 := (encE_facts 1 91 (by decide) (by decide) o).2.2.1
  have r2 : bits (0x0200005B + encE o) 25 7 = 1 := (encE_facts 1 91 (by decide) (by decide) o).2.2.2.1
  have r3 : bits (0x0200005B + encE o) 15 3 = 0 := (encE_facts 1 91 (by decide) (by decide) o).2.2.2.2.1
  have r4 : bits (0x0200005B + encE o) 7 2 = 0 := (encE_facts 1 91 (by decide) (by decide) o).2.2.2.2.2
  have hr : rowOf32 (0x0200005B + encE o) = some .cpyx := by
    rw [rowOf32_2D r1]
    simp [rowMajor2D, r2, r3, r4]
  exact decode_word32 (r := .cpyx) (i := .cpyx o) (encE_facts 1 91 (by decide) (by decide) o).2.1 (encE_facts 1 91 (by decide) (by decide) o).1 hr (show Instr.cpyx (decE _) = _ from congrArg Instr.cpyx (decE_back 1 91 (by decide) o ha)) rest

theorem Encoded.coll (o : FmtE) : Encoded.Statement (.coll o) := by
  intro h n w he rest
  obtain ⟨rfl, rfl⟩ := Prod.mk.inj (Option.some.inj he)
  simp only [Instr.fits] at h
  have ha := h
  have r1 : bits (0x0400005B + encE o) 1 6 = 45 := (encE_facts 2 91 (by decide) (by decide) o).2.2.1
  have r2 : bits (0x0400005B + encE o) 25 7 = 2 := (encE_facts 2 91 (by decide) (by decide) o).2.2.2.1
  have r3 : bits (0x0400005B + encE o) 15 3 = 0 := (encE_facts 2 91 (by decide) (by decide) o).2.2.2.2.1
  have r4 : bits (0x0400005B + encE o) 7 2 = 0 := (encE_facts 2 91 (by decide) (by decide) o).2.2.2.2.2
  have hr : rowOf32 (0x0400005B + encE o) = some .coll := by
    rw [rowOf32_2D r1]
    simp [rowMajor2D, r2, r3, r4]
  exact decode_word32 (r := .coll) (i := .coll o) (encE_facts 2 91 (by decide) (by decide) o).2.1 (encE_facts 2 91 (by decide) (by decide) o).1 hr (show Instr.coll (decE _) = _ from congrArg Instr.coll (decE_back 2 91 (by decide) o ha)) rest

theorem Encoded.estat (o : FmtEst) : Encoded.Statement (.estat o) := by
  intro h n w he rest
  obtain ⟨rfl, rfl⟩ := Prod.mk.inj (Option.some.inj he)
  simp only [Instr.fits] at h
  have := estatKindCode_lt o.k
  have := udstCode_lt o.d
  have := o.k1.toNat_lt
  have := o.ka.toNat_lt
  have r1 : bits (0x0600005B + encEst o) 1 6 = 45 := by simp only [bits, encEst]; omega
  have r2 : bits (0x0600005B + encEst o) 25 7 = 3 := by simp only [bits, encEst]; omega
  have r3 : bits (0x0600005B + encEst o) 20 5 = 0 := by simp only [bits, encEst]; omega
  have r4 : bits (0x0600005B + encEst o) 7 2 = 0 := by simp only [bits, encEst]; omega
  have r5 : bits (0x0600005B + encEst o) 18 2 = estatKindCode o.k := by simp only [bits, encEst]; omega
  have hr : rowOf32 (0x0600005B + encEst o) = some .estat := by
    rw [rowOf32_2D r1]
    have : estatKindCode o.k ≠ 3 := by omega
    simp [rowMajor2D, r2, r3, r4, r5, *]
  have e1 : bits (0x0600005B + encEst o) 18 2 = estatKindCode o.k := by simp only [bits, encEst]; omega
  have e2 : bits (0x0600005B + encEst o) 11 7 = udstCode o.d := by simp only [bits, encEst]; omega
  have e3 : bit (0x0600005B + encEst o) 10 = o.k1 := bit_back (by simp only [encEst]; omega)
  have e4 : bit (0x0600005B + encEst o) 9 = o.ka := bit_back (by simp only [encEst]; omega)
  have hi : decEst (0x0600005B + encEst o) = o := by simp only [decEst, e1, estatKind_back, e2, udst_back, e3, e4]
  exact decode_word32 (r := .estat) (i := .estat o) (by simp only [encEst]; omega) (by simp only [encEst]; omega) hr (show Instr.estat (decEst _) = _ from congrArg Instr.estat hi) rest

theorem Encoded.mma (o : FmtMma) : Encoded.Statement (.mma o) := by
  intro h n w he rest
  obtain ⟨rfl, rfl⟩ := Prod.mk.inj (Option.some.inj he)
  simp only [Instr.fits] at h
  have hn := h
  have := usrcCode_lt o.n
  have := o.z.isLt
  have := o.k1.toNat_lt
  have := o.ka.toNat_lt
  have r1 : bits (0x0000005D + encMma o) 1 6 = 46 := by simp only [bits, encMma]; omega
  have r2 : bits (0x0000005D + encMma o) 25 7 = 0 := by simp only [bits, encMma]; omega
  have r3 : bits (0x0000005D + encMma o) 14 4 = 0 := by simp only [bits, encMma]; omega
  have r4 : bits (0x0000005D + encMma o) 7 2 = 0 := by simp only [bits, encMma]; omega
  have hr : rowOf32 (0x0000005D + encMma o) = some .mma := by
    rw [rowOf32_2E r1]
    simp [rowMajor2E, r2, r3, r4]
  have e1 : bits (0x0000005D + encMma o) 18 7 = usrcCode o.n := by simp only [bits, encMma]; omega
  have e2 : field (0x0000005D + encMma o) 11 3 = o.z := field_back (by simp only [encMma]; omega)
  have e3 : bit (0x0000005D + encMma o) 10 = o.k1 := bit_back (by simp only [encMma]; omega)
  have e4 : bit (0x0000005D + encMma o) 9 = o.ka := bit_back (by simp only [encMma]; omega)
  have hi : decMma (0x0000005D + encMma o) = o := by simp only [decMma, e1, usrc_back _ hn, e2, e3, e4]
  exact decode_word32 (r := .mma) (i := .mma o) (by simp only [encMma]; omega) (by simp only [encMma]; omega) hr (show Instr.mma (decMma _) = _ from congrArg Instr.mma hi) rest

theorem Encoded.mmaRa (o : FmtMmaR) : Encoded.Statement (.mmaRa o) := by
  intro h n w he rest
  obtain ⟨rfl, rfl⟩ := Prod.mk.inj (Option.some.inj he)
  simp only [Instr.fits] at h
  have hn := h
  have := usrcCode_lt o.n
  have := o.z.isLt
  have := o.m.isLt
  have := o.k1.toNat_lt
  have := o.ka.toNat_lt
  have r1 : bits (0x0200005D + encMmaR o) 1 6 = 46 := by simp only [bits, encMmaR]; omega
  have r2 : bits (0x0200005D + encMmaR o) 25 7 = 1 := by simp only [bits, encMmaR]; omega
  have r3 : bits (0x0200005D + encMmaR o) 7 2 = 0 := by simp only [bits, encMmaR]; omega
  have hr : rowOf32 (0x0200005D + encMmaR o) = some .mmaRa := by
    rw [rowOf32_2E r1]
    simp [rowMajor2E, r2, r3]
  have e1 : bits (0x0200005D + encMmaR o) 18 7 = usrcCode o.n := by simp only [bits, encMmaR]; omega
  have e2 : field (0x0200005D + encMmaR o) 11 3 = o.z := field_back (by simp only [encMmaR]; omega)
  have e3 : field (0x0200005D + encMmaR o) 14 4 = o.m := field_back (by simp only [encMmaR]; omega)
  have e4 : bit (0x0200005D + encMmaR o) 10 = o.k1 := bit_back (by simp only [encMmaR]; omega)
  have e5 : bit (0x0200005D + encMmaR o) 9 = o.ka := bit_back (by simp only [encMmaR]; omega)
  have hi : decMmaR (0x0200005D + encMmaR o) = o := by simp only [decMmaR, e1, usrc_back _ hn, e2, e3, e4, e5]
  exact decode_word32 (r := .mmaRa) (i := .mmaRa o) (by simp only [encMmaR]; omega) (by simp only [encMmaR]; omega) hr (show Instr.mmaRa (decMmaR _) = _ from congrArg Instr.mmaRa hi) rest

theorem Encoded.mmaRb (o : FmtMmaR) : Encoded.Statement (.mmaRb o) := by
  intro h n w he rest
  obtain ⟨rfl, rfl⟩ := Prod.mk.inj (Option.some.inj he)
  simp only [Instr.fits] at h
  have hn := h
  have := usrcCode_lt o.n
  have := o.z.isLt
  have := o.m.isLt
  have := o.k1.toNat_lt
  have := o.ka.toNat_lt
  have r1 : bits (0x0400005D + encMmaR o) 1 6 = 46 := by simp only [bits, encMmaR]; omega
  have r2 : bits (0x0400005D + encMmaR o) 25 7 = 2 := by simp only [bits, encMmaR]; omega
  have r3 : bits (0x0400005D + encMmaR o) 7 2 = 0 := by simp only [bits, encMmaR]; omega
  have hr : rowOf32 (0x0400005D + encMmaR o) = some .mmaRb := by
    rw [rowOf32_2E r1]
    simp [rowMajor2E, r2, r3]
  have e1 : bits (0x0400005D + encMmaR o) 18 7 = usrcCode o.n := by simp only [bits, encMmaR]; omega
  have e2 : field (0x0400005D + encMmaR o) 11 3 = o.z := field_back (by simp only [encMmaR]; omega)
  have e3 : field (0x0400005D + encMmaR o) 14 4 = o.m := field_back (by simp only [encMmaR]; omega)
  have e4 : bit (0x0400005D + encMmaR o) 10 = o.k1 := bit_back (by simp only [encMmaR]; omega)
  have e5 : bit (0x0400005D + encMmaR o) 9 = o.ka := bit_back (by simp only [encMmaR]; omega)
  have hi : decMmaR (0x0400005D + encMmaR o) = o := by simp only [decMmaR, e1, usrc_back _ hn, e2, e3, e4, e5]
  exact decode_word32 (r := .mmaRb) (i := .mmaRb o) (by simp only [encMmaR]; omega) (by simp only [encMmaR]; omega) hr (show Instr.mmaRb (decMmaR _) = _ from congrArg Instr.mmaRb hi) rest

theorem Encoded.dzero (o : FmtZ) : Encoded.Statement (.dzero o) := by
  intro h n w he rest
  obtain ⟨rfl, rfl⟩ := Prod.mk.inj (Option.some.inj he)
  simp only [Instr.fits] at h
  have := o.z.isLt
  have := o.k1.toNat_lt
  have := o.ka.toNat_lt
  have r1 : bits (0x1000005D + encZ o) 1 6 = 46 := by simp only [bits, encZ]; omega
  have r2 : bits (0x1000005D + encZ o) 25 7 = 8 := by simp only [bits, encZ]; omega
  have r3 : bit (0x1000005D + encZ o) 14 = false := bit_off (by simp only [encZ]; omega)
  have r4 : bits (0x1000005D + encZ o) 18 7 = 0 := by simp only [bits, encZ]; omega
  have r5 : bits (0x1000005D + encZ o) 15 3 = 0 := by simp only [bits, encZ]; omega
  have r6 : bits (0x1000005D + encZ o) 7 2 = 0 := by simp only [bits, encZ]; omega
  have hr : rowOf32 (0x1000005D + encZ o) = some .dzero := by
    rw [rowOf32_2E r1]
    simp [rowMajor2E, r2, r3, r4, r5, r6]
  have e1 : field (0x1000005D + encZ o) 11 3 = o.z := field_back (by simp only [encZ]; omega)
  have e2 : bit (0x1000005D + encZ o) 10 = o.k1 := bit_back (by simp only [encZ]; omega)
  have e3 : bit (0x1000005D + encZ o) 9 = o.ka := bit_back (by simp only [encZ]; omega)
  have hi : decZ (0x1000005D + encZ o) = o := by simp only [decZ, e1, e2, e3]
  exact decode_word32 (r := .dzero) (i := .dzero o) (by simp only [encZ]; omega) (by simp only [encZ]; omega) hr (show Instr.dzero (decZ _) = _ from congrArg Instr.dzero hi) rest

theorem Encoded.dzeroFree (o : FmtZ) : Encoded.Statement (.dzeroFree o) := by
  intro h n w he rest
  obtain ⟨rfl, rfl⟩ := Prod.mk.inj (Option.some.inj he)
  simp only [Instr.fits] at h
  have := o.z.isLt
  have := o.k1.toNat_lt
  have := o.ka.toNat_lt
  have r1 : bits (0x1000405D + encZ o) 1 6 = 46 := by simp only [bits, encZ]; omega
  have r2 : bits (0x1000405D + encZ o) 25 7 = 8 := by simp only [bits, encZ]; omega
  have r3 : bit (0x1000405D + encZ o) 14 = true := bit_on (by simp only [encZ]; omega)
  have r4 : bits (0x1000405D + encZ o) 18 7 = 0 := by simp only [bits, encZ]; omega
  have r5 : bits (0x1000405D + encZ o) 15 3 = 0 := by simp only [bits, encZ]; omega
  have r6 : bits (0x1000405D + encZ o) 7 2 = 0 := by simp only [bits, encZ]; omega
  have hr : rowOf32 (0x1000405D + encZ o) = some .dzeroFree := by
    rw [rowOf32_2E r1]
    simp [rowMajor2E, r2, r3, r4, r5, r6]
  have e1 : field (0x1000405D + encZ o) 11 3 = o.z := field_back (by simp only [encZ]; omega)
  have e2 : bit (0x1000405D + encZ o) 10 = o.k1 := bit_back (by simp only [encZ]; omega)
  have e3 : bit (0x1000405D + encZ o) 9 = o.ka := bit_back (by simp only [encZ]; omega)
  have hi : decZ (0x1000405D + encZ o) = o := by simp only [decZ, e1, e2, e3]
  exact decode_word32 (r := .dzeroFree) (i := .dzeroFree o) (by simp only [encZ]; omega) (by simp only [encZ]; omega) hr (show Instr.dzeroFree (decZ _) = _ from congrArg Instr.dzeroFree hi) rest

theorem Encoded.drdrow (o : FmtRow) : Encoded.Statement (.drdrow o) := by
  intro h n w he rest
  obtain ⟨rfl, rfl⟩ := Prod.mk.inj (Option.some.inj he)
  simp only [Instr.fits] at h
  have hd := h
  have r1 : bits (0x2000005D + encRow o) 1 6 = 46 := (encRow_facts 16 93 (by decide) (by decide) o).2.2.1
  have r2 : bits (0x2000005D + encRow o) 25 7 = 16 := (encRow_facts 16 93 (by decide) (by decide) o).2.2.2.1
  have r3 : bits (0x2000005D + encRow o) 7 2 = 0 := (encRow_facts 16 93 (by decide) (by decide) o).2.2.2.2
  have hr : rowOf32 (0x2000005D + encRow o) = some .drdrow := by
    rw [rowOf32_2E r1]
    simp [rowMajor2E, r2, r3]
  exact decode_word32 (r := .drdrow) (i := .drdrow o) (encRow_facts 16 93 (by decide) (by decide) o).2.1 (encRow_facts 16 93 (by decide) (by decide) o).1 hr (show Instr.drdrow (decRow _) = _ from congrArg Instr.drdrow (decRow_back 16 93 (by decide) o hd)) rest

theorem Encoded.drdcol (o : FmtRow) : Encoded.Statement (.drdcol o) := by
  intro h n w he rest
  obtain ⟨rfl, rfl⟩ := Prod.mk.inj (Option.some.inj he)
  simp only [Instr.fits] at h
  have hd := h
  have r1 : bits (0x2200005D + encRow o) 1 6 = 46 := (encRow_facts 17 93 (by decide) (by decide) o).2.2.1
  have r2 : bits (0x2200005D + encRow o) 25 7 = 17 := (encRow_facts 17 93 (by decide) (by decide) o).2.2.2.1
  have r3 : bits (0x2200005D + encRow o) 7 2 = 0 := (encRow_facts 17 93 (by decide) (by decide) o).2.2.2.2
  have hr : rowOf32 (0x2200005D + encRow o) = some .drdcol := by
    rw [rowOf32_2E r1]
    simp [rowMajor2E, r2, r3]
  exact decode_word32 (r := .drdcol) (i := .drdcol o) (encRow_facts 17 93 (by decide) (by decide) o).2.1 (encRow_facts 17 93 (by decide) (by decide) o).1 hr (show Instr.drdcol (decRow _) = _ from congrArg Instr.drdcol (decRow_back 17 93 (by decide) o hd)) rest

theorem Encoded.dwrrow (o : FmtRow) : Encoded.Statement (.dwrrow o) := by
  intro h n w he rest
  obtain ⟨rfl, rfl⟩ := Prod.mk.inj (Option.some.inj he)
  simp only [Instr.fits] at h
  have hd := h
  have r1 : bits (0x2400005D + encRow o) 1 6 = 46 := (encRow_facts 18 93 (by decide) (by decide) o).2.2.1
  have r2 : bits (0x2400005D + encRow o) 25 7 = 18 := (encRow_facts 18 93 (by decide) (by decide) o).2.2.2.1
  have r3 : bits (0x2400005D + encRow o) 7 2 = 0 := (encRow_facts 18 93 (by decide) (by decide) o).2.2.2.2
  have hr : rowOf32 (0x2400005D + encRow o) = some .dwrrow := by
    rw [rowOf32_2E r1]
    simp [rowMajor2E, r2, r3]
  exact decode_word32 (r := .dwrrow) (i := .dwrrow o) (encRow_facts 18 93 (by decide) (by decide) o).2.1 (encRow_facts 18 93 (by decide) (by decide) o).1 hr (show Instr.dwrrow (decRow _) = _ from congrArg Instr.dwrrow (decRow_back 18 93 (by decide) o hd)) rest

theorem Encoded.drestart (o : FmtUO) : Encoded.Statement (.drestart o) := by
  intro h n w he rest
  obtain ⟨rfl, rfl⟩ := Prod.mk.inj (Option.some.inj he)
  simp only [Instr.fits] at h
  have ha := h
  have r1 : bits (0x3000005D + encUO o) 1 6 = 46 := (encUO_facts 24 93 (by decide) (by decide) o).2.2.1
  have r2 : bits (0x3000005D + encUO o) 25 7 = 24 := (encUO_facts 24 93 (by decide) (by decide) o).2.2.2.1
  have r3 : bits (0x3000005D + encUO o) 11 7 = 0 := (encUO_facts 24 93 (by decide) (by decide) o).2.2.2.2.1
  have r4 : bits (0x3000005D + encUO o) 7 2 = 0 := (encUO_facts 24 93 (by decide) (by decide) o).2.2.2.2.2
  have hr : rowOf32 (0x3000005D + encUO o) = some .drestart := by
    rw [rowOf32_2E r1]
    simp [rowMajor2E, r2, r3, r4]
  exact decode_word32 (r := .drestart) (i := .drestart o) (encUO_facts 24 93 (by decide) (by decide) o).2.1 (encUO_facts 24 93 (by decide) (by decide) o).1 hr (show Instr.drestart (decUO _) = _ from congrArg Instr.drestart (decUO_back 24 93 (by decide) o ha)) rest

theorem Encoded.twait (o : FmtTR) : Encoded.Statement (.twait o) := by
  intro h n w he rest
  obtain ⟨rfl, rfl⟩ := Prod.mk.inj (Option.some.inj he)
  simp only [Instr.fits] at h
  have := o.t.isLt
  have := o.k1.toNat_lt
  have := o.ka.toNat_lt
  have := o.g.isLt
  have r1 : bits (0x0000005F + encTR o) 1 6 = 47 := by simp only [bits, encTR]; omega
  have r2 : bits (0x0000005F + encTR o) 25 7 = 0 := by simp only [bits, encTR]; omega
  have r3 : bits (0x0000005F + encTR o) 22 3 = 0 := by simp only [bits, encTR]; omega
  have r4 : bits (0x0000005F + encTR o) 11 7 = 0 := by simp only [bits, encTR]; omega
  have hr : rowOf32 (0x0000005F + encTR o) = some .twait := by
    rw [rowOf32_2F r1]
    simp [rowMajor2F, r2, r3, r4]
  have e1 : field (0x0000005F + encTR o) 18 4 = o.t := field_back (by simp only [encTR]; omega)
  have e2 : bit (0x0000005F + encTR o) 10 = o.k1 := bit_back (by simp only [encTR]; omega)
  have e3 : bit (0x0000005F + encTR o) 9 = o.ka := bit_back (by simp only [encTR]; omega)
  have e4 : field (0x0000005F + encTR o) 7 2 = o.g := field_back (by simp only [encTR]; omega)
  have hi : decTR (0x0000005F + encTR o) = o := by simp only [decTR, e1, e2, e3, e4]
  exact decode_word32 (r := .twait) (i := .twait o) (by simp only [encTR]; omega) (by simp only [encTR]; omega) hr (show Instr.twait (decTR _) = _ from congrArg Instr.twait hi) rest

theorem Encoded.twaitany (o : FmtNA) : Encoded.Statement (.twaitany o) := by
  intro h n w he rest
  obtain ⟨rfl, rfl⟩ := Prod.mk.inj (Option.some.inj he)
  simp only [Instr.fits] at h
  have r1 : bits (0x0200005F + encNA o) 1 6 = 47 := (encNA_facts 1 95 (by decide) (by decide) o).2.2.1
  have r2 : bits (0x0200005F + encNA o) 25 7 = 1 := (encNA_facts 1 95 (by decide) (by decide) o).2.2.2.1
  have r3 : bits (0x0200005F + encNA o) 11 7 = 0 := (encNA_facts 1 95 (by decide) (by decide) o).2.2.2.2
  have hr : rowOf32 (0x0200005F + encNA o) = some .twaitany := by
    rw [rowOf32_2F r1]
    simp [rowMajor2F, r2, r3]
  exact decode_word32 (r := .twaitany) (i := .twaitany o) (encNA_facts 1 95 (by decide) (by decide) o).2.1 (encNA_facts 1 95 (by decide) (by decide) o).1 hr (show Instr.twaitany (decNA _) = _ from congrArg Instr.twaitany (decNA_back 1 95 (by decide) o)) rest

theorem Encoded.tmin (o : FmtN) : Encoded.Statement (.tmin o) := by
  intro h n w he rest
  obtain ⟨rfl, rfl⟩ := Prod.mk.inj (Option.some.inj he)
  simp only [Instr.fits] at h
  have hd := h
  have r1 : bits (0x0400005F + encN o) 1 6 = 47 := (encN_facts 2 95 (by decide) (by decide) o).2.2.1
  have r2 : bits (0x0400005F + encN o) 25 7 = 2 := (encN_facts 2 95 (by decide) (by decide) o).2.2.2
  have hr : rowOf32 (0x0400005F + encN o) = some .tmin := by
    rw [rowOf32_2F r1]
    simp [rowMajor2F, r2]
  exact decode_word32 (r := .tmin) (i := .tmin o) (encN_facts 2 95 (by decide) (by decide) o).2.1 (encN_facts 2 95 (by decide) (by decide) o).1 hr (show Instr.tmin (decN _) = _ from congrArg Instr.tmin (decN_back 2 95 (by decide) o hd)) rest

theorem Encoded.tmov (o : FmtTM) : Encoded.Statement (.tmov o) := by
  intro h n w he rest
  obtain ⟨rfl, rfl⟩ := Prod.mk.inj (Option.some.inj he)
  simp only [Instr.fits] at h
  have := o.t.isLt
  have := o.u.isLt
  have := o.k1.toNat_lt
  have := o.ka.toNat_lt
  have := o.g.isLt
  have r1 : bits (0x0600005F + encTM o) 1 6 = 47 := by simp only [bits, encTM]; omega
  have r2 : bits (0x0600005F + encTM o) 25 7 = 3 := by simp only [bits, encTM]; omega
  have r3 : bits (0x0600005F + encTM o) 22 3 = 0 := by simp only [bits, encTM]; omega
  have r4 : bits (0x0600005F + encTM o) 15 3 = 0 := by simp only [bits, encTM]; omega
  have hr : rowOf32 (0x0600005F + encTM o) = some .tmov := by
    rw [rowOf32_2F r1]
    simp [rowMajor2F, r2, r3, r4]
  have e1 : field (0x0600005F + encTM o) 18 4 = o.t := field_back (by simp only [encTM]; omega)
  have e2 : field (0x0600005F + encTM o) 11 4 = o.u := field_back (by simp only [encTM]; omega)
  have e3 : bit (0x0600005F + encTM o) 10 = o.k1 := bit_back (by simp only [encTM]; omega)
  have e4 : bit (0x0600005F + encTM o) 9 = o.ka := bit_back (by simp only [encTM]; omega)
  have e5 : field (0x0600005F + encTM o) 7 2 = o.g := field_back (by simp only [encTM]; omega)
  have hi : decTM (0x0600005F + encTM o) = o := by simp only [decTM, e1, e2, e3, e4, e5]
  exact decode_word32 (r := .tmov) (i := .tmov o) (by simp only [encTM]; omega) (by simp only [encTM]; omega) hr (show Instr.tmov (decTM _) = _ from congrArg Instr.tmov hi) rest

theorem Encoded.tstat (o : FmtTD) : Encoded.Statement (.tstat o) := by
  intro h n w he rest
  obtain ⟨rfl, rfl⟩ := Prod.mk.inj (Option.some.inj he)
  simp only [Instr.fits] at h
  have hd := h
  have := o.t.isLt
  have := dstCode_lt o.d
  have := o.k1.toNat_lt
  have := o.ka.toNat_lt
  have := o.g.isLt
  have r1 : bits (0x0800005F + encTD o) 1 6 = 47 := by simp only [bits, encTD]; omega
  have r2 : bits (0x0800005F + encTD o) 25 7 = 4 := by simp only [bits, encTD]; omega
  have r3 : bits (0x0800005F + encTD o) 22 3 = 0 := by simp only [bits, encTD]; omega
  have hr : rowOf32 (0x0800005F + encTD o) = some .tstat := by
    rw [rowOf32_2F r1]
    simp [rowMajor2F, r2, r3]
  have e1 : field (0x0800005F + encTD o) 18 4 = o.t := field_back (by simp only [encTD]; omega)
  have e2 : bits (0x0800005F + encTD o) 11 7 = dstCode o.d := by simp only [bits, encTD]; omega
  have e3 : bit (0x0800005F + encTD o) 10 = o.k1 := bit_back (by simp only [encTD]; omega)
  have e4 : bit (0x0800005F + encTD o) 9 = o.ka := bit_back (by simp only [encTD]; omega)
  have e5 : field (0x0800005F + encTD o) 7 2 = o.g := field_back (by simp only [encTD]; omega)
  have hi : decTD (0x0800005F + encTD o) = o := by simp only [decTD, e1, e2, dst_back _ hd, e3, e4, e5]
  exact decode_word32 (r := .tstat) (i := .tstat o) (by simp only [encTD]; omega) (by simp only [encTD]; omega) hr (show Instr.tstat (decTD _) = _ from congrArg Instr.tstat hi) rest

theorem Encoded.tset (o : FmtTS) : Encoded.Statement (.tset o) := by
  intro h n w he rest
  obtain ⟨rfl, rfl⟩ := Prod.mk.inj (Option.some.inj he)
  simp only [Instr.fits] at h
  have := srcCode_lt o.a
  have := o.t.isLt
  have := o.ka.toNat_lt
  have := o.g.isLt
  have r1 : bits (0x0A00005F + encTS o) 1 6 = 47 := by simp only [bits, encTS]; omega
  have r2 : bits (0x0A00005F + encTS o) 25 7 = 5 := by simp only [bits, encTS]; omega
  have r3 : bits (0x0A00005F + encTS o) 15 3 = 0 := by simp only [bits, encTS]; omega
  have r4 : bit (0x0A00005F + encTS o) 10 = false := bit_off (by simp only [encTS]; omega)
  have hr : rowOf32 (0x0A00005F + encTS o) = some .tset := by
    rw [rowOf32_2F r1]
    simp [rowMajor2F, r2, r3, r4]
  have e1 : bits (0x0A00005F + encTS o) 18 7 = srcCode o.a := by simp only [bits, encTS]; omega
  have e2 : field (0x0A00005F + encTS o) 11 4 = o.t := field_back (by simp only [encTS]; omega)
  have e3 : bit (0x0A00005F + encTS o) 9 = o.ka := bit_back (by simp only [encTS]; omega)
  have e4 : field (0x0A00005F + encTS o) 7 2 = o.g := field_back (by simp only [encTS]; omega)
  have hi : decTS (0x0A00005F + encTS o) = o := by simp only [decTS, e1, src_back, e2, e3, e4]
  exact decode_word32 (r := .tset) (i := .tset o) (by simp only [encTS]; omega) (by simp only [encTS]; omega) hr (show Instr.tset (decTS _) = _ from congrArg Instr.tset hi) rest

theorem Encoded.tsetClr (o : FmtTS) : Encoded.Statement (.tsetClr o) := by
  intro h n w he rest
  obtain ⟨rfl, rfl⟩ := Prod.mk.inj (Option.some.inj he)
  simp only [Instr.fits] at h
  have := srcCode_lt o.a
  have := o.t.isLt
  have := o.ka.toNat_lt
  have := o.g.isLt
  have r1 : bits (0x0A00045F + encTS o) 1 6 = 47 := by simp only [bits, encTS]; omega
  have r2 : bits (0x0A00045F + encTS o) 25 7 = 5 := by simp only [bits, encTS]; omega
  have r3 : bits (0x0A00045F + encTS o) 15 3 = 0 := by simp only [bits, encTS]; omega
  have r4 : bit (0x0A00045F + encTS o) 10 = true := bit_on (by simp only [encTS]; omega)
  have hr : rowOf32 (0x0A00045F + encTS o) = some .tsetClr := by
    rw [rowOf32_2F r1]
    simp [rowMajor2F, r2, r3, r4]
  have e1 : bits (0x0A00045F + encTS o) 18 7 = srcCode o.a := by simp only [bits, encTS]; omega
  have e2 : field (0x0A00045F + encTS o) 11 4 = o.t := field_back (by simp only [encTS]; omega)
  have e3 : bit (0x0A00045F + encTS o) 9 = o.ka := bit_back (by simp only [encTS]; omega)
  have e4 : field (0x0A00045F + encTS o) 7 2 = o.g := field_back (by simp only [encTS]; omega)
  have hi : decTS (0x0A00045F + encTS o) = o := by simp only [decTS, e1, src_back, e2, e3, e4]
  exact decode_word32 (r := .tsetClr) (i := .tsetClr o) (by simp only [encTS]; omega) (by simp only [encTS]; omega) hr (show Instr.tsetClr (decTS _) = _ from congrArg Instr.tsetClr hi) rest

theorem Encoded.tnow (o : FmtND) : Encoded.Statement (.tnow o) := by
  intro h n w he rest
  obtain ⟨rfl, rfl⟩ := Prod.mk.inj (Option.some.inj he)
  simp only [Instr.fits] at h
  have hd := h
  have := dstCode_lt o.d
  have := o.k1.toNat_lt
  have := o.ka.toNat_lt
  have := o.g.isLt
  have r1 : bits (0x0C00005F + encND o) 1 6 = 47 := by simp only [bits, encND]; omega
  have r2 : bits (0x0C00005F + encND o) 25 7 = 6 := by simp only [bits, encND]; omega
  have r3 : bits (0x0C00005F + encND o) 18 7 = 0 := by simp only [bits, encND]; omega
  have hr : rowOf32 (0x0C00005F + encND o) = some .tnow := by
    rw [rowOf32_2F r1]
    simp [rowMajor2F, r2, r3]
  have e1 : bits (0x0C00005F + encND o) 11 7 = dstCode o.d := by simp only [bits, encND]; omega
  have e2 : bit (0x0C00005F + encND o) 10 = o.k1 := bit_back (by simp only [encND]; omega)
  have e3 : bit (0x0C00005F + encND o) 9 = o.ka := bit_back (by simp only [encND]; omega)
  have e4 : field (0x0C00005F + encND o) 7 2 = o.g := field_back (by simp only [encND]; omega)
  have hi : decND (0x0C00005F + encND o) = o := by simp only [decND, e1, dst_back _ hd, e2, e3, e4]
  exact decode_word32 (r := .tnow) (i := .tnow o) (by simp only [encND]; omega) (by simp only [encND]; omega) hr (show Instr.tnow (decND _) = _ from congrArg Instr.tnow hi) rest

theorem Encoded.tdiff (o : FmtTD) : Encoded.Statement (.tdiff o) := by
  intro h n w he rest
  obtain ⟨rfl, rfl⟩ := Prod.mk.inj (Option.some.inj he)
  simp only [Instr.fits] at h
  have hd := h
  have := o.t.isLt
  have := dstCode_lt o.d
  have := o.k1.toNat_lt
  have := o.ka.toNat_lt
  have := o.g.isLt
  have r1 : bits (0x0E00005F + encTD o) 1 6 = 47 := by simp only [bits, encTD]; omega
  have r2 : bits (0x0E00005F + encTD o) 25 7 = 7 := by simp only [bits, encTD]; omega
  have r3 : bits (0x0E00005F + encTD o) 22 3 = 0 := by simp only [bits, encTD]; omega
  have hr : rowOf32 (0x0E00005F + encTD o) = some .tdiff := by
    rw [rowOf32_2F r1]
    simp [rowMajor2F, r2, r3]
  have e1 : field (0x0E00005F + encTD o) 18 4 = o.t := field_back (by simp only [encTD]; omega)
  have e2 : bits (0x0E00005F + encTD o) 11 7 = dstCode o.d := by simp only [bits, encTD]; omega
  have e3 : bit (0x0E00005F + encTD o) 10 = o.k1 := bit_back (by simp only [encTD]; omega)
  have e4 : bit (0x0E00005F + encTD o) 9 = o.ka := bit_back (by simp only [encTD]; omega)
  have e5 : field (0x0E00005F + encTD o) 7 2 = o.g := field_back (by simp only [encTD]; omega)
  have hi : decTD (0x0E00005F + encTD o) = o := by simp only [decTD, e1, e2, dst_back _ hd, e3, e4, e5]
  exact decode_word32 (r := .tdiff) (i := .tdiff o) (by simp only [encTD]; omega) (by simp only [encTD]; omega) hr (show Instr.tdiff (decTD _) = _ from congrArg Instr.tdiff hi) rest

theorem Encoded.yieldt (o : FmtTR) : Encoded.Statement (.yieldt o) := by
  intro h n w he rest
  obtain ⟨rfl, rfl⟩ := Prod.mk.inj (Option.some.inj he)
  simp only [Instr.fits] at h
  have := o.t.isLt
  have := o.k1.toNat_lt
  have := o.ka.toNat_lt
  have := o.g.isLt
  have r1 : bits (0x1000005F + encTR o) 1 6 = 47 := by simp only [bits, encTR]; omega
  have r2 : bits (0x1000005F + encTR o) 25 7 = 8 := by simp only [bits, encTR]; omega
  have r3 : bits (0x1000005F + encTR o) 22 3 = 0 := by simp only [bits, encTR]; omega
  have r4 : bits (0x1000005F + encTR o) 11 7 = 0 := by simp only [bits, encTR]; omega
  have hr : rowOf32 (0x1000005F + encTR o) = some .yieldt := by
    rw [rowOf32_2F r1]
    simp [rowMajor2F, r2, r3, r4]
  have e1 : field (0x1000005F + encTR o) 18 4 = o.t := field_back (by simp only [encTR]; omega)
  have e2 : bit (0x1000005F + encTR o) 10 = o.k1 := bit_back (by simp only [encTR]; omega)
  have e3 : bit (0x1000005F + encTR o) 9 = o.ka := bit_back (by simp only [encTR]; omega)
  have e4 : field (0x1000005F + encTR o) 7 2 = o.g := field_back (by simp only [encTR]; omega)
  have hi : decTR (0x1000005F + encTR o) = o := by simp only [decTR, e1, e2, e3, e4]
  exact decode_word32 (r := .yieldt) (i := .yieldt o) (by simp only [encTR]; omega) (by simp only [encTR]; omega) hr (show Instr.yieldt (decTR _) = _ from congrArg Instr.yieldt hi) rest

theorem Encoded.trap (o : FmtK) : Encoded.Statement (.trap o) := by
  intro h n w he rest
  obtain ⟨rfl, rfl⟩ := Prod.mk.inj (Option.some.inj he)
  simp only [Instr.fits] at h
  have := o.k.isLt
  have := o.k1.toNat_lt
  have := o.ka.toNat_lt
  have r1 : bits (0x0000007B + encK o) 1 6 = 61 := by simp only [bits, encK]; omega
  have r2 : bits (0x0000007B + encK o) 25 7 = 0 := by simp only [bits, encK]; omega
  have r3 : bits (0x0000007B + encK o) 11 7 = 0 := by simp only [bits, encK]; omega
  have r4 : bits (0x0000007B + encK o) 7 2 = 0 := by simp only [bits, encK]; omega
  have hr : rowOf32 (0x0000007B + encK o) = some .trap := by
    rw [rowOf32_3D r1]
    simp [rowMajor3D, r2, r3, r4]
  have e1 : field (0x0000007B + encK o) 18 7 = o.k := field_back (by simp only [encK]; omega)
  have e2 : bit (0x0000007B + encK o) 10 = o.k1 := bit_back (by simp only [encK]; omega)
  have e3 : bit (0x0000007B + encK o) 9 = o.ka := bit_back (by simp only [encK]; omega)
  have hi : decK (0x0000007B + encK o) = o := by simp only [decK, e1, e2, e3]
  exact decode_word32 (r := .trap) (i := .trap o) (by simp only [encK]; omega) (by simp only [encK]; omega) hr (show Instr.trap (decK _) = _ from congrArg Instr.trap hi) rest

theorem Encoded.bkpt (o : FmtK) : Encoded.Statement (.bkpt o) := by
  intro h n w he rest
  obtain ⟨rfl, rfl⟩ := Prod.mk.inj (Option.some.inj he)
  simp only [Instr.fits] at h
  have := o.k.isLt
  have := o.k1.toNat_lt
  have := o.ka.toNat_lt
  have r1 : bits (0x0200007B + encK o) 1 6 = 61 := by simp only [bits, encK]; omega
  have r2 : bits (0x0200007B + encK o) 25 7 = 1 := by simp only [bits, encK]; omega
  have r3 : bits (0x0200007B + encK o) 11 7 = 0 := by simp only [bits, encK]; omega
  have r4 : bits (0x0200007B + encK o) 7 2 = 0 := by simp only [bits, encK]; omega
  have hr : rowOf32 (0x0200007B + encK o) = some .bkpt := by
    rw [rowOf32_3D r1]
    simp [rowMajor3D, r2, r3, r4]
  have e1 : field (0x0200007B + encK o) 18 7 = o.k := field_back (by simp only [encK]; omega)
  have e2 : bit (0x0200007B + encK o) 10 = o.k1 := bit_back (by simp only [encK]; omega)
  have e3 : bit (0x0200007B + encK o) 9 = o.ka := bit_back (by simp only [encK]; omega)
  have hi : decK (0x0200007B + encK o) = o := by simp only [decK, e1, e2, e3]
  exact decode_word32 (r := .bkpt) (i := .bkpt o) (by simp only [encK]; omega) (by simp only [encK]; omega) hr (show Instr.bkpt (decK _) = _ from congrArg Instr.bkpt hi) rest

theorem Encoded.eret (o : FmtKA) : Encoded.Statement (.eret o) := by
  intro h n w he rest
  obtain ⟨rfl, rfl⟩ := Prod.mk.inj (Option.some.inj he)
  simp only [Instr.fits] at h
  have := o.ka.toNat_lt
  have r1 : bits (0x0400007B + encKA o) 1 6 = 61 := by simp only [bits, encKA]; omega
  have r2 : bits (0x0400007B + encKA o) 25 7 = 2 := by simp only [bits, encKA]; omega
  have r3 : bits (0x0400007B + encKA o) 11 14 = 0 := by simp only [bits, encKA]; omega
  have r4 : bits (0x0400007B + encKA o) 7 2 = 0 := by simp only [bits, encKA]; omega
  have r5 : bit (0x0400007B + encKA o) 10 = false := bit_off (by simp only [encKA]; omega)
  have hr : rowOf32 (0x0400007B + encKA o) = some .eret := by
    rw [rowOf32_3D r1]
    simp [rowMajor3D, r2, r3, r4, r5]
  have e1 : bit (0x0400007B + encKA o) 9 = o.ka := bit_back (by simp only [encKA]; omega)
  have hi : decKA (0x0400007B + encKA o) = o := by simp only [decKA, e1]
  exact decode_word32 (r := .eret) (i := .eret o) (by simp only [encKA]; omega) (by simp only [encKA]; omega) hr (show Instr.eret (decKA _) = _ from congrArg Instr.eret hi) rest

theorem Encoded.eretFail (o : FmtKA) : Encoded.Statement (.eretFail o) := by
  intro h n w he rest
  obtain ⟨rfl, rfl⟩ := Prod.mk.inj (Option.some.inj he)
  simp only [Instr.fits] at h
  have := o.ka.toNat_lt
  have r1 : bits (0x0400047B + encKA o) 1 6 = 61 := by simp only [bits, encKA]; omega
  have r2 : bits (0x0400047B + encKA o) 25 7 = 2 := by simp only [bits, encKA]; omega
  have r3 : bits (0x0400047B + encKA o) 11 14 = 0 := by simp only [bits, encKA]; omega
  have r4 : bits (0x0400047B + encKA o) 7 2 = 0 := by simp only [bits, encKA]; omega
  have r5 : bit (0x0400047B + encKA o) 10 = true := bit_on (by simp only [encKA]; omega)
  have hr : rowOf32 (0x0400047B + encKA o) = some .eretFail := by
    rw [rowOf32_3D r1]
    simp [rowMajor3D, r2, r3, r4, r5]
  have e1 : bit (0x0400047B + encKA o) 9 = o.ka := bit_back (by simp only [encKA]; omega)
  have hi : decKA (0x0400047B + encKA o) = o := by simp only [decKA, e1]
  exact decode_word32 (r := .eretFail) (i := .eretFail o) (by simp only [encKA]; omega) (by simp only [encKA]; omega) hr (show Instr.eretFail (decKA _) = _ from congrArg Instr.eretFail hi) rest

theorem Encoded.srd (o : FmtSrd) : Encoded.Statement (.srd o) := by
  intro h n w he rest
  obtain ⟨rfl, rfl⟩ := Prod.mk.inj (Option.some.inj he)
  simp only [Instr.fits] at h
  have := groupValCode_lt o.val
  have := udstCode_lt o.d
  have := o.ka.toNat_lt
  have r1 : bits (0x0600007B + encSrd o) 1 6 = 61 := by simp only [bits, encSrd]; omega
  have r2 : bits (0x0600007B + encSrd o) 25 7 = 3 := by simp only [bits, encSrd]; omega
  have r3 : bits (0x0600007B + encSrd o) 7 2 = 0 := by simp only [bits, encSrd]; omega
  have r4 : bits (0x0600007B + encSrd o) 18 7 = groupValCode o.val := by simp only [bits, encSrd]; omega
  have r5 : bit (0x0600007B + encSrd o) 10 = false := bit_off (by simp only [encSrd]; omega)
  have hr : rowOf32 (0x0600007B + encSrd o) = some .srd := by
    rw [rowOf32_3D r1]
    simp [rowMajor3D, r2, r3, r4, r5, *]
  have e1 : bits (0x0600007B + encSrd o) 18 7 = groupValCode o.val := by simp only [bits, encSrd]; omega
  have e2 : bits (0x0600007B + encSrd o) 11 7 = udstCode o.d := by simp only [bits, encSrd]; omega
  have e3 : bit (0x0600007B + encSrd o) 9 = o.ka := bit_back (by simp only [encSrd]; omega)
  have hi : decSrd (0x0600007B + encSrd o) = o := by simp only [decSrd, e1, groupVal_back, e2, udst_back, e3]
  exact decode_word32 (r := .srd) (i := .srd o) (by simp only [encSrd]; omega) (by simp only [encSrd]; omega) hr (show Instr.srd (decSrd _) = _ from congrArg Instr.srd hi) rest

theorem Encoded.srdV (o : FmtSrdV) : Encoded.Statement (.srdV o) := by
  intro h n w he rest
  obtain ⟨rfl, rfl⟩ := Prod.mk.inj (Option.some.inj he)
  simp only [Instr.fits] at h
  have hd := h
  have := threadValCode_lt o.val
  have := threadValCode_ge o.val
  have := dstCode_lt o.d
  have := o.ka.toNat_lt
  have := o.g.isLt
  have r1 : bits (0x0600047B + encSrdV o) 1 6 = 61 := by simp only [bits, encSrdV]; omega
  have r2 : bits (0x0600047B + encSrdV o) 25 7 = 3 := by simp only [bits, encSrdV]; omega
  have r3 : bit (0x0600047B + encSrdV o) 10 = true := bit_on (by simp only [encSrdV]; omega)
  have r4 : bits (0x0600047B + encSrdV o) 18 7 = threadValCode o.val := by simp only [bits, encSrdV]; omega
  have hr : rowOf32 (0x0600047B + encSrdV o) = some .srdV := by
    rw [rowOf32_3D r1]
    have : threadValCode o.val < 36 := by omega
    simp [rowMajor3D, r2, r3, r4, *]
  have e1 : bits (0x0600047B + encSrdV o) 18 7 = threadValCode o.val := by simp only [bits, encSrdV]; omega
  have e2 : bits (0x0600047B + encSrdV o) 11 7 = dstCode o.d := by simp only [bits, encSrdV]; omega
  have e3 : bit (0x0600047B + encSrdV o) 9 = o.ka := bit_back (by simp only [encSrdV]; omega)
  have e4 : field (0x0600047B + encSrdV o) 7 2 = o.g := field_back (by simp only [encSrdV]; omega)
  have hi : decSrdV (0x0600047B + encSrdV o) = o := by simp only [decSrdV, e1, threadVal_back, e2, dst_back _ hd, e3, e4]
  exact decode_word32 (r := .srdV) (i := .srdV o) (by simp only [encSrdV]; omega) (by simp only [encSrdV]; omega) hr (show Instr.srdV (decSrdV _) = _ from congrArg Instr.srdV hi) rest

theorem Encoded.swr (o : FmtSwr) : Encoded.Statement (.swr o) := by
  intro h n w he rest
  obtain ⟨rfl, rfl⟩ := Prod.mk.inj (Option.some.inj he)
  simp only [Instr.fits] at h
  have ha := h
  have := o.flags.toNat_lt
  have := usrcCode_lt o.a
  have := o.ka.toNat_lt
  have r1 : bits (0x0800007B + 8 * 2 ^ 11 + encSwr o) 1 6 = 61 := by simp only [bits, encSwr]; omega
  have r2 : bits (0x0800007B + 8 * 2 ^ 11 + encSwr o) 25 7 = 4 := by simp only [bits, encSwr]; omega
  have r3 : bits (0x0800007B + 8 * 2 ^ 11 + encSwr o) 7 2 = 0 := by simp only [bits, encSwr]; omega
  have r4 : bits (0x0800007B + 8 * 2 ^ 11 + encSwr o) 11 7 = 8 ∨ bits (0x0800007B + 8 * 2 ^ 11 + encSwr o) 11 7 = 9 := by simp only [bits, encSwr]; omega
  have r5 : bit (0x0800007B + 8 * 2 ^ 11 + encSwr o) 10 = false := bit_off (by simp only [encSwr]; omega)
  have hr : rowOf32 (0x0800007B + 8 * 2 ^ 11 + encSwr o) = some .swr := by
    rw [rowOf32_3D r1]
    generalize 0x0800007B + 8 * 2 ^ 11 + encSwr o = x at r2 r3 r4 r5 ⊢
    simp [rowMajor3D, r2, r3, r4, r5]
  have e1 : bit (0x0800007B + 8 * 2 ^ 11 + encSwr o) 11 = o.flags := bit_back (by simp only [encSwr]; omega)
  have e2 : bits (0x0800007B + 8 * 2 ^ 11 + encSwr o) 18 7 = usrcCode o.a := by simp only [bits, encSwr]; omega
  have e3 : bit (0x0800007B + 8 * 2 ^ 11 + encSwr o) 9 = o.ka := bit_back (by simp only [encSwr]; omega)
  have hi : decSwr (0x0800007B + 8 * 2 ^ 11 + encSwr o) = o := by simp only [decSwr, e1, e2, usrc_back _ ha, e3]
  exact decode_word32 (r := .swr) (i := .swr o) (by simp only [encSwr]; omega) (by simp only [encSwr]; omega) hr (show Instr.swr (decSwr _) = _ from congrArg Instr.swr hi) rest

theorem Encoded.swrV (o : FmtSwrV) : Encoded.Statement (.swrV o) := by
  intro h n w he rest
  obtain ⟨rfl, rfl⟩ := Prod.mk.inj (Option.some.inj he)
  simp only [Instr.fits] at h
  have := srcCode_lt o.a
  have := o.ka.toNat_lt
  have := o.g.isLt
  have r1 : bits (0x0800047B + 32 * 2 ^ 11 + encSwrV o) 1 6 = 61 := by simp only [bits, encSwrV]; omega
  have r2 : bits (0x0800047B + 32 * 2 ^ 11 + encSwrV o) 25 7 = 4 := by simp only [bits, encSwrV]; omega
  have r3 : bit (0x0800047B + 32 * 2 ^ 11 + encSwrV o) 10 = true := bit_on (by simp only [encSwrV]; omega)
  have r4 : bits (0x0800047B + 32 * 2 ^ 11 + encSwrV o) 11 7 = 32 := by simp only [bits, encSwrV]; omega
  have hr : rowOf32 (0x0800047B + 32 * 2 ^ 11 + encSwrV o) = some .swrV := by
    rw [rowOf32_3D r1]
    generalize 0x0800047B + 32 * 2 ^ 11 + encSwrV o = x at r2 r3 r4 ⊢
    simp [rowMajor3D, r2, r3, r4]
  have e1 : bits (0x0800047B + 32 * 2 ^ 11 + encSwrV o) 18 7 = srcCode o.a := by simp only [bits, encSwrV]; omega
  have e2 : bit (0x0800047B + 32 * 2 ^ 11 + encSwrV o) 9 = o.ka := bit_back (by simp only [encSwrV]; omega)
  have e3 : field (0x0800047B + 32 * 2 ^ 11 + encSwrV o) 7 2 = o.g := field_back (by simp only [encSwrV]; omega)
  have hi : decSwrV (0x0800047B + 32 * 2 ^ 11 + encSwrV o) = o := by simp only [decSwrV, e1, src_back, e2, e3]
  exact decode_word32 (r := .swrV) (i := .swrV o) (by simp only [encSwrV]; omega) (by simp only [encSwrV]; omega) hr (show Instr.swrV (decSwrV _) = _ from congrArg Instr.swrV hi) rest

theorem Encoded.idemb (o : FmtNK) : Encoded.Statement (.idemb o) := by
  intro h n w he rest
  obtain ⟨rfl, rfl⟩ := Prod.mk.inj (Option.some.inj he)
  simp only [Instr.fits] at h
  have r1 : bits (0x0A00007B + encNK o) 1 6 = 61 := (encNK_facts 5 123 (by decide) (by decide) o).2.2.1
  have r2 : bits (0x0A00007B + encNK o) 25 7 = 5 := (encNK_facts 5 123 (by decide) (by decide) o).2.2.2.1
  have r3 : bits (0x0A00007B + encNK o) 11 14 = 0 := (encNK_facts 5 123 (by decide) (by decide) o).2.2.2.2.1
  have r4 : bits (0x0A00007B + encNK o) 7 2 = 0 := (encNK_facts 5 123 (by decide) (by decide) o).2.2.2.2.2
  have hr : rowOf32 (0x0A00007B + encNK o) = some .idemb := by
    rw [rowOf32_3D r1]
    simp [rowMajor3D, r2, r3, r4]
  exact decode_word32 (r := .idemb) (i := .idemb o) (encNK_facts 5 123 (by decide) (by decide) o).2.1 (encNK_facts 5 123 (by decide) (by decide) o).1 hr (show Instr.idemb (decNK _) = _ from congrArg Instr.idemb (decNK_back 5 123 (by decide) o)) rest

theorem Encoded.ideme (o : FmtNK) : Encoded.Statement (.ideme o) := by
  intro h n w he rest
  obtain ⟨rfl, rfl⟩ := Prod.mk.inj (Option.some.inj he)
  simp only [Instr.fits] at h
  have r1 : bits (0x0C00007B + encNK o) 1 6 = 61 := (encNK_facts 6 123 (by decide) (by decide) o).2.2.1
  have r2 : bits (0x0C00007B + encNK o) 25 7 = 6 := (encNK_facts 6 123 (by decide) (by decide) o).2.2.2.1
  have r3 : bits (0x0C00007B + encNK o) 11 14 = 0 := (encNK_facts 6 123 (by decide) (by decide) o).2.2.2.2.1
  have r4 : bits (0x0C00007B + encNK o) 7 2 = 0 := (encNK_facts 6 123 (by decide) (by decide) o).2.2.2.2.2
  have hr : rowOf32 (0x0C00007B + encNK o) = some .ideme := by
    rw [rowOf32_3D r1]
    simp [rowMajor3D, r2, r3, r4]
  exact decode_word32 (r := .ideme) (i := .ideme o) (encNK_facts 6 123 (by decide) (by decide) o).2.1 (encNK_facts 6 123 (by decide) (by decide) o).1 hr (show Instr.ideme (decNK _) = _ from congrArg Instr.ideme (decNK_back 6 123 (by decide) o)) rest

theorem Encoded.cbind (o : FmtCb) : Encoded.Statement (.cbind o) := by
  intro h n w he rest
  obtain ⟨rfl, rfl⟩ := Prod.mk.inj (Option.some.inj he)
  simp only [Instr.fits] at h
  have := srcCode_lt o.a
  have := o.c.isLt
  have := o.k1.toNat_lt
  have := o.ka.toNat_lt
  have r1 : bits (0x0E00007B + encCb o) 1 6 = 61 := by simp only [bits, encCb]; omega
  have r2 : bits (0x0E00007B + encCb o) 25 7 = 7 := by simp only [bits, encCb]; omega
  have r3 : bits (0x0E00007B + encCb o) 14 4 = 0 := by simp only [bits, encCb]; omega
  have r4 : bits (0x0E00007B + encCb o) 7 2 = 0 := by simp only [bits, encCb]; omega
  have hr : rowOf32 (0x0E00007B + encCb o) = some .cbind := by
    rw [rowOf32_3D r1]
    simp [rowMajor3D, r2, r3, r4]
  have e1 : bits (0x0E00007B + encCb o) 18 7 = srcCode o.a := by simp only [bits, encCb]; omega
  have e2 : field (0x0E00007B + encCb o) 11 3 = o.c := field_back (by simp only [encCb]; omega)
  have e3 : bit (0x0E00007B + encCb o) 10 = o.k1 := bit_back (by simp only [encCb]; omega)
  have e4 : bit (0x0E00007B + encCb o) 9 = o.ka := bit_back (by simp only [encCb]; omega)
  have hi : decCb (0x0E00007B + encCb o) = o := by simp only [decCb, e1, src_back, e2, e3, e4]
  exact decode_word32 (r := .cbind) (i := .cbind o) (by simp only [encCb]; omega) (by simp only [encCb]; omega) hr (show Instr.cbind (decCb _) = _ from congrArg Instr.cbind hi) rest

theorem Encoded.cunbind (o : FmtCu) : Encoded.Statement (.cunbind o) := by
  intro h n w he rest
  obtain ⟨rfl, rfl⟩ := Prod.mk.inj (Option.some.inj he)
  simp only [Instr.fits] at h
  have := o.c.isLt
  have := o.k1.toNat_lt
  have := o.ka.toNat_lt
  have r1 : bits (0x1000007B + encCu o) 1 6 = 61 := by simp only [bits, encCu]; omega
  have r2 : bits (0x1000007B + encCu o) 25 7 = 8 := by simp only [bits, encCu]; omega
  have r3 : bits (0x1000007B + encCu o) 18 7 = 0 := by simp only [bits, encCu]; omega
  have r4 : bits (0x1000007B + encCu o) 14 4 = 0 := by simp only [bits, encCu]; omega
  have r5 : bits (0x1000007B + encCu o) 7 2 = 0 := by simp only [bits, encCu]; omega
  have hr : rowOf32 (0x1000007B + encCu o) = some .cunbind := by
    rw [rowOf32_3D r1]
    simp [rowMajor3D, r2, r3, r4, r5]
  have e1 : field (0x1000007B + encCu o) 11 3 = o.c := field_back (by simp only [encCu]; omega)
  have e2 : bit (0x1000007B + encCu o) 10 = o.k1 := bit_back (by simp only [encCu]; omega)
  have e3 : bit (0x1000007B + encCu o) 9 = o.ka := bit_back (by simp only [encCu]; omega)
  have hi : decCu (0x1000007B + encCu o) = o := by simp only [decCu, e1, e2, e3]
  exact decode_word32 (r := .cunbind) (i := .cunbind o) (by simp only [encCu]; omega) (by simp only [encCu]; omega) hr (show Instr.cunbind (decCu _) = _ from congrArg Instr.cunbind hi) rest

theorem Encoded.qpostStatus (id : Nat) : Encoded.Statement (.qpostStatus id) := by
  intro _ n w he; exact nomatch (show (none : Option (Nat × Nat)) = some (n, w) from he)

theorem Encoded.fgetAnswer (id : Nat) : Encoded.Statement (.fgetAnswer id) := by
  intro _ n w he; exact nomatch (show (none : Option (Nat × Nat)) = some (n, w) from he)

theorem Encoded.heldEntryEnqueue (ctx : Nat) (queue : Nat) : Encoded.Statement (.heldEntryEnqueue ctx queue) := by
  intro _ n w he; exact nomatch (show (none : Option (Nat × Nat)) = some (n, w) from he)

theorem Encoded.turnStart (place : Place) (elapsed : Nat) : Encoded.Statement (.turnStart place elapsed) := by
  intro _ n w he; exact nomatch (show (none : Option (Nat × Nat)) = some (n, w) from he)

theorem Encoded.codeFetchReturn (id : Nat) : Encoded.Statement (.codeFetchReturn id) := by
  intro _ n w he; exact nomatch (show (none : Option (Nat × Nat)) = some (n, w) from he)

theorem Encoded.probeAnswer (id : Nat) (time : Nat) : Encoded.Statement (.probeAnswer id time) := by
  intro _ n w he; exact nomatch (show (none : Option (Nat × Nat)) = some (n, w) from he)

theorem Encoded.loadValueArrival (id : Nat) : Encoded.Statement (.loadValueArrival id) := by
  intro _ n w he; exact nomatch (show (none : Option (Nat × Nat)) = some (n, w) from he)

theorem Encoded.breachNotice (id : Nat) (time : Nat) : Encoded.Statement (.breachNotice id time) := by
  intro _ n w he; exact nomatch (show (none : Option (Nat × Nat)) = some (n, w) from he)

theorem Encoded.promiseWithdrawal (id : Nat) (cause : Cause) : Encoded.Statement (.promiseWithdrawal id cause) := by
  intro _ n w he; exact nomatch (show (none : Option (Nat × Nat)) = some (n, w) from he)

theorem Encoded.promiseLate (id : Nat) : Encoded.Statement (.promiseLate id) := by
  intro _ n w he; exact nomatch (show (none : Option (Nat × Nat)) = some (n, w) from he)

theorem Encoded.translationWalk (id : Nat) : Encoded.Statement (.translationWalk id) := by
  intro _ n w he; exact nomatch (show (none : Option (Nat × Nat)) = some (n, w) from he)

theorem Encoded.sliceAdmit (id : Nat) (slot : Nat) : Encoded.Statement (.sliceAdmit id slot) := by
  intro _ n w he; exact nomatch (show (none : Option (Nat × Nat)) = some (n, w) from he)

theorem Encoded.lineReadServe (line : Nat) : Encoded.Statement (.lineReadServe line) := by
  intro _ n w he; exact nomatch (show (none : Option (Nat × Nat)) = some (n, w) from he)

theorem Encoded.homeWriteApply (id : Nat) : Encoded.Statement (.homeWriteApply id) := by
  intro _ n w he; exact nomatch (show (none : Option (Nat × Nat)) = some (n, w) from he)

theorem Encoded.markerProcess (source : Nat) (sink : Nat) : Encoded.Statement (.markerProcess source sink) := by
  intro _ n w he; exact nomatch (show (none : Option (Nat × Nat)) = some (n, w) from he)

theorem Encoded.atomicHomeStep (id : Nat) : Encoded.Statement (.atomicHomeStep id) := by
  intro _ n w he; exact nomatch (show (none : Option (Nat × Nat)) = some (n, w) from he)

theorem Encoded.atomicReply (id : Nat) : Encoded.Statement (.atomicReply id) := by
  intro _ n w he; exact nomatch (show (none : Option (Nat × Nat)) = some (n, w) from he)

theorem Encoded.pinOutcome (id : Nat) : Encoded.Statement (.pinOutcome id) := by
  intro _ n w he; exact nomatch (show (none : Option (Nat × Nat)) = some (n, w) from he)

theorem Encoded.messageAppend (id : Nat) : Encoded.Statement (.messageAppend id) := by
  intro _ n w he; exact nomatch (show (none : Option (Nat × Nat)) = some (n, w) from he)

theorem Encoded.reductionEntryLeave (core : Nat) (key : Nat) : Encoded.Statement (.reductionEntryLeave core key) := by
  intro _ n w he; exact nomatch (show (none : Option (Nat × Nat)) = some (n, w) from he)

theorem Encoded.overflowDrain (ctx : Nat) (die : Nat) : Encoded.Statement (.overflowDrain ctx die) := by
  intro _ n w he; exact nomatch (show (none : Option (Nat × Nat)) = some (n, w) from he)

theorem Encoded.taskEndUpdate (id : Nat) : Encoded.Statement (.taskEndUpdate id) := by
  intro _ n w he; exact nomatch (show (none : Option (Nat × Nat)) = some (n, w) from he)

theorem Encoded.hostEnqueue (ctx : Nat) (session : Nat) (queue : Nat) (image : List Byte) : Encoded.Statement (.hostEnqueue ctx session queue image) := by
  intro _ n w he; exact nomatch (show (none : Option (Nat × Nat)) = some (n, w) from he)

theorem Encoded.depCounterNotice (entry : Nat) : Encoded.Statement (.depCounterNotice entry) := by
  intro _ n w he; exact nomatch (show (none : Option (Nat × Nat)) = some (n, w) from he)

theorem Encoded.agingTick (entry : Nat) : Encoded.Statement (.agingTick entry) := by
  intro _ n w he; exact nomatch (show (none : Option (Nat × Nat)) = some (n, w) from he)

theorem Encoded.entryPull (die : Nat) : Encoded.Statement (.entryPull die) := by
  intro _ n w he; exact nomatch (show (none : Option (Nat × Nat)) = some (n, w) from he)

theorem Encoded.taskStart (entry : Nat) : Encoded.Statement (.taskStart entry) := by
  intro _ n w he; exact nomatch (show (none : Option (Nat × Nat)) = some (n, w) from he)

theorem Encoded.engineQuote (id : Nat) (time : Word) : Encoded.Statement (.engineQuote id time) := by
  intro _ n w he; exact nomatch (show (none : Option (Nat × Nat)) = some (n, w) from he)

theorem Encoded.engineStart (id : Nat) : Encoded.Statement (.engineStart id) := by
  intro _ n w he; exact nomatch (show (none : Option (Nat × Nat)) = some (n, w) from he)

theorem Encoded.engineComplete (id : Nat) : Encoded.Statement (.engineComplete id) := by
  intro _ n w he; exact nomatch (show (none : Option (Nat × Nat)) = some (n, w) from he)

theorem Encoded.mcrdReceiverDelivery (id : Nat) (receiver : Nat) : Encoded.Statement (.mcrdReceiverDelivery id receiver) := by
  intro _ n w he; exact nomatch (show (none : Option (Nat × Nat)) = some (n, w) from he)

theorem Encoded.collInstanceForm (id : Nat) (agrees : Bool) : Encoded.Statement (.collInstanceForm id agrees) := by
  intro _ n w he; exact nomatch (show (none : Option (Nat × Nat)) = some (n, w) from he)

theorem Encoded.deckOpStart (quad : Nat) : Encoded.Statement (.deckOpStart quad) := by
  intro _ n w he; exact nomatch (show (none : Option (Nat × Nat)) = some (n, w) from he)

theorem Encoded.deckReadReady (quad : Nat) : Encoded.Statement (.deckReadReady quad) := by
  intro _ n w he; exact nomatch (show (none : Option (Nat × Nat)) = some (n, w) from he)

theorem Encoded.deckOpComplete (quad : Nat) : Encoded.Statement (.deckOpComplete quad) := by
  intro _ n w he; exact nomatch (show (none : Option (Nat × Nat)) = some (n, w) from he)

theorem Encoded.dzeroWaitTimeout (group : Nat) : Encoded.Statement (.dzeroWaitTimeout group) := by
  intro _ n w he; exact nomatch (show (none : Option (Nat × Nat)) = some (n, w) from he)

theorem Encoded.quantumExpiry (core : Nat) (span : Nat) : Encoded.Statement (.quantumExpiry core span) := by
  intro _ n w he; exact nomatch (show (none : Option (Nat × Nat)) = some (n, w) from he)

theorem Encoded.groupSave (group : Nat) : Encoded.Statement (.groupSave group) := by
  intro _ n w he; exact nomatch (show (none : Option (Nat × Nat)) = some (n, w) from he)

theorem Encoded.groupResident (group : Nat) : Encoded.Statement (.groupResident group) := by
  intro _ n w he; exact nomatch (show (none : Option (Nat × Nat)) = some (n, w) from he)

theorem Encoded.compaction (core : Nat) (span : Nat) : Encoded.Statement (.compaction core span) := by
  intro _ n w he; exact nomatch (show (none : Option (Nat × Nat)) = some (n, w) from he)

theorem Encoded.detRoundStart (ctx : Nat) : Encoded.Statement (.detRoundStart ctx) := by
  intro _ n w he; exact nomatch (show (none : Option (Nat × Nat)) = some (n, w) from he)

theorem Encoded.registerScrub (group : Nat) (corrected : Nat) (words : ScrubWords) (control : Bool) : Encoded.Statement (.registerScrub group corrected words control) := by
  intro _ n w he; exact nomatch (show (none : Option (Nat × Nat)) = some (n, w) from he)

theorem Encoded.dieFence (die : Nat) : Encoded.Statement (.dieFence die) := by
  intro _ n w he; exact nomatch (show (none : Option (Nat × Nat)) = some (n, w) from he)

theorem Encoded.linkRetry (link : Nat) (ids : List Nat) (time : Nat) : Encoded.Statement (.linkRetry link ids time) := by
  intro _ n w he; exact nomatch (show (none : Option (Nat × Nat)) = some (n, w) from he)

theorem Encoded.correctedMemoryError (mdie : Nat) (ids : List Nat) (time : Nat) : Encoded.Statement (.correctedMemoryError mdie ids time) := by
  intro _ n w he; exact nomatch (show (none : Option (Nat × Nat)) = some (n, w) from he)

theorem Encoded.clockStepDown (r : HeatReading) : Encoded.Statement (.clockStepDown r) := by
  intro _ n w he; exact nomatch (show (none : Option (Nat × Nat)) = some (n, w) from he)

theorem Encoded.clockStepUp (r : HeatReading) : Encoded.Statement (.clockStepUp r) := by
  intro _ n w he; exact nomatch (show (none : Option (Nat × Nat)) = some (n, w) from he)

theorem Encoded.emergencyThrottle (r : DroopReading) (ids : List Nat) (time : Nat) : Encoded.Statement (.emergencyThrottle r ids time) := by
  intro _ n w he; exact nomatch (show (none : Option (Nat × Nat)) = some (n, w) from he)

theorem Encoded.refreshDouble (r : TempReading) : Encoded.Statement (.refreshDouble r) := by
  intro _ n w he; exact nomatch (show (none : Option (Nat × Nat)) = some (n, w) from he)

theorem Encoded.sensorOvertempFence (r : TempReading) : Encoded.Statement (.sensorOvertempFence r) := by
  intro _ n w he; exact nomatch (show (none : Option (Nat × Nat)) = some (n, w) from he)

theorem Encoded.frequencySwitch (die : Nat) : Encoded.Statement (.frequencySwitch die) := by
  intro _ n w he; exact nomatch (show (none : Option (Nat × Nat)) = some (n, w) from he)

theorem Encoded.linkWidthReduce (link : Nat) (failing : Bool) : Encoded.Statement (.linkWidthReduce link failing) := by
  intro _ n w he; exact nomatch (show (none : Option (Nat × Nat)) = some (n, w) from he)

theorem Encoded.linkWidthIncrease (link : Nat) : Encoded.Statement (.linkWidthIncrease link) := by
  intro _ n w he; exact nomatch (show (none : Option (Nat × Nat)) = some (n, w) from he)

theorem Encoded.viaductPathChange (link : Nat) (back : Bool) : Encoded.Statement (.viaductPathChange link back) := by
  intro _ n w he; exact nomatch (show (none : Option (Nat × Nat)) = some (n, w) from he)

theorem Encoded.powerOn (trial : BootTrial) : Encoded.Statement (.powerOn trial) := by
  intro _ n w he; exact nomatch (show (none : Option (Nat × Nat)) = some (n, w) from he)

theorem Encoded.ueInboundRequest (r : UeRequest) : Encoded.Statement (.ueInboundRequest r) := by
  intro _ n w he; exact nomatch (show (none : Option (Nat × Nat)) = some (n, w) from he)

theorem Encoded.remoteWriteAck (id : Nat) : Encoded.Statement (.remoteWriteAck id) := by
  intro _ n w he; exact nomatch (show (none : Option (Nat × Nat)) = some (n, w) from he)

theorem Encoded.getVersion (conn : Nat) : Encoded.Statement (.getVersion conn) := by
  intro _ n w he; exact nomatch (show (none : Option (Nat × Nat)) = some (n, w) from he)

theorem Encoded.getCapabilities (conn : Nat) (version : Nat) : Encoded.Statement (.getCapabilities conn version) := by
  intro _ n w he; exact nomatch (show (none : Option (Nat × Nat)) = some (n, w) from he)

theorem Encoded.negotiateAlgorithms (conn : Nat) (offered : SpdmAlgorithms) : Encoded.Statement (.negotiateAlgorithms conn offered) := by
  intro _ n w he; exact nomatch (show (none : Option (Nat × Nat)) = some (n, w) from he)

theorem Encoded.getDigests (conn : Nat) : Encoded.Statement (.getDigests conn) := by
  intro _ n w he; exact nomatch (show (none : Option (Nat × Nat)) = some (n, w) from he)

theorem Encoded.getCertificate (conn : Nat) (slot : Nat) (offset : Nat) (len : Nat) : Encoded.Statement (.getCertificate conn slot offset len) := by
  intro _ n w he; exact nomatch (show (none : Option (Nat × Nat)) = some (n, w) from he)

theorem Encoded.challenge (conn : Nat) (slot : Nat) (nonce : Nat) : Encoded.Statement (.challenge conn slot nonce) := by
  intro _ n w he; exact nomatch (show (none : Option (Nat × Nat)) = some (n, w) from he)

theorem Encoded.getMeasurements (conn : Nat) (block : Nat) : Encoded.Statement (.getMeasurements conn block) := by
  intro _ n w he; exact nomatch (show (none : Option (Nat × Nat)) = some (n, w) from he)

theorem Encoded.keyExchange (conn : Nat) (slot : Nat) (pub : Nat) : Encoded.Statement (.keyExchange conn slot pub) := by
  intro _ n w he; exact nomatch (show (none : Option (Nat × Nat)) = some (n, w) from he)

theorem Encoded.finish (session : Nat) (verified : Bool) : Encoded.Statement (.finish session verified) := by
  intro _ n w he; exact nomatch (show (none : Option (Nat × Nat)) = some (n, w) from he)

theorem Encoded.heartbeat (session : Nat) : Encoded.Statement (.heartbeat session) := by
  intro _ n w he; exact nomatch (show (none : Option (Nat × Nat)) = some (n, w) from he)

theorem Encoded.keyUpdate (session : Nat) : Encoded.Statement (.keyUpdate session) := by
  intro _ n w he; exact nomatch (show (none : Option (Nat × Nat)) = some (n, w) from he)

theorem Encoded.endSession (session : Nat) : Encoded.Statement (.endSession session) := by
  intro _ n w he; exact nomatch (show (none : Option (Nat × Nat)) = some (n, w) from he)

theorem Encoded.spdmUnsupported (conn : Nat) (code : Nat) : Encoded.Statement (.spdmUnsupported conn code) := by
  intro _ n w he; exact nomatch (show (none : Option (Nat × Nat)) = some (n, w) from he)

theorem Encoded.mgmtMalformed (session : Option Nat) (port : BitVec 3) (head : List Byte) : Encoded.Statement (.mgmtMalformed session port head) := by
  intro _ n w he; exact nomatch (show (none : Option (Nat × Nat)) = some (n, w) from he)

theorem Encoded.ctxstart (h : MgmtHead) (descriptor : Nat) : Encoded.Statement (.ctxstart h descriptor) := by
  intro _ n w he; exact nomatch (show (none : Option (Nat × Nat)) = some (n, w) from he)

theorem Encoded.ctxend (h : MgmtHead) : Encoded.Statement (.ctxend h) := by
  intro _ n w he; exact nomatch (show (none : Option (Nat × Nat)) = some (n, w) from he)

theorem Encoded.ctxendComplete (ctx : Nat) : Encoded.Statement (.ctxendComplete ctx) := by
  intro _ n w he; exact nomatch (show (none : Option (Nat × Nat)) = some (n, w) from he)

theorem Encoded.suspend (h : MgmtHead) : Encoded.Statement (.suspend h) := by
  intro _ n w he; exact nomatch (show (none : Option (Nat × Nat)) = some (n, w) from he)

theorem Encoded.resume (h : MgmtHead) : Encoded.Statement (.resume h) := by
  intro _ n w he; exact nomatch (show (none : Option (Nat × Nat)) = some (n, w) from he)

theorem Encoded.tlbinv (h : MgmtHead) (base : DWord) (len : Nat) (force : Bool) : Encoded.Statement (.tlbinv h base len force) := by
  intro _ n w he; exact nomatch (show (none : Option (Nat × Nat)) = some (n, w) from he)

theorem Encoded.tlbinvComplete (id : Nat) : Encoded.Statement (.tlbinvComplete id) := by
  intro _ n w he; exact nomatch (show (none : Option (Nat × Nat)) = some (n, w) from he)

theorem Encoded.hwinset (h : MgmtHead) (w : WindowSetting) : Encoded.Statement (.hwinset h w) := by
  intro _ n w he; exact nomatch (show (none : Option (Nat × Nat)) = some (n, w) from he)

theorem Encoded.hwinsetComplete (window : Nat) : Encoded.Statement (.hwinsetComplete window) := by
  intro _ n w he; exact nomatch (show (none : Option (Nat × Nat)) = some (n, w) from he)

theorem Encoded.keyset (h : MgmtHead) (mask : BitVec 64) (domain : Nat) : Encoded.Statement (.keyset h mask domain) := by
  intro _ n w he; exact nomatch (show (none : Option (Nat × Nat)) = some (n, w) from he)

theorem Encoded.keyerase (h : MgmtHead) (mask : BitVec 64) (domain : Nat) : Encoded.Statement (.keyerase h mask domain) := by
  intro _ n w he; exact nomatch (show (none : Option (Nat × Nat)) = some (n, w) from he)

theorem Encoded.modset (h : MgmtHead) (number : BitVec 6) : Encoded.Statement (.modset h number) := by
  intro _ n w he; exact nomatch (show (none : Option (Nat × Nat)) = some (n, w) from he)

theorem Encoded.fwupdate (h : MgmtHead) (piece : List Byte) (last : Bool) : Encoded.Statement (.fwupdate h piece last) := by
  intro _ n w he; exact nomatch (show (none : Option (Nat × Nat)) = some (n, w) from he)

theorem Encoded.dbgattach (h : MgmtHead) : Encoded.Statement (.dbgattach h) := by
  intro _ n w he; exact nomatch (show (none : Option (Nat × Nat)) = some (n, w) from he)

theorem Encoded.dbghalt (h : MgmtHead) (group : Nat) : Encoded.Statement (.dbghalt h group) := by
  intro _ n w he; exact nomatch (show (none : Option (Nat × Nat)) = some (n, w) from he)

theorem Encoded.dbghaltDie (h : MgmtHead) (die : Nat) : Encoded.Statement (.dbghaltDie h die) := by
  intro _ n w he; exact nomatch (show (none : Option (Nat × Nat)) = some (n, w) from he)

theorem Encoded.dbgrun (h : MgmtHead) (target : RunTarget) : Encoded.Statement (.dbgrun h target) := by
  intro _ n w he; exact nomatch (show (none : Option (Nat × Nat)) = some (n, w) from he)

theorem Encoded.dbgstep (h : MgmtHead) (group : Nat) (slot : BitVec 5) : Encoded.Statement (.dbgstep h group slot) := by
  intro _ n w he; exact nomatch (show (none : Option (Nat × Nat)) = some (n, w) from he)

theorem Encoded.dbgread (h : MgmtHead) (group : Nat) (item : DebugItem) : Encoded.Statement (.dbgread h group item) := by
  intro _ n w he; exact nomatch (show (none : Option (Nat × Nat)) = some (n, w) from he)

theorem Encoded.dbgwrite (h : MgmtHead) (group : Nat) (item : DebugItem) (value : DWord) : Encoded.Statement (.dbgwrite h group item value) := by
  intro _ n w he; exact nomatch (show (none : Option (Nat × Nat)) = some (n, w) from he)

theorem Encoded.trcstart (h : MgmtHead) (t : TraceSetting) : Encoded.Statement (.trcstart h t) := by
  intro _ n w he; exact nomatch (show (none : Option (Nat × Nat)) = some (n, w) from he)

theorem Encoded.trcstop (h : MgmtHead) : Encoded.Statement (.trcstop h) := by
  intro _ n w he; exact nomatch (show (none : Option (Nat × Nat)) = some (n, w) from he)

theorem Encoded.monread (h : MgmtHead) (u : MonUnit) : Encoded.Statement (.monread h u) := by
  intro _ n w he; exact nomatch (show (none : Option (Nat × Nat)) = some (n, w) from he)

theorem Encoded.linkset (h : MgmtHead) (r : LinkRequest) : Encoded.Statement (.linkset h r) := by
  intro _ n w he; exact nomatch (show (none : Option (Nat × Nat)) = some (n, w) from he)

theorem Encoded.portmode (h : MgmtHead) (port : Nat) (mode : Nat) : Encoded.Statement (.portmode h port mode) := by
  intro _ n w he; exact nomatch (show (none : Option (Nat × Nat)) = some (n, w) from he)

theorem Encoded.portRetrainDone (port : Nat) : Encoded.Statement (.portRetrainDone port) := by
  intro _ n w he; exact nomatch (show (none : Option (Nat × Nat)) = some (n, w) from he)

theorem Encoded.stallSample (core : Nat) (span : Nat) : Encoded.Statement (.stallSample core span) := by
  intro _ n w he; exact nomatch (show (none : Option (Nat × Nat)) = some (n, w) from he)

theorem Encoded.podModuleLoss (number : BitVec 6) : Encoded.Statement (.podModuleLoss number) := by
  intro _ n w he; exact nomatch (show (none : Option (Nat × Nat)) = some (n, w) from he)

end Sys2Proof.Laws
end

