-- ==== Sys2Proof/Safety.lean ====
section
/-! DEFINITION. The terms claims use: the invariant of every step, when an instruction executes normally, and what a pass
leaves alone. -/

namespace Sys2Proof.Machine

/-- What every step keeps: memory is in its canonical form, and no write of a step is left over. -/
def State.Inv (s : State) : Prop := s.mem.wf = true ∧ s.dev.log = []

/-- The active threads of a pass (R42). -/
def actives (op : Op) (g : Group) (turn : Turn) (pc : DWord) : List Nat := activeOf op g (presentOf g turn pc)

/-- What an instruction knows of its pass, at its first tick. -/
def passInfo (op : Op) (s : State) (g : Group) (turn : Turn) (pc : DWord) : PassInfo :=
  infoOf s.dev (rdOf s.dev g turn) g pc (actives op g turn pc)

/-- An instruction executes normally for the group in focus: its turn runs (R46), its RUN threads stand together at `pc`
(R47), the instruction is legal there (R121), what it names is ready (R95, R96), no thread meets a fault at its operands
(R230, R394), `pc` is not the end of a loop body (R54), and at least one thread is active (R42). -/
structure Runs (op : Op) (s : State) (g : Group) (turn : Turn) (pc : DWord) : Prop where
  focus : s.dev.focus = some g.gid
  here : s.dev.group? g.gid = some g
  hasTurn : g.turn = some turn
  fresh : turn.reissue = none
  log : s.dev.log = []
  first : broadcastPc g = some pc
  together : ∀ t < 32, isRun (thread g t) = true → (thread g t).pc = pc
  legal : op.illegal g pc = false
  operands : operandsAllowed (qRole s.dev g) g turn op.pos = true
  room : (actives op g turn pc).any (fifoFull op g) = false
  resolved : fgetOpen s.dev g = false
  regs : ∃ k, regsWhen s.dev (rdOf s.dev g turn) op.pos (actives op g turn pc) = .at_ k ∧ k ≤ s.dev.tickOf g.core
  fwds : fwdsWhen (rdOf s.dev g turn) op (presentOf g turn pc) (actives op g turn pc) ≤ s.dev.tickOf g.core
  open_ : ∀ t ∈ actives op g turn pc, op.gate s.mem (passInfo op s g turn pc) t { d := s.dev, g := g } = none
  sound : ∀ t ∈ actives op g turn pc, ∀ k, operandFault op { passInfo op s g turn pc with tick := k } t g = none
  inside : isLoopEnd g pc op.size = false
  some_ : actives op g turn pc ≠ []

/-- A result of 32 or of 64 bits. -/
inductive Value
  | one (x : Word)
  | two (x : DWord)
deriving DecidableEq, Repr

/-- The words of a result, the low one first (R118). -/
def Value.words : Value → List Word
  | .one x => [x]
  | .two x => [lowWord x, highWord x]

/-- A result as it enters L0 (R88). -/
def Value.whole : Value → DWord
  | .one x => x.zeroExtend 64
  | .two x => x

/-- Words into consecutive V registers of a thread. -/
def writeWords (r : VReg) (ws : List Word) (th : Thread) : Thread :=
  match ws with
  | [] => th
  | w :: rest => writeWords (r + 1) rest { th with v := th.v.set r.toNat w r.isLt }

/-- What a thread's registers become where a result goes to D (R87): V registers, or nothing. -/
def writeDst (d : Dst) (ws : List Word) (th : Thread) : Thread :=
  match d with
  | .v r => writeWords r ws th
  | .sup | .q | .rsv _ => th

/-- What a result pushes to Q (R87). -/
def pushDst (d : Dst) (ws : List Word) : List (Option Word) :=
  match d with
  | .q => [ws.head?]
  | .v _ | .sup | .rsv _ => []

/-- What an instruction that acts in each active thread for itself comes to, by its rule: the update of each thread, the
flags it raises, the words pushed to Q (R72), the result that enters L0 (R88), the branch taken, the scalar written after
the last thread, the flags of that step. -/
structure PassRule where
  upd : Nat → Thread → Thread := fun _ th => th
  fl : Nat → Flags := fun _ => 0
  push : Nat → List (Option Word) := fun _ => []
  res : Nat → Option DWord := fun _ => none
  next : Nat → Option DWord := fun _ => none
  scalar : Option (SReg × Word) := none
  flAll : Flags := 0

/-- What a pass leaves alone, whatever the instruction does in its threads: every byte of memory, the device but for the
group, its die's time and the step counter (a pass that reads Q also takes from its shadow's FIFOs), the group but for what
an instruction of its kind writes (the loop levels only where a control transfer may leave them, R55; the turn goes on unless R45 ends it), every absent thread,
and every present thread whose guard is false but for its pc. -/
structure Passed (op : Op) (s : State) (g : Group) (turn : Turn) (pc : DWord) (t : State) (g' : Group) : Prop where
  here : t.dev.group? g.gid = some g'
  mem : t.mem = s.mem
  dev : { t.dev with groups := s.dev.groups, dies := s.dev.dies, steps := s.dev.steps, focus := s.dev.focus } = s.dev
  others : op.pos.any readsQ = false → ∀ id, id ≠ g.gid → t.dev.group? id = s.dev.group? id
  group : { g' with
    threads := g.threads, s := g.s, c := g.c, flags := g.flags, poison := g.poison, qwin := g.qwin, turn := g.turn
    rc := g.rc, sb := g.sb, loops := g.loops } = g
  levels : op.pops = false → g'.loops = g.loops
  count : g'.rc = g.rc + 1
  turnOver : g'.turn = none ↔ (op.ends || op.always) = true ∨ Config.turnPasses ≤ turn.pos + 1 ∨ broadcastPc g' = none
  bound : ∀ k (h : k < 8), (g'.c[k]).map (·.reg) = (g.c[k]).map (·.reg)
  marks : ∀ p ∈ g'.poison, p ∈ g.poison
  absent : ∀ u < 32, u ∉ presentOf g turn pc → thread g' u = thread g u
  quiet : ∀ u ∈ presentOf g turn pc, u ∉ actives op g turn pc →
    thread g' u = { thread g u with pc := pc + BitVec.ofNat 64 op.size }

/-- What a pass comes to whose instruction acts in each active thread for itself: it leaves the rest alone, and does what
its rule says. New dead marks are on the registers that its operands mark (R93). -/
structure Lanes (op : Op) (s : State) (g : Group) (turn : Turn) (pc : DWord) (r : PassRule) (t : State) (g' : Group) : Prop where
  passed : Passed op s g turn pc t g'
  ran : ∀ u ∈ actives op g turn pc, { thread g' u with dead := 0 } =
    { r.upd u (thread g u) with pc := (r.next u).getD (pc + BitVec.ofNat 64 op.size), dead := 0 }
  dead : ∀ u ∈ actives op g turn pc, ∀ n, (thread g' u).dead.getLsbD n = true →
    (thread g u).dead.getLsbD n = true ∨ n ∈ op.pos.flatMap deadRegs
  scalars : g'.s = match r.scalar with
    | none => g.s
    | some (k, x) => g.s.set k.toNat x k.isLt
  flags : ∀ b, g'.flags.getLsbD b =
    (g.flags.getLsbD b || r.flAll.getLsbD b || (actives op g turn pc).any fun u => (r.fl u).getLsbD b)
  pushed : ∀ u < 32, (g'.qwin.toArray.getD u []).map (·.value) =
    (g.qwin.toArray.getD u []).map (·.value) ++ (if u ∈ actives op g turn pc then r.push u else [])
  latch : ∀ turn', g'.turn = some turn' → turn'.l1 = turn.l0 ∧ turn'.pos = turn.pos + 1 ∧ turn'.l0.void = op.void ∧
    ∀ u (h : u < 32), turn'.l0.lanes[u] = if u ∈ actives op g turn pc then (r.res u).getD 0 else 0

/-- What a pass comes to whose instruction acts once, for the group or for its one active thread: the group `h` and the
device `d` as the instruction left them, but for the pcs (`movers` go to `next`, the other present threads to the next
instruction), the turn, RC, the scoreboard, the task's commitment (R68) and the levels a control transfer has left (R55). -/
structure Once (op : Op) (s : State) (g : Group) (turn : Turn) (pc : DWord) (h : Group) (d : Device) (next : DWord)
    (movers : List Nat) (t : State) (g' : Group) : Prop where
  here : t.dev.group? g.gid = some g'
  mem : t.mem = memWriteAll s.mem d.log
  dev : { t.dev with
    groups := d.groups, dies := d.dies, steps := d.steps, focus := d.focus, log := d.log, deckOps := d.deckOps
    cmds := d.cmds } = d
  clean : d.log = [] → t.dev.deckOps = d.deckOps ∧ t.dev.cmds = d.cmds
  others : op.pos.any readsQ = false → ∀ id, id ≠ g.gid → (op.commits = true → g.partner ≠ some id) →
    t.dev.group? id = d.group? id
  group : { g' with
    threads := h.threads, c := h.c, turn := h.turn, rc := h.rc, sb := h.sb, qwin := h.qwin, loops := h.loops
    task := h.task } = h
  count : g'.rc = h.rc + 1
  turnOver : g'.turn = none ↔ (op.ends || op.always) = true ∨ Config.turnPasses ≤ turn.pos + 1 ∨ broadcastPc g' = none
  levels : op.pops = false → g'.loops = h.loops
  task : op.commits = false → g'.task = h.task
  committed : op.commits = true → g.partner = none → g'.task = h.task.map fun k => { k with committed := true }
  bound : ∀ k (q : k < 8), (g'.c[k]).map (·.reg) = (h.c[k]).map (·.reg)
  pcs : ∀ u < 32, thread g' u =
    if u ∈ movers then { thread h u with pc := next }
    else if u ∈ presentOf g turn pc then { thread h u with pc := pc + BitVec.ofNat 64 op.size } else thread h u

end Sys2Proof.Machine
end

