-- ==== Sys2Proof/Certificates/Slice0/Obligations.lean ====
section
/-! DEFINITION. The statements for the provers. `Rules` holds what the spec's tables say of each instruction, row by row. -/

section

open Sys2Proof Sys2Proof.Machine

/-! ## Instructions that compute in each thread -/

namespace Sys2Proof.Rules

/-- The source operands of a format-A instruction, of 32 and of 64 bits. -/
def a32 (o : FmtA) (i : PassInfo) (t : Nat) : Word := src32 i.rd t o.a
def b32 (o : FmtA) (i : PassInfo) (t : Nat) : Word := src32 i.rd t o.b
def a64 (o : FmtA) (i : PassInfo) (t : Nat) : DWord := src64 i.rd t o.a
def b64 (o : FmtA) (i : PassInfo) (t : Nat) : DWord := src64 i.rd t o.b

/-- Each integer instruction with its destination and its result in a thread, from the tables of R143 to R150. Integer
arithmetic is exact, then reduced (R137). -/
inductive IntA : Instr → Dst → (PassInfo → Nat → Value) → Prop
  | add (o : FmtA) : IntA (.add o) o.d fun i t => .one (.ofInt 32 ((a32 o i t).toInt + (b32 o i t).toInt))
  | sub (o : FmtA) : IntA (.sub o) o.d fun i t => .one (.ofInt 32 ((a32 o i t).toInt - (b32 o i t).toInt))
  | mullo (o : FmtA) : IntA (.mullo o) o.d fun i t => .one (.ofInt 32 ((a32 o i t).toInt * (b32 o i t).toInt))
  | mulhi (o : FmtA) : IntA (.mulhi o) o.d fun i t =>
      .one (.ofInt 32 ((a32 o i t).toInt * (b32 o i t).toInt / 2 ^ 32))
  | mulhiu (o : FmtA) : IntA (.mulhiu o) o.d fun i t =>
      .one (.ofNat 32 ((a32 o i t).toNat * (b32 o i t).toNat / 2 ^ 32))
  | mad (o : FmtA) : IntA (.mad o) o.d fun i t =>
      .one (.ofInt 32 ((a32 o i t).toInt * (b32 o i t).toInt + (acc32 i.rd t o.d).toInt))
  | absdiff (o : FmtA) : IntA (.absdiff o) o.d fun i t =>
      .one (.ofNat 32 ((a32 o i t).toInt - (b32 o i t).toInt).natAbs)
  | avg (o : FmtA) : IntA (.avg o) o.d fun i t =>
      .one (.ofInt 32 (((a32 o i t).toInt + (b32 o i t).toInt + 1) / 2))
  | min (o : FmtA) : IntA (.min o) o.d fun i t => .one (.ofInt 32 (min (a32 o i t).toInt (b32 o i t).toInt))
  | max (o : FmtA) : IntA (.max o) o.d fun i t => .one (.ofInt 32 (max (a32 o i t).toInt (b32 o i t).toInt))
  | minu (o : FmtA) : IntA (.minu o) o.d fun i t => .one (.ofNat 32 (min (a32 o i t).toNat (b32 o i t).toNat))
  | maxu (o : FmtA) : IntA (.maxu o) o.d fun i t => .one (.ofNat 32 (max (a32 o i t).toNat (b32 o i t).toNat))
  | and (o : FmtA) : IntA (.and o) o.d fun i t => .one (a32 o i t &&& b32 o i t)
  | or (o : FmtA) : IntA (.or o) o.d fun i t => .one (a32 o i t ||| b32 o i t)
  | xor (o : FmtA) : IntA (.xor o) o.d fun i t => .one (a32 o i t ^^^ b32 o i t)
  | andn (o : FmtA) : IntA (.andn o) o.d fun i t => .one (a32 o i t &&& ~~~b32 o i t)
  | shl (o : FmtA) : IntA (.shl o) o.d fun i t =>
      .one (if (b32 o i t).toNat < 32 then .ofNat 32 ((a32 o i t).toNat * 2 ^ (b32 o i t).toNat) else 0)
  | shr (o : FmtA) : IntA (.shr o) o.d fun i t =>
      .one (if (b32 o i t).toNat < 32 then .ofNat 32 ((a32 o i t).toNat / 2 ^ (b32 o i t).toNat) else 0)
  | sar (o : FmtA) : IntA (.sar o) o.d fun i t =>
      .one (.ofInt 32 ((a32 o i t).toInt / 2 ^ Nat.min (b32 o i t).toNat 31))
  | rotl (o : FmtA) : IntA (.rotl o) o.d fun i t => .one ((a32 o i t).rotateLeft ((b32 o i t).toNat % 32))
  | bfx (o : FmtA) : IntA (.bfx o) o.d fun i t => .one (bfx (a32 o i t) (b32 o i t))
  | bfi (o : FmtA) : IntA (.bfi o) o.d fun i t => .one (bfi (a32 o i t) (b32 o i t) (acc32 i.rd t o.d))
  | lea2 (o : FmtA) : IntA (.lea2 o) o.d fun i t => .one (.ofInt 32 ((a32 o i t).toInt + 4 * (b32 o i t).toInt))
  | lea3 (o : FmtA) : IntA (.lea3 o) o.d fun i t => .one (.ofInt 32 ((a32 o i t).toInt + 8 * (b32 o i t).toInt))
  | selp (o : FmtSel) : IntA (.selp o) o.d fun i t =>
      .one (if predOf (thread i.rd.g t) o.p then src32 i.rd t o.a else src32 i.rd t o.b)
  | add64 (o : FmtA) : IntA (.add64 o) o.d fun i t => .two (.ofInt 64 ((a64 o i t).toInt + (b64 o i t).toInt))
  | sub64 (o : FmtA) : IntA (.sub64 o) o.d fun i t => .two (.ofInt 64 ((a64 o i t).toInt - (b64 o i t).toInt))
  | shl64 (o : FmtA) : IntA (.shl64 o) o.d fun i t =>
      .two (if (b64 o i t).toNat < 64 then .ofNat 64 ((a64 o i t).toNat * 2 ^ (b64 o i t).toNat) else 0)
  | shr64 (o : FmtA) : IntA (.shr64 o) o.d fun i t =>
      .two (if (b64 o i t).toNat < 64 then .ofNat 64 ((a64 o i t).toNat / 2 ^ (b64 o i t).toNat) else 0)

end Sys2Proof.Rules

/-- R143, R145, R146: each integer instruction of format A, on every operand form, writes its result to its destination in
every active thread, and changes nothing else. -/
def Obligations.IntegerResults : Prop :=
  ∀ (i : Instr) (d : Dst) (f : PassInfo → Nat → Value), Rules.IntA i d f → ∀ op, opOf i = some op →
    ∀ s g turn pc, Runs op s g turn pc → ∃ t g', exec i s = .next t ∧
      Lanes op s g turn pc
        { upd := fun u => writeDst d (f (passInfo op s g turn pc) u).words
          push := fun u => pushDst d (f (passInfo op s g turn pc) u).words
          res := fun u => some (f (passInfo op s g turn pc) u).whole } t g'

namespace Sys2Proof.Rules

/-- The immediate and the unary forms with their destinations and results, from R148 to R154. -/
inductive IntI : Instr → Dst → (PassInfo → Nat → Value) → Prop
  | addi (o : FmtI) : IntI (.addi o) o.d fun i t => .one (.ofInt 32 ((src32 i.rd t o.a).toInt + o.imm.toInt))
  | andi (o : FmtI) : IntI (.andi o) o.d fun i t => .one (src32 i.rd t o.a &&& o.imm.signExtend 32)
  | ori (o : FmtI) : IntI (.ori o) o.d fun i t => .one (src32 i.rd t o.a ||| o.imm.signExtend 32)
  | xori (o : FmtI) : IntI (.xori o) o.d fun i t => .one (src32 i.rd t o.a ^^^ o.imm.signExtend 32)
  | muli (o : FmtI) : IntI (.muli o) o.d fun i t => .one (.ofInt 32 ((src32 i.rd t o.a).toInt * o.imm.toInt))
  | shifti (o : FmtShift) : IntI (.shifti o) o.d fun i t => .one (match o.kind with
      | .shl => .ofNat 32 ((src32 i.rd t o.a).toNat * 2 ^ o.amt.toNat)
      | .shr => .ofNat 32 ((src32 i.rd t o.a).toNat / 2 ^ o.amt.toNat)
      | .sar => .ofInt 32 ((src32 i.rd t o.a).toInt / 2 ^ o.amt.toNat)
      | .rotl => (src32 i.rd t o.a).rotateLeft o.amt.toNat)
  | lui (o : FmtL) : IntI (.lui o) o.d fun _ _ => .one (.ofNat 32 (o.imm.toNat * 2 ^ 14))
  | llo (o : FmtLo) : IntI (.llo o) o.d fun i t =>
      .one (.ofNat 32 ((acc32 i.rd t o.d).toNat / 2 ^ 14 * 2 ^ 14 + o.imm.toNat))
  | adr (o : FmtL) : IntI (.adr o) o.d fun i _ =>
      .one (.ofInt 32 (i.pc.toInt - i.base.toInt + 2 * o.imm.toInt))
  | mov (o : FmtN) : IntI (.mov o) o.d fun i t => .one (src32 i.rd t o.a)
  | not (o : FmtN) : IntI (.not o) o.d fun i t => .one (~~~src32 i.rd t o.a)
  | neg (o : FmtN) : IntI (.neg o) o.d fun i t => .one (.ofInt 32 (0 - (src32 i.rd t o.a).toInt))
  | abs (o : FmtN) : IntI (.abs o) o.d fun i t => .one (.ofNat 32 (src32 i.rd t o.a).toInt.natAbs)
  | clz (o : FmtN) : IntI (.clz o) o.d fun i t => .one (clz (src32 i.rd t o.a))
  | ctz (o : FmtN) : IntI (.ctz o) o.d fun i t => .one (ctz (src32 i.rd t o.a))
  | popc (o : FmtN) : IntI (.popc o) o.d fun i t => .one (popc (src32 i.rd t o.a))
  | brev (o : FmtN) : IntI (.brev o) o.d fun i t => .one (brev (src32 i.rd t o.a))
  | bswap (o : FmtN) : IntI (.bswap o) o.d fun i t => .one (bswap (src32 i.rd t o.a))
  | sext8 (o : FmtN) : IntI (.sext8 o) o.d fun i t => .one (((src32 i.rd t o.a).truncate 8).signExtend 32)
  | sext16 (o : FmtN) : IntI (.sext16 o) o.d fun i t => .one (((src32 i.rd t o.a).truncate 16).signExtend 32)
  | mov64 (o : FmtN) : IntI (.mov64 o) o.d fun i t => .two (src64 i.rd t o.a)
  | iget (o : FmtIdx) : IntI (.iget o) o.d fun i t => .one (idxOf (thread i.rd.g t) o.i)
  | pget (o : FmtPG) : IntI (.pget o) o.d fun i t => .one (if predOf (thread i.rd.g t) o.pa then 1 else 0)

end Sys2Proof.Rules

/-- R148 to R152, R154, R163: each immediate and unary instruction, on every operand form, writes its result to its
destination in every thread whose guard is true, and changes nothing else. -/
def Obligations.ImmediateAndUnaryResults : Prop :=
  ∀ (i : Instr) (d : Dst) (f : PassInfo → Nat → Value), Rules.IntI i d f → ∀ op, opOf i = some op →
    ∀ s g turn pc, Runs op s g turn pc → ∃ t g', exec i s = .next t ∧
      Lanes op s g turn pc
        { upd := fun u => writeDst d (f (passInfo op s g turn pc) u).words
          push := fun u => pushDst d (f (passInfo op s g turn pc) u).words
          res := fun u => some (f (passInfo op s g turn pc) u).whole } t g'

/-- R144, R152: what the bit-field and bit-counting functions of the two statements above compute, by their rules. -/
def Obligations.BitFunctions : Prop :=
  ∀ a : Word,
    (∃ k ≤ 32, clz a = .ofNat 32 k ∧ (∀ j < k, a.getLsbD (31 - j) = false) ∧ (k < 32 → a.getLsbD (31 - k) = true)) ∧
    (∃ k ≤ 32, ctz a = .ofNat 32 k ∧ (∀ j < k, a.getLsbD j = false) ∧ (k < 32 → a.getLsbD k = true)) ∧
    (popc a).toNat = ((List.range 32).filter fun j => a.getLsbD j).length ∧
    (∀ j < 32, (brev a).getLsbD j = a.getLsbD (31 - j)) ∧
    (∀ k < 4, ((bswap a) >>> (8 * k)).truncate 8 = ((a >>> (8 * (3 - k))).truncate 8 : Byte)) ∧
    (∀ b acc : Word, ∀ n p : Nat, n = Nat.min (b.toNat / 2 ^ 8 % 64) 32 → p = b.toNat % 32 →
      (∀ j < 32, (bfi a b acc).getLsbD j = if p ≤ j ∧ j < p + n then a.getLsbD (j - p) else acc.getLsbD j) ∧
      (∀ j < 32, (bfx a b).getLsbD j = if j < n then a.getLsbD (p + j)
        else (b.getLsbD 16 && decide (0 < n) && a.getLsbD (p + n - 1))))

namespace Sys2Proof.Rules

/-- The 32-bit instruction to which each 16-bit one is equivalent (R106); FMAC and PFMA2 take L0 as their B operand. -/
inductive Wide : Instr → Instr → Prop
  | add16 (o : Fmt16) : Wide (.add16 o) (.add { a := .v o.d, b := o.b, d := .v o.d, ka := false, kb := false })
  | sub16 (o : Fmt16) : Wide (.sub16 o) (.sub { a := .v o.d, b := o.b, d := .v o.d, ka := false, kb := false })
  | and16 (o : Fmt16) : Wide (.and16 o) (.and { a := .v o.d, b := o.b, d := .v o.d, ka := false, kb := false })
  | or16 (o : Fmt16) : Wide (.or16 o) (.or { a := .v o.d, b := o.b, d := .v o.d, ka := false, kb := false })
  | xor16 (o : Fmt16) : Wide (.xor16 o) (.xor { a := .v o.d, b := o.b, d := .v o.d, ka := false, kb := false })
  | shl16 (o : Fmt16) : Wide (.shl16 o) (.shl { a := .v o.d, b := o.b, d := .v o.d, ka := false, kb := false })
  | shr16 (o : Fmt16) : Wide (.shr16 o) (.shr { a := .v o.d, b := o.b, d := .v o.d, ka := false, kb := false })
  | min16 (o : Fmt16) : Wide (.min16 o) (.min { a := .v o.d, b := o.b, d := .v o.d, ka := false, kb := false })
  | max16 (o : Fmt16) : Wide (.max16 o) (.max { a := .v o.d, b := o.b, d := .v o.d, ka := false, kb := false })
  | mov16 (o : Fmt16) : Wide (.mov16 o) (.mov { a := o.b, d := .v o.d, k1 := false, ka := false, g := 0 })
  | fadd16 (o : Fmt16) : Wide (.fadd16 o) (.fadd { a := .v o.d, b := o.b, d := .v o.d, ka := false, kb := false })
  | fmul16 (o : Fmt16) : Wide (.fmul16 o) (.fmul { a := .v o.d, b := o.b, d := .v o.d, ka := false, kb := false })
  | fmac16 (o : Fmt16) : Wide (.fmac16 o) (.ffma { a := o.b, b := .l0, d := .v o.d, ka := false, kb := false })
  | padd2s16 (o : Fmt16) : Wide (.padd2s16 o) (.padd2 { a := .v o.d, b := o.b, d := .v o.d, ka := false, kb := false })
  | pfma2s16 (o : Fmt16) : Wide (.pfma2s16 o) (.pfma2 { a := o.b, b := .l0, d := .v o.d, ka := false, kb := false })
  | fmax16 (o : Fmt16) : Wide (.fmax16 o) (.fmax { a := .v o.d, b := o.b, d := .v o.d, ka := false, kb := false })

end Sys2Proof.Rules

namespace Sys2Proof.Rules

/-- A floating-point result of 32 or of 64 bits with its flags. -/
def w32 (r : Nat × Flags) : Value × Flags := (.one (.ofNat 32 r.1), r.2)
def w64 (r : Nat × Flags) : Value × Flags := (.two (.ofNat 64 r.1), r.2)

/-- Each floating-point instruction with its destination, its result and the flags it raises, from R190 to R200: the operation
on its format under the rounding direction of MODE, or of the conversion. -/
inductive Fp : Instr → Dst → (PassInfo → Nat → Value × Flags) → Prop
  | fadd (o : FmtA) : Fp (.fadd o) o.d fun i t =>
      w32 (fpAdd f32 (modeRnd i.rd.g) (fpSrc32 f32 1 i.rd t o.a) (fpSrc32 f32 1 i.rd t o.b))
  | fsub (o : FmtA) : Fp (.fsub o) o.d fun i t =>
      w32 (fpSub f32 (modeRnd i.rd.g) (fpSrc32 f32 1 i.rd t o.a) (fpSrc32 f32 1 i.rd t o.b))
  | fmul (o : FmtA) : Fp (.fmul o) o.d fun i t =>
      w32 (fpMul f32 (modeRnd i.rd.g) (fpSrc32 f32 1 i.rd t o.a) (fpSrc32 f32 1 i.rd t o.b))
  | ffma (o : FmtA) : Fp (.ffma o) o.d fun i t =>
      w32 (fpFma f32 (modeRnd i.rd.g) false (fpSrc32 f32 1 i.rd t o.a) (fpSrc32 f32 1 i.rd t o.b) (acc32 i.rd t o.d).toNat)
  | fnma (o : FmtA) : Fp (.fnma o) o.d fun i t =>
      w32 (fpFma f32 (modeRnd i.rd.g) true (fpSrc32 f32 1 i.rd t o.a) (fpSrc32 f32 1 i.rd t o.b) (acc32 i.rd t o.d).toNat)
  | ffmal (o : FmtA) : Fp (.ffmal o) o.d fun i t =>
      w32 (fpFma f32 (modeRnd i.rd.g) false (fpSrc32 f32 1 i.rd t o.a) (fpSrc32 f32 1 i.rd t o.b) (src32 i.rd t .l0).toNat)
  | fmin (o : FmtA) : Fp (.fmin o) o.d fun i t =>
      w32 (fpMinMax f32 false (fpSrc32 f32 1 i.rd t o.a) (fpSrc32 f32 1 i.rd t o.b))
  | fmax (o : FmtA) : Fp (.fmax o) o.d fun i t =>
      w32 (fpMinMax f32 true (fpSrc32 f32 1 i.rd t o.a) (fpSrc32 f32 1 i.rd t o.b))
  | padd2 (o : FmtA) : Fp (.padd2 o) o.d fun i t =>
      w32 (packElems bf16 (fun k => flushed (fun x y _ => fpAdd bf16 (modeRnd i.rd.g) x y) (elem bf16 (fpSrc32 bf16 2 i.rd t o.a) k) (elem bf16 (fpSrc32 bf16 2 i.rd t o.b) k) 0) 2)
  | pmul2 (o : FmtA) : Fp (.pmul2 o) o.d fun i t =>
      w32 (packElems bf16 (fun k => flushed (fun x y _ => fpMul bf16 (modeRnd i.rd.g) x y) (elem bf16 (fpSrc32 bf16 2 i.rd t o.a) k) (elem bf16 (fpSrc32 bf16 2 i.rd t o.b) k) 0) 2)
  | pfma2 (o : FmtA) : Fp (.pfma2 o) o.d fun i t =>
      w32 (packElems bf16 (fun k => flushed (fpFma bf16 (modeRnd i.rd.g) false) (elem bf16 (fpSrc32 bf16 2 i.rd t o.a) k) (elem bf16 (fpSrc32 bf16 2 i.rd t o.b) k) (elem bf16 (acc32 i.rd t o.d).toNat k)) 2)
  | pmax2 (o : FmtA) : Fp (.pmax2 o) o.d fun i t =>
      w32 (packElems bf16 (fun k => fpMinMax bf16 true (elem bf16 (fpSrc32 bf16 2 i.rd t o.a) k) (elem bf16 (fpSrc32 bf16 2 i.rd t o.b) k)) 2)
  | dadd (o : FmtA) : Fp (.dadd o) o.d fun i t =>
      w64 (fpAdd f64 (modeRnd i.rd.g) (fpSrc64 f64 1 i.rd t o.a) (fpSrc64 f64 1 i.rd t o.b))
  | dsub (o : FmtA) : Fp (.dsub o) o.d fun i t =>
      w64 (fpSub f64 (modeRnd i.rd.g) (fpSrc64 f64 1 i.rd t o.a) (fpSrc64 f64 1 i.rd t o.b))
  | dmul (o : FmtA) : Fp (.dmul o) o.d fun i t =>
      w64 (fpMul f64 (modeRnd i.rd.g) (fpSrc64 f64 1 i.rd t o.a) (fpSrc64 f64 1 i.rd t o.b))
  | dfma (o : FmtA) : Fp (.dfma o) o.d fun i t =>
      w64 (fpFma f64 (modeRnd i.rd.g) false (fpSrc64 f64 1 i.rd t o.a) (fpSrc64 f64 1 i.rd t o.b) (acc64 i.rd t o.d).toNat)
  | dmin (o : FmtA) : Fp (.dmin o) o.d fun i t =>
      w64 (fpMinMax f64 false (fpSrc64 f64 1 i.rd t o.a) (fpSrc64 f64 1 i.rd t o.b))
  | dmax (o : FmtA) : Fp (.dmax o) o.d fun i t =>
      w64 (fpMinMax f64 true (fpSrc64 f64 1 i.rd t o.a) (fpSrc64 f64 1 i.rd t o.b))
  | fneg (o : FmtN) : Fp (.fneg o) o.d fun i t => w32 (fpNeg f32 1 (fpSrc32 f32 1 i.rd t o.a), 0)
  | fabs (o : FmtN) : Fp (.fabs o) o.d fun i t => w32 (fpAbs f32 1 (fpSrc32 f32 1 i.rd t o.a), 0)
  | fsqrt (o : FmtN) : Fp (.fsqrt o) o.d fun i t => w32 (fpSqrt f32 (modeRnd i.rd.g) (fpSrc32 f32 1 i.rd t o.a))
  | frcp (o : FmtN) : Fp (.frcp o) o.d fun i t => w32 (fpRcp f32 (modeRnd i.rd.g) (fpSrc32 f32 1 i.rd t o.a))
  | frsq (o : FmtN) : Fp (.frsq o) o.d fun i t => w32 (fpRsq (fpSrc32 f32 1 i.rd t o.a))
  | fexp2 (o : FmtN) : Fp (.fexp2 o) o.d fun i t => w32 (fpExp2 (fpSrc32 f32 1 i.rd t o.a))
  | flog2 (o : FmtN) : Fp (.flog2 o) o.d fun i t => w32 (fpLog2 (fpSrc32 f32 1 i.rd t o.a))
  | fsinpi (o : FmtN) : Fp (.fsinpi o) o.d fun i t => w32 (fpSinPi (fpSrc32 f32 1 i.rd t o.a))
  | fcospi (o : FmtN) : Fp (.fcospi o) o.d fun i t => w32 (fpCosPi (fpSrc32 f32 1 i.rd t o.a))
  | frint (o : FmtN) : Fp (.frint o) o.d fun i t => w32 (fpRint f32 (modeRnd i.rd.g) (fpSrc32 f32 1 i.rd t o.a))
  | fclass (o : FmtN) : Fp (.fclass o) o.d fun i t => w32 (fpClass f32 (fpSrc32 f32 1 i.rd t o.a), 0)
  | dneg (o : FmtN) : Fp (.dneg o) o.d fun i t => w64 (fpNeg f64 1 (fpSrc64 f64 1 i.rd t o.a), 0)
  | dabs (o : FmtN) : Fp (.dabs o) o.d fun i t => w64 (fpAbs f64 1 (fpSrc64 f64 1 i.rd t o.a), 0)
  | dsqrt (o : FmtN) : Fp (.dsqrt o) o.d fun i t => w64 (fpSqrt f64 (modeRnd i.rd.g) (fpSrc64 f64 1 i.rd t o.a))
  | drcp (o : FmtN) : Fp (.drcp o) o.d fun i t => w64 (fpRcp f64 (modeRnd i.rd.g) (fpSrc64 f64 1 i.rd t o.a))
  | drint (o : FmtN) : Fp (.drint o) o.d fun i t => w64 (fpRint f64 (modeRnd i.rd.g) (fpSrc64 f64 1 i.rd t o.a))
  | dclass (o : FmtN) : Fp (.dclass o) o.d fun i t => w32 (fpClass f64 (fpSrc64 f64 1 i.rd t o.a), 0)
  | pneg2 (o : FmtN) : Fp (.pneg2 o) o.d fun i t => w32 (fpNeg bf16 2 (fpSrc32 bf16 2 i.rd t o.a), 0)
  | pabs2 (o : FmtN) : Fp (.pabs2 o) o.d fun i t => w32 (fpAbs bf16 2 (fpSrc32 bf16 2 i.rd t o.a), 0)
  | cvtF32I32 (o : FmtCvt) : Fp (.cvtF32I32 o) o.d fun i t =>
      w32 (ofInt f32 (selRnd i.rd.g o.r) (signed32 (intSrc i.rd t o.a)))
  | cvtF32N32 (o : FmtCvt) : Fp (.cvtF32N32 o) o.d fun i t =>
      w32 (ofInt f32 (selRnd i.rd.g o.r) (intSrc i.rd t o.a))
  | cvtI32F32 (o : FmtCvt) : Fp (.cvtI32F32 o) o.d fun i t =>
      w32 (natFlags (fpToInt f32 (selRnd i.rd.g o.r) (-2 ^ 31) (2 ^ 31 - 1) (fpSrc32 f32 1 i.rd t o.a)))
  | cvtN32F32 (o : FmtCvt) : Fp (.cvtN32F32 o) o.d fun i t =>
      w32 (natFlags (fpToInt f32 (selRnd i.rd.g o.r) 0 (2 ^ 32 - 1) (fpSrc32 f32 1 i.rd t o.a)))
  | cvtF64F32 (o : FmtCvt) : Fp (.cvtF64F32 o) o.d fun i t =>
      w64 (fpConvert f32 f64 .rne false true (fpSrc32 f32 1 i.rd t o.a))
  | cvtF32F64 (o : FmtCvt) : Fp (.cvtF32F64 o) o.d fun i t =>
      w32 (fpConvert f64 f32 (selRnd i.rd.g o.r) o.k1 false (fpSrc64 f64 1 i.rd t o.a))
  | cvtF64I32 (o : FmtCvt) : Fp (.cvtF64I32 o) o.d fun i t =>
      w64 (ofInt f64 .rne (signed32 (intSrc i.rd t o.a)))
  | cvtI32F64 (o : FmtCvt) : Fp (.cvtI32F64 o) o.d fun i t =>
      w32 (natFlags (fpToInt f64 (selRnd i.rd.g o.r) (-2 ^ 31) (2 ^ 31 - 1) (fpSrc64 f64 1 i.rd t o.a)))
  | cvtF32F16 (o : FmtCvt) : Fp (.cvtF32F16 o) o.d fun i t =>
      w32 (fpConvert f16 f32 .rne false true (elem f16 (fpSrc32 f16 2 i.rd t o.a) (if o.k1 then 1 else 0)))
  | cvtF16x2F32x2 (o : FmtCvt) : Fp (.cvtF16x2F32x2 o) o.d fun i t =>
      w32 (convertElems f32 f16 2 o.k1 false (selRnd i.rd.g o.r) (fpSrc64 f32 2 i.rd t o.a))
  | cvtBf16x2F32x2 (o : FmtCvt) : Fp (.cvtBf16x2F32x2 o) o.d fun i t =>
      w32 (convertElems f32 bf16 2 o.k1 false (selRnd i.rd.g o.r) (fpSrc64 f32 2 i.rd t o.a))
  | cvtBf16x4E8x4 (o : FmtCvt) : Fp (.cvtBf16x4E8x4 o) o.d fun i t =>
      w64 (convertElems (if o.k1 then e5m2 else e4m3) bf16 4 false true .rne
        (fpSrc32 (if o.k1 then e5m2 else e4m3) 4 i.rd t o.a))
  | cvtE4m3x4Bf16x4 (o : FmtCvt) : Fp (.cvtE4m3x4Bf16x4 o) o.d fun i t =>
      w32 (convertElems bf16 e4m3 4 o.k1 false (selRnd i.rd.g o.r) (fpSrc64 bf16 4 i.rd t o.a))
  | cvtE5m2x4Bf16x4 (o : FmtCvt) : Fp (.cvtE5m2x4Bf16x4 o) o.d fun i t =>
      w32 (convertElems bf16 e5m2 4 o.k1 false (selRnd i.rd.g o.r) (fpSrc64 bf16 4 i.rd t o.a))
  | cvtBf16x2B4 (o : FmtCvt) : Fp (.cvtBf16x2B4 o) o.d fun i t =>
      w32 (expandB4 (intSrc i.rd t o.a))
  | cvtB4F32 (o : FmtCvt) : Fp (.cvtB4F32 o) o.d fun i t =>
      w32 ((acc32 i.rd t o.d).toNat / 16 * 16
        + (b4Quantise (fpSrc32 f32 1 i.rd t o.a) ((acc32 i.rd t o.d).toNat / 256 % 256) (selRnd i.rd.g o.r)).1,
        (b4Quantise (fpSrc32 f32 1 i.rd t o.a) ((acc32 i.rd t o.d).toNat / 256 % 256) (selRnd i.rd.g o.r)).2)

/-- The result of an instruction that the tables above give. -/
def Result (i : Instr) (d : Dst) (f : PassInfo → Nat → Value × Flags) : Prop :=
  (∃ v, IntA i d v ∧ f = fun p t => (v p t, 0)) ∨ (∃ v, IntI i d v ∧ f = fun p t => (v p t, 0)) ∨ Fp i d f

end Sys2Proof.Rules

/-- R190 to R192, R194 to R200: each floating-point instruction, on every operand form, writes its result to its destination in every
thread whose guard is true, raises its flags, and changes nothing else. -/
def Obligations.FloatResults : Prop :=
  ∀ (i : Instr) (d : Dst) (f : PassInfo → Nat → Value × Flags), Rules.Fp i d f → ∀ op, opOf i = some op →
    ∀ s g turn pc, Runs op s g turn pc → ∃ t g', exec i s = .next t ∧
      Lanes op s g turn pc
        { upd := fun u => writeDst d (f (passInfo op s g turn pc) u).1.words
          fl := fun u => (f (passInfo op s g turn pc) u).2
          push := fun u => pushDst d (f (passInfo op s g turn pc) u).1.words
          res := fun u => some (f (passInfo op s g turn pc) u).1.whole } t g'

/-- R106: each 16-bit instruction does in every thread what its 32-bit equivalent does there: the same result to the same
register, the same flags, the same latch effect; its pc advances by 2. -/
def Obligations.SixteenBitForms : Prop :=
  ∀ i j d f, Rules.Wide i j → Rules.Result j d f → ∀ op, opOf i = some op →
    op.size = 2 ∧ ∀ s g turn pc, Runs op s g turn pc → ∃ t g', exec i s = .next t ∧
      Lanes op s g turn pc
        { upd := fun u => writeDst d (f (passInfo op s g turn pc) u).1.words
          fl := fun u => (f (passInfo op s g turn pc) u).2
          push := fun u => pushDst d (f (passInfo op s g turn pc) u).1.words
          res := fun u => some (f (passInfo op s g turn pc) u).1.whole } t g'

namespace Sys2Proof.Rules

/-- The condition of an integer compare on two operands of its type (R147). -/
def icmp (ty : ICmpTy) (c : ICond) (a b : DWord) : Prop :=
  match c, ty with
  | .eq, .i32 | .eq, .n32 => lowWord a = lowWord b
  | .eq, _ => a = b
  | .ne, .i32 | .ne, .n32 => lowWord a ≠ lowWord b
  | .ne, _ => a ≠ b
  | .lt, .i32 => (lowWord a).toInt < (lowWord b).toInt
  | .lt, .n32 => (lowWord a).toNat < (lowWord b).toNat
  | .lt, .i64 => a.toInt < b.toInt
  | .lt, .n64 => a.toNat < b.toNat
  | .le, .i32 => (lowWord a).toInt ≤ (lowWord b).toInt
  | .le, .n32 => (lowWord a).toNat ≤ (lowWord b).toNat
  | .le, .i64 => a.toInt ≤ b.toInt
  | .le, .n64 => a.toNat ≤ b.toNat
  | .gt, .i32 => (lowWord b).toInt < (lowWord a).toInt
  | .gt, .n32 => (lowWord b).toNat < (lowWord a).toNat
  | .gt, .i64 => b.toInt < a.toInt
  | .gt, .n64 => b.toNat < a.toNat
  | .ge, .i32 => (lowWord b).toInt ≤ (lowWord a).toInt
  | .ge, .n32 => (lowWord b).toNat ≤ (lowWord a).toNat
  | .ge, .i64 => b.toInt ≤ a.toInt
  | .ge, .n64 => b.toNat ≤ a.toNat
  | .test, .i32 | .test, .n32 => lowWord a &&& lowWord b ≠ 0
  | .test, _ => a &&& b ≠ 0
  | .ntest, .i32 | .ntest, .n32 => lowWord a &&& lowWord b = 0
  | .ntest, _ => a &&& b = 0

/-- The predicates an instruction reads before it writes one, from R147, R163 and R193: the predicate written, its new
value in a thread, the flags raised. -/
inductive Pred : Instr → PReg → (PassInfo → Nat → Prop) → (PassInfo → Nat → Flags) → Prop
  | icmp (o : FmtIC) : Pred (.icmp o) o.p
      (fun i t => Rules.icmp o.ty o.cond (srcBy i.rd t o.a (icmpRegs o.ty)) (srcBy i.rd t o.b (icmpRegs o.ty)) ∧
        (o.conj = true → predOf (thread i.rd.g t) o.p = true)) fun _ _ => 0
  | fcmp (o : FmtFC) : Pred (.fcmp o) o.p
      (fun i t => (fpCompare (fcmpFormat o.ty) o.cond (fcmpSrc o.ty i.rd t o.a) (fcmpSrc o.ty i.rd t o.b)).1 = true ∧
        (o.conj = true → predOf (thread i.rd.g t) o.p = true))
      fun i t => (fpCompare (fcmpFormat o.ty) o.cond (fcmpSrc o.ty i.rd t o.a) (fcmpSrc o.ty i.rd t o.b)).2
  | pand (o : FmtPL) : Pred (.pand o) o.pd
      (fun i t => predOf (thread i.rd.g t) o.pa ≠ o.na ∧ predOf (thread i.rd.g t) o.pb ≠ o.nb) fun _ _ => 0
  | por (o : FmtPL) : Pred (.por o) o.pd
      (fun i t => predOf (thread i.rd.g t) o.pa ≠ o.na ∨ predOf (thread i.rd.g t) o.pb ≠ o.nb) fun _ _ => 0
  | pxor (o : FmtPL) : Pred (.pxor o) o.pd
      (fun i t => ¬(predOf (thread i.rd.g t) o.pa ≠ o.na ↔ predOf (thread i.rd.g t) o.pb ≠ o.nb)) fun _ _ => 0
  | ptest (o : FmtPA) : Pred (.ptest o) o.pd (fun i t => src32 i.rd t o.a ≠ 0) fun _ _ => 0
  | pbit (o : FmtPA) : Pred (.pbit o) o.pd (fun i t => (src32 i.rd t o.a).getLsbD t = true) fun _ _ => 0

end Sys2Proof.Rules

/-- R147, R163, R193: each compare and each instruction of predicate logic writes its predicate in every active thread, by its
condition on what the thread reads, raises its flags, and changes nothing else; the new L0 is void (R88). -/
def Obligations.PredicateResults : Prop :=
  ∀ i p c fl, Rules.Pred i p c fl → ∀ op, opOf i = some op →
    op.void = true ∧ ∀ s g turn pc, Runs op s g turn pc → ∃ t g', ∃ v : Nat → Bool, exec i s = .next t ∧
      Lanes op s g turn pc
        { upd := fun u th => setPred th p (v u)
          fl := fl (passInfo op s g turn pc) } t g' ∧
      ∀ u ∈ actives op g turn pc, v u = true ↔ c (passInfo op s g turn pc) u

/-- R81, R153, R154: MOVX reads the window register that its index register names, MOVXW writes it, and with K1 each then
raises the index by one modulo 256; ISET writes an index register with bits 31:24 cleared. Where the check of R81 passes in
every active thread, they do so there and change nothing else. -/
def Obligations.IndexedWindow : Prop :=
  (∀ (o : FmtIdx) op, opOf (.movx o) = some op → ∀ s g turn pc, Runs op s g turn pc →
    (∀ u ∈ actives op g turn pc, (indexOf g (thread g u) o.i).isSome = true) → ∃ t g', exec (.movx o) s = .next t ∧
      Lanes op s g turn pc
        { upd := fun u th =>
            let th' := if o.k1 then setIdx th o.i (bumpIdx (idxOf th o.i)) else th
            writeDst o.d [xOf (thread g u) ((indexOf g (thread g u) o.i).getD 0)] th'
          push := fun u => pushDst o.d [xOf (thread g u) ((indexOf g (thread g u) o.i).getD 0)]
          res := fun u => some ((xOf (thread g u) ((indexOf g (thread g u) o.i).getD 0)).zeroExtend 64) } t g') ∧
  (∀ (o : FmtIdxA) op, opOf (.movxw o) = some op → ∀ s g turn pc, Runs op s g turn pc →
    (∀ u ∈ actives op g turn pc, (indexOf g (thread g u) o.i).isSome = true) → ∃ t g', exec (.movxw o) s = .next t ∧
      Lanes op s g turn pc
        { upd := fun u th =>
            let th' := setX th ((indexOf g (thread g u) o.i).getD 0) (src32 (rdOf s.dev g turn) u o.a)
            if o.k1 then setIdx th' o.i (bumpIdx (idxOf th' o.i)) else th'
          res := fun u => some ((src32 (rdOf s.dev g turn) u o.a).zeroExtend 64) } t g') ∧
  (∀ (o : FmtIdxA) op, opOf (.iset o) = some op → ∀ s g turn pc, Runs op s g turn pc → ∃ t g', exec (.iset o) s = .next t ∧
      Lanes op s g turn pc
        { upd := fun u th => setIdx th o.i ((src32 (rdOf s.dev g turn) u o.a) &&& 0x00FFFFFF#32)
          res := fun u => some (((src32 (rdOf s.dev g turn) u o.a) &&& 0x00FFFFFF#32).zeroExtend 64) } t g')

namespace Sys2Proof.Rules

/-- One step of SCAN: an accumulator, and a value with whether it heads a segment (R157). -/
def scanStep (op : ScanOp) (r : Rnd) (acc : Option Word) (e : Word × Bool) : Word × Flags :=
  match (if e.2 then none else acc) with
  | none => (e.1, 0)
  | some x => combine op r x e.1

/-- SCAN's accumulator after a list of values. -/
def scanAcc (op : ScanOp) (r : Rnd) (l : List (Word × Bool)) : Option Word :=
  l.foldl (fun acc e => some (scanStep op r acc e).1) none

/-- A thread's element of the chain. -/
def chainElem (o : FmtScan) (i : PassInfo) (u : Nat) : Word × Bool :=
  (scanSrc o.op i.rd u o.a, o.seg != 0 && predOf (thread i.rd.g u) o.seg)

/-- The chain's elements before a thread. -/
def chainBefore (o : FmtScan) (i : PassInfo) (t : Nat) : List (Word × Bool) :=
  (i.chain.filter (· < t)).map (chainElem o i)

/-- Each instruction of the temporal exchange with a destination in every thread of its chain, its result there and the flags
it raises there, from R157 to R159. -/
inductive Exchange : Instr → Dst → (PassInfo → Nat → Word × Flags) → Prop
  | scan (o : FmtScan) (h : o.k1 = false) : Exchange (.scan o) o.d fun i t =>
      scanStep o.op (modeRnd i.rd.g) (scanAcc o.op (modeRnd i.rd.g) (chainBefore o i t)) (chainElem o i t)
  | scanEx (o : FmtScan) (h : o.k1 = true) : Exchange (.scan o) o.d fun i t =>
      (if (chainElem o i t).2 then identity o.op
        else (scanAcc o.op (modeRnd i.rd.g) (chainBefore o i t)).getD (identity o.op),
       (scanStep o.op (modeRnd i.rd.g) (scanAcc o.op (modeRnd i.rd.g) (chainBefore o i t)) (chainElem o i t)).2)
  | delay (o : FmtN) : Exchange (.delay o) o.d fun i t =>
      (match (i.chain.filter (· < t)).getLast? with
        | some u => src32 i.rd u o.a
        | none => if o.k1 then src32 i.rd (i.chain.getLastD t) o.a else 0, 0)
  | perm (o : FmtN) : Exchange (.perm o) o.d fun i t =>
      (lowWord ((if o.k1 then i.rd.turn.l1 else i.rd.turn.l0).lanes.toArray.getD ((src32 i.rd t o.a).toNat % 32) 0), 0)
  | bfirst (o : FmtN) : Exchange (.bfirst o) o.d fun i t => (src32 i.rd (i.chain.headD t) o.a, 0)
  | blast (o : FmtN) : Exchange (.blast o) o.d fun i t => (src32 i.rd (i.chain.getLastD t) o.a, 0)
  | rank (o : FmtN) : Exchange (.rank o) o.d fun i t =>
      (.ofNat 32 ((i.chain.filter (· < t)).filter fun u => src32 i.rd u o.a != 0).length, 0)
  | matchLanes (o : FmtN) : Exchange (.matchLanes o) o.d fun i t =>
      (maskOf (i.chain.filter fun u => src32 i.rd u o.a == src32 i.rd t o.a), 0)

end Sys2Proof.Rules

/-- R155 to R159: each instruction of the temporal exchange writes, in every thread of the chain (the active threads in slot
order), what its rule makes of the chain's values as they stood before the pass. -/
def Obligations.ExchangeResults : Prop :=
  ∀ i d f, Rules.Exchange i d f → ∀ op, opOf i = some op → ∀ s g turn pc, Runs op s g turn pc → ∃ t g', exec i s = .next t ∧
    Lanes op s g turn pc
      { upd := fun u => writeDst d [(f (passInfo op s g turn pc) u).1]
        fl := fun u => (f (passInfo op s g turn pc) u).2
        push := fun u => pushDst d [(f (passInfo op s g turn pc) u).1]
        res := fun u => some ((f (passInfo op s g turn pc) u).1.zeroExtend 64) } t g'

/-- R160: REDUCE writes one scalar, the combination of the chain's values in slot order, with the flags of its steps; VOTE
writes one, the mask or the number of the threads whose value is not zero. Nothing else changes. -/
def Obligations.ReduceAndVote : Prop :=
  (∀ (o : FmtRed) r op, o.d = .s r → opOf (.reduce o) = some op → ∀ s g turn pc, Runs op s g turn pc → ∃ t g',
    exec (.reduce o) s = .next t ∧ ∀ x rest, (actives op g turn pc).map (fun u => scanSrc o.op (rdOf s.dev g turn) u o.a) = x :: rest →
    Lanes op s g turn pc
      { scalar := some (r, rest.foldl (fun y z => (combine o.op (modeRnd g) y z).1) x)
        flAll := (rest.foldl (fun y z => ((combine o.op (modeRnd g) y.1 z).1, y.2 ||| (combine o.op (modeRnd g) y.1 z).2))
          (x, (0 : Flags))).2 } t g') ∧
  (∀ (o : FmtVote) r op, o.d = .s r → opOf (.vote o) = some op → ∀ s g turn pc, Runs op s g turn pc → ∃ t g',
    exec (.vote o) s = .next t ∧
    Lanes op s g turn pc
      { scalar := some (r,
          let voters := (actives op g turn pc).filter fun u => src32 (rdOf s.dev g turn) u o.a != 0
          if o.k1 then .ofNat 32 voters.length else maskOf voters) } t g')

namespace Sys2Proof.Rules

/-- A time register as a thread reads it in a pass (R227, R424). -/
def time (s : State) (i : PassInfo) (t : Nat) (r : TReg) : TimeReg := timeSeen s.dev i.rd.g t r i.now

/-- Each instruction that reads time registers into D, and its result, from R253, R255 and R257. -/
inductive TimeRead : Instr → Dst → (State → PassInfo → Nat → Word) → Prop
  | tnow (o : FmtND) : TimeRead (.tnow o) o.d fun _ i _ => i.now
  | tdiff (o : FmtTD) : TimeRead (.tdiff o) o.d fun s i t => (time s i t o.t).value - i.now
  | tstat (o : FmtTD) : TimeRead (.tstat o) o.d fun s i t =>
      .ofNat 32 ((match (time s i t o.t).st with
        | .pending => 0
        | .promised => 1
        | .arrived => 2
        | .breached => 3
        | .withdrawn => 4) + (if (time s i t o.t).sticky then 8 else 0) + (if (time s i t o.t).engine then 16 else 0))
  | tmin (o : FmtN) : TimeRead (.tmin o) o.d fun s i t =>
      minTime (fun k => minKey (time s i t k) i.now) none (timesOf (src32 i.rd t o.a))

/-- Each instruction that writes a time register, and the register's new value, from R256. -/
inductive TimeWrite : Instr → TReg → (State → PassInfo → Nat → TimeReg) → Prop
  | tmov (o : FmtTM) : TimeWrite (.tmov o) o.u fun s i t => time s i t o.t
  | tset (o : FmtTS) : TimeWrite (.tset o) o.t fun _ i t => { value := src32 i.rd t o.a }
  | tsetClr (o : FmtTS) : TimeWrite (.tsetClr o) o.t fun _ i t => { timeOf (thread i.rd.g t) o.t with sticky := false }

end Sys2Proof.Rules

/-- R253, R255, R257: each of TNOW, TDIFF, TSTAT and TMIN writes its result to its destination in every active thread, and
changes nothing else; it leaves no result in L0. -/
def Obligations.TimeReads : Prop :=
  ∀ i d f, Rules.TimeRead i d f → ∀ op, opOf i = some op → ∀ s g turn pc, Runs op s g turn pc → ∃ t g', exec i s = .next t ∧
    Lanes op s g turn pc
      { upd := fun u => writeDst d [f s (passInfo op s g turn pc) u]
        push := fun u => pushDst d [f s (passInfo op s g turn pc) u] } t g'

/-- R83, R256: each of TMOV, TSET and TSET.CLR writes its time register in every active thread, T0 apart, and changes nothing
else. -/
def Obligations.TimeWrites : Prop :=
  ∀ i r f, Rules.TimeWrite i r f → ∀ op, opOf i = some op → ∀ s g turn pc, Runs op s g turn pc → ∃ t g', exec i s = .next t ∧
    Lanes op s g turn pc { upd := fun u th => setTime th r (f s (passInfo op s g turn pc) u) } t g'

namespace Sys2Proof.Rules

/-- Each branch that threads take one by one, the threads that take it, and where they go, from R169, R170 and R174; a NOP
takes none. -/
inductive Branch : Instr → (State → PassInfo → Nat → Prop) → (State → PassInfo → Nat → DWord) → Prop
  | nop (o : FmtNG) : Branch (.nop o) (fun _ _ _ => False) fun _ i _ => i.pc
  | braThr (o : FmtB) : Branch (.braThr o) (fun _ _ _ => True) fun _ i _ => branchTo i.pc o.off
  | braThrNot (o : FmtB) : Branch (.braThrNot o) (fun _ _ _ => True) fun _ i _ => branchTo i.pc o.off
  | brt (o : FmtBT) : Branch (.brt o)
      (fun s i t => match o.test with
        | .arrived => (time s i t o.t).st = .arrived
        | .due => (time s i t o.t).st = .arrived ∨
            (((time s i t o.t).st = .promised ∨ (time s i t o.t).st = .breached) ∧ timeGe i.now (time s i t o.t).value = true)
        | .breached => (time s i t o.t).st ≠ .pending ∧ (time s i t o.t).sticky = true
        | .withdrawn => (time s i t o.t).st = .withdrawn)
      fun _ i _ => branchTo i.pc o.off
  | jmp (o : FmtNA) : Branch (.jmp o) (fun _ _ _ => True) fun _ i t => i.base + (src32 i.rd t o.a).zeroExtend 64

end Sys2Proof.Rules

/-- R169, R170, R174: BRA.THR, BRA.THR.NOT, BRT, JMP and NOP change nothing but pcs (and levels that the branch leaves, R55):
every active thread that its rule takes goes to the target, every other present thread to the next instruction. The code
offset of a JMP is even (R102). -/
def Obligations.ThreadBranches : Prop :=
  ∀ i c a, Rules.Branch i c a → ∀ op, opOf i = some op → ∀ s g turn pc, Runs op s g turn pc →
    (∀ o, i = .jmp o → ∀ u ∈ actives op g turn pc, (src32 (rdOf s.dev g turn) u o.a).getLsbD 0 = false) →
    ∃ t g', ∃ next : Nat → Option DWord, exec i s = .next t ∧ Lanes op s g turn pc { next := next } t g' ∧
      ∀ u ∈ actives op g turn pc,
        (c s (passInfo op s g turn pc) u ∧ next u = some (a s (passInfo op s g turn pc) u)) ∨
        (¬c s (passInfo op s g turn pc) u ∧ next u = none)

/-- R169: the threads active in BRA.THR are the present ones whose predicate is true, in BRA.THR.NOT those whose predicate is
false. -/
def Obligations.BranchGuards : Prop :=
  ∀ (o : FmtB) g turn pc,
    (∀ op, opOf (.braThr o) = some op → ∀ u, u ∈ actives op g turn pc ↔ u ∈ presentOf g turn pc ∧ predOf (thread g u) o.g = true) ∧
    (∀ op, opOf (.braThrNot o) = some op → ∀ u, u ∈ actives op g turn pc ↔ u ∈ presentOf g turn pc ∧ predOf (thread g u) o.g = false)

namespace Sys2Proof.Rules

/-- The length of the instruction at a code address, as its first halfword gives it (R102); where that cannot be fetched the
model takes 4 bytes (log 37). -/
def sizeAt (s : State) (g : Group) (a : DWord) : Nat :=
  match codeWord s.mem s.dev g a with
  | .ok w => if w % 2 = 0 then 2 else 4
  | .error _ => 4

/-- The address after the end instruction of a body, which begins at the end address or contains it (R171): reached from an
address of the body instruction by instruction. -/
inductive AfterBody (s : State) (g : Group) (stop : DWord) : DWord → DWord → Prop
  | last (a : DWord) : stop.toNat < a.toNat + sizeAt s g a → AfterBody s g stop a (a + .ofNat 64 (sizeAt s g a))
  | later (a b : DWord) : a.toNat + sizeAt s g a ≤ stop.toNat → AfterBody s g stop (a + .ofNat 64 (sizeAt s g a)) b →
      AfterBody s g stop a b

end Sys2Proof.Rules

/-- R55, R171, R174: BRKLOOP takes every active thread to the address after the end instruction of the innermost level, the
instruction of its body that begins at the end address or contains it. -/
def Obligations.BreakLoop : Prop :=
  ∀ (o : FmtNG) op, opOf (.brkloop o) = some op → ∀ s g turn pc l rest, Runs op s g turn pc → g.loops = l :: rest →
    ∃ t g', exec (.brkloop o) s = .next t ∧
      ∀ a, l.stop.toNat + 4 < 2 ^ 64 → Rules.AfterBody s g l.stop l.start a →
        Lanes op s g turn pc { next := fun _ => some a } t g'

/-! ## Instructions that act once for the group -/

namespace Sys2Proof.Rules

/-- A scalar register written; a word marked uncorrectable there is replaced (R394). -/
def withS (g : Group) (r : SReg) (x : Word) : Group :=
  { g with s := g.s.set r.toNat x r.isLt, poison := g.poison.filter fun p => p.2 != .s r }

/-- The sources of a uniform instruction of format A (R117). -/
def ua (o : FmtUA) (g : Group) : Word := usrc32 g o.a
def ub (o : FmtUA) (g : Group) : Word := usrc32 g o.b

/-- Each uniform instruction that writes one scalar register, and its value, from R148, R150, R164, R166 and R270. -/
inductive Scalar : Instr → UDst → (State → Group → PassInfo → Word) → Prop
  | sadd (o : FmtUA) : Scalar (.sadd o) o.d fun _ g _ => .ofInt 32 ((ua o g).toInt + (ub o g).toInt)
  | ssub (o : FmtUA) : Scalar (.ssub o) o.d fun _ g _ => .ofInt 32 ((ua o g).toInt - (ub o g).toInt)
  | smul (o : FmtUA) : Scalar (.smul o) o.d fun _ g _ => .ofInt 32 ((ua o g).toInt * (ub o g).toInt)
  | sand (o : FmtUA) : Scalar (.sand o) o.d fun _ g _ => ua o g &&& ub o g
  | sor (o : FmtUA) : Scalar (.sor o) o.d fun _ g _ => ua o g ||| ub o g
  | sxor (o : FmtUA) : Scalar (.sxor o) o.d fun _ g _ => ua o g ^^^ ub o g
  | sshl (o : FmtUA) : Scalar (.sshl o) o.d fun _ g _ =>
      if (ub o g).toNat < 32 then .ofNat 32 ((ua o g).toNat * 2 ^ (ub o g).toNat) else 0
  | sshr (o : FmtUA) : Scalar (.sshr o) o.d fun _ g _ =>
      if (ub o g).toNat < 32 then .ofNat 32 ((ua o g).toNat / 2 ^ (ub o g).toNat) else 0
  | saddi (o : FmtUI) : Scalar (.saddi o) o.d fun _ g _ => .ofInt 32 ((usrc32 g o.a).toInt + o.imm.toInt)
  | slui (o : FmtUL) : Scalar (.slui o) o.d fun _ _ _ => .ofNat 32 (o.imm.toNat * 2 ^ 14)
  | sllo (o : FmtULo) (r : SReg) (h : o.d = .s r) : Scalar (.sllo o) o.d fun _ g _ =>
      .ofNat 32 ((getS g r).toNat / 2 ^ 14 * 2 ^ 14 + o.imm.toNat)
  | smov (o : FmtU) : Scalar (.smov o) o.d fun _ g _ => usrc32 g o.a
  | spopc (o : FmtU) : Scalar (.spopc o) o.d fun _ g _ => popc (usrc32 g o.a)
  | sctz (o : FmtU) : Scalar (.sctz o) o.d fun _ g _ => ctz (usrc32 g o.a)
  | sclz (o : FmtU) : Scalar (.sclz o) o.d fun _ g _ => clz (usrc32 g o.a)
  | sfromv (o : FmtUV) : Scalar (.sfromv o) o.d fun _ _ i => src32 i.rd (i.chain.headD 0) o.a
  | sread (o : FmtUV) (r : SReg) (h : o.d = .s r) : Scalar (.sread o) o.d fun _ g i =>
      src32 i.rd ((getS g (r + 1)).toNat % 32) o.a
  | estat (o : FmtEst) : Scalar (.estat o) o.d fun s g _ => match o.k with
      | .mine => .ofNat 32 (s.dev.cmds.filter fun c => c.gid == g.gid && c.kind != .coll).length
      | .free => .ofNat 32 (64 - (s.dev.cmds.filter fun c => c.kind != .coll && quadOf c.core == quadOf g.core).length)
      | .coll => .ofNat 32 (s.dev.cmds.filter fun c => c.gid == g.gid && c.kind == .coll).length

end Sys2Proof.Rules

/-- R148, R150, R164, R166, R270: each uniform instruction with a scalar destination writes its value there, once for the
group; every present thread goes to the next instruction, and nothing else changes. -/
def Obligations.ScalarResults : Prop :=
  ∀ i d f, Rules.Scalar i d f → ∀ r op, d = .s r → opOf i = some op → ∀ s g turn pc, Runs op s g turn pc → ∃ t g',
    exec i s = .next t ∧
      Once op s g turn pc (Rules.withS g r (f s g (passInfo op s g turn pc))) s.dev (pc + 4) (presentOf g turn pc) t g'

namespace Sys2Proof.Rules

/-- The system values of class group, from R400: a rectangle's values are 0 outside a task. -/
inductive SysValue : GroupVal → (State → Group → Word) → Prop
  | coreid : SysValue .coreid fun _ g => .ofNat 32 g.core
  | grantX : SysValue .grantX fun _ g => match grantOf g with
      | some r => .ofNat 32 (g.core % 128 % 12 - r.x)
      | none => 0
  | grantY : SysValue .grantY fun _ g => match grantOf g with
      | some r => .ofNat 32 (g.core % 128 / 12 - r.y)
      | none => 0
  | grantW : SysValue .grantW fun _ g => match grantOf g with
      | some r => .ofNat 32 r.w
      | none => 0
  | grantH : SysValue .grantH fun _ g => match grantOf g with
      | some r => .ofNat 32 r.h
      | none => 0
  | codeBase : SysValue .codeBase fun s g => (codeBaseOf s.dev g).truncate 32
  | codeBaseHi : SysValue .codeBaseHi fun s g => (codeBaseOf s.dev g >>> 32).truncate 32
  | whereAt : SysValue .whereAt fun _ g => match g.place with
      | some (span, slot) => .ofNat 32 (span.toNat + 16 * slot.toNat)
      | none => 0
  | mode : SysValue .mode fun _ g => g.mode.zeroExtend 32
  | flags : SysValue .flags fun _ g => g.flags.zeroExtend 32
  | fmask : SysValue .fmask fun _ g => g.fmask
  | tcause : SysValue .tcause fun _ g => g.tcause
  | tframe : SysValue .tframe fun _ g => g.tframe
  | context : SysValue .context fun _ g => .ofNat 32 (g.ctx % 2 ^ 16)
  | restart : SysValue .restart fun _ g => match g.restart with
      | some (o, _) => o
      | none => 0xFFFFFFFF

/-- The system values of class thread, from R400, in a saved thread of the frame. -/
inductive FrameValue : ThreadVal → (SavedThread → Word) → Prop
  | epc : FrameValue .epc fun th => th.epc
  | estate : FrameValue .estate fun th => .ofNat 32 ((match th.st with
      | .run => 0
      | .wait _ => 1
      | .done => 2) + (if th.resume then 4 else 0))
  | eaddr : FrameValue .eaddr fun th => th.addr.truncate 32
  | eaddrHi : FrameValue .eaddrHi fun th => (th.addr >>> 32).truncate 32

end Sys2Proof.Rules

/-- R400, R403: SRD writes the value of its system register to S(D); SRD.V writes that of each active thread, 0 where the
group holds no trap frame. -/
def Obligations.SystemReads : Prop :=
  (∀ (o : FmtSrd) f r op, Rules.SysValue o.val f → o.d = .s r → opOf (.srd o) = some op → ∀ s g turn pc,
    Runs op s g turn pc → ∃ t g', exec (.srd o) s = .next t ∧
      Once op s g turn pc (Rules.withS g r (f s g)) s.dev (pc + 4) (presentOf g turn pc) t g') ∧
  (∀ (o : FmtSrdV) f op, Rules.FrameValue o.val f → opOf (.srdV o) = some op → ∀ s g turn pc,
    Runs op s g turn pc → ∃ t g', exec (.srdV o) s = .next t ∧
      Lanes op s g turn pc
        { upd := fun u => writeDst o.d [match g.frame with
            | some fr => f (fr.threads.toArray.getD u {})
            | none => 0]
          push := fun u => pushDst o.d [match g.frame with
            | some fr => f (fr.threads.toArray.getD u {})
            | none => 0] } t g')

namespace Sys2Proof.Rules

/-- What each uniform instruction that writes group state other than one scalar makes of the group, where its conditions
hold, from R91, R166, R383, R400, R403 and R405. -/
inductive GroupWrite : Instr → (State → Group → PassInfo → Prop) → (Group → Group) → Prop
  | swrite (o : FmtVU) (a : SReg) (r : VReg) (ha : o.a = .s a) (hd : o.d = .v r) : GroupWrite (.swrite o) (fun _ _ _ => True)
      fun g =>
        let lane := (getS g (a + 1)).toNat % 32
        { setThread g lane (writeDst o.d [getS g a]
            { thread g lane with dead := (thread g lane).dead &&& ~~~(1#64 <<< r.toNat) }) with
          poison := g.poison.filter fun p => !markOf lane r p }
  | swrMode (o : FmtSwr) (h : o.flags = false) : GroupWrite (.swr o) (fun _ _ _ => True)
      fun g => { g with mode := (usrc32 g o.a).truncate 8 }
  | swrFlags (o : FmtSwr) (h : o.flags = true) : GroupWrite (.swr o) (fun _ _ _ => True)
      fun g => { g with flags := (usrc32 g o.a).truncate 6 }
  | cbind (o : FmtCb) (r : VReg) (h : o.a = .v r) : GroupWrite (.cbind o) (fun _ _ _ => True)
      fun g => { bindMarks o.c r g with c := g.c.set o.c.toNat (some { reg := r, valid := true }) o.c.isLt }
  | cunbind (o : FmtCu) : GroupWrite (.cunbind o) (fun _ _ _ => True)
      fun g => { g with c := g.c.set o.c.toNat none o.c.isLt }
  | idemb (o : FmtNK) (pc : DWord) : GroupWrite (.idemb o)
      (fun s g i => i.pc = pc ∧ g.region = none ∧ g.partner = none ∧ (∀ h ∈ s.dev.groups, h.partner ≠ some g.gid) ∧
        ∀ u < 32, (thread g u).st ≠ .done → (thread g u).st = .run ∧ (thread g u).pc = i.pc)
      fun g => { g with region := some {
        entry := pc + 4, s := g.s, mode := g.mode, flags := g.flags, loops := g.loops
        mask := maskOf (slots.filter fun u => (thread g u).st != .done) } }
  | ideme (o : FmtNK) : GroupWrite (.ideme o) (fun _ g _ => g.region.isSome = true) fun g => { g with region := none }

end Sys2Proof.Rules

/-- R91, R166, R383, R400, R403, R405: SWRITE, SWR, CBIND, CUNBIND, IDEMB and IDEME write what their rules say, once for the
group; every present thread goes to the next instruction, and nothing else changes. -/
def Obligations.GroupWrites : Prop :=
  ∀ i c f, Rules.GroupWrite i c f → ∀ op, opOf i = some op → ∀ s g turn pc, Runs op s g turn pc →
    c s g (passInfo op s g turn pc) → ∃ t g', exec i s = .next t ∧
      Once op s g turn pc (f g) s.dev (pc + 4) (presentOf g turn pc) t g'

namespace Sys2Proof.Rules

/-- Each uniform control transfer: when all present threads go to the target, and the target, from R169 and R174. -/
inductive Vote : Instr → (Group → PassInfo → Prop) → (PassInfo → DWord) → Prop
  | always (o : FmtJ) : Vote (.braAlways o) (fun _ _ => True) fun i => branchTo i.pc o.off
  | any (o : FmtB) : Vote (.braAny o) (fun g i => ∃ u ∈ i.chain, predOf (thread g u) o.g = true) fun i => branchTo i.pc o.off
  | all (o : FmtB) : Vote (.braAll o) (fun g i => ∀ u ∈ i.chain, predOf (thread g u) o.g = true) fun i => branchTo i.pc o.off
  | none_ (o : FmtB) : Vote (.braNone o) (fun g i => ∀ u ∈ i.chain, predOf (thread g u) o.g = false)
      fun i => branchTo i.pc o.off
  | endturn (o : FmtNK) : Vote (.endturn o) (fun _ _ => False) fun i => i.pc

end Sys2Proof.Rules

/-- R45, R169, R174: BRA, BRA.ANY, BRA.ALL, BRA.NONE and ENDTURN change nothing but pcs (and levels that a branch leaves,
R55), and end the turn: every present thread goes to the target, or every one to the next instruction. -/
def Obligations.UniformBranches : Prop :=
  ∀ i c a, Rules.Vote i c a → ∀ op, opOf i = some op → ∀ s g turn pc, Runs op s g turn pc → ∃ t g', ∃ next : DWord,
    exec i s = .next t ∧ Once op s g turn pc g s.dev next (presentOf g turn pc) t g' ∧ g'.turn = none ∧
    ((c g (passInfo op s g turn pc) ∧ next = a (passInfo op s g turn pc)) ∨
      (¬c g (passInfo op s g turn pc) ∧ next = pc + 4))

/-- R82, R172, R174: CALL and CALLR write the code offset of the next instruction to S62, and RET does not; every present
thread goes to the target, and the turn ends. CALLR and RET take an even code offset (R102), which CALLR reads before it
writes S62. -/
def Obligations.CallsAndReturns : Prop :=
  (∀ (o : FmtJ) op, opOf (.call o) = some op → ∀ s g turn pc, Runs op s g turn pc → ∃ t g', exec (.call o) s = .next t ∧
    Once op s g turn pc (Rules.withS g 62 ((pc + 4 - codeBaseOf s.dev g).truncate 32)) s.dev (branchTo pc o.off)
      (presentOf g turn pc) t g' ∧ g'.turn = none) ∧
  (∀ (o : FmtUO) op, opOf (.callr o) = some op → ∀ s g turn pc, Runs op s g turn pc →
    (usrc32 g o.a).getLsbD 0 = false → ∃ t g', exec (.callr o) s = .next t ∧
    Once op s g turn pc (Rules.withS g 62 ((pc + 4 - codeBaseOf s.dev g).truncate 32)) s.dev
      (codeBaseOf s.dev g + (usrc32 g o.a).zeroExtend 64) (presentOf g turn pc) t g' ∧ g'.turn = none) ∧
  (∀ (o : FmtUO) op, opOf (.ret o) = some op → ∀ s g turn pc, Runs op s g turn pc →
    (usrc32 g o.a).getLsbD 0 = false → ∃ t g', exec (.ret o) s = .next t ∧
    Once op s g turn pc g s.dev (codeBaseOf s.dev g + (usrc32 g o.a).zeroExtend 64) (presentOf g turn pc) t g' ∧ g'.turn = none)

/-- R53, R171: LOOP with a counter that is not 0 adds a level, up to three: the counter, the address after it, its end
address; with a counter of 0 every present thread goes to the address after the end instruction, the one of the body that
begins at the end address or contains it. The turn ends. -/
def Obligations.LoopLevels : Prop :=
  ∀ (o : FmtLoop) op, opOf (.loop o) = some op → ∀ s g turn pc, Runs op s g turn pc →
    let n := getS g (o.s.zeroExtend 6)
    (n ≠ 0 → g.loops.length < 3 → ∃ t g', exec (.loop o) s = .next t ∧
      Once op s g turn pc
        { g with loops := { counter := n, start := pc + 4, stop := branchTo pc o.off } :: g.loops } s.dev (pc + 4)
        (presentOf g turn pc) t g' ∧ g'.loops = { counter := n, start := pc + 4, stop := branchTo pc o.off } :: g.loops ∧
      g'.turn = none) ∧
    (n = 0 → ∃ t g', exec (.loop o) s = .next t ∧ g'.loops = g.loops ∧ g'.turn = none ∧
      ∀ a, (branchTo pc o.off).toNat + 4 < 2 ^ 64 → Rules.AfterBody s g (branchTo pc o.off) (pc + 4) a →
        Once op s g turn pc g s.dev a (presentOf g turn pc) t g')

/-- R174, R426: YIELD ends the turn, and the group is not ready at its next turn opportunity; where an admitted group of the
core is not resident, and the context is not deterministic, the group is to leave its place. -/
def Obligations.YieldHolds : Prop :=
  ∀ (o : FmtNK) op, opOf (.yield o) = some op → ∀ s g turn pc, Runs op s g turn pc → ∃ t g', exec (.yield o) s = .next t ∧
    Once op s g turn pc
      { g with
        hold := .yielded
        wanted := g.wanted ||
          ((s.dev.groups.any fun h => h.core == g.core && h.place.isNone && h.partner.isNone) && !s.dev.isDet g)
        yieldAt := ((s.dev.ctx? g.ctx).map (·.round)).getD 0 }
      s.dev (pc + 4) (presentOf g turn pc) t g' ∧
    g'.hold = .yielded ∧ g'.turn = none

/-! ## Memory: the accesses of one active thread

The threads of a pass act one after another in slot order (R44); what one of them does is stated for a pass with one active
thread, in any slot. -/

namespace Sys2Proof.Rules

/-- A group but for the marks of sources that a pass has marked dead (R93). -/
def Marked (g h : Group) : Prop :=
  { h with threads := g.threads } = g ∧ ∀ v < 32, { thread h v with dead := 0 } = { thread g v with dead := 0 }

/-- A scratchpad address whose place check passes (R36, R204), with the core it names. -/
def InPad (g : Group) (va : DWord) (core : Nat) : Prop := vaClass va = .scratch ∧ placeCheck g (vaDx va) (vaDy va) = some core

/-- A canonical address, aligned to the access (R201, R234). -/
def InMemory (va : DWord) (size : Nat) : Prop := vaClass va = .canonical ∧ va.toNat % size = 0

/-- A canonical address with its translation in the core's TLB, a leaf that grants the access (R389), and the key of its
first byte (R207, R214). -/
structure Mapped (s : State) (g : Group) (va : DWord) (size : Nat) (need : Need) (k : Nat) (l : Leaf) : Prop where
  inMemory : InMemory va size
  ctx : ∃ c, s.dev.ctx? g.ctx = some c ∧ lookup s.dev g.core g.ctx va = .leaf l ∧ leafKey s.mem s.dev c g.core va l need = .ok k

/-- Each load with its address, destination, time register, bytes, registers and extension, from R239 to R242. -/
inductive Load : Instr → (Rd → Nat → DWord) → Dst → TReg → Nat → Nat → Ext → Prop
  | ldw (o : FmtLd) : Load (.ldw o) (fun rd t => src64 rd t o.b + .ofNat 64 (4 * o.off.toNat)) o.d o.t 4 1 .none
  | ldd (o : FmtLd) : Load (.ldd o) (fun rd t => src64 rd t o.b + .ofNat 64 (8 * o.off.toNat)) o.d o.t 8 2 .none
  | ldq (o : FmtLd) : Load (.ldq o) (fun rd t => src64 rd t o.b + .ofNat 64 (16 * o.off.toNat)) o.d o.t 16 4 .none
  | ldsub8 (o : FmtLdSub) (h : o.sz = .i8) : Load (.ldsub o) (fun rd t => src64 rd t o.b + .ofNat 64 o.off.toNat) o.d o.t 1 1 .s8
  | ldsub8u (o : FmtLdSub) (h : o.sz = .n8) : Load (.ldsub o) (fun rd t => src64 rd t o.b + .ofNat 64 o.off.toNat) o.d o.t 1 1 .u8
  | ldsub16 (o : FmtLdSub) (h : o.sz = .i16) :
      Load (.ldsub o) (fun rd t => src64 rd t o.b + .ofNat 64 (2 * o.off.toNat)) o.d o.t 2 1 .s16
  | ldsub16u (o : FmtLdSub) (h : o.sz = .n16) :
      Load (.ldsub o) (fun rd t => src64 rd t o.b + .ofNat 64 (2 * o.off.toNat)) o.d o.t 2 1 .u16

/-- Each store with its address, data, bytes, from R239, R241 and R243. -/
inductive Store : Instr → (Rd → Nat → DWord) → (Rd → Nat → Nat) → Nat → Prop
  | stw (o : FmtSt) : Store (.stw o) (fun rd t => src64 rd t o.b + .ofNat 64 (4 * o.off.toNat))
      (fun rd t => (src32 rd t o.x).toNat) 4
  | std (o : FmtSt) : Store (.std o) (fun rd t => src64 rd t o.b + .ofNat 64 (8 * o.off.toNat))
      (fun rd t => (src64 rd t o.x).toNat) 8
  | stq (o : FmtSt) : Store (.stq o) (fun rd t => src64 rd t o.b + .ofNat 64 (16 * o.off.toNat))
      (fun rd t => wordsNat (srcWords rd t o.x 4)) 16
  | stsub (o : FmtStSub) : Store (.stsub o)
      (fun rd t => src64 rd t o.b + .ofNat 64 ((if o.half then 2 else 1) * o.off.toNat))
      (fun rd t => (src32 rd t o.x).toNat) (if o.half then 2 else 1)

/-- Each instruction that stores to a scratchpad: the stores, and MCST of one or of two words (R247). -/
inductive PadStore : Instr → (Rd → Nat → DWord) → (Rd → Nat → Nat) → Nat → Prop
  | store (i f v n) (h : Store i f v n) : PadStore i f v n
  | mcst (o : FmtNB) (h : o.k1 = false) : PadStore (.mcst o) (fun rd t => src64 rd t o.a) (fun rd t => (src32 rd t o.b).toNat) 4
  | mcst64 (o : FmtNB) (h : o.k1 = true) : PadStore (.mcst o) (fun rd t => src64 rd t o.a) (fun rd t => (src64 rd t o.b).toNat) 8

/-- Byte `j` of a number. -/
def byteAt (v j : Nat) : Byte := .ofNat 8 (v / 2 ^ (8 * j))

/-- Two lists correspond, member by member. -/
inductive Each {A B : Type} (p : A → B → Prop) : List A → List B → Prop
  | nil : Each p [] []
  | cons (x : A) (y : B) (l : List A) (m : List B) : p x y → Each p l m → Each p (x :: l) (y :: m)

/-- A cached sector before and after a write of `size` bytes at each of some keys reaches it, where it is one of the writer's
core. -/
def Patched (mine : Prop) (ks : List Nat) (size v : Nat) (x y : PSector) : Prop :=
  { y with data := x.data } = x ∧ ∀ b < 32, ∀ a, a = 32 * x.key + b →
    (∀ k ∈ ks, mine → k ≤ a → a < k + size → sectorByte y a = byteAt v (a - k)) ∧
    ((mine → ∀ k ∈ ks, ¬(k ≤ a ∧ a < k + size)) → sectorByte y a = sectorByte x a)

/-- What a write of a core to some keys does to copies on its die: the sectors of its private cache and of the fills on their way
to it take the bytes (R209, R283), and the replica of each line in its nearest slice goes (R213). -/
structure CopiesTake (s : State) (g : Group) (ks : List Nat) (size v : Nat) (d : Device) : Prop where
  cache : Each (fun x y => Patched (x.core = g.core) ks size v x y) s.dev.pcache d.pcache
  fills : Each (fun q r => { r with fill := q.fill } = q ∧ Each (Patched (q.core = g.core) ks size v) q.fill r.fill)
    s.dev.reqs d.reqs
  replicas : ∀ r, r ∈ d.replicas ↔ r ∈ s.dev.replicas ∧
    ¬(r.die = dieOf g.core ∧ r.slice = nearestSlice g.core ∧ ∃ k ∈ ks, r.line = k / 128)
  ways : ∀ w, w ∈ d.ways ↔ w ∈ s.dev.ways ∧
    ¬(w.replica = true ∧ w.die = dieOf g.core ∧ w.slice = nearestSlice g.core ∧ ∃ k ∈ ks, w.line = k / 128)

/-- What an RMW of a core on some bytes takes from it: their sectors in its private cache and in the fills on their way to it
(R309), and the replica of their line in its nearest slice (R213). -/
structure CopiesGo (s : State) (g : Group) (keys : List Nat) (pcache : List PSector) (reqs : List Req) (replicas : List Replica)
    (ways : List Way) : Prop where
  cache : ∀ x, x ∈ pcache ↔ x ∈ s.dev.pcache ∧ ¬(x.core = g.core ∧ ∃ k ∈ keys, k / 32 = x.key)
  fills : Each (fun q r => { r with fill := q.fill } = q ∧
    ∀ x, x ∈ r.fill ↔ x ∈ q.fill ∧ ¬(q.core = g.core ∧ x.core = g.core ∧ ∃ k ∈ keys, k / 32 = x.key)) s.dev.reqs reqs
  replicas : ∀ r, r ∈ replicas ↔ r ∈ s.dev.replicas ∧
    ¬(r.die = dieOf g.core ∧ r.slice = nearestSlice g.core ∧ r.line = keys.headD 0 / 128)
  ways : ∀ w, w ∈ ways ↔ w ∈ s.dev.ways ∧
    ¬(w.replica = true ∧ w.die = dieOf g.core ∧ w.slice = nearestSlice g.core ∧ w.line = keys.headD 0 / 128)

/-- A load to a scratchpad as it leaves its pass (R205, R206, R223): the value of its bytes there, the core's own writes that
wait in its path first (R283), and a promise a fixed quote away; an earlier atomic or reduction of the core on them (R313, R318)
keeps it on its way. -/
structure PadLoad (s : State) (g : Group) (c : Nat) (q : Req) (d : Device) : Prop where
  same : d.pcache = s.dev.pcache ∧ d.walks = s.dev.walks
  keys : q.keys = scratchKeys s.dev g c q.va q.size
  waits : held s.dev g.core q.keys s.dev.nextId = true → q.st = .sent ∧ q.promise = none
  value : held s.dev g.core q.keys s.dev.nextId = false → q.st = .served ∧ q.value = natAt s.mem s.dev g.core s.dev.nextId q.keys ∧
    (s.dev.isDet g = false → q.promise = some (promiseOf q (scratchQuote s.dev q c q.keys)))

/-- A load of translated memory as it leaves its pass (R202, R209, R225, R240, R283): it waits for its translation, or is refused;
or it takes its value at its core, from a fill on its way or from the private cache, whose sector is then the most recently used
(log 6); or it is on its way to its supplier. -/
structure MemLoad (s : State) (g : Group) (q : Req) (d : Device) : Prop where
  walking : ∀ c, s.dev.ctx? g.ctx = some c → (∀ l, lookup s.dev g.core g.ctx q.va ≠ .leaf l) → q.st = .walking ∧ q.promise = none ∧
    d.pcache = s.dev.pcache ∧ (∃ w ∈ d.walks, w.ctx = g.ctx ∧ w.va.toNat = q.va.toNat / 4096 * 4096 ∧ g.core ∈ w.cores) ∧
    ∀ w ∈ s.dev.walks, ∃ w' ∈ d.walks, { w' with cores := w.cores } = w
  refused : ∀ c l e, s.dev.ctx? g.ctx = some c → lookup s.dev g.core g.ctx q.va = .leaf l →
    leafKey s.mem s.dev c g.core q.va l .r = .error e →
    q.st = .refused e ∧ q.promise = none ∧ d.pcache = s.dev.pcache ∧ d.walks = s.dev.walks
  found : ∀ c l k, s.dev.ctx? g.ctx = some c → lookup s.dev g.core g.ctx q.va = .leaf l →
    leafKey s.mem s.dev c g.core q.va l .r = .ok k →
    q.keys = (List.range q.size).map (k + ·) ∧ q.dom = l.dom ∧ d.walks = s.dev.walks ∧
    (let away := keyKind k = .host ∨ held s.dev g.core q.keys s.dev.nextId = true ∨
        loadAhead s.dev g.core q.keys s.dev.nextId = true;
      (away → q.st = .sent ∧ q.promise = none ∧ d.pcache = s.dev.pcache) ∧
      (¬away → ∀ x, fillOnWay s.dev g.core k = some x →
        q.st = .served ∧ q.value = leNat (q.keys.map (sectorByte x)) ∧ q.promise = none ∧ d.pcache = s.dev.pcache) ∧
      (¬away → fillOnWay s.dev g.core k = none → cacheHolds s.dev g.core k q.size = true →
        q.st = .served ∧ q.value = cachedNat s.dev g.core q.keys ∧
        (∃ x, sectorHit s.dev g.core k = some x ∧ d.pcache = x :: s.dev.pcache.filter (· != x)) ∧
        (s.dev.isDet g = false → q.promise = some (promiseOf q Config.privateQuote))) ∧
      (¬away → fillOnWay s.dev g.core k = none → cacheHolds s.dev g.core k q.size = false →
        q.st = .sent ∧ q.promise = none ∧ d.pcache = s.dev.pcache))

/-- The request of a load as it leaves its pass. -/
structure LoadSent (s : State) (g : Group) (va : DWord) (size : Nat) (q : Req) (d : Device) : Prop where
  named : q.id = s.dev.nextId ∧ q.gid = g.gid ∧ q.core = g.core ∧ q.ctx = g.ctx ∧ q.va = va ∧ q.size = size ∧
    q.clock = clockOf s.dev (dieOf g.core) ∧ q.at_ = s.dev.tickOf g.core ∧ q.dropped = false
  pad : ∀ c, InPad g va c → PadLoad s g c q d
  mem : InMemory va size → MemLoad s g q d
  det : s.dev.isDet g = true → q.promise = none

end Sys2Proof.Rules

/-- R223, R227, R239, R240, R242: a load whose address is aligned and canonical, or in a scratchpad whose place check passes,
executes: it sends one request for its bytes and its destination, which takes its value in the pass from a scratchpad or where the
core holds it (log 6), and names its time register, which becomes PROMISED at the request's promise where that is known and
PENDING since the issue where it is not, keeps its sticky bit, and in a deterministic context is PROMISED at RC + 1 (R424). Memory
does not change; nor does anything else, but that a hit makes its sector the most recently used, a miss of the TLB starts a walk,
and a load into Q takes its entry (R73). -/
def Obligations.LoadsIssue : Prop :=
  ∀ i f dst tr size n e, Rules.Load i f dst tr size n e → ∀ op, opOf i = some op → ∀ s g turn pc, Runs op s g turn pc →
    ∀ u, actives op g turn pc = [u] →
    (Rules.InMemory (f (rdOf s.dev g turn) u) size ∨ ∃ c, Rules.InPad g (f (rdOf s.dev g turn) u) c) →
    ∃ t g' h d q x, exec i s = .next t ∧ Once op s g turn pc h d (pc + 4) [u] t g' ∧ t.mem = s.mem ∧
      d.reqs = s.dev.reqs ++ [q] ∧ q.slot = u ∧ q.kind = .load e ∧ q.lanes = 1#32 <<< u ∧
      Rules.LoadSent s g (f (rdOf s.dev g turn) u) size q d ∧
      q.dst = (match dst with
        | .v r => .v r n
        | .q => .q q.id
        | .sup | .rsv _ => .none) ∧
      { d with
        reqs := s.dev.reqs, nextId := s.dev.nextId, steps := s.dev.steps, pcache := s.dev.pcache
        walks := s.dev.walks } = s.dev ∧
      { h with threads := g.threads, qwin := g.qwin } = g ∧
      (∀ v < 32, thread h v = if v = u then setTime (thread g u) tr x else thread g v) ∧
      x.req = q.id ∧ x.engine = false ∧ x.sticky = (timeOf (thread g u) tr).sticky ∧
      (s.dev.isDet g = true → x.st = .promised ∧ x.value = s.dev.now g + 1) ∧
      (s.dev.isDet g = false → ∀ p, q.promise = some p → x.st = .promised ∧ x.value = p) ∧
      (s.dev.isDet g = false → q.promise = none → x.st = .pending ∧ x.value = .ofNat 32 (s.dev.tickOf g.core / 60)) ∧
      ∀ v < 32, (h.qwin.toArray.getD v []).map (·.value) =
        (g.qwin.toArray.getD v []).map (·.value) ++ (if v = u ∧ dst = .q then [none] else [])

/-- R205, R206, R241, R243, R247: a store to a scratchpad whose place check passes, with no earlier atomic, reduction or store of
the core still to come there (R313, R318), is performed at once: the bytes at the keys of its location take its data, the
lowest address the least significant byte (R3), and every other byte of memory stays as it was. -/
def Obligations.ScratchStores : Prop :=
  ∀ i f v size, Rules.PadStore i f v size → ∀ op, opOf i = some op → ∀ s g turn pc, Runs op s g turn pc →
    ∀ u, actives op g turn pc = [u] → ∀ c, Rules.InPad g (f (rdOf s.dev g turn) u) c →
    let keys := scratchKeys s.dev g c (f (rdOf s.dev g turn) u) size
    s.mem.wf = true → held s.dev g.core keys s.dev.nextId = false → pathHolds s.dev g.core keys = false →
    ∃ t g' h d, exec i s = .next t ∧ Once op s g turn pc h d (pc + 4) [u] t g' ∧ Rules.Marked g h ∧ { d with log := [] } = s.dev ∧
      (∀ k, k ∉ keys → memGet t.mem k = memGet s.mem k) ∧
      ∀ j k, keys[j]? = some k → memGet t.mem k = Rules.byteAt (v (rdOf s.dev g turn) u) j

/-- R227, R241, R243, R283: a store to a translated address that its leaf lets it write enters the core's write path with its
bytes, at the end, with its die's clock; no byte of memory changes in the pass. The sectors of the core's private cache and of
its fills take the bytes too, every other byte of them stays (R209), and a replica of the line in its nearest slice goes with its
way (R210, R213). -/
def Obligations.MemoryStores : Prop :=
  ∀ i f v size, Rules.Store i f v size → ∀ op, opOf i = some op → ∀ s g turn pc, Runs op s g turn pc →
    ∀ u, actives op g turn pc = [u] → ∀ k l, Rules.Mapped s g (f (rdOf s.dev g turn) u) size .w k l →
    ∃ t g' d w, exec i s = .next t ∧ Once op s g turn pc g d (pc + 4) [u] t g' ∧ t.mem = s.mem ∧
      d.writes = s.dev.writes ++ [w] ∧ w.core = g.core ∧ w.gid = g.gid ∧ w.slot = u ∧ w.key = k ∧ w.atomic = none ∧
      w.applied = false ∧ w.dom = l.dom ∧ w.source = dieOf g.core ∧ w.stamp = clockOf s.dev (dieOf g.core) ∧
      (w.sent = true ↔ held s.dev g.core ((List.range size).map (k + ·)) s.dev.nextId = false) ∧
      (∀ j < size, w.cells[j]? = some (k + j, Rules.byteAt (v (rdOf s.dev g turn) u) j)) ∧ w.cells.length = size ∧
      Rules.CopiesTake s g [k] size (v (rdOf s.dev g turn) u) d ∧
      { d with
        writes := s.dev.writes, nextId := s.dev.nextId, pcache := s.dev.pcache, reqs := s.dev.reqs
        replicas := s.dev.replicas, ways := s.dev.ways } = s.dev

/-- R215, R247, R283: MCST to a translated address that its leaf lets it write sends a write with its bytes to every copy of the
replica region that the address lies in, or to the one location where it lies in none; no byte of memory changes in the
pass. -/
def Obligations.MulticastStores : Prop :=
  ∀ (o : FmtNB) op, opOf (.mcst o) = some op → ∀ s g turn pc, Runs op s g turn pc → ∀ u, actives op g turn pc = [u] →
    let va := src64 (rdOf s.dev g turn) u o.a
    let size := if o.k1 then 8 else 4
    let v := if o.k1 then (src64 (rdOf s.dev g turn) u o.b).toNat else (src32 (rdOf s.dev g turn) u o.b).toNat
    ∀ k l c ks, Rules.Mapped s g va size .w k l → s.dev.ctx? g.ctx = some c → copyKeys s.mem s.dev c va l = .ok ks →
    ∃ t g' h d ws, exec (.mcst o) s = .next t ∧ Once op s g turn pc h d (pc + 4) [u] t g' ∧ Rules.Marked g h ∧ t.mem = s.mem ∧
      d.writes = s.dev.writes ++ ws ∧ ws.map (·.key) = ks ∧
      (∀ w ∈ ws, w.core = g.core ∧ w.gid = g.gid ∧ w.slot = u ∧ w.atomic = none ∧ w.cells.length = size ∧
        ∀ j < size, w.cells[j]? = some (w.key + j, Rules.byteAt v j)) ∧
      (replicaNames s.mem s.dev c va = none → ks = [k]) ∧ Rules.CopiesTake s g ks size v d ∧
      { d with
        writes := s.dev.writes, nextId := s.dev.nextId, pcache := s.dev.pcache, reqs := s.dev.reqs
        replicas := s.dev.replicas, ways := s.dev.ways } = s.dev

/-- R139, R167: SLD and SLDD send one request for the group, for one or two scalar registers, without a time register, which takes
its value as a load's does; every present thread goes to the next instruction. -/
def Obligations.ScalarLoads : Prop :=
  ∀ (i : Instr) (o : FmtU) n, (i = .sld o ∧ n = 1) ∨ (i = .sldd o ∧ n = 2) → ∀ r op, o.d = .s r → opOf i = some op →
    ∀ s g turn pc, Runs op s g turn pc →
    (Rules.InMemory (usrc64 g o.a) (4 * n) ∨ ∃ c, Rules.InPad g (usrc64 g o.a) c) →
    ∃ t g' h d q, exec i s = .next t ∧ Once op s g turn pc h d (pc + 4) (presentOf g turn pc) t g' ∧ t.mem = s.mem ∧
      d.reqs = s.dev.reqs ++ [q] ∧ q.kind = .uload ∧ q.dst = .s r n ∧ q.lanes = maskOf (actives op g turn pc) ∧
      Rules.LoadSent s g (usrc64 g o.a) (4 * n) q d ∧
      { d with
        reqs := s.dev.reqs, nextId := s.dev.nextId, steps := s.dev.steps, pcache := s.dev.pcache
        walks := s.dev.walks } = s.dev ∧
      h = g

namespace Sys2Proof.Rules

/-- The shape of an atomic: operand registers, destination registers, bytes (R304). -/
def shape (op : AtomOp) (size : Nat) : Nat × Nat × Nat :=
  let n := if size ≤ 4 then 1 else if size = 8 then 2 else 4
  (if op = .cas then 2 * n else n, n, size)

/-- Each atomic with its operation, type and bytes, from R303. -/
inductive Atom : Instr → FmtT → AtomOp → AtomTy → Nat → Prop
  | a1 (o : FmtT) : Atom (.atom32AddI32 o) o .addI .int 4
  | a2 (o : FmtT) : Atom (.atom32AddF32 o) o .addF .f32 4
  | a3 (o : FmtT) : Atom (.atom32MinI32 o) o .minS .int 4
  | a4 (o : FmtT) : Atom (.atom32MinN32 o) o .minU .int 4
  | a5 (o : FmtT) : Atom (.atom32MinF32 o) o .minF .f32 4
  | a6 (o : FmtT) : Atom (.atom32MaxI32 o) o .maxS .int 4
  | a7 (o : FmtT) : Atom (.atom32MaxN32 o) o .maxU .int 4
  | a8 (o : FmtT) : Atom (.atom32MaxF32 o) o .maxF .f32 4
  | a9 (o : FmtT) : Atom (.atom32AndB32 o) o .and .int 4
  | a10 (o : FmtT) : Atom (.atom32OrB32 o) o .or .int 4
  | a11 (o : FmtT) : Atom (.atom32XorB32 o) o .xor .int 4
  | a12 (o : FmtT) : Atom (.atom32ExchB32 o) o .exch .int 4
  | a13 (o : FmtT) : Atom (.atom32CasB32 o) o .cas .int 4
  | b1 (o : FmtT) : Atom (.atom64AddI64 o) o .addI .int 8
  | b2 (o : FmtT) : Atom (.atom64AddF64 o) o .addF .f64 8
  | b3 (o : FmtT) : Atom (.atom64MinI64 o) o .minS .int 8
  | b4 (o : FmtT) : Atom (.atom64MinN64 o) o .minU .int 8
  | b5 (o : FmtT) : Atom (.atom64MinF64 o) o .minF .f64 8
  | b6 (o : FmtT) : Atom (.atom64MaxI64 o) o .maxS .int 8
  | b7 (o : FmtT) : Atom (.atom64MaxN64 o) o .maxU .int 8
  | b8 (o : FmtT) : Atom (.atom64MaxF64 o) o .maxF .f64 8
  | b9 (o : FmtT) : Atom (.atom64AndB64 o) o .and .int 8
  | b10 (o : FmtT) : Atom (.atom64OrB64 o) o .or .int 8
  | b11 (o : FmtT) : Atom (.atom64XorB64 o) o .xor .int 8
  | b12 (o : FmtT) : Atom (.atom64ExchB64 o) o .exch .int 8
  | b13 (o : FmtT) : Atom (.atom64CasB64 o) o .cas .int 8
  | c1 (o : FmtT) : Atom (.atomxAddBf16 o) o .addF .bf16 2
  | c2 (o : FmtT) : Atom (.atomxMinBf16 o) o .minF .bf16 2
  | c3 (o : FmtT) : Atom (.atomxMaxBf16 o) o .maxF .bf16 2
  | c4 (o : FmtT) : Atom (.atomxAddBf16x2 o) o .addF .bf16x2 4
  | c5 (o : FmtT) : Atom (.atomxMinBf16x2 o) o .minF .bf16x2 4
  | c6 (o : FmtT) : Atom (.atomxMaxBf16x2 o) o .maxF .bf16x2 4
  | c7 (o : FmtT) : Atom (.atomxAddF16x2 o) o .addF .f16x2 4
  | c8 (o : FmtT) : Atom (.atomxMinF16x2 o) o .minF .f16x2 4
  | c9 (o : FmtT) : Atom (.atomxMaxF16x2 o) o .maxF .f16x2 4
  | c10 (o : FmtT) : Atom (.atomxExchB128 o) o .exch .int 16
  | c11 (o : FmtT) : Atom (.atomxCasB128 o) o .cas .int 16

/-- The RMW that an atomic asks for: the compare value stands in its low operand registers (R304). -/
def rmwOf (op : AtomOp) (ty : AtomTy) (size : Nat) (ws : List Word) : Atomic :=
  { op := op, ty := ty, size := size
    x := if op = .cas then wordsNat ws / 2 ^ (8 * size) else wordsNat ws % 2 ^ (8 * size)
    cmp := if op = .cas then wordsNat ws % 2 ^ (8 * size) else 0 }

/-- The location of an atomic: the keys of its bytes and the domain of its page, in a scratchpad or in mapped memory; a host
window takes integer ADD, EXCH and CAS of 4 and 8 bytes alone (R308). -/
def AtomAt (s : State) (g : Group) (va : DWord) (a : Atomic) (keys : List Nat) (dom : Nat) : Prop :=
  (∃ c, InPad g va c ∧ keys = scratchKeys s.dev g c va a.size ∧ keys ≠ [] ∧ dom = 0) ∨
  (∃ k l, Mapped s g va a.size .rw k l ∧ keys = (List.range a.size).map (k + ·) ∧ dom = l.dom ∧
    (keyKind k = .host → (a.op = .addI ∨ a.op = .exch ∨ a.op = .cas) ∧ (a.size = 4 ∨ a.size = 8)))

end Sys2Proof.Rules

/-- R303, R304, R306, R311, R316: an atomic outside an idempotent region, whose location may be read and written, sends its
RMW: the form with a destination as a request for the old value, the form without as a reduction, which enters the core's
reduction buffer where none of the buffer merges with it and the buffer has room. The core's private cache and the fills on their
way to it lose the sectors of the location, its nearest slice the replica of the line (R213, R309); memory does not change in the
pass. -/
def Obligations.AtomicsIssue : Prop :=
  ∀ i o aop ty size, Rules.Atom i o aop ty size → ∀ op, opOf i = some op → ∀ s g turn pc, Runs op s g turn pc →
    ∀ u, actives op g turn pc = [u] → g.region = none → ∀ keys dom,
    let a := Rules.rmwOf aop ty size (srcWords (rdOf s.dev g turn) u (.v o.opnd) (Rules.shape aop size).1)
    let va := pair (readV (rdOf s.dev g turn) u o.addr) (readV (rdOf s.dev g turn) u (o.addr + 1))
    Rules.AtomAt s g va a keys dom →
    (∀ r, o.d = .v r → ∃ t g' d q rs, exec i s = .next t ∧ Once op s g turn pc g d (pc + 4) [u] t g' ∧ t.mem = s.mem ∧
      d.reqs = rs ++ [q] ∧ q.id = s.dev.nextId ∧ q.gid = g.gid ∧ q.slot = u ∧ q.kind = .atomic a ∧ q.st = .sent ∧
      q.keys = keys ∧ q.dom = dom ∧ q.dst = .v r (Rules.shape aop size).2.1 ∧ q.core = g.core ∧ q.va = va ∧
      q.clock = clockOf s.dev (dieOf g.core) ∧ Rules.CopiesGo s g keys d.pcache rs d.replicas d.ways ∧
      { d with
        reqs := s.dev.reqs, nextId := s.dev.nextId, pcache := s.dev.pcache, replicas := s.dev.replicas
        ways := s.dev.ways } = s.dev) ∧
    (o.d = .sup → (∀ r ∈ s.dev.reds, ∀ x : Red, x.core = g.core → x.keys = keys → x.atomic = a → mergesWith r x = false) →
      (buffered s.dev g.core).length < 512 → ∃ t g' h d x, exec i s = .next t ∧ Once op s g turn pc h d (pc + 4) [u] t g' ∧
      t.mem = s.mem ∧ d.reds = s.dev.reds ++ [x] ∧ x.id = s.dev.nextId ∧ x.core = g.core ∧ x.ctx = g.ctx ∧ x.keys = keys ∧
      x.atomic = a ∧ x.dom = dom ∧ x.gid = g.gid ∧ x.slot = u ∧ x.spilled = false ∧ x.atHome = false ∧
      x.va = va ∧ x.also = [] ∧ Rules.CopiesGo s g keys d.pcache d.reqs d.replicas d.ways ∧
      { d with
        reds := s.dev.reds, nextId := s.dev.nextId, pcache := s.dev.pcache, reqs := s.dev.reqs
        replicas := s.dev.replicas, ways := s.dev.ways } = s.dev ∧
      { h with ordPasses := g.ordPasses } = g)

namespace Sys2Proof.Rules

/-- f(old, x) of R306 on integers of `w` bits, as the numbers they stand for. -/
def rmwInt (op : AtomOp) (w old x cmp : Nat) : Option Nat :=
  let signed := fun (n : Nat) => if n < 2 ^ (w - 1) then (n : Int) else (n : Int) - 2 ^ w
  match op with
  | .addI => some ((old + x) % 2 ^ w)
  | .minS => some (if signed x ≤ signed old then x else old)
  | .maxS => some (if signed old ≤ signed x then x else old)
  | .minU => some (if x ≤ old then x else old)
  | .maxU => some (if old ≤ x then x else old)
  | .and => some (old &&& x)
  | .or => some (old ||| x)
  | .xor => some (old ^^^ x)
  | .exch => some x
  | .cas => some (if old = cmp then x else old)
  | .addF | .minF | .maxF => none

end Sys2Proof.Rules

/-- R306, R307, R312: an RMW at its home answers the old value and leaves f(old, x) there, every other byte as it was; a
floating ADD rounds to nearest even, whatever the mode, and a floating MIN and MAX are FMIN and FMAX; a location that holds an
uncorrectable sector is not written. -/
def Obligations.AtomicResults : Prop :=
  ∀ m keys dom (a : Atomic) d, keys.Nodup → keys.length = a.size → 0 < a.size → a.x < 2 ^ (8 * a.size) → a.cmp < 2 ^ (8 * a.size) →
    (keys.any (badSector d · dom) = true → applyAtomic m keys dom a d = none) ∧
    (keys.any (badSector d · dom) = false → ∃ d', applyAtomic m keys dom a d = some (leNat (keys.map (peek m d)), d') ∧
      (∀ k, k ∉ keys → peek m d' k = peek m d k) ∧
      (∀ x, Rules.rmwInt a.op (8 * a.size) (leNat (keys.map (peek m d))) a.x a.cmp = some x → leNat (keys.map (peek m d')) = x) ∧
      (a.size = 4 → a.ty = .f32 → ∀ old, old = leNat (keys.map (peek m d)) →
        (a.op = .addF → BitVec.ofNat 32 (leNat (keys.map (peek m d'))) = BitVec.ofNat 32 (fpAdd f32 .rne old a.x).1) ∧
        (a.op = .minF → BitVec.ofNat 32 (leNat (keys.map (peek m d'))) = BitVec.ofNat 32 (fpMinMax f32 false old a.x).1) ∧
        (a.op = .maxF → BitVec.ofNat 32 (leNat (keys.map (peek m d'))) = BitVec.ofNat 32 (fpMinMax f32 true old a.x).1)))

/-- R211, R245, R246: on a line of module memory that the group may read, PIN sends a request for its outcome, UNPIN releases
the context's pin, CFLUSH enters the core's write path as a store of no bytes, and CINV discards the line from the core's
private cache and from its nearest slice. No byte of memory changes in the pass. -/
def Obligations.LineOperations : Prop :=
  ∀ s g turn pc u k l,
    (∀ (o : FmtN) op, opOf (.pin o) = some op → Runs op s g turn pc → actives op g turn pc = [u] →
      Rules.Mapped s g (src64 (rdOf s.dev g turn) u o.a) 1 .r k l → keyKind k ≠ .host → ∃ t g' h d q,
      exec (.pin o) s = .next t ∧ Once op s g turn pc h d (pc + 4) [u] t g' ∧ Rules.Marked g h ∧ t.mem = s.mem ∧
      d.reqs = s.dev.reqs ++ [q] ∧ q.kind = .pin ∧ q.gid = g.gid ∧ q.slot = u ∧ q.keys = [k / 128 * 128] ∧
      q.dst = (match o.d with
        | .v r => .v r 1
        | .q => .q q.id
        | .sup | .rsv _ => .none) ∧
      { d with reqs := s.dev.reqs, nextId := s.dev.nextId } = s.dev) ∧
    (∀ (o : FmtNA) op, opOf (.unpin o) = some op → Runs op s g turn pc → actives op g turn pc = [u] →
      Rules.Mapped s g (src64 (rdOf s.dev g turn) u o.a) 1 .r k l → keyKind k ≠ .host → ∃ t g' h,
      exec (.unpin o) s = .next t ∧
      Once op s g turn pc h { s.dev with pins := s.dev.pins.filter (· != (g.ctx, k / 128)) } (pc + 4) [u] t g' ∧
      Rules.Marked g h ∧ t.mem = s.mem) ∧
    (∀ (o : FmtNA) op, opOf (.cflush o) = some op → Runs op s g turn pc → actives op g turn pc = [u] →
      Rules.Mapped s g (src64 (rdOf s.dev g turn) u o.a) 1 .r k l → keyKind k ≠ .host → ∃ t g' h d w,
      exec (.cflush o) s = .next t ∧ Once op s g turn pc h d (pc + 4) [u] t g' ∧ Rules.Marked g h ∧ t.mem = s.mem ∧
      d.writes = s.dev.writes ++ [w] ∧ w.key = k / 128 * 128 ∧ w.cells = [] ∧ w.core = g.core ∧ w.gid = g.gid ∧ w.slot = u ∧
      { d with writes := s.dev.writes, nextId := s.dev.nextId } = s.dev) ∧
    (∀ (o : FmtNA) op, opOf (.cinv o) = some op → Runs op s g turn pc → actives op g turn pc = [u] →
      Rules.Mapped s g (src64 (rdOf s.dev g turn) u o.a) 1 .r k l → keyKind k ≠ .host → ∃ t g' h d,
      exec (.cinv o) s = .next t ∧ Once op s g turn pc h d (pc + 4) [u] t g' ∧ Rules.Marked g h ∧ t.mem = s.mem ∧
      Rules.CopiesGo s g ((List.range 4).map fun j => k / 128 * 128 + 32 * j) d.pcache d.reqs d.replicas d.ways ∧
      { d with pcache := s.dev.pcache, reqs := s.dev.reqs, replicas := s.dev.replicas, ways := s.dev.ways } = s.dev)

/-- R220, R251, R252: MSEND to a ring of a scratchpad whose place check passes sends one message of 16 or 32 bytes, none where the
context has no scratchpad (R205); MWAIT on a ring of the core's own scratchpad goes on where TAIL and HEAD differ, and else leaves
its thread in WAIT on that ring, for ever where the context has no scratchpad, and never changes memory. -/
def Obligations.Messages : Prop :=
  (∀ (o : FmtNB) op, opOf (.msend o) = some op → ∀ s g turn pc, Runs op s g turn pc → ∀ u, actives op g turn pc = [u] →
    g.region = none → ∀ c, Rules.InPad g (src64 (rdOf s.dev g turn) u o.a) c →
    (headerKey s.dev g c (src64 (rdOf s.dev g turn) u o.a) = none → ∃ t g' h, exec (.msend o) s = .next t ∧
      Once op s g turn pc h s.dev (pc + 4) [u] t g' ∧ Rules.Marked g h ∧ t.mem = s.mem) ∧
    ∀ key, headerKey s.dev g c (src64 (rdOf s.dev g turn) u o.a) = some key → ∃ t g' h d x,
    exec (.msend o) s = .next t ∧ Once op s g turn pc h d (pc + 4) [u] t g' ∧ Rules.Marked g h ∧ t.mem = s.mem ∧
    d.msgs = s.dev.msgs ++ [x] ∧ x.key = key ∧ x.gid = g.gid ∧ x.slot = u ∧ x.core = g.core ∧ x.waits = false ∧
    x.bytes = wordBytes (if o.k1 then 32 else 16) (wordsNat (srcWords (rdOf s.dev g turn) u o.b (if o.k1 then 8 else 4))) ∧
    { d with msgs := s.dev.msgs, nextId := s.dev.nextId } = s.dev) ∧
  (∀ (o : FmtNA) op, opOf (.mwait o) = some op → ∀ s g turn pc, Runs op s g turn pc → ∀ u, actives op g turn pc = [u] →
    let va := src64 (rdOf s.dev g turn) u o.a
    vaClass va = .scratch → vaDx va = 0 → vaDy va = 0 →
    (headerKey s.dev g g.core va = none → ∃ t g' h, exec (.mwait o) s = .next t ∧
      Once op s g turn pc h s.dev (pc + 4) [u] t g' ∧ t.mem = s.mem ∧
      Rules.Marked (setThread g u { thread g u with st := .wait (.ring 0) }) h) ∧
    ∀ key, headerKey s.dev g g.core va = some key → ∃ t g' h,
    exec (.mwait o) s = .next t ∧ Once op s g turn pc h s.dev (pc + 4) [u] t g' ∧ t.mem = s.mem ∧
    Rules.Marked (if natAt s.mem s.dev g.core s.dev.nextId [key, key + 1, key + 2, key + 3] ≠
        natAt s.mem s.dev g.core s.dev.nextId [key + 4, key + 5, key + 6, key + 7] then g
      else setThread g u { thread g u with st := .wait (.ring key) }) h)

namespace Sys2Proof.Rules

/-- What a command of an engine starts with, and the conditions of each instruction that sends one, from R248, R249, R258,
R259 and R311. -/
inductive Engine : Instr → FmtE → CmdKind → (State → Group → Prop) → (State → Group → List Byte) → Prop
  | cpy (o : FmtE) : Engine (.cpy o) o .cpy (fun _ g => g.region = none)
      fun s g => blockBytes s.mem { d := s.dev, g := g } (usrc32 g o.a)
  | cpyx (o : FmtE) : Engine (.cpyx o) o .cpyx (fun _ g => g.region = none)
      fun s g => blockBytes s.mem { d := s.dev, g := g } (usrc32 g o.a)
  | coll (o : FmtE) : Engine (.coll o) o .coll (fun _ g => g.region = none)
      fun s g => blockBytes s.mem { d := s.dev, g := g } (usrc32 g o.a)
  | mcrd (o : FmtE) : Engine (.mcrd o) o .mcrd
      (fun _ g => g.region = none ∧ mcrdOk (mcrdOf (usrcWords g o.a 8)) = true ∧
        ∀ p ∈ mcrdOffsets (mcrdOf (usrcWords g o.a 8)), (placeCheck g p.1 p.2).isSome = true)
      fun _ g => (usrcWords g o.a 8).flatMap fun x => wordBytes 4 x.toNat

end Sys2Proof.Rules

/-- R248, R249, R258 to R261: CPY, CPYX, COLL and MCRD put one command into an engine's queue, with its block; their time
register follows it in every present thread. Memory does not change in the pass. -/
def Obligations.EngineCommands : Prop :=
  ∀ i o k c b, Rules.Engine i o k c b → ∀ op, opOf i = some op → ∀ s g turn pc, Runs op s g turn pc → c s g →
    ∃ t g' h d x, exec i s = .next t ∧ Once op s g turn pc h d (pc + 4) (presentOf g turn pc) t g' ∧ t.mem = s.mem ∧
      d.cmds = s.dev.cmds ++ [x] ∧ x.id = s.dev.nextId ∧ x.kind = k ∧ x.gid = g.gid ∧ x.core = g.core ∧ x.ctx = g.ctx ∧
      x.t = o.t ∧ x.block = b s g ∧ x.st = .queued ∧ x.lanes = maskOf (actives op g turn pc) ∧
      { d with cmds := s.dev.cmds, nextId := s.dev.nextId, steps := s.dev.steps } = s.dev ∧
      { h with threads := g.threads } = g ∧
      ∀ v < 32, ∃ y : TimeReg, thread h v = (if v ∈ actives op g turn pc then setTime (thread g v) o.t y else thread g v) ∧
        y.req = x.id ∧ y.engine = true ∧ (y.st = .pending ∨ y.st = .promised)

/-- R276, R328, R329: BAR.ARRIVE with a legal operand sets the group's pending bit and counts the arrival at the barrier of its
scope and index, with its release's clock; the arrival that makes the count N completes the generation: the count is 0 again, the
pending bit clear, and the die of each group that has arrived has what the earlier releases brought. BAR.WAIT of a barrier that is not broken goes on once the pending bit is clear, and ends the turn. -/
def Obligations.BarrierNetwork : Prop :=
  (∀ (o : FmtBarA) op, opOf (.barArrive o) = some op → ∀ s g turn pc, Runs op s g turn pc → g.region = none →
    ∀ c, s.dev.ctx? g.ctx = some c →
    let x := (usrc32 g o.a).toNat
    let k := BitVec.ofNat 4 x
    let b := barOf c o.sc (barUnit o.sc g.core) k
    x / 16 % 16 = 0 → x / 256 ≠ 0 → (o.sc, k) ∉ g.barBroken → b.broken = false → (b.count ≠ 0 → b.n = x / 256) →
    ∃ t g' h d c', exec (.barArrive o) s = .next t ∧ Once op s g turn pc h d (pc + 4) (presentOf g turn pc) t g' ∧
      t.mem = s.mem ∧ d.ctx? g.ctx = some c' ∧
      (b.count + 1 ≠ x / 256 → (o.sc, k) ∈ h.barPend ∧
        barOf c' o.sc (barUnit o.sc g.core) k =
          { b with
            n := x / 256, count := b.count + 1, members := g.gid :: b.members
            clock := b.clock.join (clockOf (releaseAct g.core o.sc s.dev) (dieOf g.core)) }) ∧
      (b.count + 1 = x / 256 → (o.sc, k) ∉ h.barPend ∧
        barOf c' o.sc (barUnit o.sc g.core) k =
          { b with n := x / 256, count := 0, gen := b.gen + 1, broken := false, members := [], clock := noClock } ∧
        ∀ id ∈ b.members, ∀ y, s.dev.group? id = some y → dieOf y.core < 4 →
          ∀ e < 8, b.clock.at_ e ≤ (clockOf d (dieOf y.core)).at_ e) ∧
      { h with barPend := g.barPend, barBroken := g.barBroken, barPc := g.barPc, hold := g.hold } = g ∧
      { d with ctxs := s.dev.ctxs, groups := s.dev.groups, vclock := s.dev.vclock, markers := s.dev.markers
               nextId := s.dev.nextId } = s.dev) ∧
  (∀ (o : FmtBarW) op, opOf (.barWait o) = some op → ∀ s g turn pc, Runs op s g turn pc →
    (o.sc, o.k) ∉ g.barBroken → (o.sc, o.k) ∉ g.barPend ∧ ∃ t g' d, exec (.barWait o) s = .next t ∧
      Once op s g turn pc g d (pc + 4) (presentOf g turn pc) t g' ∧ g'.turn = none ∧ t.mem = s.mem ∧
      { d with
        pcache := s.dev.pcache, reqs := s.dev.reqs, dies := s.dev.dies, replicas := s.dev.replicas
        ways := s.dev.ways } = s.dev ∧
      (3 ≤ scopeNum o.sc → ∀ y ∈ d.pcache, y.core ≠ g.core))

/-- R331 to R333: BOSET sets the object of the executing core that its offset names to a 64-bit value, BOADD adds 32 bits to the
object that its scratchpad address names, modulo 2^64, behind a release at CLUS scope with K1: every other byte of memory stays,
and the threads of resident groups that wait for a count now reached run again. BOWAIT goes on where the object has reached its
target, and else leaves its thread in WAIT. Where the context has no scratchpad (R205) the updates change nothing, and the object
reads as 0. -/
def Obligations.BarrierObjects : Prop :=
  (∀ (o : FmtNB) op, opOf (.boset o) = some op → ∀ s g turn pc, Runs op s g turn pc → ∀ u, actives op g turn pc = [u] →
    g.region = none →
    (objectKey s.dev g.ctx g.core (src32 (rdOf s.dev g turn) u o.a).toNat = none → ∃ t g' h, exec (.boset o) s = .next t ∧
      Once op s g turn pc h s.dev (pc + 4) [u] t g' ∧ Rules.Marked g h ∧ t.mem = s.mem) ∧
    ∀ key, objectKey s.dev g.ctx g.core (src32 (rdOf s.dev g turn) u o.a).toNat = some key →
    let n := (src64 (rdOf s.dev g turn) u o.b).toNat
    ∃ t g' h d, exec (.boset o) s = .next t ∧ Once op s g turn pc h d (pc + 4) [u] t g' ∧
      Rules.Marked (wakeObject key n g) h ∧
      (s.mem.wf = true → ∀ a, a < key ∨ key + 8 ≤ a → memGet t.mem a = memGet s.mem a) ∧
      (s.mem.wf = true → ∀ j < 8, memGet t.mem (key + j) = Rules.byteAt n j) ∧
      (op.pos.any readsQ = false → ∀ id, id ≠ g.gid → g.partner ≠ some id →
        t.dev.group? id = (s.dev.group? id).map (wakeObject key n)) ∧
      { d with groups := s.dev.groups, log := [] } = s.dev) ∧
  (∀ (o : FmtNB) op, opOf (.boadd o) = some op → ∀ s g turn pc, Runs op s g turn pc → ∀ u, actives op g turn pc = [u] →
    g.region = none → ∀ c, Rules.InPad g (src64 (rdOf s.dev g turn) u o.a) c →
    let d0 := if o.k1 then releaseAct g.core .clus s.dev else s.dev
    (objectKey s.dev g.ctx c ((src64 (rdOf s.dev g turn) u o.a).toNat % 2 ^ 32) = none → ∃ t g' h, exec (.boadd o) s = .next t ∧
      Once op s g turn pc h d0 (pc + 4) [u] t g' ∧ Rules.Marked g h ∧ t.mem = s.mem) ∧
    ∀ key, objectKey s.dev g.ctx c ((src64 (rdOf s.dev g turn) u o.a).toNat % 2 ^ 32) = some key →
    let n := (leNat ((List.range 8).map fun j => memGet s.mem (key + j)) + (src32 (rdOf s.dev g turn) u o.b).toNat) % 2 ^ 64
    ∃ t g' h d, exec (.boadd o) s = .next t ∧ Once op s g turn pc h d (pc + 4) [u] t g' ∧
      Rules.Marked (wakeObject key n g) h ∧
      (s.mem.wf = true → ∀ a, a < key ∨ key + 8 ≤ a → memGet t.mem a = memGet s.mem a) ∧
      (s.mem.wf = true → ∀ j < 8, memGet t.mem (key + j) = Rules.byteAt n j) ∧
      (op.pos.any readsQ = false → ∀ id, id ≠ g.gid → g.partner ≠ some id →
        t.dev.group? id = (s.dev.group? id).map (wakeObject key n)) ∧
      { d with groups := d0.groups, log := [] } = d0) ∧
  (∀ (o : FmtNB) op, opOf (.bowait o) = some op → ∀ s g turn pc, Runs op s g turn pc → ∀ u, actives op g turn pc = [u] →
    let target := src64 (rdOf s.dev g turn) u o.b
    (objectKey s.dev g.ctx g.core (src32 (rdOf s.dev g turn) u o.a).toNat = none → ∃ t g' h, exec (.bowait o) s = .next t ∧
      Once op s g turn pc h s.dev (pc + 4) [u] t g' ∧ t.mem = s.mem ∧
      Rules.Marked (if target = 0 then g else setThread g u { thread g u with st := .wait (.object 0 target) }) h) ∧
    ∀ key, objectKey s.dev g.ctx g.core (src32 (rdOf s.dev g turn) u o.a).toNat = some key →
    ∃ t g' h, exec (.bowait o) s = .next t ∧ Once op s g turn pc h s.dev (pc + 4) [u] t g' ∧ t.mem = s.mem ∧
      Rules.Marked (if target.toNat ≤ leNat ((List.range 8).map fun j => memGet s.mem (key + j)) then g
        else setThread g u { thread g u with st := .wait (.object key target) }) h)

/-- R278, R280, R326: a FENCE whose release and acquire can act changes no register and no byte: a release at QUAD or wider
raises its die's own clock entry, an acquire at QUAD or wider empties the core's private cache and bars the loads on their way from
filling it (R277), at CLUS or wider the replicas of its die become invalid (R213), and a narrower FENCE does nothing more. -/
def Obligations.Fences : Prop :=
  ∀ (o : FmtFence) op, opOf (.fence o) = some op → ∀ s g turn pc, Runs op s g turn pc → ∀ u, actives op g turn pc = [u] →
    ∃ t g' d, exec (.fence o) s = .next t ∧ Once op s g turn pc g d (pc + 4) [u] t g' ∧ t.mem = s.mem ∧
      (scopeNum o.sc < 3 → d = s.dev) ∧
      (3 ≤ scopeNum o.sc → (o.kind = .rel ∨ o.kind = .ar) → dieOf g.core < 4 →
        (clockOf d (dieOf g.core)).at_ (dieOf g.core) = (clockOf s.dev (dieOf g.core)).at_ (dieOf g.core) + 1) ∧
      (3 ≤ scopeNum o.sc → (o.kind = .acq ∨ o.kind = .ar) → (∀ y, y ∈ d.pcache ↔ y ∈ s.dev.pcache ∧ y.core ≠ g.core) ∧
        Rules.Each (fun q r => { r with fill := q.fill, noFill := q.noFill } = q ∧
          (q.core = g.core → r.fill = [] ∧ r.noFill = true) ∧ (q.core ≠ g.core → r = q)) s.dev.reqs d.reqs) ∧
      (4 ≤ scopeNum o.sc → (o.kind = .acq ∨ o.kind = .ar) → dieOf g.core < 4 →
        (d.die (dieOf g.core)).epoch = (s.dev.die (dieOf g.core)).epoch + 1 ∧ ∀ r ∈ d.replicas, r.die ≠ dieOf g.core) ∧
      { d with vclock := s.dev.vclock, markers := s.dev.markers, nextId := s.dev.nextId, pcache := s.dev.pcache
               reqs := s.dev.reqs, dies := s.dev.dies, replicas := s.dev.replicas, ways := s.dev.ways } = s.dev

/-- R334, R335: QTAKE of a group without a task, whose RUN threads stand at it, leaves the group IDLE, to receive an entry in
S(D) to S(D+7) and to run it from there, and ends the turn. QPOST whose descriptor is legal, and whose images its core can read,
releases at PKG scope and sends its answer to S(D); outside deterministic contexts the images enter the queue at once, with the
status that is to arrive, in a deterministic one they wait for the end of the turn (R425). -/
def Obligations.TaskQueues : Prop :=
  (∀ (o : FmtUD) op r, o.d = .s r → opOf (.qtake o) = some op → ∀ s g turn pc, Runs op s g turn pc →
    g.task = none → g.partner = none → g.cond ≠ .handler → ∃ t g', exec (.qtake o) s = .next t ∧
      Once op s g turn pc
        { g with cond := .idle, hold := .qtake r, dispatch := pc, idleAt := s.dev.nextId, asked := s.dev.nextId }
        { s.dev with nextId := s.dev.nextId + 1 } (pc + 4) (presentOf g turn pc) t g' ∧ t.mem = s.mem ∧ g'.turn = none) ∧
  (∀ (o : FmtU) op r, o.d = .s r → opOf (.qpost o) = some op → ∀ s g turn pc, Runs op s g turn pc → g.region = none →
    let ws := usrcWords g o.a 4
    let n := (ws.getD 3 0).toNat
    let va := pair (ws.getD 0 0) (ws.getD 1 0)
    1 ≤ n → n ≤ 128 → va.toNat % 8 = 0 → vaClass va ≠ .nonCanonical → ∀ bs w,
    readRun s.mem va (4 * n) { d := s.dev, g := g } = (.ok bs, w) →
    let d0 := releaseAct g.core .pkg w.d
    ∃ t g' d q st, exec (.qpost o) s = .next t ∧ Once op s g turn pc g d (pc + 4) (presentOf g turn pc) t g' ∧
      d.reqs.getLast? = some q ∧ q.kind = .qpost (ws.getD 2 0) bs st ∧ q.gid = g.gid ∧ q.dst = .s r 1 ∧
      (s.dev.isDet g = true → st = none ∧ d.entries = s.dev.entries) ∧
      (s.dev.isDet g = false → st = some (postImages s.mem g.ctx (ws.getD 2 0) bs d0).1 ∧
        d.entries = (postImages s.mem g.ctx (ws.getD 2 0) bs d0).2.entries))

/-- No group is its own shadow (R71). -/
def Sys2Proof.Rules.Apart (s : State) (gid : Nat) : Prop := ∀ x ∈ s.dev.groups, x.partner = some gid → x.gid ≠ gid

/-- R59, R65, R336: TASKEND makes its thread DONE. While another thread of the group is not DONE nothing else changes; the last
one ends the task of a group that no gang holds: its record's update falls due, without FAILED, and every thread runs at the
dispatch PC, outside any task. -/
def Obligations.TaskEnds : Prop :=
  ∀ (o : FmtNG) op, opOf (.taskend o) = some op → ∀ s g turn pc, Runs op s g turn pc → ∀ u, actives op g turn pc = [u] →
    g.cond = .busy → g.partner = none → ∀ k, g.task = some k →
    ((∃ v < 32, v ≠ u ∧ (thread g v).st ≠ .done) → ∃ t g', exec (.taskend o) s = .next t ∧
      Once op s g turn pc (setThread g u { thread g u with st := .done }) s.dev (pc + 4) [u] t g' ∧ t.mem = s.mem) ∧
    ((∀ v < 32, v ≠ u → (thread g v).st = .done) → k.gang = none → Rules.Apart s g.gid → ∃ t g' e, exec (.taskend o) s = .next t ∧
      t.dev.group? g.gid = some g' ∧ e ∈ t.dev.ends ∧ e.record = pair (k.words.getD 4 0) (k.words.getD 5 0) ∧
      e.entry = k.entry ∧ e.failed = false ∧ g'.task = none ∧ g'.cond = .busy ∧ g'.turn = none ∧
      (∀ v < 32, (thread g' v).st = .run ∧ (thread g' v).pc = g.dispatch) ∧
      { g' with
        threads := g.threads, c := g.c, turn := g.turn, next := g.next, rc := g.rc, sb := g.sb, qwin := g.qwin, task := g.task
        frame := g.frame, region := g.region, fmask := g.fmask, tcause := g.tcause, tframe := g.tframe, hold := g.hold
        ordPasses := g.ordPasses } = g)

/-- R67, R70, R337, R338: FINIT leaves its future EMPTY and FFILL and FINIT of its second form FULL, with the dword they give; no
other byte changes where no task is parked on the future. FGET of a task that has not committed asks for the value of its future: a FULL
one answers with the dword; an EMPTY one of a task outside a gang ends the pass in its slot, and where threads of later slots
could run in it, the pass is to be issued again for those (R339; log 73). The future is a dword of the module's memory that the
group may read and write. -/
def Obligations.Futures : Prop :=
  ∀ s g turn pc u k l c, s.dev.ctx? g.ctx = some c → s.mem.wf = true → keyKind k = .own → badSector s.dev k l.dom = false →
    badSector s.dev (k + 7) l.dom = false →
    (∀ (i : Instr) (a b : Src) (full : Bool) op,
      ((∃ o : FmtFin, i = .finit o ∧ a = o.a ∧ b = o.b ∧ full = false) ∨
        (∃ o : FmtFin, i = .finitFull o ∧ a = o.a ∧ b = o.b ∧ full = true) ∨
        (∃ o : FmtNB, i = .ffill o ∧ a = o.a ∧ b = o.b ∧ full = true)) → opOf i = some op →
      Runs op s g turn pc → actives op g turn pc = [u] → g.region = none →
      Rules.Mapped s g (src64 (rdOf s.dev g turn) u a) 8 .rw k l → inReplica s.mem s.dev c (src64 (rdOf s.dev g turn) u a) = false →
      (full = true → (futureOf s.dev k).parked = []) → ∃ t g' h d, exec i s = .next t ∧
        Once op s g turn pc h d (pc + 4) [u] t g' ∧ Rules.Marked g h ∧ (futureOf d k).full = full ∧
        (∀ k', k' ≠ k → futureOf d k' = futureOf s.dev k') ∧
        (∀ x, x < k ∨ k + 8 ≤ x → memGet t.mem x = memGet s.mem x) ∧
        ∀ j < 8, memGet t.mem (k + j) = Rules.byteAt (src64 (rdOf s.dev g turn) u b).toNat j) ∧
    (∀ (o : FmtN) op r task, o.d = .v r → opOf (.fget o) = some op → Runs op s g turn pc → actives op g turn pc = [u] →
      g.partner = none → g.task = some task → task.committed = false →
      Rules.Mapped s g (src64 (rdOf s.dev g turn) u o.a) 8 .rw k l →
      inReplica s.mem s.dev c (src64 (rdOf s.dev g turn) u o.a) = false →
      let asks := fun (q : Req) => q.kind = .fget ∧ q.gid = g.gid ∧ q.slot = u ∧ q.keys = (List.range 8).map (k + ·) ∧
        q.dst = .v r 2 ∧ q.id = s.dev.nextId
      let later := ∃ v < 32, u < v ∧ (thread g v).st = .run
      ((futureOf s.dev k).full = true → ∃ t g' h d q, exec (.fget o) s = .next t ∧
        Once op s g turn pc h d (pc + 4) [u] t g' ∧ Rules.Marked g h ∧ t.mem = s.mem ∧ d.reqs = s.dev.reqs ++ [q] ∧ asks q ∧
        q.st = .served ∧ q.value = leNat ((List.range 8).map fun j => memGet s.mem (k + j)) ∧
        { d with reqs := s.dev.reqs, nextId := s.dev.nextId, vclock := s.dev.vclock, seen := s.dev.seen } = s.dev) ∧
      ((futureOf s.dev k).full = false → task.gang = none → ¬later → ∃ t g' h d q, exec (.fget o) s = .next t ∧
        Once op s g turn pc h d (pc + 4) [u] t g' ∧ Rules.Marked g h ∧ t.mem = s.mem ∧ d.reqs = s.dev.reqs ++ [q] ∧ asks q ∧
        q.st = .sent ∧ { d with reqs := s.dev.reqs, nextId := s.dev.nextId } = s.dev) ∧
      ((futureOf s.dev k).full = false → task.gang = none → later → ∃ t g' q n i, exec (.fget o) s = .next t ∧
        t.dev.group? g.gid = some g' ∧ t.mem = s.mem ∧ t.dev.reqs = s.dev.reqs ++ [q] ∧ asks q ∧ q.st = .sent ∧
        g'.turn = none ∧ g'.next = some n ∧ n.pos = turn.pos ∧ n.l0 = turn.l0 ∧ n.l1 = turn.l1 ∧ n.reissue = some i ∧ i.pc = pc ∧
        (∀ v < 32, i.only.getLsbD v = true ↔ u < v) ∧ (thread g' u).pc = pc + 4 ∧ ∀ v < 32, u < v → thread g' v = thread g v))

namespace Sys2Proof.Rules

/-- Each instruction that puts one operation into a deck's queue: what the operation holds, and its conditions, from R344, R352
to R354, R357 and R358. -/
inductive DeckSend : Instr → (Device → Group → PassInfo → DeckOp → Prop) → (Device → Group → PassInfo → Prop) → Prop
  | mma (o : FmtMma) : DeckSend (.mma o)
      (fun _ g _ x => x.kind = .mma ∧ x.z = o.z ∧ x.ctl = usrcWords g o.n 6 ∧ x.regs = [])
      fun d g _ => mmaFault (qRole d g) .mma o.z 0 (ctlOf (usrcWords g o.n 6)) d g = none
  | mmaRa (o : FmtMmaR) : DeckSend (.mmaRa o)
      (fun _ g i x => x.kind = .mmaRa ∧ x.z = o.z ∧ x.ctl = usrcWords g o.n 6 ∧
        x.regs = panelWords i.rd o.m (panelRegs (ctlOf (usrcWords g o.n 6)).fa))
      fun d g i => mmaFault (qRole d g) .mmaRa o.z o.m (ctlOf (usrcWords g o.n 6)) d g = none ∧
        panelFault i (panelPos (qRole d g) .mmaRa o.m (ctlOf (usrcWords g o.n 6)) g) g = none
  | mmaRb (o : FmtMmaR) : DeckSend (.mmaRb o)
      (fun _ g i x => x.kind = .mmaRb ∧ x.z = o.z ∧ x.ctl = usrcWords g o.n 6 ∧
        x.regs = panelWords i.rd o.m (panelRegs (ctlOf (usrcWords g o.n 6)).fb))
      fun d g i => mmaFault (qRole d g) .mmaRb o.z o.m (ctlOf (usrcWords g o.n 6)) d g = none ∧
        panelFault i (panelPos (qRole d g) .mmaRb o.m (ctlOf (usrcWords g o.n 6)) g) g = none
  | drdrow (o : FmtRow) (r : VReg) (h : o.d = .v r) : DeckSend (.drdrow o)
      (fun _ g _ x => x.kind = .rdRow ∧ x.z = o.z ∧ x.f64 = o.k1 ∧ x.dst = r ∧
        x.index = (getS g (o.r.zeroExtend 6)).toNat % 128)
      fun d g _ => ownsTile d (quadOf g.core) g.gid o.z o.k1 = true
  | drdcol (o : FmtRow) (r : VReg) (h : o.d = .v r) : DeckSend (.drdcol o)
      (fun _ g _ x => x.kind = .rdCol ∧ x.z = o.z ∧ x.f64 = o.k1 ∧ x.dst = r ∧
        x.index = (getS g (o.r.zeroExtend 6)).toNat % 128)
      fun d g _ => ownsTile d (quadOf g.core) g.gid o.z o.k1 = true
  | dwrrow (o : FmtRow) (r : VReg) (h : o.d = .v r) : DeckSend (.dwrrow o)
      (fun _ g i x => x.kind = .wrRow ∧ x.z = o.z ∧ x.f64 = o.k1 ∧
        x.index = (getS g (o.r.zeroExtend 6)).toNat % 128 ∧
        x.regs = slots.flatMap fun u => srcWords i.rd u (.v r) (if o.k1 then 8 else 4))
      fun d g _ => g.region = none ∧ ownsTile d (quadOf g.core) g.gid o.z o.k1 = true

end Sys2Proof.Rules

/-- R344, R348, R352 to R354, R358, R362: MMA, MMA.RA, MMA.RB, DRDROW, DRDCOL and DWRROW whose checks pass, and whose register
panel holds no uncorrectable and no withdrawn word, put one operation into the
queue of the quad's deck, with the operands that they read in the pass; no register and no byte changes in the pass. -/
def Obligations.DeckOperations : Prop :=
  ∀ i x c, Rules.DeckSend i x c → ∀ op, opOf i = some op → ∀ s g turn pc, Runs op s g turn pc → c s.dev g (passInfo op s g turn pc) →
    ∃ t g' d q, exec i s = .next t ∧ Once op s g turn pc g d (pc + 4) (presentOf g turn pc) t g' ∧ t.mem = s.mem ∧
      d.deckOps = s.dev.deckOps ++ [q] ∧ x s.dev g (passInfo op s g turn pc) q ∧ q.id = s.dev.nextId ∧ q.gid = g.gid ∧
      q.quad = quadOf g.core ∧ q.readDone = false ∧
      { d with deckOps := s.dev.deckOps, nextId := s.dev.nextId } = s.dev

/-- R344, R357, R359: DZERO of a group with a restart address claims its tile and queues the operation that clears it;
DZERO.FREE frees the tile; DRESTART registers an even code offset with the loop stack, or with source ZERO none, where the group
holds no tile. -/
def Obligations.DeckTiles : Prop :=
  (∀ (o : FmtZ) op, opOf (.dzero o) = some op → ∀ s g turn pc, Runs op s g turn pc → g.region = none →
    g.restart.isSome = true → ∃ t g' d q, exec (.dzero o) s = .next t ∧
      Once op s g turn pc { g with dzeroAt := none } d (pc + 4) (presentOf g turn pc) t g' ∧ t.mem = s.mem ∧
      ownsTile d (quadOf g.core) g.gid o.z o.k1 = true ∧ d.deckOps = s.dev.deckOps ++ [q] ∧ q.kind = .dzero ∧ q.z = o.z ∧
      q.f64 = o.k1 ∧ q.gid = g.gid ∧ (∀ y ∈ s.dev.tiles, y.owner ≠ g.gid ∨ y.quad ≠ quadOf g.core → y ∈ d.tiles) ∧
      { d with deckOps := s.dev.deckOps, tiles := s.dev.tiles, nextId := s.dev.nextId } = s.dev) ∧
  (∀ (o : FmtZ) op, opOf (.dzeroFree o) = some op → ∀ s g turn pc, Runs op s g turn pc → ∃ t g' d,
      exec (.dzeroFree o) s = .next t ∧ Once op s g turn pc g d (pc + 4) (presentOf g turn pc) t g' ∧ t.mem = s.mem ∧
      (∀ f, ownsTile d (quadOf g.core) g.gid o.z f = false) ∧
      (∀ y ∈ s.dev.tiles, y.owner ≠ g.gid ∨ y.quad ≠ quadOf g.core → y ∈ d.tiles) ∧
      { d with tiles := s.dev.tiles } = s.dev) ∧
  (∀ (o : FmtUO) op, opOf (.drestart o) = some op → ∀ s g turn pc, Runs op s g turn pc →
    (o.a = .zero → holdsTile s.dev g.gid = false → ∃ t g', exec (.drestart o) s = .next t ∧
      Once op s g turn pc { g with restart := none } s.dev (pc + 4) (presentOf g turn pc) t g' ∧ t.mem = s.mem) ∧
    (o.a ≠ .zero → (usrc32 g o.a).getLsbD 0 = false → ∃ t g', exec (.drestart o) s = .next t ∧
      Once op s g turn pc { g with restart := some (usrc32 g o.a, g.loops) } s.dev (pc + 4) (presentOf g turn pc) t g' ∧
      t.mem = s.mem))

namespace Sys2Proof.Rules

/-- Each instruction that waits for time registers: the registers it names, and its wait, from R254. -/
inductive TimeWait : Instr → (Rd → Nat → List TReg) → (Rd → Nat → Wait) → Prop
  | twait (o : FmtTR) : TimeWait (.twait o) (fun _ _ => [o.t]) fun _ _ => .time o.t
  | twaitany (o : FmtNA) : TimeWait (.twaitany o) (fun rd u => timesOf (src32 rd u o.a)) fun rd u => .anyOf (src32 rd u o.a)
  | yieldt (o : FmtTR) : TimeWait (.yieldt o) (fun _ _ => [o.t]) fun _ _ => .due o.t

end Sys2Proof.Rules

/-- R254: TWAIT, TWAITANY and YIELDT, where no register they name is WITHDRAWN, let their thread go on where one is ARRIVED, or
where they name none; else they leave it in WAIT. They end the turn, and change nothing else;
after a YIELDT that leaves no thread RUN the group is not ready at its next turn opportunity, as after YIELD. -/
def Obligations.TimeWaits : Prop :=
  ∀ i ks wt, Rules.TimeWait i ks wt → ∀ op, opOf i = some op → ∀ s g turn pc, Runs op s g turn pc →
    ∀ u, actives op g turn pc = [u] →
    let seen := (ks (rdOf s.dev g turn) u).map fun k => Rules.time s (passInfo op s g turn pc) u k
    (∀ x ∈ seen, x.st ≠ .withdrawn) →
    let goes := seen = [] ∨ ∃ x ∈ seen, x.st = .arrived
    (goes → ∃ t g' h, exec i s = .next t ∧ Once op s g turn pc h s.dev (pc + 4) [u] t g' ∧ Rules.Marked g h ∧ g'.turn = none ∧
      t.mem = s.mem) ∧
    (¬goes → ((∀ o, i ≠ .yieldt o) ∨ ∃ v < 32, v ≠ u ∧ (thread g v).st = .run) → ∃ t g' h, exec i s = .next t ∧
      Once op s g turn pc h s.dev (pc + 4) [u] t g' ∧
      Rules.Marked (setThread g u { thread g u with st := .wait (wt (rdOf s.dev g turn) u) }) h ∧ g'.turn = none ∧
      t.mem = s.mem) ∧
    (¬goes → (∃ o, i = .yieldt o) → (∀ v < 32, v ≠ u → (thread g v).st ≠ .run) → ∃ t g', exec i s = .next t ∧
      t.dev.group? g.gid = some g' ∧ g'.hold = .yielded ∧ g'.turn = none ∧
      (thread g' u).st = .wait (wt (rdOf s.dev g turn) u) ∧ (thread g' u).pc = pc + 4 ∧ t.mem = s.mem)

namespace Sys2Proof.Rules

/-- TRAP, and BKPT where no debugger holds the context, with the cause they raise, from R401. -/
inductive Request : Instr → FmtK → Nat → Prop
  | trap (o : FmtK) : Request (.trap o) o 17
  | bkpt (o : FmtK) : Request (.bkpt o) o 16

/-- A group but for what taking a trap writes. -/
def TrapFrame (g g' : Group) : Prop :=
  { g' with
    threads := g.threads, c := g.c, sb := g.sb, rc := g.rc, turn := g.turn, next := g.next, frame := g.frame
    fmask := g.fmask, tcause := g.tcause, tframe := g.tframe, cond := g.cond, loops := g.loops, qwin := g.qwin } = g

/-- A thread but for its pc and its state. -/
def SameRegs (a b : Thread) : Prop := { b with pc := a.pc, st := a.st } = a

end Sys2Proof.Rules

/-- R365, R366, R369, R370, R401: TRAP and BKPT with operand k take a trap of kind 3, once every present thread has gone to the
next instruction: FMASK is the mask of the threads that were active, TCAUSE holds the cause and k, TFRAME the lowest active slot
and the kind; the frame keeps each thread's state and the code offset of its pc, and the loop stack, which is then empty; the
group is in HANDLER, its turn is over, and every thread that is not DONE runs at the handler. No other register changes. This is
outside HANDLER, in a context that names a handler, with no debugger attached for BKPT. -/
def Obligations.TrapEntry : Prop :=
  ∀ i o cause, Rules.Request i o cause → ∀ op, opOf i = some op → ∀ s g turn pc, Runs op s g turn pc → g.cond ≠ .handler →
    ∀ c h, s.dev.ctx? g.ctx = some c → c.handler = some h → ((∃ o, i = .bkpt o) → c.attached = none) →
    ∃ t g' f, exec i s = .next t ∧ t.dev.group? g.gid = some g' ∧ Rules.TrapFrame g g' ∧ g'.cond = .handler ∧
      g'.fmask = maskOf (actives op g turn pc) ∧ g'.tcause = .ofNat 32 (o.k.toNat * 2 ^ 16 + cause) ∧
      g'.tframe = .ofNat 32 ((actives op g turn pc).headD 0 * 2 ^ 8 + 3 * 2 ^ 6) ∧ g'.turn = none ∧ g'.next = none ∧
      g'.loops = [] ∧ g'.frame = some f ∧ f.kind = 3 ∧ f.loops = g.loops ∧
      (∀ u (q : u < 32), (f.threads[u]).st = (thread g u).st ∧
        (f.threads[u]).epc = ((if u ∈ presentOf g turn pc then pc + 4 else (thread g u).pc) - c.codeBase).truncate 32 ∧
        (f.threads[u]).resume = false ∧
        Rules.SameRegs (thread g u) (thread g' u) ∧
        ((thread g u).st ≠ .done → (thread g' u).st = .run ∧ (thread g' u).pc = c.codeBase + h.zeroExtend 64) ∧
        ((thread g u).st = .done → (thread g' u).st = .done)) ∧
      ((s.dev.dies.toArray.getD (dieOf g.core) {}).trace.on = false → t.mem = s.mem)

/-- R90, R402: ERET in HANDLER executes: it gives each thread its saved state and the pc its EPC names, takes the loop stack out of
the frame, and clears FMASK, TCAUSE and TFRAME; the group is BUSY, and its turn is over. A frame of kind 0 or 1 with threads still
to resume has the pass of entry issued again in the next turn, for those threads alone, at its position and with its latches; any
other has a new turn follow. No other register and no byte changes. -/
def Obligations.TrapReturn : Prop :=
  ∀ (o : FmtKA) op, opOf (.eret o) = some op → ∀ s g turn pc, Runs op s g turn pc → g.cond = .handler →
    ∀ f, g.frame = some f → ∃ t g', exec (.eret o) s = .next t ∧ t.dev.group? g.gid = some g' ∧ Rules.TrapFrame g g' ∧
      g'.cond = .busy ∧ g'.fmask = 0 ∧ g'.tcause = 0 ∧ g'.tframe = 0 ∧ g'.frame = none ∧ g'.loops = f.loops ∧ g'.turn = none ∧
      (∀ u (q : u < 32), (thread g' u).st = (f.threads[u]).st ∧
        (thread g' u).pc = codeBaseOf s.dev g + ((f.threads[u]).epc).zeroExtend 64 ∧
        Rules.SameRegs (thread g u) (thread g' u)) ∧
      (let again := fun (x : SavedThread) => x.resume && x.epc == x.epc0
       (2 ≤ f.kind ∨ (∀ u (q : u < 32), again f.threads[u] = false) → g'.next = none) ∧
       (f.kind ≤ 1 → (∃ u, ∃ q : u < 32, again f.threads[u] = true) → ∃ n r, g'.next = some n ∧ n.pos = f.pos ∧ n.l0 = f.l0 ∧
        n.l1 = f.l1 ∧ n.reissue = some r ∧ r.pc = f.pc ∧ r.kept = f.kept ∧
        ∀ u (q : u < 32), r.only.getLsbD u = again f.threads[u])) ∧
      t.mem = s.mem

/-- R59, R65, R372, R402: ERET.FAIL in HANDLER fails the task of a group that no gang holds and that is no shadow: its record's
update falls due with FAILED, the frame is discarded, FMASK, TCAUSE and TFRAME are 0, and every thread runs at the dispatch PC,
outside any task. -/
def Obligations.TaskFailure : Prop :=
  ∀ (o : FmtKA) op, opOf (.eretFail o) = some op → ∀ s g turn pc, Runs op s g turn pc → g.cond = .handler → g.partner = none →
    ∀ k, g.task = some k → k.gang = none → Rules.Apart s g.gid → ∃ t g' e,
      exec (.eretFail o) s = .next t ∧
      t.dev.group? g.gid = some g' ∧ e ∈ t.dev.ends ∧ e.record = pair (k.words.getD 4 0) (k.words.getD 5 0) ∧
      e.entry = k.entry ∧ e.failed = true ∧ g'.task = none ∧ g'.cond = .busy ∧ g'.frame = none ∧ g'.loops = [] ∧
      g'.fmask = 0 ∧ g'.tcause = 0 ∧ g'.tframe = 0 ∧ g'.turn = none ∧ g'.s = g.s ∧ g'.mode = g.mode ∧ g'.flags = g.flags ∧
      ∀ v < 32, (thread g' v).st = .run ∧ (thread g' v).pc = g.dispatch ∧ Rules.SameRegs (thread g v) (thread g' v)

/-- R403: SWR.V in HANDLER writes EPC of its thread from an even code offset, and leaves the resume bit; every other part of the
frame stays. -/
def Obligations.EpcWrites : Prop :=
  ∀ (o : FmtSwrV) op, opOf (.swrV o) = some op → ∀ s g turn pc, Runs op s g turn pc → ∀ u, actives op g turn pc = [u] →
    ∀ f, g.frame = some f → (src32 (rdOf s.dev g turn) u o.a).getLsbD 0 = false →
    let saved := { f.threads.toArray.getD u {} with epc := src32 (rdOf s.dev g turn) u o.a }
    ∃ t g' h, exec (.swrV o) s = .next t ∧ Once op s g turn pc h s.dev (pc + 4) [u] t g' ∧ t.mem = s.mem ∧
      Rules.Marked { g with frame := some { f with threads := f.threads.set! u saved } } h

/-! ## Encodings, the step, faults before and in a pass, the invariant -/

/-- R102, R104, R113, R116, R117: words written out from the encoding tables, one or two of each kind of format, decode to the
instructions that they stand for, with their size. -/
def Obligations.DecodedWords : Prop :=
  decode (wordBytes 2 0x48A0) = some (.add16 { d := 5, b := .v 9 }, 2, []) ∧
  (∃ o, decode (wordBytes 4 0xF4142801) = some (.add o, 4, []) ∧ o.d = .v 5 ∧ o.a = .v 5 ∧ o.b = .imm 2) ∧
  (∃ o, decode (wordBytes 4 0x11821041) = some (.ldw o, 4, []) ∧ o.d = .v 8 ∧ o.b = .v 2 ∧ o.off = 2 ∧ o.t = 3) ∧
  (∃ o, decode (wordBytes 4 0x03000079) = some (.jmp o, 4, []) ∧ o.a = .l0) ∧
  (∃ o, decode (wordBytes 4 0x0004005F) = some (.twait o, 4, []) ∧ o.t = 1) ∧
  decode (wordBytes 4 0) = none

/-- R46 to R48, R102, R103: a step of a group in focus whose fetch brings the word of an instruction is that instruction, on the
state that the fetch leaves. Nothing stands in the inbox, no promise and no deck asks for a step of its own (log 4), and the pass
waits for nothing. -/
def Obligations.StepRunsDecoded : Prop :=
  ∀ (s : State) (g : Group) (turn : Turn) (pc : DWord), s.dev.booted = true → s.dev.inbox = [] → s.dev.focus = some g.gid →
    s.dev.group? g.gid = some g → g.turn = some turn → turn.stalled = false → passPc g turn = some pc →
    dueWork s.mem s.dev = none → ∀ w d, fetchWord s.mem g pc s.dev = .got w d → ∀ i n rest, decode (wordBytes 4 w) = some (i, n, rest) →
      step s = exec i { s with dev := d }

/-- R102 to R118: what the encoder writes for an instruction whose operands fit their fields, the decoder reads back, with the
instruction's size, whatever bytes follow. -/
def Obligations.RoundTrip : Prop :=
  ∀ (i : Instr) (n w : Nat) (rest : List Byte), i.fits = true → encode i = some (n, w) →
    decode (wordBytes (n / 8) w ++ rest) = some (i, n / 8, rest)

/-- Every step, of whatever kind and from whatever state, keeps memory in its canonical form, and leaves no write over. -/
def Obligations.StepKeepsInv : Prop := ∀ s t, s.Inv → step s = .next t → t.Inv

/-- R38, R279, R428: at power-on the invariant holds, only the Keystone is out of reset, every vector clock is zero, the module
is standalone with number 0, and no context, group or queue entry exists. Memory lists nothing (log 2). -/
def Obligations.ResetState : Prop :=
  State.reset.Inv ∧ State.reset.dev.booted = false ∧ (∀ x ∈ State.reset.dev.dies.toList, x.st = .inReset) ∧
  (∀ x ∈ State.reset.dev.portDies.toList, x = .inReset) ∧ (∀ j k : Fin 8, State.reset.dev.vclock[j][k] = 0) ∧
  State.reset.dev.standalone = true ∧ State.reset.dev.modnum = 0 ∧ State.reset.dev.ctxs = [] ∧ State.reset.dev.groups = [] ∧
  State.reset.dev.entries = [] ∧ State.reset.mem = []

namespace Sys2Proof.Rules

/-- What handler entry leaves (R366, R369, R370) of a trap of kind 0 or 1: FMASK `who`, SLOT, TCAUSE from the access and the
cause, TFRAME, the frame with each thread's state, EPC, resume bit and EADDR, an empty loop stack, no turn, and every thread that
is not DONE at the handler. No other register changes. -/
def Enters (s t : State) (g : Group) (turn : Turn) (pc : DWord) (kind : Nat) (cause : Cause) (acc : Nat) (who : List Nat)
    (addr : DWord) (own : Nat → DWord) : Prop :=
  ∀ c h, s.dev.ctx? g.ctx = some c → c.handler = some h → ∃ g' f, t.dev.group? g.gid = some g' ∧ TrapFrame g g' ∧
    g'.cond = .handler ∧ g'.fmask = maskOf who ∧ g'.tcause = .ofNat 32 (acc * 2 ^ 8 + causeCode cause) ∧
    g'.tframe = .ofNat 32 (who.headD 0 * 2 ^ 8 + kind * 2 ^ 6 + turn.pos) ∧ g'.turn = none ∧ g'.next = none ∧ g'.loops = [] ∧
    g'.frame = some f ∧ f.kind = kind ∧ f.pos = turn.pos ∧ f.pc = pc ∧ f.l0 = turn.l0 ∧ f.l1 = turn.l1 ∧ f.loops = g.loops ∧
    (∀ u (q : u < 32), (f.threads[u]).st = (thread g u).st ∧ (f.threads[u]).epc = (own u - c.codeBase).truncate 32 ∧
      (f.threads[u]).resume = who.contains u ∧ (f.threads[u]).addr = (if u ∈ who then addr else 0) ∧
      SameRegs (thread g u) (thread g' u) ∧
      ((thread g u).st ≠ .done → (thread g' u).st = .run ∧ (thread g' u).pc = c.codeBase + h.zeroExtend 64) ∧
      ((thread g u).st = .done → (thread g' u).st = .done)) ∧
    ((s.dev.dies.toArray.getD (dieOf g.core) {}).trace.on = false → t.mem = s.mem)

/-- Faults of an access that a pass finds by its address (R36, R201, R240): a non-canonical address, the place check, the
alignment. -/
inductive BadAddress (g : Group) (va : DWord) (size : Nat) : Cause → Prop
  | page (h : vaClass va = .nonCanonical) : BadAddress g va size .page
  | place (h : vaClass va = .scratch) (q : placeCheck g (vaDx va) (vaDy va) = none) : BadAddress g va size .place
  | align (h : vaClass va = .canonical) (q : va.toNat % size ≠ 0) : BadAddress g va size .align

end Sys2Proof.Rules

/-- R121, R122, R366, R369, R370, R392: outside HANDLER, in a context that names a handler, a failing fetch, a word that is no
instruction, an instruction that is illegal where it stands and one whose operands are not accepted each raise a trap of kind 1,
before the pass, for every present thread; the access of a fetch is 4, and its EADDR the address of the pass. -/
def Obligations.DecodeFaults : Prop :=
  ∀ (s : State) (g : Group) (turn : Turn) (pc : DWord), s.dev.log = [] → s.dev.focus = some g.gid →
    s.dev.group? g.gid = some g → g.turn = some turn → passPc g turn = some pc → g.cond ≠ .handler →
    (∃ c h, s.dev.ctx? g.ctx = some c ∧ c.handler = some h) →
    let enters := fun t cause acc addr =>
      Rules.Enters s t g turn pc 1 cause acc (presentOf g turn pc) addr fun u => (thread g u).pc
    (s.dev.booted = true → s.dev.inbox = [] → turn.stalled = false → dueWork s.mem s.dev = none →
      (∀ cause, fetchWord s.mem g pc s.dev = .fault cause → ∃ t, step s = .next t ∧ enters t cause 4 pc) ∧
      (∀ w d, fetchWord s.mem g pc s.dev = .got w d → decode (wordBytes 4 w) = none →
        ∃ t, step s = .next t ∧ enters t .illegalInstr 0 0)) ∧
    (∀ i op, opOf i = some op →
      (op.illegal g pc = true → ∃ t, exec i s = .next t ∧ enters t .illegalInstr 0 0) ∧
      (op.illegal g pc = false → operandsAllowed (qRole s.dev g) g turn op.pos = false →
        ∃ t, exec i s = .next t ∧ enters t .illegalOperand 0 0))

/-- R36, R201, R203, R240, R241, R366, R369, R370: outside HANDLER, in a context that names a handler, a load or store of one
active thread whose address is non-canonical, fails the place check or is misaligned raises PAGE, PLACE or ALIGN there, as a trap
of kind 0 with the access and the address; no access is made. A thread that waits on a time register that has been withdrawn raises
the fault of the withdrawal there (R230, R254). FGET of a task that has committed, or in a gang's task from a future that is
EMPTY, raises FUTURE_ORDER (R68, R74, R339). Threads of lower slots that are not active have gone on. -/
def Obligations.AccessFaults : Prop :=
  ∀ i op, opOf i = some op → ∀ s g turn pc, Runs op s g turn pc → ∀ u, actives op g turn pc = [u] → g.cond ≠ .handler →
    (∃ c h, s.dev.ctx? g.ctx = some c ∧ c.handler = some h) →
    let raises := fun cause acc addr => ∃ t, exec i s = .next t ∧
      Rules.Enters s t g turn pc 0 cause acc [u] addr
        (fun v => if v ∈ presentOf g turn pc ∧ v < u then pc + 4 else (thread g v).pc) ∧
      t.dev.reqs = s.dev.reqs ∧ t.dev.writes = s.dev.writes
    (∀ f size acc, ((∃ d tr n e, Rules.Load i f d tr size n e ∧ acc = 1) ∨ (∃ v, Rules.Store i f v size ∧ acc = 2)) →
      ∀ cause, Rules.BadAddress g (f (rdOf s.dev g turn) u) size cause → raises cause acc (f (rdOf s.dev g turn) u)) ∧
    (∀ ks wt, Rules.TimeWait i ks wt → ∀ x y,
      ((ks (rdOf s.dev g turn) u).map fun k => Rules.time s (passInfo op s g turn pc) u k).find? (·.st == .withdrawn) = some x →
      timeFault g u x = none → x.why = some y → raises y.cause y.acc y.addr) ∧
    (∀ o, i = .fget o → ((g.partner.isSome = true ∨ ∀ k, g.task = some k → k.committed = true) → raises .futureOrder 0 0) ∧
      ∀ k n a l c, g.partner = none → g.task = some k → k.gang = some n → k.committed = false → s.dev.ctx? g.ctx = some c →
        Rules.Mapped s g (src64 (rdOf s.dev g turn) u o.a) 8 .rw a l →
        inReplica s.mem s.dev c (src64 (rdOf s.dev g turn) u o.a) = false → keyKind a = .own → lostKey s.dev a = false →
        badSector s.dev a l.dom = false → badSector s.dev (a + 7) l.dom = false → (futureOf s.dev a).full = false →
        raises .futureOrder 0 0)

/-! ## Steps outside a pass -/

namespace Sys2Proof.Rules

/-- A device that has sent one more message. -/
def sent (d : Device) (o : Out) : Device := { d with outbox := d.outbox ++ [o] }

/-- Each SPDM request with the state it leaves, from R430 and R431. The numbers of messages are PRESUMED (log 32); digests,
signatures and keys are free values. -/
inductive Spdm (d : Device) : Instr → Device → Prop
  | getVersion (c) : Spdm d (.getVersion c)
      (sent { d with conns := { conn := c, stage := 1 } :: d.conns.filter (·.conn != c) } (.spdm c 0x04 [0x12, 0x13]))
  | getCapabilities (c v) (h : 1 ≤ connStage d c) (hv : v = 0x12 ∨ v = 0x13) : Spdm d (.getCapabilities c v)
      (sent { d with conns := { conn := c, stage := 2, version := v } :: d.conns.filter (·.conn != c) } (.spdm c 0x61 [v]))
  | otherVersion (c v) (h : 1 ≤ connStage d c) (hv : v ≠ 0x12 ∧ v ≠ 0x13) : Spdm d (.getCapabilities c v)
      (sent d (.spdm c 0x7F [0x41, 0]))
  | negotiate (c a) (h : 2 ≤ connStage d c) (ha : (a.ecdsaP384 && a.sha384 && a.ecdheP384 && a.aes256Gcm) = true) :
      Spdm d (.negotiateAlgorithms c a)
      (sent { d with conns := { conn := c, stage := 3, version := ((d.conns.find? (·.conn == c)).map (·.version)).getD 0 } ::
        d.conns.filter (·.conn != c) } (.spdm c 0x63 []))
  | getDigests (c) (h : 3 ≤ connStage d c) : Spdm d (.getDigests c) (sent d (.spdm c 0x01 [1, chainDigest d]))
  | getCertificate (c off len) (h : 3 ≤ connStage d c) : Spdm d (.getCertificate c 0 off len)
      (sent d (.spdm c 0x02 ((List.range len).map fun i => chainByte d (off + i))))
  | otherSlot (c slot off len) (h : 3 ≤ connStage d c) (hs : slot ≠ 0) : Spdm d (.getCertificate c slot off len)
      (sent d (.spdm c 0x7F [1, 0]))
  | challenge (c nonce) (h : 3 ≤ connStage d c) : Spdm d (.challenge c 0 nonce)
      (sent d (.spdm c 0x03 [chainDigest d, measNat d, signed d nonce]))
  | getMeasurements (c b) (h : 3 ≤ connStage d c) (hb : 1 ≤ b ∧ b ≤ 9) : Spdm d (.getMeasurements c b)
      (sent d (.spdm c 0x60 [b, d.meas.toArray.getD (b - 1) 0]))
  | allMeasurements (c) (h : 3 ≤ connStage d c) : Spdm d (.getMeasurements c 0xFF) (sent d (.spdm c 0x60 d.meas.toList))
  | keyExchange (c pub) (h : 3 ≤ connStage d c) (hs : d.sessions.length < 16) : Spdm d (.keyExchange c 0 pub)
      (sent { d with sessions := d.sessions ++ [{ id := d.nextId, conn := c, ready := false }], nextId := d.nextId + 1 }
        (.spdm c 0x64 [d.nextId, Config.secret 0x12 d.nextId, signed d pub]))
  | seventeenth (c pub) (h : 3 ≤ connStage d c) (hs : 16 ≤ d.sessions.length) : Spdm d (.keyExchange c 0 pub)
      (sent d (.spdm c 0x7F [0x0A, 0]))
  | finish (k x) (h : d.sessions.find? (·.id == k) = some x) (r : x.ready = false) : Spdm d (.finish k true)
      (sent { d with sessions := d.sessions.map fun y => if y.id = k then { y with ready := true } else y } (.spdm x.conn 0x65 []))
  | finishFails (k x) (h : d.sessions.find? (·.id == k) = some x) (r : x.ready = false) : Spdm d (.finish k false)
      (sent { d with sessions := d.sessions.filter (·.id != k) } (.spdm x.conn 0x7F [6, 0]))
  | heartbeat (k x) (h : d.sessions.find? (·.id == k) = some x) (r : x.ready = true) : Spdm d (.heartbeat k)
      (sent d (.spdm x.conn 0x68 []))
  | keyUpdate (k x) (h : d.sessions.find? (·.id == k) = some x) (r : x.ready = true) : Spdm d (.keyUpdate k)
      (sent { d with sessions := d.sessions.map fun y => if y.id = k then { y with keyGen := y.keyGen + 1 } else y }
        (.spdm x.conn 0x69 []))
  | endSession (k x) (h : d.sessions.find? (·.id == k) = some x) (r : x.ready = true) : Spdm d (.endSession k)
      (sent { d with sessions := d.sessions.filter (·.id != k) } (.spdm x.conn 0x6C []))
  | unsupported (c code) : Spdm d (.spdmUnsupported c code) (sent d (.spdm c 0x7F [7, code]))

end Sys2Proof.Rules

/-- R430, R431: the responder's answer to each SPDM request that comes behind those it follows, and the connection or session
state it leaves; nothing else changes. The numbers of the messages are the model's (log 32). -/
def Obligations.SpdmAnswers : Prop :=
  ∀ s : State, s.dev.log = [] → s.dev.booted = true → ∀ i d, Rules.Spdm s.dev i d → exec i s = .next { s with dev := d }

namespace Sys2Proof.Rules

/-- A management command that the Keystone executes now (R432). -/
structure Accepted (d : Device) (h : MgmtHead) (k : Nat) : Prop where
  booted : d.booted = true
  alone : d.pendCmds = []
  session : h.session = some k
  ready : d.sessions.any (fun x => x.id == k && x.ready) = true

/-- The device once the notices that were held for the command's context have gone to its session (R432). -/
def begun (s : State) (h : MgmtHead) (k : Nat) : Device := sendHeld k h.ctx.toNat s.dev

/-- The device with the response of STATUS 0. -/
def done (d : Device) (h : MgmtHead) (payload : List Nat) : Device := sent d (.response h 0 payload)

/-- Each management command that configures the module, and each step that completes one, with its effect, from R38, R391,
R406 to R408, R421, R429, R434, R437, R438, R440 and R442 to R444. -/
inductive Mgmt (s : State) : Instr → (State → Prop) → Prop
  | malformed (k port head) (a : Accepted s.dev (headOf (some k) port head) k) (b : headBad head = true) :
      Mgmt s (.mgmtMalformed (some k) port head) fun t =>
        let h := headOf (some k) port head
        h.tag.toNat = headField head 2 2 % 2 ^ 16 ∧ h.ctx.toNat = headField head 8 2 % 2 ^ 16 ∧
          t = { s with dev := sent (begun s h k) (.response h 1 []) }
  | ctxstart (h k pa c) (a : Accepted s.dev h k)
      (w : newCtx s.mem { begun s h k with steps := s.dev.steps + 1 } k pa (fun g => bits g 17 5) = .ok c)
      (n : ∀ x ∈ s.dev.ctxs, x.num ≠ c.num) :
      Mgmt s (.ctxstart h pa) fun t =>
        t.dev.ctxs = s.dev.ctxs ++ [c] ∧ (∃ gs, t.dev.groups = s.dev.groups ++ gs ∧ gs.length = (ctxCores c).length * c.gpc ∧
          ∀ g ∈ gs, g.ctx = c.num ∧ g.core ∈ ctxCores c ∧ g.d = c.d ∧ g.x = c.x ∧ g.place = none ∧ g.instantiated = false) ∧
        t.dev.outbox = (begun s h k).outbox ++ [.response h 0 [c.num]] ∧
        (∀ a, memGet t.mem a = if inRegions c a then 0 else memGet s.mem a) ∧
        { t.dev with
          ctxs := s.dev.ctxs, groups := s.dev.groups, outbox := (begun s h k).outbox, nextId := s.dev.nextId
          steps := s.dev.steps } = begun s h k
  | ctxend (h k c) (a : Accepted s.dev h k) (w : s.dev.ctx? h.ctx.toNat = some c) : Mgmt s (.ctxend h) fun t =>
      t.mem = s.mem ∧ t.dev.groups = s.dev.groups.filter (·.ctx != c.num) ∧ t.dev.pendCmds = [.ctxEnd h] ∧
        t.dev.ctx? c.num = some { c with
          ending := some h, gangs := c.gangs.map fun k => { k with toStart := [] } }
  | ctxendComplete (n c h) (w : s.dev.ctx? n = some c) (e : c.ending = some h) (q : ctxQuiet s.dev n = true) :
      Mgmt s (.ctxendComplete n) fun t =>
        let d := performHeld s.mem n s.dev
        t.mem = memWriteAll s.mem d.log ∧ t.dev.ctxs = d.ctxs.filter (·.num != n) ∧
        t.dev.entries = d.entries.filter (·.ctx != n) ∧ t.dev.reds = d.reds.filter (·.ctx != n) ∧
        t.dev.tlb = d.tlb.filter (·.ctx != n) ∧ t.dev.pins = d.pins.filter (·.1 != n) ∧
        t.dev.outbox = d.outbox ++ [.response h 0 []] ∧ ((∀ r ∈ s.dev.reds, r.ctx ≠ n) → d = s.dev)
  | suspend (h k c) (a : Accepted s.dev h k) (w : s.dev.ctx? h.ctx.toNat = some c) (q : c.suspended = false)
      (r : s.dev.groups.any (fun g => g.ctx == h.ctx.toNat && g.place.isSome) = true) : Mgmt s (.suspend h) fun t =>
      t.mem = s.mem ∧ t.dev.ctx? c.num = some { c with suspended := true } ∧ t.dev.pendCmds = [.suspend h] ∧
        t.dev.groups = s.dev.groups.map fun g =>
          if g.ctx = c.num ∧ g.place.isSome ∧ g.partner.isNone then { g with wanted := true } else g
  | suspendIdle (h k c) (a : Accepted s.dev h k) (w : s.dev.ctx? h.ctx.toNat = some c) (q : c.suspended = false)
      (r : s.dev.groups.any (fun g => g.ctx == h.ctx.toNat && g.place.isSome) = false)
      (f : areaFails s.mem { (begun s h k).setCtx { c with suspended := true } with pendCmds := [.suspend h] }
        { c with suspended := true } .w (barsVa c) 65536 = none) : Mgmt s (.suspend h) fun t =>
      t.mem = s.mem ∧ t.dev.ctx? c.num = some { c with suspended := true } ∧ t.dev.pendCmds = [] ∧
        t.dev.outbox = (begun s h k).outbox ++ [.response h 0 []]
  | resume (h k c) (a : Accepted s.dev h k) (w : s.dev.ctx? h.ctx.toNat = some c) (q : c.suspended = true)
      (f : areaFails s.mem ((begun s h k).setCtx { c with suspended := false }) { c with suspended := false } .r (barsVa c) 65536 = none) : Mgmt s (.resume h) fun t =>
      t = { s with dev := done ((begun s h k).setCtx { c with suspended := false }) h [] }
  | tlbinv (h k c base len force) (a : Accepted s.dev h k) (w : s.dev.ctx? h.ctx.toNat = some c)
      (r : ∀ n < 4, tracesRange c.num base len (s.dev.die n).trace = false) : Mgmt s (.tlbinv h base len force) fun t =>
      t.mem = s.mem ∧ t.dev.pendCmds = [.tlbInv s.dev.nextId h base len] ∧
        (∀ x, x ∈ t.dev.tlb ↔ x ∈ s.dev.tlb ∧ ¬(x.ctx = c.num ∧ runsMeet base.toNat len x.va.toNat x.size = true)) ∧
        { t.dev with
          tlb := s.dev.tlb, spans := s.dev.spans, pendCmds := [], nextId := s.dev.nextId } = begun s h k
  | tlbinvComplete (h id base len) (w : s.dev.pendCmds = [.tlbInv id h base len])
      (q : rangeQuiet s.dev h.ctx.toNat base len = true) : Mgmt s (.tlbinvComplete id) fun t =>
      t.mem = s.mem ∧ t.dev.pendCmds = [] ∧ t.dev.outbox = s.dev.outbox ++ [.response h 0 []] ∧
        ∀ x ∈ t.dev.tlb, x.ctx = h.ctx.toNat → runsMeet base.toNat len x.va.toNat x.size = false
  | hwinset (h k w) (a : Accepted s.dev h k) (l : w.len % 4096 = 0 ∧ w.len ≤ 2 ^ 48) : Mgmt s (.hwinset h w) fun t =>
      t = { s with dev := { begun s h k with pendCmds := [.hwinSet h s.dev.nextId w] } }
  | hwinsetComplete (h since w) (p : s.dev.pendCmds = [.hwinSet h since w])
      (q : windowQuiet s.dev w.window.toNat since = true) : Mgmt s (.hwinsetComplete w.window.toNat) fun t =>
      t = { s with dev := done { s.dev with
        pendCmds := []
        hwin := s.dev.hwin.set! w.window.toNat (if w.len = 0 then none
          else some { endpoint := w.endpoint, base := w.base, len := w.len, r := w.r, w := w.w, a := w.a }) } h [] }
  | keyset (h k mask dom) (a : Accepted s.dev h k) (n : s.dev.ctxs = []) (r : 1 ≤ dom ∧ dom < 16) :
      Mgmt s (.keyset h mask dom) fun t =>
        t = { s with dev := done { begun s h k with
          keyGen := s.dev.keyGen + 1
          keys := (s.dev.keys.filter fun x => !(mask.getLsbD x.1 && x.2.1 == dom)) ++
            ((List.range 64).filter fun m => mask.getLsbD m).map fun m => (m, dom, s.dev.keyGen + 1) } h [] }
  | keyerase (h k mask dom) (a : Accepted s.dev h k) (n : s.dev.ctxs = []) (r : 1 ≤ dom ∧ dom < 16) :
      Mgmt s (.keyerase h mask dom) fun t =>
        t = { s with dev := done { begun s h k with
          keys := s.dev.keys.filter fun x => !(mask.getLsbD x.1 && x.2.1 == dom) } h [] }
  | modset (h k n) (a : Accepted s.dev h k) (e : s.dev.ctxs = []) : Mgmt s (.modset h n) fun t =>
      t = { s with dev := done { begun s h k with modnum := n, standalone := false } h [] }
  | fwupdate (h k p) (a : Accepted s.dev h k) (l : p.length ≤ 4064) : Mgmt s (.fwupdate h p false) fun t =>
      t = { s with dev := done { begun s h k with fwPieces := s.dev.fwPieces ++ p } h [] }
  | fwlast (h k p) (a : Accepted s.dev h k) (l : p.length ≤ 4064) : Mgmt s (.fwupdate h p true) fun t =>
      let d := { begun s h k with steps := s.dev.steps + 1, fwPieces := [] }
      t = { s with dev := done { d with fwImage := s.dev.fwPieces ++ p } h [] } ∨
      t = { s with dev := sent d (.response h 4 [0x30, 0]) }
  | monread (h k u) (a : Accepted s.dev h k) (r : (∃ n < 4, u = .die n) ∨ ∃ n < 8, u = .cluster n) : Mgmt s (.monread h u) fun t =>
      ∃ xs mhz, (match u with
        | .die n => xs.length = 18 ∧ mhz = (s.dev.die n).mhz
        | .cluster n => xs.length = 5 ∧ mhz = (s.dev.die (n / 2)).mhz) ∧
      t = { s with dev := done { begun s h k with steps := s.dev.steps + 1 } h (xs ++ [mhz] ++ countWords s.dev.mon) }
  | width (h k n full) (a : Accepted s.dev h k) (r : n < 4) (q : (s.dev.link n).full ≠ full) :
      Mgmt s (.linkset h (.width n full)) fun t =>
        t.mem = s.mem ∧ t.dev.link n = { s.dev.link n with wantFull := some full, since := s.dev.nextId } ∧
        (∀ m < 4, m ≠ n → t.dev.link m = s.dev.link m) ∧ ∃ ns, t.dev.outbox = ns ++ [.response h 0 []]
  | raise (h k n mhz) (a : Accepted s.dev h k) (r : n < 4 ∧ mhz ∈ settings) (q : (s.dev.die n).st = .running)
      (w : widthPending s.dev n = false) (u : (s.dev.die n).mhz ≤ mhz) : Mgmt s (.linkset h (.freq n mhz)) fun t =>
      t.mem = s.mem ∧ t.dev.die n = { s.dev.die n with mhz := mhz, wantMhz := none, wantFabric := none, heat := 0 } ∧
        ∃ ns, t.dev.outbox = ns ++ [.response h 0 []]
  | lower (h k n mhz) (a : Accepted s.dev h k) (r : n < 4 ∧ mhz ∈ settings) (q : (s.dev.die n).st = .running)
      (w : widthPending s.dev n = false) (u : mhz < (s.dev.die n).mhz) : Mgmt s (.linkset h (.freq n mhz)) fun t =>
      t.mem = s.mem ∧
        t.dev.die n = { s.dev.die n with wantMhz := some mhz, wantAt := s.dev.nextId, wantFabric := none, heat := 0 } ∧
        ∃ ns, t.dev.outbox = ns ++ [.response h 0 []]
  | after (h k n mhz) (a : Accepted s.dev h k) (r : n < 4 ∧ mhz ∈ settings) (q : (s.dev.die n).st = .running)
      (w : widthPending s.dev n = true) : Mgmt s (.linkset h (.freq n mhz)) fun t =>
      t.mem = s.mem ∧ t.dev.die n = { s.dev.die n with wantFabric := some mhz, wantMhz := none, heat := 0 } ∧
        ∃ ns, t.dev.outbox = ns ++ [.response h 0 []]
  | portmode (h k p m) (a : Accepted s.dev h k) (r : p < 8 ∧ m < 4) : Mgmt s (.portmode h p m) fun t =>
      let d := { begun s h k with ports := s.dev.ports.set! p { s.dev.ports.toArray.getD p {} with up := false } }
      t = { s with dev := if h.port.toNat = p then done { d with pendCmds := [.portMode none p m] } h []
        else { d with pendCmds := [.portMode (some h) p m] } }
  | retrained (h p m) (w : s.dev.pendCmds = [.portMode h p m]) : Mgmt s (.portRetrainDone p) fun t =>
      let d := { s.dev with
        pendCmds := [], ports := s.dev.ports.set! p { mode := m, up := activeSource s.dev (4 + p / 4) } }
      t = { s with dev := match h with
        | some h => done d h []
        | none => d }

end Sys2Proof.Rules

/-- R38, R391, R406 to R408, R421, R429, R432 to R434, R437, R438, R440, R442 to R444: what each management command that
configures the module does where it is accepted and not refused, and what each of its completions does. A frequency change
follows a width change (R444); what a final firmware piece comes to is open (log 14), and so are the sensor readings (log 33). -/
def Obligations.ManagementEffects : Prop :=
  ∀ s : State, s.dev.log = [] → ∀ i post, Rules.Mgmt s i post → ∃ t, exec i s = .next t ∧ post t

namespace Sys2Proof.Rules

/-- A debug command of the session that is attached to a group's context (R445). -/
structure Attached (s : State) (h : MgmtHead) (k : Nat) (c : Ctx) (g : Group) : Prop where
  accepted : Accepted s.dev h k
  ctx : s.dev.ctx? h.ctx.toNat = some c
  mine : c.attached = some k
  group : s.dev.group? g.gid = some g
  same : g.ctx = c.num

/-- The reissue that a step of one thread asks for: the RUN threads that stand with it (R446). -/
def stepTurn (g : Group) (slot : Nat) (bpc : DWord) : Turn :=
  let old := g.next.getD {}
  let ts := slots.filter fun u => isRun (thread g u) && (thread g u).pc == (thread g slot).pc
  { old with reissue := some {
      only := maskOf ts, pc := bpc, kept := (old.reissue.map (·.kept)).getD [], lone := (thread g slot).pc != bpc } }

/-- A trace unit with one more record in its staging buffer, of a kind. -/
def staged (x y : TraceUnit) (kind : Nat) : Prop :=
  ∃ bs : List Byte, bs.length = 32 ∧ bs.head? = some (.ofNat 8 kind) ∧ y = { x with staged := x.staged ++ [bs] }

/-- Each command of debug and trace, and the stall sample, with its effect, from R445 to R449. -/
inductive Debug (s : State) : Instr → (State → Prop) → Prop
  | attach (h k c) (a : Accepted s.dev h k) (w : s.dev.ctx? h.ctx.toNat = some c)
      (f : ∀ x, c.attached = some x → x = k ∨ s.dev.sessions.any (·.id == x) = false) : Debug s (.dbgattach h) fun t =>
      t = { s with dev := done ((begun s h k).setCtx { c with attached := some k }) h [] }
  | halt (h k c g) (a : Attached s h k c g) (n : g.turn = none) : Debug s (.dbghalt h g.gid) fun t =>
      t = { s with dev := done ((begun s h k).setGroup { g with halted := true }) h [] }
  | haltDie (h k n) (a : Accepted s.dev h k) (r : n < 4 ∧ (s.dev.die n).st = .running) (q : detOn s.dev n = none) :
      Debug s (.dbghaltDie h n) fun t =>
        t = { s with dev := done ((begun s h k).setDie n { s.dev.die n with
          st := .halted, haltedAt := (List.range 4).map fun m => (s.dev.die m).tick }) h [] }
  | haltDet (h k n c) (a : Accepted s.dev h k) (r : n < 4) (q : detOn s.dev n = some c) : Debug s (.dbghaltDie h n) fun t =>
      t = { s with dev := sent (begun s h k) (.response h 4 [0x40, c.num]) }
  | run (h k c g) (a : Attached s h k c g) (n : g.halted = true) : Debug s (.dbgrun h (.group g.gid)) fun t =>
      t = { s with dev := done ((begun s h k).setGroup { g with halted := false }) h [] }
  | runDie (h k n durations) (a : Accepted s.dev h k) (r : n < 4 ∧ (s.dev.die n).st = .halted) :
      Debug s (.dbgrun h (.die n durations)) fun t =>
        (t.dev.die n).st = .running ∧ (t.dev.die n).haltedAt = [] ∧ (∃ ns, t.dev.outbox = ns ++ [.response h 0 []]) ∧
        t.dev.mon.breaches = s.dev.mon.breaches + (haltedIds s.dev n).length ∧
        (haltedIds s.dev n = [] →
          t = { s with dev := done ((begun s h k).setDie n { s.dev.die n with st := .running, haltedAt := [] }) h [] })
  | step (h k c g slot bpc w d i op) (a : Attached s h k c g) (f : s.dev.focus = none)
      (o : g.halted = true ∧ g.place.isSome = true ∧ g.cond ≠ .idle ∧ g.hold = .none ∧ isRun (thread g slot.toNat) = true)
      (b : broadcastPc g = some bpc) (e : (thread g slot.toNat).pc = bpc)
      (p : prepare s.mem { (begun s h k).setGroup { g with turn := some (stepTurn g slot.toNat bpc), next := none } with
        focus := some g.gid } = .run w d) (r : decodeOp w = some op ∧ opOf i = some op) :
      Debug s (.dbgstep h g.gid slot) fun t => ∃ u, exec i { mem := s.mem, dev := d } = .next u ∧
        t.dev.focus = none ∧ (∃ ns, t.dev.outbox = ns ++ [.response h 0 []]) ∧
        ∀ v, u.dev.group? g.gid = some v → ∃ y, t.dev.group? g.gid = some y ∧ y.halted = true ∧ y.turn = none ∧
          { y with halted := v.halted, turn := v.turn, next := v.next } = v
  | read (h k c g item) (a : Attached s h k c g) (n : g.halted = true) (o : itemOk g item = true) : Debug s (.dbgread h g.gid item)
      fun t => ∃ xs, t = { s with dev := done { begun s h k with steps := s.dev.steps + 1 } h xs } ∧ match item with
        | .v u r => (thread g u.toNat).dead.getLsbD r.toNat = false → xs = [(getV g u.toNat r).toNat]
        | .x u j => xs = [(xOf (thread g u.toNat) j).toNat]
        | .s r => xs = [(getS g r).toNat]
        | .p u r => xs = [if predOf (thread g u.toNat) r then 1 else 0]
        | .i u r => xs = [(idxOf (thread g u.toNat) r).toNat]
        | .t u r => xs.head? = some (timeOf (thread g u.toNat) r).value.toNat
        | .loop j .counter => xs = [((g.loops[j]?).map (·.counter.toNat)).getD 0]
        | .loop j .start => xs = [((g.loops[j]?).map fun x => (codeOff c.codeBase x.start).toNat).getD 0]
        | .loop j .stop => xs = [((g.loops[j]?).map fun x => (codeOff c.codeBase x.stop).toNat).getD 0]
        | .pc u => xs = [(codeOff c.codeBase (thread g u.toNat).pc).toNat]
  | write (h k c g item x) (a : Attached s h k c g) (n : g.halted = true) (o : itemOk g item = true)
      (b : ∀ u r, itemReg item = some (u, r) → loading s.dev g u r = false) (v : valueOk item (lowWord x) = true) :
      Debug s (.dbgwrite h g.gid item x) fun t =>
        t = { s with dev := done ((begun s h k).setGroup (writeItem c g item (lowWord x))) h [] }
  | trcstart (h k c u ls) (a : Accepted s.dev h k) (w : s.dev.ctx? h.ctx.toNat = some c) (o : traceOk u = true)
      (f : ∀ n ∈ traceDies u, (s.dev.die n).trace.on = false ∧ (s.dev.die n).st = .running)
      (p : traceLists s.mem (begun s h k) c 0 u.pages = .ok ls) : Debug s (.trcstart h u) fun t =>
      t.mem = s.mem ∧ { t.dev with dies := s.dev.dies } = done (begun s h k) h [] ∧ ∀ n < 4,
        (∀ ps, (n, ps) ∈ ls → t.dev.die n = { s.dev.die n with trace :=
          { on := true, ctx := c.num, session := k, pages := ps, mask := u.mask, wrap := u.wrap, period := u.period
            since := (s.dev.die n).tick } }) ∧
        ((∀ ps, (n, ps) ∉ ls) → t.dev.die n = s.dev.die n)
  | trcstop (h k c) (a : Accepted s.dev h k) (w : s.dev.ctx? h.ctx.toNat = some c) : Debug s (.trcstop h) fun t =>
      (∃ ns, t.dev.outbox = ns ++ [.response h 0 []]) ∧
        ∀ n < 4, { t.dev.die n with trace := {} } = { s.dev.die n with trace := {} } ∧
          (t.dev.die n).trace = if (s.dev.die n).trace.on ∧ (s.dev.die n).trace.ctx = c.num then {} else (s.dev.die n).trace
  | sample (core span n) (x : TraceUnit) (w : (s.dev.die (dieOf core)).trace = x) (o : x.on = true ∧ x.period = some n)
      (b : x.mask.getLsbD 4 = true ∧ x.staged.length < 63)
      (q : sampleDue (s.dev.die (dieOf core)) (s.dev.spanOf core (.ofNat 4 span)) n ≤ (s.dev.die (dieOf core)).tick)
      (f : ∀ g ∈ s.dev.groups, g.core = core → (g.place.map (·.1)) = some (.ofNat 4 span) → g.ctx = x.ctx) :
      Debug s (.stallSample core span) fun t => ∃ y, staged x y 4 ∧
        let z := s.dev.spanOf core (.ofNat 4 span)
        let d := s.dev.setSpan { z with sampleAt := sampleDue (s.dev.die (dieOf core)) z n }
        t = { s with dev := d.setDie (dieOf core) { s.dev.die (dieOf core) with trace := y } }

end Sys2Proof.Rules

/-- R445 to R449, R452: what each command of debug and trace does for the session that is attached, where it is accepted and not
refused, and what a stall sample records. DBGSTEP of a thread at the broadcast address has the effect of the pass of the
instruction there, issued for the RUN threads that stand with it, and leaves the group halted. -/
def Obligations.DebugEffects : Prop :=
  ∀ s : State, s.dev.log = [] → ∀ i post, Rules.Debug s i post → ∃ t, exec i s = .next t ∧ post t

namespace Sys2Proof.Rules

/-- The retries that the monitors have counted of a link (R442). -/
def retriesOf (d : Device) (link : Nat) : Nat := ((d.mon.retries.find? (·.1 == link)).map (·.2)).getD 0

/-- A request that the module serves for a port (R38, R439), and the keys of its bytes. -/
structure Served (s : State) (r : UeRequest) (keys : List Nat) : Prop where
  source : activeSource s.dev (4 + r.port.toNat / 4) = true
  up : (s.dev.ports[r.port.toNat]'(r.port.isLt)).up = true
  member : r.peer = true → s.dev.standalone = false
  short : (ueRange r.kind).2 ≤ 4096
  own : ownKeys s.dev (ueRange r.kind).1 (ueRange r.kind).2 = some keys
  ready : portReady s.dev (4 + r.port.toNat / 4) keys = true
  good : ∀ k ∈ keys, badSector s.dev k (lineDom s.dev k) = false

/-- What an atomic from a port makes of a location (R306, R439). -/
def ueNew (op : UeAtomic) (x y : DWord) (old : Nat) : Nat :=
  match op with
  | .add w => (old + x.toNat) % 2 ^ (if w then 64 else 32)
  | .exch w => x.toNat % 2 ^ (if w then 64 else 32)
  | .cas w => if old = y.toNat % 2 ^ (if w then 64 else 32) then x.toNat % 2 ^ (if w then 64 else 32) else old

/-- A module that has booted an image (R428, R429, R436, R437): the dies but those named are released, every memory die has a key
of domain 0, and nothing else of what the module held before is left. -/
def Booted (failed : List Nat) (image : List Byte) (d : Device) : Prop :=
  d.booted = true ∧ d.fwImage = image ∧ (∀ n < 4, (d.die n).st = if n ∈ failed then .fenced else .running) ∧
    (∀ n (h : n < 2), d.portDies[n] = if 4 + n ∈ failed then .inReset else .running) ∧
    (∀ n (h : n < 8), d.ports[n].up = decide (4 + n / 4 ∉ failed)) ∧
    (∀ n < 64, ∃ gen, (n, 0, gen) ∈ d.keys) ∧ (∀ k ∈ d.keys, k.2.1 = 0) ∧
    d.bootReport = (List.range 6).filter failed.contains ∧ d.ctxs = [] ∧ d.groups = [] ∧ d.entries = [] ∧ d.sessions = [] ∧
    d.tlb = [] ∧ d.pcache = [] ∧ d.modnum = 0 ∧ d.standalone = true ∧ ∀ n (h : n < 8), d.vclock[n] = Vector.replicate 8 0

/-- A die's clock after a thermal step that asks for a frequency (R232, R442): at once where that raises it. -/
def Stepped (s t : State) (n f heat : Nat) : Prop :=
  t.mem = s.mem ∧ t.dev.die n = (if (s.dev.die n).mhz ≤ f then { s.dev.die n with mhz := f, wantMhz := none, heat := heat }
    else { s.dev.die n with wantMhz := some f, wantAt := s.dev.nextId, heat := heat }) ∧
  (∀ m < 4, m ≠ n → t.dev.die m = s.dev.die m) ∧
  ∀ x ∈ s.dev.sessions, x.ready = true → ∃ code p, .notice (some x.id) .monAlert 0xFFFF ([code, n] ++ p) ∈ t.dev.outbox

/-- Each step of the platform with its effect, from R20, R228, R232, R286, R301, R302, R330, R393 to R396, R428, R436 to
R444. -/
inductive Platform (s : State) : Instr → (State → Prop) → Prop
  | powerOn (failed) : Platform s (.powerOn ⟨failed, none⟩) fun t => t.mem = s.mem ∧ Booted failed s.dev.fwImage t.dev
  | recovered (failed image) (o : imageOk s.dev.steps image = true) : Platform s (.powerOn ⟨failed, some image⟩) fun t =>
      t.mem = s.mem ∧ Booted failed image t.dev
  | noFirmware (failed image) (o : imageOk s.dev.steps image = false) : Platform s (.powerOn ⟨failed, some image⟩) fun t => t = s
  | dieFence (n) (b : s.dev.booted = true) (r : n < 4 ∧ (s.dev.die n).st ≠ .fenced) : Platform s (.dieFence n) fun t =>
      (t.dev.die n).st = .fenced ∧ ∀ g ∈ t.dev.groups, dieOf g.core ≠ n
  | overTemp (n temp) (b : s.dev.booted = true) (r : n < 4 ∧ (s.dev.die n).st ≠ .fenced) (q : 120 ≤ temp) :
      Platform s (.sensorOvertempFence ⟨n, temp⟩) fun t =>
        (t.dev.die n).st = .fenced ∧ ∀ g ∈ t.dev.groups, dieOf g.core ≠ n
  | linkRetry (link ids us) (b : s.dev.booted = true) : Platform s (.linkRetry link ids us) fun t =>
      retriesOf t.dev link = retriesOf s.dev link + 1 ∧
        t.dev.mon.breaches = s.dev.mon.breaches + (ids.filter fun id => (partyOf s.dev id).isSome).length ∧ (∀ k, k ≠ link → retriesOf t.dev k = retriesOf s.dev k) ∧
        (ids = [] → { t.dev with mon := s.dev.mon } = s.dev ∧ t.mem = s.mem)
  | corrected (mdie ids us) (b : s.dev.booted = true) : Platform s (.correctedMemoryError mdie ids us) fun t =>
      t.dev.mon.correctedReads = s.dev.mon.correctedReads + 1 ∧
        t.dev.mon.breaches = s.dev.mon.breaches + (ids.filter fun id => (partyOf s.dev id).isSome).length ∧
        (ids = [] → { t.dev with mon := s.dev.mon } = s.dev ∧ t.mem = s.mem)
  | stepDown (n temp us f) (r : n < 4 ∧ (s.dev.die n).st = .running) (q : 95 ≤ temp ∧ 1000 ≤ us)
      (l : stepLower ((s.dev.die n).wantMhz.getD (s.dev.die n).mhz) = some f) :
      Platform s (.clockStepDown ⟨n, temp, us⟩) fun t => Stepped s t n f ((s.dev.die n).heat + 1)
  | stepUp (n temp us f) (r : n < 4 ∧ (s.dev.die n).st = .running) (q : 0 < (s.dev.die n).heat ∧ temp < 90 ∧ 10000 ≤ us)
      (l : stepHigher ((s.dev.die n).wantMhz.getD (s.dev.die n).mhz) = some f) :
      Platform s (.clockStepUp ⟨n, temp, us⟩) fun t => Stepped s t n f ((s.dev.die n).heat - 1)
  | throttle (n temp droop ids us) (r : n < 4 ∧ (s.dev.die n).st = .running) (q : 105 ≤ temp ∨ droop = true) :
      Platform s (.emergencyThrottle ⟨n, temp, droop⟩ ids us) fun t =>
        t.dev.mon.throttles = s.dev.mon.throttles + 1 ∧
        t.dev.die n = { s.dev.die n with mhz := (t.dev.die n).mhz, trace := (t.dev.die n).trace } ∧ (t.dev.die n).mhz ≤ (s.dev.die n).mhz ∧
        ((t.dev.die n).mhz = (s.dev.die n).mhz ∨ (t.dev.die n).mhz ∈ settings) ∧
        t.dev.mon.breaches = s.dev.mon.breaches + (ids.filter fun id => (partyOf s.dev id).isSome).length
  | switch (n f) (w : (s.dev.die n).wantMhz = some f) (r : n < 4 ∧ (s.dev.die n).st = .running)
      (p : widthPending s.dev n = false)
      (o : promisesOpen s.dev (s.dev.die n).wantAt (fun a b => (routeDies s.dev a b).contains n) = false) :
      Platform s (.frequencySwitch n) fun t =>
        t.mem = s.mem ∧ t.dev.die n = { s.dev.die n with mhz := f, wantMhz := none }
  | refresh (n temp) (b : s.dev.booted = true) (q : 95 ≤ temp) (r : n ∉ s.dev.refresh2) : Platform s (.refreshDouble ⟨n, temp⟩) fun t =>
      t.mem = s.mem ∧ t.dev.refresh2 = n :: s.dev.refresh2 ∧
        t.dev.outbox.length = s.dev.outbox.length + (s.dev.sessions.filter (·.ready)).length
  | reduce (n failing) (b : s.dev.booted = true) (r : n < 4 ∧ (s.dev.link n).full = true)
      (o : failing = true ∨ ((s.dev.link n).wantFull = some false ∧ promisesOpen s.dev (s.dev.link n).since
        (fun a b => (routeLinks s.dev a b ++ routeLinks s.dev b a).contains n) = false)) :
      Platform s (.linkWidthReduce n failing) fun t =>
        t.mem = s.mem ∧ (t.dev.link n).full = false ∧ ∀ m < 4, m ≠ n → t.dev.link m = s.dev.link m
  | increase (n) (r : n < 4 ∧ (s.dev.link n).full = false) (w : (s.dev.link n).wantFull = some true) :
      Platform s (.linkWidthIncrease n) fun t =>
        t.mem = s.mem ∧ t.dev.link n = { s.dev.link n with full := true, wantFull := none } ∧
        ∀ m < 4, m ≠ n → t.dev.link m = s.dev.link m
  | pathChange (n back) (r : n < 4 ∧ (s.dev.link n).degraded = back) (c : crossing s.dev n = false) :
      Platform s (.viaductPathChange n back) fun t =>
        t = { s with dev := { s.dev with links := s.dev.links.set! n { s.dev.link n with degraded := !back } } }
  | ueRead (port peer pa n keys) (a : Served s ⟨port, peer, .read pa n⟩ keys) :
      Platform s (.ueInboundRequest ⟨port, peer, .read pa n⟩) fun t =>
        t.mem = s.mem ∧ t.dev.outbox = s.dev.outbox ++ [.ue true (keys.map fun k => (memGet s.mem k).toNat)]
  | ueWrite (port peer pa data keys) (a : Served s ⟨port, peer, .write pa data⟩ keys) (m : s.mem.wf = true)
      (c : ∀ x ∈ s.dev.wrecs, x.core ≤ 1023) : Platform s (.ueInboundRequest ⟨port, peer, .write pa data⟩) fun t =>
      t.dev.outbox = s.dev.outbox ++ [.ue true []] ∧ (∀ k, k ∉ keys → memGet t.mem k = memGet s.mem k) ∧
        ∀ (j : Nat) k b, keys[j]? = some k → data[j]? = some b → memGet t.mem k = b
  | ueAtomic (port peer op pa x y keys) (a : Served s ⟨port, peer, .atomic op pa x y⟩ keys) (m : s.mem.wf = true)
      (l : pa % (ueAtomic op x y).size = 0) : Platform s (.ueInboundRequest ⟨port, peer, .atomic op pa x y⟩) fun t =>
      t.dev.outbox = s.dev.outbox ++ [.ue true [leNat (keys.map (memGet s.mem))]] ∧
        (∀ k, k ∉ keys → memGet t.mem k = memGet s.mem k) ∧
        leNat (keys.map (memGet t.mem)) = ueNew op x y (leNat (keys.map (memGet s.mem)))
  | ueDropped (port peer) (a : activeSource s.dev (4 + port.toNat / 4) = true) (u : (s.dev.ports[port.toNat]'(port.isLt)).up = true) :
      Platform s (.ueInboundRequest ⟨port, peer, .unsupported⟩) fun t =>
        t = { s with dev := { s.dev with mon := { s.dev.mon with dropped := s.dev.mon.dropped + 1 } } }
  | ueCollective (port peer) (a : activeSource s.dev (4 + port.toNat / 4) = true)
      (u : (s.dev.ports[port.toNat]'(port.isLt)).up = true) : Platform s (.ueInboundRequest ⟨port, peer, .collective⟩) fun t =>
        t = if s.dev.standalone then { s with dev := sent s.dev (.ue false []) } else s
  | ueRefused (r : UeRequest) (a : activeSource s.dev (4 + r.port.toNat / 4) = true)
      (u : (s.dev.ports[r.port.toNat]'(r.port.isLt)).up = true) (k : r.kind ≠ .unsupported ∧ r.kind ≠ .collective)
      (w : (r.peer = true ∧ s.dev.standalone = true) ∨ 4096 < (ueRange r.kind).2 ∨
        ownKeys s.dev (ueRange r.kind).1 (ueRange r.kind).2 = none) : Platform s (.ueInboundRequest r) fun t =>
        t = { s with dev := sent s.dev (.ue false []) }
  | moduleLoss (n) (b : s.dev.booted = true ∧ s.dev.standalone = false) (r : n ≠ s.dev.modnum ∧ n.toNat ∉ s.dev.lostModules) :
      Platform s (.podModuleLoss n) fun t =>
        t.dev.lostModules = n.toNat :: s.dev.lostModules ∧
        ∀ k c, s.dev.ctx? k = some c → ∀ b ∈ c.bars, b.sc = .pod → b.count ≠ 0 → ∀ g, s.dev.group? g.gid = some g →
          g.ctx = k → g.gid ∈ b.members → ∃ g', t.dev.group? g.gid = some g' ∧ (.pod, b.k) ∈ g'.barBroken
  | scrub (gid n bad struck g) (w : s.dev.group? gid = some g) (r : g.place.isSome = true) (z : g.partner = none) :
      Platform s (.registerScrub gid n ⟨bad, struck⟩ false) fun t =>
        t.dev.mon.correctedWords = s.dev.mon.correctedWords + n ∧ ∃ g', t.dev.group? gid = some g' ∧
        (∀ p, p ∈ g'.poison ↔ p ∈ g.poison ∨ ∃ b ∈ bad ++ struck, wordOf g b.2 = some p.2 ∧ p.1 = b.1.toNat) ∧
        g'.s = g.s ∧ g'.cond = g.cond ∧ g'.task = g.task ∧ ∀ u < 32, { thread g' u with t := (thread g u).t } = thread g u ∧
          ∀ k, k ≠ 0 → timeOf (thread g' u) k = { timeOf (thread g u) k with
            bad := (timeOf (thread g u) k).bad || (bad ++ struck).any fun b => b.1.toNat == u && wordOf g b.2 == some (.t k) }
  | scrubControl (gid n bad struck g k) (w : s.dev.group? gid = some g) (r : g.place.isSome = true) (p : g.partner = none)
      (q : g.task = some k) (u : k.gang = none) (z : Apart s gid) : Platform s (.registerScrub gid n ⟨bad, struck⟩ true) fun t =>
      ∃ g' e, t.dev.group? gid = some g' ∧ g'.task = none ∧ g'.turn = none ∧ e ∈ t.dev.ends ∧ e.entry = k.entry ∧
        e.failed = true

end Sys2Proof.Rules

/-- R20, R38, R228, R232, R330, R393, R395, R396, R428, R429, R439, R442 to R444: what each step of the platform does where its
condition holds: power-on with the stored image or a recovery image, a fence, retries and corrected errors, clock steps at the
temperatures and after the times of R442, throttles, switches, refresh, links, requests at a port, the loss of a module, a
register scrub. The frequency that a throttle takes is open (log 17); which barriers a lost module breaks is the model's (log
31). -/
def Obligations.PlatformEffects : Prop :=
  ∀ s : State, s.dev.log = [] → ∀ i post, Rules.Platform s i post → ∃ t, exec i s = .next t ∧ post t

namespace Sys2Proof.Rules

/-- The value of a request reaches its group (R73, R227, R240, R243): the request is gone, the time registers that follow it
are ARRIVED, its destination holds the value unless the group has dropped it, and every other register of the group stays. -/
def Arrives (s t : State) (r : Req) (v : Nat) : Prop :=
  (∀ q ∈ t.dev.reqs, q.id ≠ r.id) ∧ ∀ g, s.dev.group? r.gid = some g → (∀ b n, r.dst = .v b n → b.toNat + n ≤ 64) →
    (∀ b n, r.dst = .s b n → b.toNat + n ≤ 64) → ∃ g', t.dev.group? r.gid = some g' ∧
    (∀ u < 32, ∀ k, (timeOf (thread g u) k).req = r.id → r.id ≠ 0 → following (timeOf (thread g u) k) = true →
      (timeOf (thread g' u) k).st = .arrived) ∧
    (∀ u < 32, ∀ k, (timeOf (thread g u) k).req ≠ r.id → timeOf (thread g' u) k = timeOf (thread g u) k) ∧
    (∀ u < 32, ∀ k, (¬∃ b n, r.dst = .v b n ∧ u = r.slot ∧ b.toNat ≤ k ∧ k < b.toNat + n) ∨ r.dropped = true →
      (thread g' u).v.toArray.getD k 0 = (thread g u).v.toArray.getD k 0) ∧
    (∀ k, (¬∃ b n, r.dst = .s b n ∧ b.toNat ≤ k ∧ k < b.toNat + n) ∨ r.dropped = true →
      g'.s.toArray.getD k 0 = g.s.toArray.getD k 0) ∧
    (r.dropped = false → match r.dst with
      | .none => True
      | .v b n => r.slot < 32 → ∀ j < n,
          (thread g' r.slot).v.toArray.getD (b.toNat + j) 0 = .ofNat 32 (v / 2 ^ (32 * j))
      | .s b n => ∀ j < n, g'.s.toArray.getD (b.toNat + j) 0 = .ofNat 32 (v / 2 ^ (32 * j))
      | .q id => r.slot < 32 → ∀ e ∈ g'.qwin.toArray.getD r.slot [], e.id = id → e.value = some (.ofNat 32 v))

/-- A request ends in a failure (R73, R227, R230, R312): the request is gone, the time registers that follow it are
WITHDRAWN, and unless the group has dropped it the fault is pending for each of its threads. -/
def Withdrawn (s t : State) (r : Req) (cause : Cause) (acc : Nat) : Prop :=
  (∀ q ∈ t.dev.reqs, q.id ≠ r.id) ∧ ∀ g, s.dev.group? r.gid = some g → ∃ g', t.dev.group? r.gid = some g' ∧
    (∀ u < 32, ∀ k, (timeOf (thread g u) k).req = r.id → r.id ≠ 0 → following (timeOf (thread g u) k) = true →
      (timeOf (thread g' u) k).st = .withdrawn) ∧
    (∀ u < 32, (thread g' u).v = (thread g u).v) ∧ g'.s = g.s ∧
    g'.pendFaults = g.pendFaults ++ if r.dropped then [] else
      (slotsOf r.lanes).map fun u => { slot := u, cause := cause, acc := acc, addr := r.va, req := r.id, dst := r.dst
                                       pc := if r.kind = .uload then some r.pc else none }

/-- Every time register of a group that follows a request is changed, and nothing else of its threads. -/
def Retimed (g g' : Group) (id : Nat) (f : TimeReg → TimeReg) : Prop :=
  ∀ u < 32, { thread g' u with t := (thread g u).t } = thread g u ∧
    ∀ k, timeOf (thread g' u) k = if (timeOf (thread g u) k).req = id ∧ id ≠ 0 then f (timeOf (thread g u) k)
      else timeOf (thread g u) k

/-- Each step of loads and promises, of walks and of code fetches, with its effect, from R48, R213, R223 to R231, R240, R281,
R282 and R390. -/
inductive Reads (s : State) : Instr → (State → Prop) → Prop
  | codeFetch (f b) (w : s.dev.fetches.find? (·.id == f.id) = some f)
      (n : readReady s.dev f.core f.key (clockOf s.dev (dieOf f.core)) = true)
      (h : ((s.dev.ctx? f.ctx).map fun c => inReplica s.mem s.dev c f.va).getD false = b)
      (l : f.key % 64 = 0) : Reads s (.codeFetchReturn f.id) fun t =>
      t.mem = s.mem ∧ t.dev.fetches = s.dev.fetches.filter (·.id != f.id) ∧
        ((∀ c, c = f.key / 32 ∨ c = f.key / 32 + 1 → replicaHit s.dev f.core [c * 32] b = none) →
          ∀ c, c = f.key / 32 ∨ c = f.key / 32 + 1 → badSector s.dev (c * 32) f.dom = false →
            ∃ p ∈ t.dev.pcache, p.core = f.core ∧ p.key = c ∧ p.data = sectorData s.mem s.dev f.core s.dev.nextId c) ∧
        ∀ x, replicaHit s.dev f.core [f.key / 32 * 32] b = some x →
          ∃ p ∈ t.dev.pcache, p.core = f.core ∧ p.key = f.key / 32 ∧ p.version = x.version ∧
            p.data = (replicaSector s.dev x f.core (f.key / 32)).data
  | probe (r g us) (w : s.dev.req? r.id = some r) (q : answerable s.dev r us = true) (h : s.dev.group? r.gid = some g) :
      Reads s (.probeAnswer r.id us) fun t => ∃ g' p,
        p = BitVec.ofNat 32 (r.at_ / 60) + .ofNat 32 (transitOf r) + .ofNat 32 (min us Config.horizon) ∧
        t = { s with dev := (s.dev.setReq { r with promise := some p }).setGroup g' } ∧
        { g' with threads := g.threads } = g ∧ Retimed g g' r.id fun x => if x.st ≠ .pending then x else
          { x with st := .promised, value := p }
  | breach (id gid core unit g us) (w : partyOf s.dev id = some (gid, core, unit)) (h : s.dev.group? gid = some g)
      (n : s.dev.isDet g = false) : Reads s (.breachNotice id us) fun t =>
      let time := s.dev.refNow core + .ofNat 32 (Config.transitBack unit (dieOf core)) + .ofNat 32 us
      t.dev.mon.breaches = s.dev.mon.breaches + 1 ∧
        (∀ r, s.dev.req? id = some r →
          t.dev.req? id = some { r with promise := r.promise.map fun p => newPromise p time }) ∧
        ∃ g', t.dev.group? gid = some g' ∧
        { g' with threads := g.threads, pendLate := g.pendLate, pendBreach := g.pendBreach } = g ∧
        Retimed g g' id fun x =>
          let y := if g.place.isSome then lateTime x (s.dev.refNow core - 1) else x
          if following y = false then y else
          { y with st := .breached, sticky := true
                   value := if y.st ≠ .pending ∧ 2 ^ 31 ≤ (time - y.value).toNat then y.value else time }
  | breachDet (id gid core unit g us) (w : partyOf s.dev id = some (gid, core, unit)) (h : s.dev.group? gid = some g)
      (n : s.dev.isDet g = true) : Reads s (.breachNotice id us) fun t =>
      t.mem = s.mem ∧ t.dev.mon = { s.dev.mon with breaches := s.dev.mon.breaches + 1 } ∧
        { t.dev with mon := s.dev.mon, reqs := s.dev.reqs } = s.dev
  | late (id gid core unit g) (w : partyOf s.dev id = some (gid, core, unit)) (h : s.dev.group? gid = some g)
      (n : s.dev.isDet g = false ∧ g.place.isSome = true) : Reads s (.promiseLate id) fun t =>
      ∃ g', t.dev.group? gid = some g' ∧
        { g' with threads := g.threads, pendLate := g.pendLate, pendBreach := g.pendBreach } = g ∧
        Retimed g g' id fun x => lateTime x (s.dev.refNow core)
  | arrival (r) (w : s.dev.req? r.id = some r) (k : isLoad r.kind = true) (q : r.st = .served) (m : midTurn s.dev r.gid = false) :
      Reads s (.loadValueArrival r.id) fun t => Arrives s t r (match r.kind with
        | .load e => extend e r.value
        | _ => r.value)
  | withdrawal (r c) (w : s.dev.req? r.id = some r) (k : isLoad r.kind = true) (q : r.st = .refused c)
      (m : midTurn s.dev r.gid = false) : Reads s (.promiseWithdrawal r.id c) fun t => Withdrawn s t r c 1
  | walked (x c core l) (w : s.dev.walks.find? (·.id == x.id) = some x) (o : x.cores = [core])
      (h : s.dev.ctx? x.ctx = some c) (q : walkOutcome s.mem s.dev c core x.va = .ok l) (p : s.dev.pendCmds = [])
      (y : walkReady s.mem s.dev x = true) :
      Reads s (.translationWalk x.id) fun t =>
        t.mem = s.mem ∧ t.dev.walks = s.dev.walks.filter (·.id != x.id) ∧
        leafTrans false core c.num x.va l ∈ t.dev.tlb ∧ leafTrans true (clusOf core) c.num x.va l ∈ t.dev.tlb ∧
        ∀ r ∈ t.dev.reqs, r.core = core → r.ctx = x.ctx → r.va.toNat / 4096 = x.va.toNat / 4096 → r.st ≠ .walking
  | walkFails (x c core e) (w : s.dev.walks.find? (·.id == x.id) = some x) (o : x.cores = [core])
      (h : s.dev.ctx? x.ctx = some c) (q : walkOutcome s.mem s.dev c core x.va = .error e)
      (y : walkReady s.mem s.dev x = true) :
      Reads s (.translationWalk x.id) fun t =>
        t.mem = s.mem ∧ t.dev.walks = s.dev.walks.filter (·.id != x.id) ∧ t.dev.tlb = s.dev.tlb ∧
        t.dev.walkFails = s.dev.walkFails ++ [{ core := core, ctx := x.ctx, va := x.va, cause := e }] ∧
        ∀ r ∈ t.dev.reqs, r.core = core → r.ctx = x.ctx → r.va.toNat / 4096 = x.va.toNat / 4096 → r.st ≠ .walking
  | admitted (r slot) (w : s.dev.req? r.id = some r) (k : isLoad r.kind = true) (q : r.st = .sent)
      (n : haltedKey s.dev (r.keys.headD 0) = false ∧ haltedDie s.dev (dieOf r.core) = false)
      (h : replicaHit s.dev r.core r.keys r.region = none) :
      Reads s (.sliceAdmit r.id slot) fun t => t = { s with dev := s.dev.setReq { r with st := .admitted slot } }
  | replica (r slot x) (w : s.dev.req? r.id = some r) (k : isLoad r.kind = true) (q : r.st = .sent)
      (n : haltedKey s.dev (r.keys.headD 0) = false ∧ haltedDie s.dev (dieOf r.core) = false)
      (h : replicaHit s.dev r.core r.keys r.region = some x)
      (e : held s.dev r.core r.keys r.id = false ∧ loadAhead s.dev r.core r.keys r.id = false) :
      Reads s (.sliceAdmit r.id slot) fun t =>
        t.mem = s.mem ∧ ∃ y, t.dev.reqs = (s.dev.setReq y).reqs ∧ y.id = r.id ∧ y.st = .served ∧
        y.value = leNat (r.keys.map fun j => (forwarded s.dev r.core j r.id).getD (replicaByte x j)) ∧
        y.fill = (if r.noFill then [] else (sectorsOf r.keys).map (replicaSector s.dev x r.core)) ∧
        { t.dev with
          reqs := s.dev.reqs, ways := s.dev.ways, replicas := s.dev.replicas, seen := s.dev.seen } = s.dev
  | line (r) (l pre post) (w : s.dev.reqs = pre ++ r :: post) (u : (s.dev.reqs.map (·.id)).Nodup)
      (p : ∀ q ∈ pre, isLoad q.kind = true → q.keys.headD 0 / 128 ≠ l) (o : servable s.dev l r = true)
      (b : ∀ j ∈ r.keys, badSector s.dev j r.dom = false) : Reads s (.lineReadServe l) fun t =>
        t.mem = s.mem ∧ (∃ y, t.dev.req? r.id = some y ∧ y.st = .served ∧ y.dst = r.dst ∧ y.lanes = r.lanes ∧
          y.value = leNat (r.keys.map fun j => (forwarded s.dev r.core j r.id).getD (memGet s.mem j)) ∧
          (∀ x ∈ y.fill, x.core = r.core ∧ x.key ∈ sectorsOf r.keys ∧
            x.data = sectorData s.mem s.dev r.core s.dev.nextId x.key)) ∧
        (∀ q ∈ s.dev.reqs, isLoad q.kind = false ∨ q.keys.headD 0 / 128 ≠ l → t.dev.req? q.id = some q) ∧
        t.dev.groups = s.dev.groups
  | lineBad (r) (l pre post j) (w : s.dev.reqs = pre ++ r :: post) (u : (s.dev.reqs.map (·.id)).Nodup)
      (p : ∀ q ∈ pre, isLoad q.kind = true → q.keys.headD 0 / 128 ≠ l) (o : servable s.dev l r = true)
      (b : j ∈ r.keys ∧ badSector s.dev j r.dom = true) : Reads s (.lineReadServe l) fun t =>
        t.mem = s.mem ∧ t.dev.req? r.id = some { r with st := .refused .uncorrectable } ∧ t.dev.groups = s.dev.groups

end Sys2Proof.Rules

/-- R48, R213, R223, R225, R227, R228, R230, R231, R240, R242, R250, R282, R390, R424: what each step of a load does where its
condition holds: its translation, its admission, the read that fixes its value, its probe, its breach or lateness, its arrival
or withdrawal; and the return of a code fetch. -/
def Obligations.ReadEffects : Prop :=
  ∀ s : State, s.dev.log = [] → ∀ i post, Rules.Reads s i post → ∃ t, exec i s = .next t ∧ post t

namespace Sys2Proof.Rules

/-- A write's byte is discarded by R286: the sector's record is of a concurrent write of a higher core, and covers it. -/
def beaten (d : Device) (w : PWrite) (k : Nat) : Prop :=
  ∃ x, d.wrecs.find? (·.sector == sectorOf k) = some x ∧ w.core < x.core ∧ x.mask.getLsbD (k % 32) = true ∧
    concurrent x.source x.stamp w.source (if homeSource w.key = w.source then clockOf d w.source else stampOf d w) = true

/-- A sector's slot of a ring: the key of byte `j` of the slot that TAIL names (R220). -/
def ringSlot (c : Ctx) (x : Msg) (h j : Nat) : Option Nat :=
  regionKey c (ringCore x.key) (bits h 96 32 + bits h 32 32 % 2 ^ bits h 80 4 * (16 * 2 ^ bits h 64 2) + j) 1 0

/-- An entry of a reduction buffer is on its way to its home, last in its source's order (R280, R316). -/
def Sends (s t : State) (r : Red) : Prop := ∃ y : PWrite,
  t = { s with dev := { s.dev with
    reds := s.dev.reds.filter (·.id != r.id), writes := s.dev.writes ++ [y], nextId := s.dev.nextId + 1 } } ∧
  y.id = r.id ∧ y.atomic = some r.atomic ∧ y.cells.map (·.1) = r.keys ∧ y.record = r.record ∧ y.applied = false ∧
  y.sent = true ∧ y.seq = s.dev.nextId ∧ y.source = dieOf r.core ∧ y.stamp = clockOf s.dev (dieOf r.core)

/-- An entry of a reduction is held at its home, or in a cell of the overflow area (R317, R320). -/
def Moves (s t : State) (r : Red) (home spilled : Bool) (cell : Nat) : Prop :=
  t = { s with dev := { s.dev with
    reds := s.dev.reds.map fun x => if x.id = r.id then { x with atHome := home, spilled := spilled, cell := cell } else x } }

/-- Each step of writes, atomics, reductions, pins and messages at their homes, with its effect, from R211, R220, R245, R251,
R280 to R286, R301, R306, R312, R316, R317 and R320. -/
inductive Homes (s : State) : Instr → (State → Prop) → Prop
  | write (w) (f : s.dev.writes.find? (·.id == w.id) = some w) (r : writeReady s.dev w = true) (a : w.atomic = none)
      (o : ∀ c ∈ w.cells, keyKind c.1 = keyKind w.key) (n : (w.cells.map (·.1)).Nodup) (m : s.mem.wf = true) :
      Homes s (.homeWriteApply w.id) fun t =>
        (∀ c ∈ w.cells, (keyKind w.key = .own ∧ beaten s.dev w c.1 → memGet t.mem c.1 = memGet s.mem c.1) ∧
          (¬(keyKind w.key = .own ∧ beaten s.dev w c.1) → memGet t.mem c.1 = c.2)) ∧
        (∀ k, k ∉ w.cells.map (·.1) → memGet t.mem k = memGet s.mem k) ∧
        t.dev.writes = (if keyKind w.key = .other ∨ keyKind w.key = .host then
          s.dev.writes.map fun x => if x.id = w.id then { x with applied := true } else x
          else s.dev.writes.filter (·.id != w.id))
  | watched (w) (f : s.dev.writes.find? (·.id == w.id) = some w) (r : writeReady s.dev w = true) (a : w.atomic = none)
      (o : ∀ c ∈ w.cells, keyKind c.1 = .own ∧ sectorOf c.1 = sectorOf w.key) (k : keyKind w.key = .own)
      (n : ∀ x, s.dev.wrecs.find? (·.sector == sectorOf w.key) = some x → x.core ≤ w.core) :
      Homes s (.homeWriteApply w.id) fun t => t.dev.entries = s.dev.entries.map fun e => match e.watch with
        | none => e
        | some k => if w.cells.any (fun c => decide (k ≤ c.1) && decide (c.1 < k + 8)) then
            { e with
              left := patched k e.left w.cells, noted := e.noted || patched k e.left w.cells == 0 }
          else e
  | reduction (w a) (f : s.dev.writes.find? (·.id == w.id) = some w) (r : writeReady s.dev w = true) (b : w.atomic = some a)
      (g : ∀ c ∈ w.cells, badSector s.dev c.1 w.dom = false) (n : (w.cells.map (·.1)).Nodup) (m : s.mem.wf = true) :
      Homes s (.homeWriteApply w.id) fun t =>
        let keys := w.cells.map (·.1)
        (∀ k, k ∉ keys → memGet t.mem k = memGet s.mem k) ∧
        leNat (keys.map (memGet t.mem)) = atomNew a (leNat (keys.map (memGet s.mem))) % 2 ^ (8 * keys.length)
  | ack (w) (f : w ∈ s.dev.writes) (r : w.applied = true) : Homes s (.remoteWriteAck w.id) fun t =>
      t = { s with dev := { s.dev with writes := s.dev.writes.filter fun x => !(x.id == w.id && x.applied) } }
  | marker (k) (f : s.dev.markers.find? (fun x => x.source == k.source && x.sink == k.sink) = some k)
      (r : sourceClear s.dev k.source k.sink k.seq = true) (b : k.source < 8 ∧ k.sink < 8) :
      Homes s (.markerProcess k.source k.sink) fun t =>
        t.mem = s.mem ∧ (appliedOf t.dev k.sink).at_ k.source = max ((appliedOf s.dev k.sink).at_ k.source) k.value ∧
        t.dev.markers = s.dev.markers.filter (fun x => !(x.source == k.source && x.sink == k.sink && x.seq == k.seq)) ∧
        { t.dev with applied := s.dev.applied, markers := s.dev.markers } = s.dev
  | atomic (r a) (w : s.dev.req? r.id = some r) (q : r.kind = .atomic a) (o : atomicReady s.dev r = true)
      (g : ∀ k ∈ r.keys, badSector s.dev k r.dom = false) (n : r.keys.Nodup) (m : s.mem.wf = true) :
      Homes s (.atomicHomeStep r.id) fun t =>
        (∃ y, t.dev.req? r.id = some y ∧ y.st = .served ∧ y.value = leNat (r.keys.map (memGet s.mem))) ∧
        (∀ q, q ≠ r.id → (t.dev.req? q).map (fun x => { x with fill := [] }) = (s.dev.req? q).map fun x => { x with fill := [] }) ∧
        (∀ p ∈ t.dev.pcache, p ∈ s.dev.pcache ∧ (p.core = r.core → ∀ k ∈ r.keys, sectorOf k ≠ p.key)) ∧
        (∀ k, k ∉ r.keys → memGet t.mem k = memGet s.mem k) ∧
        leNat (r.keys.map (memGet t.mem)) = atomNew a (leNat (r.keys.map (memGet s.mem))) % 2 ^ (8 * r.keys.length)
  | atomicBad (r a k) (w : s.dev.req? r.id = some r) (q : r.kind = .atomic a) (o : atomicReady s.dev r = true)
      (g : k ∈ r.keys ∧ badSector s.dev k r.dom = true) : Homes s (.atomicHomeStep r.id) fun t =>
      t.mem = s.mem ∧ t.dev.reqs = (s.dev.setReq { r with st := .refused .uncorrectable }).reqs
  | reply (r a) (w : s.dev.req? r.id = some r) (q : r.kind = .atomic a) (o : r.st = .served) (m : midTurn s.dev r.gid = false) :
      Homes s (.atomicReply r.id) fun t => Arrives s t r r.value
  | replyBad (r a c) (w : s.dev.req? r.id = some r) (q : r.kind = .atomic a) (o : r.st = .refused c)
      (m : midTurn s.dev r.gid = false) : Homes s (.atomicReply r.id) fun t => Withdrawn s t r c 3
  | pin (r l) (w : s.dev.req? r.id = some r) (q : r.kind = .pin) (k : r.keys = [l]) (n : haltedKey s.dev l = false)
      (m : midTurn s.dev r.gid = false) : Homes s (.pinOutcome r.id) fun t =>
      let lines := ((s.dev.pins.map (·.2)).filter (sameSet (l / 128))).eraseDups
      ((r.ctx, l / 128) ∈ s.dev.pins → t.dev.pins = s.dev.pins ∧ Arrives s t r 1) ∧
      ((r.ctx, l / 128) ∉ s.dev.pins → 16 ≤ lines.length ∧ l / 128 ∉ lines → t.dev.pins = s.dev.pins ∧ Arrives s t r 2) ∧
      ((r.ctx, l / 128) ∉ s.dev.pins → ¬(16 ≤ lines.length ∧ l / 128 ∉ lines) →
        t.dev.pins = (r.ctx, l / 128) :: s.dev.pins ∧ Arrives s t r 0)
  | pinScratch (r) (w : s.dev.req? r.id = some r) (q : r.kind = .pin) (k : r.keys = []) (m : midTurn s.dev r.gid = false) :
      Homes s (.pinOutcome r.id) fun t => t.dev.pins = s.dev.pins ∧ Arrives s t r 3
  | append (x c h) (w : s.dev.msgs.find? (·.id == x.id) = some x) (q : s.dev.ctx? x.ctx = some c)
      (b : s.dev.msgs.any (msgBefore x) = false) (e : natHome s.mem s.dev (keysFrom x.key 16) = h)
      (o : bits h 66 14 = 0 ∧ bits h 84 12 = 0 ∧ bits h 80 4 ≤ 12 ∧ bits h 64 2 ≠ 3 ∧ x.bytes.length ≤ 16 * 2 ^ bits h 64 2)
      (n : (bits h 32 32 + 2 ^ 32 - bits h 0 32) % 2 ^ 32 < 2 ^ bits h 80 4)
      (apart : ∀ j < 16 * 2 ^ bits h 64 2, ∀ k, ringSlot c x h j = some k → k < x.key + 4 ∨ x.key + 8 ≤ k)
      (m : s.mem.wf = true) : Homes s (.messageAppend x.id) fun t =>
      t.dev.msgs = s.dev.msgs.filter (·.id != x.id) ∧
        leNat ((keysFrom (x.key + 4) 4).map (memGet t.mem)) = (bits h 32 32 + 1) % 2 ^ 32 ∧
        (∀ j < 16 * 2 ^ bits h 64 2, ∀ k, ringSlot c x h j = some k →
          (∀ i < 16 * 2 ^ bits h 64 2, ringSlot c x h i = some k → i = j) → memGet t.mem k = x.bytes.getD j 0) ∧
        ∀ k, (∀ j < 16 * 2 ^ bits h 64 2, ringSlot c x h j ≠ some k) → k < x.key + 4 ∨ x.key + 8 ≤ k →
          memGet t.mem k = memGet s.mem k
  | full (x c h) (w : s.dev.msgs.find? (·.id == x.id) = some x) (q : s.dev.ctx? x.ctx = some c)
      (b : s.dev.msgs.any (msgBefore x) = false) (e : natHome s.mem s.dev (keysFrom x.key 16) = h)
      (o : bits h 66 14 = 0 ∧ bits h 84 12 = 0 ∧ bits h 80 4 ≤ 12 ∧ bits h 64 2 ≠ 3 ∧ x.bytes.length ≤ 16 * 2 ^ bits h 64 2)
      (n : 2 ^ bits h 80 4 ≤ (bits h 32 32 + 2 ^ 32 - bits h 0 32) % 2 ^ 32) : Homes s (.messageAppend x.id) fun t =>
      t = { s with dev := { s.dev with msgs := s.dev.msgs.map fun y => if y.id = x.id then { y with waits := true } else y } }
  | leave (r) (w : (buffered s.dev r.core).find? (fun x => x.keys.headD 0 == r.keys.headD 0) = some r)
      (n : s.dev.reds.any (fun x => x.core == r.core && undrained x) = false) (o : r.order = none) :
      Homes s (.reductionEntryLeave r.core (r.keys.headD 0)) fun t => Sends s t r
  | leaveOrdered (r) (w : (buffered s.dev r.core).find? (fun x => x.keys.headD 0 == r.keys.headD 0) = some r)
      (n : s.dev.reds.any (fun x => x.core == r.core && undrained x) = false) (o : r.order.isSome = true)
      (x : r.spilled = false) : Homes s (.reductionEntryLeave r.core (r.keys.headD 0)) fun t =>
      (sliceHolds s.dev (r.keys.headD 0) < Config.sliceStore → Moves s t r true false 0) ∧
        (Config.sliceStore ≤ sliceHolds s.dev (r.keys.headD 0) → ∀ c ks, s.dev.ctx? r.ctx = some c → areaRoom s.dev c.num ≠ 0 →
          deviceSites s.mem s.dev c (cellVa c (freeCell s.dev c.num)) .w 2 = .ok ks →
          Moves s t r true true (freeCell s.dev c.num))
  | leaveSpilled (r c ks) (w : (buffered s.dev r.core).find? (fun x => x.keys.headD 0 == r.keys.headD 0) = some r)
      (n : s.dev.reds.any (fun x => x.core == r.core && undrained x) = true) (q : s.dev.ctx? r.ctx = some c)
      (a : areaRoom s.dev c.num ≠ 0) (e : deviceSites s.mem s.dev c (cellVa c (freeCell s.dev c.num)) .w 2 = .ok ks)
      (h : halfBad s.dev ks = false) : Homes s (.reductionEntryLeave r.core (r.keys.headD 0)) fun t =>
        (∀ x ∈ s.dev.reds, x.ctx = c.num → x.spilled = true → x.cell ≠ freeCell s.dev c.num) ∧
          t = { s with dev := { s.dev with
            reds := s.dev.reds.map fun x => if x.id = r.id then { x with spilled := true, cell := freeCell s.dev c.num } else x } }
  | drain (r n die c ks) (w : (s.dev.reds.find? fun x => x.ctx == n && undrained x && dieOf x.core == die) = some r)
      (q : s.dev.ctx? n = some c) (e : deviceSites s.mem s.dev c (cellVa c r.cell) .r 2 = .ok ks) (o : r.order = none) :
      Homes s (.overflowDrain n die) fun t => Sends s t r
  | drainOrdered (r n die c ks) (w : (s.dev.reds.find? fun x => x.ctx == n && undrained x && dieOf x.core == die) = some r)
      (q : s.dev.ctx? n = some c) (e : deviceSites s.mem s.dev c (cellVa c r.cell) .r 2 = .ok ks) (o : r.order.isSome = true) :
      Homes s (.overflowDrain n die) fun t => (sliceHolds s.dev (r.keys.headD 0) < Config.sliceStore → Moves s t r true false 0) ∧
        (Config.sliceStore ≤ sliceHolds s.dev (r.keys.headD 0) →
          ∀ ws, deviceSites s.mem s.dev c (cellVa c r.cell) .w 2 = .ok ws → Moves s t r true true r.cell)

end Sys2Proof.Rules

/-- R211, R220, R245, R251, R280, R281, R286, R301, R306, R312, R316, R317, R320: what each step at a home does where its
condition holds: a write or a reduction takes effect on the bytes that it names, unless R286 discards them, and on no other; an
atomic answers the old value; a marker raises the applied count; a message fills the slot that TAIL names; an entry of a
reduction buffer leaves it. -/
def Obligations.HomeEffects : Prop :=
  ∀ s : State, s.dev.log = [] → ∀ i post, Rules.Homes s i post → ∃ t, exec i s = .next t ∧ post t

namespace Sys2Proof.Rules

/-- No trace unit runs. -/
def Untraced (s : State) : Prop := ∀ n < 4, (s.dev.die n).trace.on = false

/-- A group as it starts an entry (R58): the entry is its task, it is BUSY and waits for nothing, every thread runs at CODE, the
registers that QTAKE named hold the entry, and every other register stays. -/
def Starts (g g' : Group) (base : DWord) (k : Task) (r : SReg) : Prop :=
  g'.task = some k ∧ g'.cond = .busy ∧ g'.hold = .none ∧ g'.loops = [] ∧ g'.fmask = 0 ∧ g'.tcause = 0 ∧ g'.flags = 0 ∧
    g'.restart = none ∧ g'.turn = none ∧ g'.mode = g.mode ∧ g'.rc = g.rc ∧ g'.place = g.place ∧ g'.dispatch = g.dispatch ∧
    (∀ u < 32, thread g' u = { thread g u with st := .run, pc := base + (k.words.getD 0 0).zeroExtend 64 }) ∧
    (r.toNat + k.words.length ≤ 64 → ∀ j, g'.s.toArray.getD j 0 =
      if r.toNat ≤ j ∧ j < r.toNat + k.words.length then k.words.getD (j - r.toNat) 0 else g.s.toArray.getD j 0)

/-- Each step of tasks and queues with its effect, from R58, R62 to R65, R67 to R75, R335, R338, R339 and R409 to R416. -/
inductive Tasks (s : State) : Instr → (State → Prop) → Prop
  | status (r q xs x) (w : s.dev.req? r.id = some r) (k : r.kind = .qpost q xs (some x)) (m : midTurn s.dev r.gid = false) :
      Tasks s (.qpostStatus r.id) fun t => Arrives s t r x.toNat
  | posted (r q xs x d) (w : s.dev.req? r.id = some r) (k : r.kind = .qpost q xs none) (m : midTurn s.dev r.gid = false)
      (o : postsBefore s.dev r = false) (e : postImages s.mem r.ctx q xs s.dev = (x, d)) :
      Tasks s (.qpostStatus r.id) fun t => Arrives s t r x.toNat ∧ (Untraced s → t.dev.entries = d.entries)
  | home (r) (w : s.dev.req? r.id = some r) (k : r.kind = .fget) (h : r.st = .sent)
      (o : r.dropped = false ∧ fgetFirst s.dev r = true) (m : midTurn s.dev r.gid = false)
      (q : rmwReady s.dev r.core (r.keys.headD 0) r.id r.clock = true)
      (b : (∀ k ∈ r.keys, badSector s.dev k r.dom = false) ∧ lostKey s.dev (r.keys.headD 0) = false)
      (f : (futureOf s.dev (r.keys.headD 0)).full = true) : Tasks s (.fgetAnswer r.id) fun t =>
      t.mem = s.mem ∧ t.dev.groups = s.dev.groups ∧ ∃ y, t.dev.reqs = (s.dev.setReq y).reqs ∧ y.id = r.id ∧ y.st = .served ∧
        y.dst = r.dst ∧ y.value = leNat (r.keys.map (memGet s.mem)) ∧
        y.clock = (clockOf s.dev (homeSource (r.keys.headD 0))).join r.clock
  | homeBad (r) (w : s.dev.req? r.id = some r) (k : r.kind = .fget) (h : r.st = .sent)
      (o : r.dropped = false ∧ fgetFirst s.dev r = true) (m : midTurn s.dev r.gid = false)
      (q : rmwReady s.dev r.core (r.keys.headD 0) r.id r.clock = true)
      (b : (∃ k ∈ r.keys, badSector s.dev k r.dom = true) ∨ lostKey s.dev (r.keys.headD 0) = true) :
      Tasks s (.fgetAnswer r.id) fun t => t = { s with dev := s.dev.setReq { r with st := .refused .uncorrectable } }
  | value (r g) (w : s.dev.req? r.id = some r) (k : r.kind = .fget) (h : s.dev.group? r.gid = some g) (p : r.st = .served)
      (o : r.dropped = false ∧ fgetFirst s.dev r = true) (m : midTurn s.dev r.gid = false)
      (a : acquireReady (mergeClock s.dev (dieOf r.core) r.clock) g r.slot .pkg = true) :
      Tasks s (.fgetAnswer r.id) fun t => Arrives s t r r.value ∧ (∀ x ∈ t.dev.pcache, x.core ≠ r.core) ∧
        ∀ x ∈ t.dev.replicas, x.die ≠ dieOf r.core
  | withdrawn (r c) (w : s.dev.req? r.id = some r) (k : r.kind = .fget) (p : r.st = .refused c)
      (o : r.dropped = false ∧ fgetFirst s.dev r = true) (m : midTurn s.dev r.gid = false)
      (l : lostKey s.dev (r.keys.headD 0) = false) : Tasks s (.fgetAnswer r.id) fun t => Withdrawn s t r c 3
  | dropped (r) (w : s.dev.req? r.id = some r) (k : r.kind = .fget) (o : r.dropped = true) : Tasks s (.fgetAnswer r.id) fun t =>
      t = { s with dev := { s.dev with reqs := s.dev.reqs.filter (·.id != r.id) } }
  | empty (r g c k) (w : s.dev.req? r.id = some r) (x : r.kind = .fget) (h : s.dev.group? r.gid = some g) (v : r.st = .sent)
      (o : r.dropped = false ∧ fgetFirst s.dev r = true) (m : midTurn s.dev r.gid = false)
      (q : rmwReady s.dev r.core (r.keys.headD 0) r.id r.clock = true)
      (b : (∀ k ∈ r.keys, badSector s.dev k r.dom = false) ∧ lostKey s.dev (r.keys.headD 0) = false)
      (f : (futureOf s.dev (r.keys.headD 0)).full = false) (y : s.dev.ctx? r.ctx = some c) (z : g.task = some k)
      (p : Apart s r.gid) : Tasks s (.fgetAnswer r.id) fun t =>
      (∃ e ∈ t.dev.entries, e.id = k.entry ∧ e.parked = some (r.keys.headD 0) ∧ e.runnable = false ∧
        e.parkCount = (if entDep k.words then 0 else 1) ∧
        e.words = k.words.set 7 (parkLink s.dev (futureOf s.dev (r.keys.headD 0)))) ∧
        (futureOf t.dev (r.keys.headD 0)).parked = k.entry :: (futureOf s.dev (r.keys.headD 0)).parked ∧
        (∀ u ∈ t.dev.ends, u ∈ s.dev.ends) ∧
        ∃ g', t.dev.group? r.gid = some g' ∧ g'.task = none ∧ g'.turn = none ∧ g'.next = none ∧
          ∀ u < 32, (thread g' u).st = .run ∧ (thread g' u).pc = g.dispatch
  | held (n q c e) (w : s.dev.ctx? n = some c)
      (f : s.dev.entries.find? (fun e => e.ctx == n && e.queue == q && e.held) = some e) (r : queueFull s.dev c q = false)
      (d : entDep e.words = false) : Tasks s (.heldEntryEnqueue n q) fun t =>
      t = { s with dev := { s.dev with
        nextId := s.dev.nextId + 1
        entries := s.dev.entries.filter (·.id != e.id) ++ [{ e with
          ageMs := 0, since := s.dev.nextId, parked := none, held := false, pulled := none, watch := none, noted := false
          runnable := true, agedAt := s.dev.elapsed }] } }
  | ended (u c k r) (f : s.dev.ends.find? (·.id == u.id) = some u) (q : endClear s.dev u = true)
      (p : recordReady s.mem s.dev u = true) (w : s.dev.ctx? u.ctx = some c) (e : recordKey s.mem s.dev c u.record = .ok k)
      (m : s.mem.wf = true) (n : readRecord s.mem s.dev k.1 = r) (o : 2 ≤ r.out) : Tasks s (.taskEndUpdate u.id) fun t =>
      readRecord t.mem t.dev k.1 = { r with out := r.out - 1, failed := r.failed || u.failed } ∧
        (∀ a, a < k.1 ∨ k.1 + 16 ≤ a → memGet t.mem a = memGet s.mem a) ∧
        t.dev.ends = s.dev.ends.filter (·.id != u.id)
  | accepted (n k q image c d) (w : s.dev.ctx? n = some c) (y : rejectWhy s.mem s.dev c q false (entWords image) = 0)
      (e : enqueueRow s.mem c (recordOf (entWords image)) s.dev (chainBound s.mem s.dev) = .ok d)
      (o : entDep (entWords image) = false) : Tasks s (.hostEnqueue n k q image) fun t =>
        t.dev.outbox = d.outbox ++ [.enqueued k 0xFF01] ∧ ∃ x, x.ctx = n ∧ x.queue = q ∧ x.words = entWords image ∧
          x.runnable = true ∧ x.ageMs = 0 ∧ x.agedAt = s.dev.elapsed ∧ x.parked = none ∧ x.held = false ∧ x.pulled = none ∧
          t.dev.entries = d.entries.filter (·.id != x.id) ++ [x]
  | acceptedDep (n k q image c d a) (w : s.dev.ctx? n = some c) (y : rejectWhy s.mem s.dev c q false (entWords image) = 0)
      (e : enqueueRow s.mem c (recordOf (entWords image)) s.dev (chainBound s.mem s.dev) = .ok d)
      (o : entDep (entWords image) = true) (p : counterKey s.mem d c (entWords image) = .ok a) :
      Tasks s (.hostEnqueue n k q image) fun t =>
        t.dev.outbox = d.outbox ++ [.enqueued k 0xFF01] ∧ ∃ x, x.ctx = n ∧ x.queue = q ∧ x.words = entWords image ∧
          x.runnable = (natHome s.mem d (keysFrom a.1 8) == 0) ∧ (x.runnable = false → x.watch = some a.1) ∧
          x.parked = none ∧ x.held = false ∧ x.pulled = none ∧ t.dev.entries = d.entries.filter (·.id != x.id) ++ [x]
  | rejected (n k q image c y) (w : s.dev.ctx? n = some c) (r : rejectWhy s.mem s.dev c q false (entWords image) = y)
      (p : y ≠ 0) : Tasks s (.hostEnqueue n k q image) fun t =>
      t = { s with dev := sent s.dev (.enqueued k (.ofNat 32 (y * 2 ^ 16))) }
  | notice (e k) (w : s.dev.entry? e.id = some e) (r : e.watch = some k) (n : e.noted = true) (l : lostKey s.dev k = false) :
      Tasks s (.depCounterNotice e.id) fun t =>
        t = { s with dev := { s.dev.setEntry { e with
          runnable := true, ageMs := 0, agedAt := s.dev.elapsed, since := s.dev.nextId, watch := none, noted := false } with
          nextId := s.dev.nextId + 1 } }
  | aging (e) (w : s.dev.entry? e.id = some e) (r : e.runnable = true) (q : e.agedAt + 60 * 2100000 ≤ s.dev.elapsed) :
      Tasks s (.agingTick e.id) fun t =>
      t = { s with dev := s.dev.setEntry { e with ageMs := e.ageMs + 1, agedAt := e.agedAt + 60 * 2100000 } }
  | young (e) (w : s.dev.entry? e.id = some e) (r : e.runnable = false ∨ s.dev.elapsed < e.agedAt + 60 * 2100000) :
      Tasks s (.agingTick e.id) fun t => t = s
  | pull (n c e g) (w : ((s.dev.ctxs.filter fun c => requests s.dev c n).findSome? fun c =>
        (pullOf s.mem s.dev c n).map fun e => (c, e)) = some (c, e)) (o : neverTaken s.mem s.dev c e.words = none)
      (q : entGang e.words = false) (p : targetOf s.mem s.dev c n e.words = some g) : Tasks s (.entryPull n) fun t =>
      t = { s with dev := s.dev.setEntry { e with pulled := some g.gid } }
  | grant (n c e r) (w : ((s.dev.ctxs.filter fun c => requests s.dev c n).findSome? fun c =>
        (pullOf s.mem s.dev c n).map fun e => (c, e)) = some (c, e)) (o : neverTaken s.mem s.dev c e.words = none)
      (q : entGang e.words = true) (p : bestPosition s.dev c.num (freePositions c (some n) e.words) = some r) :
      Tasks s (.entryPull n) fun t =>
        t = { s with dev := { s.dev.setCtx { c with gangs := c.gangs ++ [{
          id := e.id, words := e.words, queue := e.queue, rect := r, toStart := rectCores r, running := r.w * r.h }] } with
            entries := s.dev.entries.filter (·.id != e.id) } }
  | start (e c g r) (w : s.dev.entry? e.id = some e) (p : e.pulled = some g.gid) (q : s.dev.ctx? e.ctx = some c)
      (d : c.det = false) (h : s.dev.group? g.gid = some g) (i : idleGroup c.num g = true ∧ g.hold = .qtake r)
      (f : reserved c g.core = false ∧ canTake s.mem s.dev c g e.words = true) (a : startReady s.dev g = true)
      (n : entShd e.words = false) : Tasks s (.taskStart e.id) fun t =>
      (∀ x ∈ t.dev.entries, x.id ≠ e.id) ∧ (Untraced s → t.dev.entries = s.dev.entries.filter (·.id != e.id)) ∧
        (∀ x ∈ t.dev.pcache, x.core ≠ g.core) ∧ ∃ g', t.dev.group? g.gid = some g' ∧
        Starts g g' c.codeBase { entry := e.id, words := e.words, queue := e.queue, rect := quadRect g.core } r
  | startBoth (e c g r z b k rest o) (w : s.dev.entry? e.id = some e) (p : e.pulled = some g.gid) (q : s.dev.ctx? e.ctx = some c)
      (d : c.det = false) (h : s.dev.group? g.gid = some g) (i : idleGroup c.num g = true ∧ g.hold = .qtake r)
      (f : reserved c g.core = false ∧ canTake s.mem s.dev c g e.words = true) (a : startReady s.dev g = true)
      (n : entShd e.words = true) (l : g.place = some (z, b)) (m : freeSlots s.dev g.core z = k :: rest)
      (y : let d := acquireAct g.core .pkg { s.dev with entries := s.dev.entries.filter (·.id != e.id) }
        freeBlock (runsOf (residents s.dev g.core z)) ((shadowAlloc s.mem d c g.core (entCode e.words)).1 +
          (shadowAlloc s.mem d c g.core (entCode e.words)).2) = some o) (new : ∀ x ∈ s.dev.groups, x.gid < s.dev.nextId) :
      Tasks s (.taskStart e.id) fun t =>
        ∃ g' x, t.dev.group? g.gid = some g' ∧
          Starts g g' c.codeBase { entry := e.id, words := e.words, queue := e.queue, rect := quadRect g.core } r ∧
          x ∈ t.dev.groups ∧ x.partner = some g.gid ∧ x.place = some (z, k) ∧ x.base = o ∧ x.task = g'.task ∧ x.ctx = c.num ∧
          x.core = g.core ∧ x.cond = .busy
  | member (id c k core g r) (w : s.dev.entry? id = none) (o : gangOf s.dev id = some (c, k)) (d : c.det = false)
      (p : (k.toStart.findSome? fun core => (memberGroup s.mem c k s.dev core).map fun g => (core, g)) = some (core, g))
      (h : s.dev.group? g.gid = some g) (i : g.hold = .qtake r) (n : entShd k.words = false) (x : s.dev.ctx? c.num = some c) :
      Tasks s (.taskStart id) fun t =>
        (∃ c', t.dev.ctx? c.num = some c' ∧ c'.gangs = c.gangs.map fun x =>
          if x.id = k.id then { x with toStart := x.toStart.filter (· != core) } else x) ∧
        ∃ g', t.dev.group? g.gid = some g' ∧ Starts g g' c.codeBase
          { entry := k.id, words := k.words, queue := k.queue, gang := some k.id, rect := k.rect } r

end Sys2Proof.Rules

/-- R58, R62, R65, R69, R71, R74, R75, R335, R338, R339, R409 to R412, R415, R416: what each step of tasks and queues does where
its condition holds: the answers to QPOST and FGET, the entry of a held or a host's entry, the end of a task in its record, the
dependence notice, aging, the pull of an entry or the grant of a gang, and the start of a task, of its shadow, or of a gang's
member. -/
def Obligations.TaskEffects : Prop :=
  ∀ s : State, s.dev.log = [] → ∀ i post, Rules.Tasks s i post → ∃ t, exec i s = .next t ∧ post t

namespace Sys2Proof.Rules

/-- The time registers of a group that follow a command have come to an end of it, and no register else has changed. -/
def Ended (s t : State) (gid id : Nat) (st : TState) : Prop :=
  ∀ g, s.dev.group? gid = some g → ∃ g', t.dev.group? gid = some g' ∧ g'.s = g.s ∧
    ∀ u < 32, (thread g' u).v = (thread g u).v ∧ ∀ k,
      ((timeOf (thread g u) k).req = id → id ≠ 0 → following (timeOf (thread g u) k) = true → (timeOf (thread g' u) k).st = st) ∧
      ((timeOf (thread g u) k).req ≠ id → timeOf (thread g' u) k = timeOf (thread g u) k)

/-- The bytes that a copy moves. -/
def copyMoves (y : Ctx) (c : Cmd) : List Move :=
  match c.kind with
  | .cpy => cpyMoves y c
  | .cpyx => cpyxMoves y c
  | .coll | .mcrd => []

/-- Each step of the engines and the decks with its effect, from R248 to R250, R259 to R269, R345 and R355 to R362. -/
inductive Engines (s : State) : Instr → (State → Prop) → Prop
  | quote (c x g ps ks time) (w : s.dev.cmd? c.id = some c) (q : s.dev.ctx? c.ctx = some x) (a : c.st = .queued)
      (m : midTurn s.dev c.gid = false) (o : checkCmd s.mem s.dev x c = .ok (ps, ks))
      (f : c.kind = .coll → c.formed = true ∧ collTwice s.dev x c = false) (k : ks.any (memberWaits x c) = false)
      (h : quoteHeld s.dev c ps = false) (r : s.dev.group? c.gid = some g) : Engines s (.engineQuote c.id time) fun t =>
      ∃ g', t = { s with dev := (s.dev.setCmd { c with
          st := .quoted, pages := ps, receivers := if c.kind = .mcrd then ks else [] }).setGroup g' } ∧
        { g' with threads := g.threads } = g ∧ Retimed g g' c.id fun x => if x.st ≠ .pending then x else
          { x with st := .promised
                   value := if (time - x.value).toNat ≤ Config.horizon then time else x.value + .ofNat 32 Config.horizon }
  | fails (c x g e va time) (w : s.dev.cmd? c.id = some c) (q : s.dev.ctx? c.ctx = some x) (a : c.st = .queued)
      (m : midTurn s.dev c.gid = false) (o : checkCmd s.mem s.dev x c = .error (e, va)) (h : windowWaits s.dev c = false)
      (r : s.dev.group? c.gid = some g) (k : c.kind ≠ .coll) : Engines s (.engineQuote c.id time) fun t =>
      (∀ y ∈ t.dev.cmds, y.id ≠ c.id) ∧ Ended s t c.gid c.id .withdrawn ∧ ∃ g', t.dev.group? c.gid = some g' ∧
        g'.pendFaults = g.pendFaults ++ (if c.dropped then [] else
          [{ slot := c.lead, cause := e, acc := accOf e 5, addr := va, req := c.id }])
  | twice (c x g ps ks time) (w : s.dev.cmd? c.id = some c) (q : s.dev.ctx? c.ctx = some x) (a : c.st = .queued)
      (m : midTurn s.dev c.gid = false) (o : checkCmd s.mem s.dev x c = .ok (ps, ks)) (k : c.kind = .coll)
      (f : collTwice s.dev x c = true) (r : s.dev.group? c.gid = some g) : Engines s (.engineQuote c.id time) fun t =>
      (∀ y ∈ t.dev.cmds, y.id ≠ c.id) ∧ Ended s t c.gid c.id .withdrawn ∧ ∃ g', t.dev.group? c.gid = some g' ∧
        g'.pendFaults = g.pendFaults ++ (if c.dropped then [] else
          [{ slot := c.lead, cause := .illegalOperand, acc := 0, addr := 0, req := c.id }])
  | start (c) (w : s.dev.cmd? c.id = some c) (a : c.st = .quoted) (b : behind s.dev c = false)
      (q : ∀ sc, cmdAcq c = some sc → drains s.dev c = false ∧ (3 ≤ sc → caughtUp s.dev (cmdSource c)
        ((clockOf s.dev (cmdSource c)).join (clockOf s.dev (dieOf c.core))) [cmdSource c] = true))
      (h : engineHalted s.dev c = false) : Engines s (.engineStart c.id) fun t =>
      t.mem = s.mem ∧ t.dev.cmds = (s.dev.setCmd { c with st := .started }).cmds ∧ t.dev.groups = s.dev.groups ∧
        (cmdAcq c = none → t = { s with dev := s.dev.setCmd { c with st := .started } }) ∧
        ∀ sc, cmdAcq c = some sc →
          (3 ≤ sc → clockOf t.dev (cmdSource c) = (clockOf s.dev (cmdSource c)).join (clockOf s.dev (dieOf c.core))) ∧
          (4 ≤ sc → ∀ x ∈ t.dev.replicas, x.die ≠ dieOf c.core)
  | copied (c y) (w : s.dev.cmd? c.id = some c) (q : s.dev.ctx? c.ctx = some y) (a : c.st = .started)
      (m : midTurn s.dev c.gid = false) (h : engineHalted s.dev c = false) (k : isCopy c.kind = true)
      (r : homesReady s.dev c (copyMoves y c) = true) (b : (copyMoves y c).any (badMove s.dev) = false) :
      Engines s (.engineComplete c.id) fun t =>
        (∀ z ∈ t.dev.cmds, z.id ≠ c.id) ∧ Ended s t c.gid c.id .arrived ∧
        (Untraced s → s.mem.wf = true → bobjOf c = none →
          (∀ k, (∀ v ∈ copyMoves y c, v.dst ≠ some k) → memGet t.mem k = memGet s.mem k) ∧
          (c.hist = [] → s.dev.wrecs = [] → keysMeet ((copyMoves y c).filterMap (·.src)) ((copyMoves y c).filterMap (·.dst)) = false →
            ((copyMoves y c).filterMap (·.dst)).Nodup → ∀ v ∈ copyMoves y c, ∀ k, v.dst = some k → lostKey s.dev k = false →
              memGet t.mem k = match v.src with
                | some j => (memGet s.mem j &&& v.keep) ||| v.add
                | none => v.add))
  | collected (c y) (w : s.dev.cmd? c.id = some c) (q : s.dev.ctx? c.ctx = some y) (a : c.st = .started)
      (m : midTurn s.dev c.gid = false) (k : c.kind = .coll)
      (r : homesReady s.dev c (collReads y s.dev c ++
        collWrites s.mem y { s.dev with steps := s.dev.steps + 1 } c s.dev.steps) = true)
      (b : (collReads y s.dev c).find? (badMove s.dev) = none) : Engines s (.engineComplete c.id) fun t =>
      (∀ z ∈ t.dev.cmds, z.id ≠ c.id) ∧ Ended s t c.gid c.id .arrived
  | received (c y) (w : s.dev.cmd? c.id = some c) (q : s.dev.ctx? c.ctx = some y) (a : c.st = .started)
      (m : midTurn s.dev c.gid = false) (k : c.kind = .mcrd) (o : ∀ r ∈ c.receivers, linesTo c r = mcrdLines c) :
      Engines s (.engineComplete c.id) fun t => (∀ z ∈ t.dev.cmds, z.id ≠ c.id) ∧ Ended s t c.gid c.id .arrived
  | delivery (c y r) (w : s.dev.cmd? c.id = some c) (q : s.dev.ctx? c.ctx = some y) (a : c.st = .started)
      (m : midTurn s.dev c.gid = false) (k : c.kind = .mcrd) (o : r ∈ c.receivers ∧ linesTo c r < mcrdLines c ∧ linesTo c r ≤ c.lines.length)
      (h : homesReady s.dev c (lineReads y c (linesTo c r)) = true) (b : (lineReads y c (linesTo c r)).any (badMove s.dev) = false)
      (f : s.mem.wf = true) (e : bobjOf c = none) : Engines s (.mcrdReceiverDelivery c.id r) fun t =>
      let x := mcrdOf (entWords c.block)
      let key := fun j => regionKey y r ((x.dst + 128 * linesTo c r + j) % 2 ^ 32) 1 x.rot
      let line := (c.lines[linesTo c r]?).getD
        ((lineReads y c (linesTo c r)).map fun v => (v.src.map (memGet s.mem)).getD 0)
      (∃ z, t.dev.cmd? c.id = some z ∧ linesTo z r = linesTo c r + 1 ∧ z.lines[linesTo c r]? = some line ∧
        ∀ v, v ≠ r → linesTo z v = linesTo c v) ∧
      (∀ j < 128, ∀ k, key j = some k → (∀ i < 128, key i = some k → i = j) → j < line.length →
        memGet t.mem k = line.getD j 0) ∧
      ∀ k, (∀ j < 128, key j ≠ some k) → memGet t.mem k = memGet s.mem k
  | form (c agrees) (w : s.dev.cmd? c.id = some c) (k : c.kind = .coll ∧ c.st = .queued ∧ c.formed = false)
      (m : midTurn s.dev c.gid = false) (z : s.dev.standalone = false ∨ (members (collOf c).mask).length ≤ 1)
      (a : agrees = true ∨ (members (collOf c).mask).length ≤ 1) :
      Engines s (.collInstanceForm c.id agrees) fun t => t = { s with dev := s.dev.setCmd { c with formed := true } }
  | differs (c g) (w : s.dev.cmd? c.id = some c) (k : c.kind = .coll ∧ c.st = .queued ∧ c.formed = false)
      (m : midTurn s.dev c.gid = false) (z : s.dev.standalone = false) (a : 1 < (members (collOf c).mask).length)
      (r : s.dev.group? c.gid = some g) : Engines s (.collInstanceForm c.id false) fun t =>
      (∀ y ∈ t.dev.cmds, y.id ≠ c.id) ∧ Ended s t c.gid c.id .withdrawn ∧ ∃ g', t.dev.group? c.gid = some g' ∧
        g'.pendFaults = g.pendFaults ++ (if c.dropped then [] else
          [{ slot := c.lead, cause := .illegalOperand, acc := 0, addr := 0, req := c.id }])
  | deckStart (quad o rest) (w : deckQueue s.dev quad = o :: rest) (a : o.started = none) : Engines s (.deckOpStart quad) fun t =>
      t = { s with dev := { s.dev with deckOps := s.dev.deckOps.map fun x =>
        if x.id = o.id then { x with started := some (s.dev.die (quadDie quad)).tick } else x } }
  | deckRun (quad o rest) (w : deckQueue s.dev quad = o :: rest) (a : deckDone s.dev o = true)
      (k : o.kind ≠ .rdRow ∧ o.kind ≠ .rdCol) : Engines s (.deckOpComplete quad) fun t =>
      t.mem = s.mem ∧ t.dev.deckOps = s.dev.deckOps.filter (·.id != o.id) ∧
        { t.dev with deckOps := s.dev.deckOps, tiles := s.dev.tiles } = s.dev ∧
        (∀ x ∈ s.dev.tiles, x.quad ≠ o.quad ∨ x.owner ≠ o.gid → x ∈ t.dev.tiles) ∧
        (o.kind = .mmaRa ∨ o.kind = .mmaRb → ∀ x ∈ s.dev.tiles, tileIs o.quad o.gid o.z o.f64 x = true → ∃ y ∈ t.dev.tiles,
          { y with elems := x.elems } = x ∧ ∀ e < 16384,
            (if o.kind = .mmaRa then e / 128 / 32 else e % 128 / 32) ≠ (ctlOf o.ctl).slab →
            tileElem y.elems e = tileElem x.elems e) ∧
        (o.kind = .dzero → ∀ x ∈ t.dev.tiles, tileIs o.quad o.gid o.z o.f64 x = true → x.elems = []) ∧
        (o.kind = .wrRow → ∀ x ∈ s.dev.tiles, tileIs o.quad o.gid o.z o.f64 x = true → ∃ y ∈ t.dev.tiles,
          { y with elems := x.elems } = x ∧ ∀ e < 16384, tileElem y.elems e =
            if e / 128 ≠ o.index then tileElem x.elems e
            else if o.f64 then pair (o.regs.getD (2 * (e % 128)) 0) (o.regs.getD (2 * (e % 128) + 1) 0)
            else (o.regs.getD (e % 128) 0).zeroExtend 64)
  | deckRead (quad o rest x) (w : deckQueue s.dev quad = o :: rest) (a : deckDone s.dev o = true)
      (k : o.kind = .rdRow ∨ o.kind = .rdCol) (f : s.dev.tiles.find? (tileIs o.quad o.gid o.z o.f64) = some x) :
      Engines s (.deckOpComplete quad) fun t => ∃ ws : List Word,
        t = { s with dev := { s.dev with deckOps := s.dev.deckOps.map fun y =>
          if y.id = o.id then { y with regs := ws, readDone := true } else y } } ∧
        ∀ p < 128, let v := tileElem x.elems (if o.kind = .rdCol then p * 128 + o.index else o.index * 128 + p)
          if o.f64 then ws.getD (2 * p) 0 = lowWord v ∧ ws.getD (2 * p + 1) 0 = highWord v else ws.getD p 0 = lowWord v
  | deckReady (quad o g) (w : (s.dev.deckOps.find? fun o => o.quad == quad && o.readDone) = some o)
      (m : midTurn s.dev o.gid = false) (h : s.dev.group? o.gid = some g) (f : o.dst.toNat + rowRegs o.f64 ≤ 64) :
      Engines s (.deckReadReady quad) fun t =>
        t.mem = s.mem ∧ t.dev.deckOps = s.dev.deckOps.filter (·.id != o.id) ∧ ∃ g', t.dev.group? o.gid = some g' ∧
        { g' with threads := g.threads, sb := g.sb, poison := g.poison } = g ∧ ∀ u < 32,
          { thread g' u with v := (thread g u).v, dead := (thread g u).dead } = thread g u ∧
          ∀ k < 64, (thread g' u).v.toArray.getD k 0 =
            if o.dst.toNat ≤ k ∧ k < o.dst.toNat + rowRegs o.f64 then
              ((o.regs.drop (u * rowRegs o.f64)).take (rowRegs o.f64)).getD (k - o.dst.toNat)
                ((thread g u).v.toArray.getD k 0)
            else (thread g u).v.toArray.getD k 0
  | dzeroWait (g o at_) (h : s.dev.group? g.gid = some g) (w : waitingDzero s.mem s.dev g = some o) (b : g.dzeroAt = some at_) :
      Engines s (.dzeroWaitTimeout g.gid) fun t =>
        t.mem = s.mem ∧ t = { s with dev := { s.dev with groups := t.dev.groups } } ∧
        t.dev.groups.length = s.dev.groups.length ∧ ∀ x ∈ s.dev.groups,
          let owns := x.gid ≠ g.gid ∧ (tileOwner s.dev (quadOf g.core) o.z = some x.gid ∨
            (o.k1 = true ∧ tileOwner s.dev (quadOf g.core) (o.z ||| 1) = some x.gid))
          let long := x.place.isSome = true ∧ max at_ x.residentAt + 100 * 2100 * 60 ≤ s.dev.tickOf g.core
          (owns ∧ long → { x with wanted := true } ∈ t.dev.groups) ∧ (¬(owns ∧ long) → x ∈ t.dev.groups)

end Sys2Proof.Rules

/-- R249, R250, R259, R261, R262, R268, R269, R344, R345, R357, R358, R362: what each step of an engine or a deck does where its
condition holds: the check and quote of a command, its start, the data that a copy moves and its end, the line that MCRD
delivers; the start of a deck operation, its effect on its tile, the registers of a read, and the deschedules that a waiting
DZERO asks for. -/
def Obligations.EngineEffects : Prop :=
  ∀ s : State, s.dev.log = [] → ∀ i post, Rules.Engines s i post → ∃ t, exec i s = .next t ∧ post t

namespace Sys2Proof.Rules

/-- The turn opportunity that comes next in a span whose slots come in order (R77, R419). -/
structure Next (s : State) (p : Place) : Prop where
  free : s.dev.focus = none
  runs : coreRuns s.dev p.core.toNat = true
  slot : (s.dev.spanOf p.core.toNat p.span).slot = p.slot

/-- A group that is ready for a turn (R41), with no load's or command's time register to follow. -/
structure Able (s : State) (p : Place) (g : Group) : Prop where
  group : s.dev.group? g.gid = some g
  there : groupAt s.dev p.core.toNat p.span p.slot = some g
  ctx : ∃ c, s.dev.ctx? g.ctx = some c ∧ c.det = false
  cond : g.cond ≠ .idle
  hold : g.hold = .none
  halted : g.halted = false
  still : g.moving = 0
  runs : (broadcastPc g).isSome = true
  kept : wantedPair s.dev g = false
  times : ∀ u < 32, ∀ k, following (timeOf (thread g u) k) = false

/-- The next round of a deterministic context begins (R422); a group that YIELDed before the round that is over has had its empty
place (R426). -/
def Opens (s t : State) (c : Ctx) : Prop :=
  t = { s with dev := { s.dev with
    groups := s.dev.groups.map fun g =>
      if g.ctx = c.num ∧ g.hold = .yielded ∧ g.yieldAt < c.round then { g with hold := .none } else g
    ctxs := (s.dev.setCtx { c with roundPos := 0, roundBusy := false, round := c.round + 1 }).ctxs } }

/-- Each step of scheduling with its effect, from R77, R366, R368, R369, R374 to R378, R417, R418, R420, R422 and R57. -/
inductive Sched (s : State) : Instr → (State → Prop) → Prop
  | turn (p g e) (n : Next s p) (v : e ≤ 1024) (a : Able s p g)
      (q : g.cond = .handler ∨ (firstFault g = none ∧ g.pendLate = 0 ∧ g.pendBreach = 0)) : Sched s (.turnStart p e) fun t =>
      t.mem = s.mem ∧ t.dev.focus = some g.gid ∧ ∃ g', t.dev.group? g.gid = some g' ∧ g'.turn = some (g.next.getD {}) ∧
        g'.next = none ∧ { g' with turn := g.turn, next := g.next, threads := g.threads } = g ∧
        ∀ u < 32, { thread g' u with st := (thread g u).st } = thread g u ∧ ((thread g u).st = .run → (thread g' u).st = .run)
  | trap (p g e c h f) (n : Next s p) (v : e ≤ 1024) (a : Able s p g) (q : g.cond = .busy) (w : firstFault g = some f)
      (x : s.dev.ctx? g.ctx = some c) (y : c.handler = some h) : Sched s (.turnStart p e) fun t =>
      t.dev.focus = none ∧ ∃ g', t.dev.group? g.gid = some g' ∧ g'.cond = .handler ∧ g'.turn = none ∧ g'.next = none ∧
        g'.fmask = maskOf ((faultsOf g f.cause).map (·.slot)) ∧
        g'.tcause = .ofNat 32 (f.acc * 2 ^ 8 + causeCode f.cause) ∧ g'.loops = [] ∧
        (∃ r, g'.frame = some r ∧ r.kind = 2 ∧ r.loops = g.loops) ∧
        g'.pendFaults = g.pendFaults.filter (fun x => !(faultsOf g f.cause).contains x) ∧
        ∀ u < 32, ((thread g u).st ≠ .done → (thread g' u).st = .run ∧ (thread g' u).pc = c.codeBase + h.zeroExtend 64) ∧
          ((thread g u).st = .done → (thread g' u).st = .done)
  | asked (p g e c h) (n : Next s p) (v : e ≤ 1024) (a : Able s p g) (q : g.cond = .busy) (w : firstFault g = none)
      (x : s.dev.ctx? g.ctx = some c) (y : c.handler = some h) (z : g.pendLate ≠ 0 ∨ g.pendBreach ≠ 0) :
      Sched s (.turnStart p e) fun t =>
        let late := decide (g.pendLate ≠ 0)
        let mask := if late then g.pendLate else g.pendBreach
        t.dev.focus = none ∧ ∃ g' r, t.dev.group? g.gid = some g' ∧ g'.cond = .handler ∧ g'.turn = none ∧ g'.next = none ∧
          g'.fmask = mask ∧ g'.tcause = .ofNat 32 (causeCode (if late then .engineLate else .timeBreach)) ∧
          g'.frame = some r ∧ r.kind = 2 ∧ g'.pendLate = 0 ∧ g'.pendBreach = (if late then g.pendBreach else 0) ∧
          ∀ u < 32, (thread g u).st ≠ .done → (thread g' u).st = .run ∧ (thread g' u).pc = c.codeBase + h.zeroExtend 64
  | detTurn (p g e c) (n : Next s p) (v : e ≤ 1024) (b : s.dev.group? g.gid = some g)
      (a : groupAt s.dev p.core.toNat p.span p.slot = some g) (x : s.dev.ctx? g.ctx = some c) (d : c.det = true)
      (r : readyGroup s.mem s.dev g = true) (q : detQuiet s.dev c = true ∧ c.round ≠ 0 ∧ detNext s.mem s.dev c = some g)
      (u : (s.dev.groups.map (·.gid)).Nodup) (w : ∀ u < 32, (thread g u).st = .run ∨ (thread g u).st = .done)
      (f : ∀ u < 32, ∀ k, following (timeOf (thread g u) k) = false)
      (z : g.cond = .handler ∨ (firstFault g = none ∧ g.pendLate = 0 ∧ g.pendBreach = 0)) : Sched s (.turnStart p e) fun t =>
      t.mem = s.mem ∧ t.dev.focus = some g.gid ∧
        t.dev.ctx? g.ctx = some { c with roundPos := placeKey c g + 1, roundBusy := true } ∧
        t.dev.group? g.gid = some { g with turn := some (g.next.getD {}), next := none }
  | noGroup (p e) (n : Next s p) (v : e ≤ 1024) (a : groupAt s.dev p.core.toNat p.span p.slot = none)
      (b : (residents s.dev p.core.toNat p.span).find? (fun g => g.moving != 0) = none) : Sched s (.turnStart p e) fun t =>
      t.mem = s.mem ∧ t.dev.focus = none ∧ t.dev.groups = s.dev.groups ∧
        (t.dev.spanOf p.core.toNat p.span).slot = p.slot + 1 ∧
        (t.dev.die (dieOf p.core.toNat)).tick = (s.dev.die (dieOf p.core.toNat)).tick +
          (e + 1) * spanTicks (s.dev.die (dieOf p.core.toNat)).mhz
  | slides (p e g) (n : Next s p) (v : e ≤ 1024) (a : groupAt s.dev p.core.toNat p.span p.slot = none)
      (b : (residents s.dev p.core.toNat p.span).find? (fun g => g.moving != 0) = some g) (h : s.dev.group? g.gid = some g) :
      Sched s (.turnStart p e) fun t => t.mem = s.mem ∧ t.dev.group? g.gid = some { g with
        moving := g.moving - 1, base := if g.moving = 1 then g.moveTo else g.base }
  | quantum (core span a g) (q : quantumDue s.dev core (.ofNat 4 span) = some a) (u : (s.dev.groups.map (·.gid)).Nodup)
      (w : ∃ x ∈ s.dev.groups, x.core = core ∧ waiting s.mem s.dev x = true)
      (l : longestResident s.dev core (.ofNat 4 span) = some g) : Sched s (.quantumExpiry core span) fun t =>
        t.mem = s.mem ∧ (∀ x, x ≠ g.gid → x ≠ a.gid → t.dev.group? x = s.dev.group? x) ∧
        (∃ g', t.dev.group? g.gid = some g' ∧ g'.wanted = true ∧
          { g' with wanted := g.wanted, quantumAt := g.quantumAt } = g) ∧
        ∃ a', t.dev.group? a.gid = some a' ∧ a'.quantumAt = a.quantumAt + Config.quantum * 60 ∧
          { a' with wanted := a.wanted, quantumAt := a.quantumAt } = a
  | quantumQuiet (core span a) (q : quantumDue s.dev core (.ofNat 4 span) = some a) (u : (s.dev.groups.map (·.gid)).Nodup)
      (w : ∀ x ∈ s.dev.groups, x.core = core → waiting s.mem s.dev x = false) : Sched s (.quantumExpiry core span) fun t =>
        t = { s with dev := s.dev.setGroup { a with quantumAt := a.quantumAt + Config.quantum * 60 } }
  | quantumEarly (core span) (q : quantumDue s.dev core (.ofNat 4 span) = none) : Sched s (.quantumExpiry core span) fun t => t = s
  | save (g c) (w : s.dev.group? g.gid = some g) (p : g.place.isSome = true ∧ g.partner = none ∧ g.turn = none ∧ g.wanted = true)
      (q : s.dev.ctx? g.ctx = some c) (d : c.det = false) (n : shadowOf s.dev g.gid = none)
      (r : g.region = none ∧ deckHolder s.dev g.gid = false) (v : valuesIn s.dev g.gid = true)
      (a : areaFails s.mem s.dev c .w (slotVa c g) c.slotSize = none) (u : s.dev.pendCmds = []) (y : Untraced s) : Sched s (.groupSave g.gid) fun t =>
      ∃ g', t.dev.group? g.gid = some g' ∧ g'.place = none ∧ g'.wanted = false ∧ g'.saved.isSome = true ∧ g'.s = g.s ∧
        g'.mode = g.mode ∧ g'.flags = g.flags ∧ g'.loops = g.loops ∧ g'.cond = g.cond ∧ g'.frame = g.frame ∧ g'.task = g.task ∧
        g'.fmask = g.fmask ∧ g'.tcause = g.tcause ∧ g'.tframe = g.tframe ∧ g'.dispatch = g.dispatch ∧ g'.restart = g.restart ∧
        ∀ v < 32, (thread g' v).pc = (thread g v).pc ∧ (thread g' v).st = (thread g v).st ∧ (thread g' v).i = (thread g v).i ∧
          (thread g' v).p = (thread g v).p ∧ (thread g' v).x = (thread g v).x ∧
          (∀ k, k ≠ 0 → following (timeOf (thread g v) k) = false → timeOf (thread g' v) k = { timeOf (thread g v) k with
            value := clampTime (s.dev.refNow g.core) (timeOf (thread g v) k).value }) ∧
          ∀ k < 64, bit (liveOf s.mem s.dev c g) k = true → (thread g v).dead.getLsbD k = false →
            (thread g' v).v.toArray.getD k 0 = (thread g v).v.toArray.getD k 0
  | resident (g c z k ks b bs) (w : s.dev.group? g.gid = some g) (a : waiting s.mem s.dev g = true ∧ waitsLonger s.mem s.dev g = false)
      (r : coreRuns s.dev g.core = true) (n : shadowOf s.dev g.gid = none) (q : s.dev.ctx? g.ctx = some c)
      (h : homeFor s.dev g = some (z, k :: ks, b :: bs)) (i : g.instantiated = false) : Sched s (.groupResident g.gid) fun t =>
      t.mem = s.mem ∧ ∃ g', t.dev.group? g.gid = some g' ∧ g'.place = some (z, k) ∧ g'.base = b ∧ g'.instantiated = true ∧
        g'.s = Vector.replicate 64 0 ∧ g'.mode = 0 ∧ g'.flags = 0 ∧ g'.loops = [] ∧
        ∀ u < 32, (thread g' u).st = .run ∧ (thread g' u).pc = c.codeBase + c.resent.zeroExtend 64 ∧
          (thread g' u).v = Vector.replicate 64 0 ∧ (thread g' u).i = Vector.replicate 4 0 ∧ (thread g' u).p = 0
  | restored (g c z k ks b bs) (w : s.dev.group? g.gid = some g) (a : waiting s.mem s.dev g = true ∧ waitsLonger s.mem s.dev g = false)
      (r : coreRuns s.dev g.core = true) (n : shadowOf s.dev g.gid = none) (q : s.dev.ctx? g.ctx = some c)
      (h : homeFor s.dev g = some (z, k :: ks, b :: bs)) (i : g.instantiated = true ∧ g.discarded = false)
      (f : areaFails s.mem s.dev c .r (slotVa c g) c.slotSize = none) : Sched s (.groupResident g.gid) fun t =>
      t.mem = s.mem ∧ ∃ g', t.dev.group? g.gid = some g' ∧ g'.place = some (z, k) ∧ g'.base = b ∧
        { g' with
          place := g.place, base := g.base, residentAt := g.residentAt, quantumAt := g.quantumAt, asked := g.asked
          saved := g.saved, threads := g.threads, hold := g.hold } = g ∧
        (∀ n, g.saved = some n → c.det = false → ∀ u < 32, ∀ k, k ≠ 0 → timeOf (thread g' u) k = { timeOf (thread g u) k with
          value := s.dev.refNow g.core + ((timeOf (thread g u) k).value - .ofNat 32 n) }) ∧
        ∀ u < 32, (thread g' u).pc = (thread g u).pc ∧ (thread g' u).v = (thread g u).v ∧ (thread g' u).x = (thread g u).x ∧
          (thread g' u).i = (thread g u).i ∧ (thread g' u).p = (thread g u).p ∧
          ((thread g u).st = .run → (thread g' u).st = .run) ∧ ((thread g u).st = .done → (thread g' u).st = .done)
  | compact (core span g b) (r : roomiest s.dev core allSpans = some (.ofNat 4 span))
      (w : ∃ x ∈ s.dev.groups, x.core = core ∧ waiting s.mem s.dev x = true ∧ homeFor s.dev x = none ∧
        x.waitTick + 20 * 2100 * 60 ≤ s.dev.tickOf core ∧
        (needs s.dev x).sum ≤ freeRegs s.dev core (.ofNat 4 span) ∧
        (needs s.dev x).length ≤ (freeSlots s.dev core (.ofNat 4 span)).length)
      (q : ∀ x ∈ residents s.dev core (.ofNat 4 span), x.moving = 0 ∧ x.turn = none)
      (l : slideOf ((residents s.dev core (.ofNat 4 span)).foldr insertBase []) = some (g, b)) (h : s.dev.group? g.gid = some g) :
      Sched s (.compaction core span) fun t =>
        t = { s with dev := s.dev.setGroup { g with moveTo := b, moving := (g.d + g.x) / 8 } } ∧ b < g.base
  | round (n c d) (w : s.dev.ctx? n = some c) (k : c.det = true ∧ c.ending = none) (o : roundOver s.mem s.dev c = true)
      (y : yieldsOver c s.dev = d) (e : c.round % max c.rq 1 ≠ 0) (m : missing s.mem d c = false) (r : roundReady d c = true)
      (b : c.roundBusy = true ∨ roundWork s.mem d c = true) (i : ∀ g ∈ s.dev.groups, g.ctx = n → g.cond ≠ .idle) :
      Sched s (.detRoundStart n) fun t => Opens s t c
  | boundary (n c d) (w : s.dev.ctx? n = some c) (k : c.det = true ∧ c.ending = none) (o : roundOver s.mem s.dev c = true)
      (y : yieldsOver c s.dev = d) (e : c.round % max c.rq 1 = 0) (u : c.suspended = false) (l : leaving s.mem d c = [])
      (m : missing s.mem d c = false) (r : roundReady d c = true)
      (b : c.round = 0 ∨ c.roundBusy = true ∨ roundWork s.mem d c = true)
      (i : ∀ g ∈ s.dev.groups, g.ctx = n → g.cond ≠ .idle ∧ g.region = none ∧ deckHolder s.dev g.gid = false) :
      Sched s (.detRoundStart n) fun t => Opens s t c

end Sys2Proof.Rules

/-- R57, R77, R366, R368, R369, R374 to R378, R417 to R422: what each step of scheduling does where its condition holds: a turn
begins, in a deterministic context in round order, or its pending trap is taken, or an empty cycle passes, in which a moving block
goes on by a granule; a quantum, counted from a group's residency, ends; a group is saved, instantiated or restored; a block
begins to move; a deterministic round begins. -/
def Obligations.ScheduleEffects : Prop :=
  ∀ s : State, s.dev.log = [] → ∀ i post, Rules.Sched s i post → ∃ t, exec i s = .next t ∧ post t

end
end

