-- ==== Sys2Proof/Laws/State.lean ====
section
/-! SUPPORT. The fields of State after each named update: the field an update names, and every field it leaves alone. -/

namespace Sys2Proof.Machine

@[simp] theorem Device.setGroup_booted (dv : Device) (g : Group) : (dv.setGroup g).booted = dv.booted := rfl
@[simp] theorem Device.setGroup_fwImage (dv : Device) (g : Group) : (dv.setGroup g).fwImage = dv.fwImage := rfl
@[simp] theorem Device.setGroup_fwPieces (dv : Device) (g : Group) : (dv.setGroup g).fwPieces = dv.fwPieces := rfl
@[simp] theorem Device.setGroup_meas (dv : Device) (g : Group) : (dv.setGroup g).meas = dv.meas := rfl
@[simp] theorem Device.setGroup_keys (dv : Device) (g : Group) : (dv.setGroup g).keys = dv.keys := rfl
@[simp] theorem Device.setGroup_keyGen (dv : Device) (g : Group) : (dv.setGroup g).keyGen = dv.keyGen := rfl
@[simp] theorem Device.setGroup_linkKeys (dv : Device) (g : Group) : (dv.setGroup g).linkKeys = dv.linkKeys := rfl
@[simp] theorem Device.setGroup_bootReport (dv : Device) (g : Group) : (dv.setGroup g).bootReport = dv.bootReport := rfl
@[simp] theorem Device.setGroup_modnum (dv : Device) (g : Group) : (dv.setGroup g).modnum = dv.modnum := rfl
@[simp] theorem Device.setGroup_standalone (dv : Device) (g : Group) : (dv.setGroup g).standalone = dv.standalone := rfl
@[simp] theorem Device.setGroup_dies (dv : Device) (g : Group) : (dv.setGroup g).dies = dv.dies := rfl
@[simp] theorem Device.setGroup_portDies (dv : Device) (g : Group) : (dv.setGroup g).portDies = dv.portDies := rfl
@[simp] theorem Device.setGroup_vclock (dv : Device) (g : Group) : (dv.setGroup g).vclock = dv.vclock := rfl
@[simp] theorem Device.setGroup_applied (dv : Device) (g : Group) : (dv.setGroup g).applied = dv.applied := rfl
@[simp] theorem Device.setGroup_markers (dv : Device) (g : Group) : (dv.setGroup g).markers = dv.markers := rfl
@[simp] theorem Device.setGroup_ctxs (dv : Device) (g : Group) : (dv.setGroup g).ctxs = dv.ctxs := rfl
@[simp] theorem Device.setGroup_groups (dv : Device) (g : Group) : (dv.setGroup g).groups = putGroup dv.groups g := rfl
@[simp] theorem Device.setGroup_spans (dv : Device) (g : Group) : (dv.setGroup g).spans = dv.spans := rfl
@[simp] theorem Device.setGroup_entries (dv : Device) (g : Group) : (dv.setGroup g).entries = dv.entries := rfl
@[simp] theorem Device.setGroup_reqs (dv : Device) (g : Group) : (dv.setGroup g).reqs = dv.reqs := rfl
@[simp] theorem Device.setGroup_writes (dv : Device) (g : Group) : (dv.setGroup g).writes = dv.writes := rfl
@[simp] theorem Device.setGroup_msgs (dv : Device) (g : Group) : (dv.setGroup g).msgs = dv.msgs := rfl
@[simp] theorem Device.setGroup_cmds (dv : Device) (g : Group) : (dv.setGroup g).cmds = dv.cmds := rfl
@[simp] theorem Device.setGroup_walks (dv : Device) (g : Group) : (dv.setGroup g).walks = dv.walks := rfl
@[simp] theorem Device.setGroup_walkFails (dv : Device) (g : Group) : (dv.setGroup g).walkFails = dv.walkFails := rfl
@[simp] theorem Device.setGroup_fetches (dv : Device) (g : Group) : (dv.setGroup g).fetches = dv.fetches := rfl
@[simp] theorem Device.setGroup_tlb (dv : Device) (g : Group) : (dv.setGroup g).tlb = dv.tlb := rfl
@[simp] theorem Device.setGroup_pcache (dv : Device) (g : Group) : (dv.setGroup g).pcache = dv.pcache := rfl
@[simp] theorem Device.setGroup_replicas (dv : Device) (g : Group) : (dv.setGroup g).replicas = dv.replicas := rfl
@[simp] theorem Device.setGroup_ways (dv : Device) (g : Group) : (dv.setGroup g).ways = dv.ways := rfl
@[simp] theorem Device.setGroup_seen (dv : Device) (g : Group) : (dv.setGroup g).seen = dv.seen := rfl
@[simp] theorem Device.setGroup_pins (dv : Device) (g : Group) : (dv.setGroup g).pins = dv.pins := rfl
@[simp] theorem Device.setGroup_wrecs (dv : Device) (g : Group) : (dv.setGroup g).wrecs = dv.wrecs := rfl
@[simp] theorem Device.setGroup_versions (dv : Device) (g : Group) : (dv.setGroup g).versions = dv.versions := rfl
@[simp] theorem Device.setGroup_bad (dv : Device) (g : Group) : (dv.setGroup g).bad = dv.bad := rfl
@[simp] theorem Device.setGroup_sectorKeys (dv : Device) (g : Group) : (dv.setGroup g).sectorKeys = dv.sectorKeys := rfl
@[simp] theorem Device.setGroup_futures (dv : Device) (g : Group) : (dv.setGroup g).futures = dv.futures := rfl
@[simp] theorem Device.setGroup_reds (dv : Device) (g : Group) : (dv.setGroup g).reds = dv.reds := rfl
@[simp] theorem Device.setGroup_ends (dv : Device) (g : Group) : (dv.setGroup g).ends = dv.ends := rfl
@[simp] theorem Device.setGroup_tiles (dv : Device) (g : Group) : (dv.setGroup g).tiles = dv.tiles := rfl
@[simp] theorem Device.setGroup_deckOps (dv : Device) (g : Group) : (dv.setGroup g).deckOps = dv.deckOps := rfl
@[simp] theorem Device.setGroup_hwin (dv : Device) (g : Group) : (dv.setGroup g).hwin = dv.hwin := rfl
@[simp] theorem Device.setGroup_pendCmds (dv : Device) (g : Group) : (dv.setGroup g).pendCmds = dv.pendCmds := rfl
@[simp] theorem Device.setGroup_outbox (dv : Device) (g : Group) : (dv.setGroup g).outbox = dv.outbox := rfl
@[simp] theorem Device.setGroup_heldNotices (dv : Device) (g : Group) : (dv.setGroup g).heldNotices = dv.heldNotices := rfl
@[simp] theorem Device.setGroup_conns (dv : Device) (g : Group) : (dv.setGroup g).conns = dv.conns := rfl
@[simp] theorem Device.setGroup_sessions (dv : Device) (g : Group) : (dv.setGroup g).sessions = dv.sessions := rfl
@[simp] theorem Device.setGroup_links (dv : Device) (g : Group) : (dv.setGroup g).links = dv.links := rfl
@[simp] theorem Device.setGroup_ports (dv : Device) (g : Group) : (dv.setGroup g).ports = dv.ports := rfl
@[simp] theorem Device.setGroup_mon (dv : Device) (g : Group) : (dv.setGroup g).mon = dv.mon := rfl
@[simp] theorem Device.setGroup_refresh2 (dv : Device) (g : Group) : (dv.setGroup g).refresh2 = dv.refresh2 := rfl
@[simp] theorem Device.setGroup_lostModules (dv : Device) (g : Group) : (dv.setGroup g).lostModules = dv.lostModules := rfl
@[simp] theorem Device.setGroup_inbox (dv : Device) (g : Group) : (dv.setGroup g).inbox = dv.inbox := rfl
@[simp] theorem Device.setGroup_steps (dv : Device) (g : Group) : (dv.setGroup g).steps = dv.steps := rfl
@[simp] theorem Device.setGroup_turns (dv : Device) (g : Group) : (dv.setGroup g).turns = dv.turns := rfl
@[simp] theorem Device.setGroup_focus (dv : Device) (g : Group) : (dv.setGroup g).focus = dv.focus := rfl
@[simp] theorem Device.setGroup_log (dv : Device) (g : Group) : (dv.setGroup g).log = dv.log := rfl
@[simp] theorem Device.setGroup_nextId (dv : Device) (g : Group) : (dv.setGroup g).nextId = dv.nextId := rfl

@[simp] theorem Device.setDie_booted (dv : Device) (n : Nat) (x : Die) : (dv.setDie n x).booted = dv.booted := rfl
@[simp] theorem Device.setDie_fwImage (dv : Device) (n : Nat) (x : Die) : (dv.setDie n x).fwImage = dv.fwImage := rfl
@[simp] theorem Device.setDie_fwPieces (dv : Device) (n : Nat) (x : Die) : (dv.setDie n x).fwPieces = dv.fwPieces := rfl
@[simp] theorem Device.setDie_meas (dv : Device) (n : Nat) (x : Die) : (dv.setDie n x).meas = dv.meas := rfl
@[simp] theorem Device.setDie_keys (dv : Device) (n : Nat) (x : Die) : (dv.setDie n x).keys = dv.keys := rfl
@[simp] theorem Device.setDie_keyGen (dv : Device) (n : Nat) (x : Die) : (dv.setDie n x).keyGen = dv.keyGen := rfl
@[simp] theorem Device.setDie_linkKeys (dv : Device) (n : Nat) (x : Die) : (dv.setDie n x).linkKeys = dv.linkKeys := rfl
@[simp] theorem Device.setDie_bootReport (dv : Device) (n : Nat) (x : Die) : (dv.setDie n x).bootReport = dv.bootReport := rfl
@[simp] theorem Device.setDie_modnum (dv : Device) (n : Nat) (x : Die) : (dv.setDie n x).modnum = dv.modnum := rfl
@[simp] theorem Device.setDie_standalone (dv : Device) (n : Nat) (x : Die) : (dv.setDie n x).standalone = dv.standalone := rfl
@[simp] theorem Device.setDie_dies (dv : Device) (n : Nat) (x : Die) : (dv.setDie n x).dies = dv.dies.set! n x := rfl
@[simp] theorem Device.setDie_portDies (dv : Device) (n : Nat) (x : Die) : (dv.setDie n x).portDies = dv.portDies := rfl
@[simp] theorem Device.setDie_vclock (dv : Device) (n : Nat) (x : Die) : (dv.setDie n x).vclock = dv.vclock := rfl
@[simp] theorem Device.setDie_applied (dv : Device) (n : Nat) (x : Die) : (dv.setDie n x).applied = dv.applied := rfl
@[simp] theorem Device.setDie_markers (dv : Device) (n : Nat) (x : Die) : (dv.setDie n x).markers = dv.markers := rfl
@[simp] theorem Device.setDie_ctxs (dv : Device) (n : Nat) (x : Die) : (dv.setDie n x).ctxs = dv.ctxs := rfl
@[simp] theorem Device.setDie_groups (dv : Device) (n : Nat) (x : Die) : (dv.setDie n x).groups = dv.groups := rfl
@[simp] theorem Device.setDie_spans (dv : Device) (n : Nat) (x : Die) : (dv.setDie n x).spans = dv.spans := rfl
@[simp] theorem Device.setDie_entries (dv : Device) (n : Nat) (x : Die) : (dv.setDie n x).entries = dv.entries := rfl
@[simp] theorem Device.setDie_reqs (dv : Device) (n : Nat) (x : Die) : (dv.setDie n x).reqs = dv.reqs := rfl
@[simp] theorem Device.setDie_writes (dv : Device) (n : Nat) (x : Die) : (dv.setDie n x).writes = dv.writes := rfl
@[simp] theorem Device.setDie_msgs (dv : Device) (n : Nat) (x : Die) : (dv.setDie n x).msgs = dv.msgs := rfl
@[simp] theorem Device.setDie_cmds (dv : Device) (n : Nat) (x : Die) : (dv.setDie n x).cmds = dv.cmds := rfl
@[simp] theorem Device.setDie_walks (dv : Device) (n : Nat) (x : Die) : (dv.setDie n x).walks = dv.walks := rfl
@[simp] theorem Device.setDie_walkFails (dv : Device) (n : Nat) (x : Die) : (dv.setDie n x).walkFails = dv.walkFails := rfl
@[simp] theorem Device.setDie_fetches (dv : Device) (n : Nat) (x : Die) : (dv.setDie n x).fetches = dv.fetches := rfl
@[simp] theorem Device.setDie_tlb (dv : Device) (n : Nat) (x : Die) : (dv.setDie n x).tlb = dv.tlb := rfl
@[simp] theorem Device.setDie_pcache (dv : Device) (n : Nat) (x : Die) : (dv.setDie n x).pcache = dv.pcache := rfl
@[simp] theorem Device.setDie_replicas (dv : Device) (n : Nat) (x : Die) : (dv.setDie n x).replicas = dv.replicas := rfl
@[simp] theorem Device.setDie_ways (dv : Device) (n : Nat) (x : Die) : (dv.setDie n x).ways = dv.ways := rfl
@[simp] theorem Device.setDie_seen (dv : Device) (n : Nat) (x : Die) : (dv.setDie n x).seen = dv.seen := rfl
@[simp] theorem Device.setDie_pins (dv : Device) (n : Nat) (x : Die) : (dv.setDie n x).pins = dv.pins := rfl
@[simp] theorem Device.setDie_wrecs (dv : Device) (n : Nat) (x : Die) : (dv.setDie n x).wrecs = dv.wrecs := rfl
@[simp] theorem Device.setDie_versions (dv : Device) (n : Nat) (x : Die) : (dv.setDie n x).versions = dv.versions := rfl
@[simp] theorem Device.setDie_bad (dv : Device) (n : Nat) (x : Die) : (dv.setDie n x).bad = dv.bad := rfl
@[simp] theorem Device.setDie_sectorKeys (dv : Device) (n : Nat) (x : Die) : (dv.setDie n x).sectorKeys = dv.sectorKeys := rfl
@[simp] theorem Device.setDie_futures (dv : Device) (n : Nat) (x : Die) : (dv.setDie n x).futures = dv.futures := rfl
@[simp] theorem Device.setDie_reds (dv : Device) (n : Nat) (x : Die) : (dv.setDie n x).reds = dv.reds := rfl
@[simp] theorem Device.setDie_ends (dv : Device) (n : Nat) (x : Die) : (dv.setDie n x).ends = dv.ends := rfl
@[simp] theorem Device.setDie_tiles (dv : Device) (n : Nat) (x : Die) : (dv.setDie n x).tiles = dv.tiles := rfl
@[simp] theorem Device.setDie_deckOps (dv : Device) (n : Nat) (x : Die) : (dv.setDie n x).deckOps = dv.deckOps := rfl
@[simp] theorem Device.setDie_hwin (dv : Device) (n : Nat) (x : Die) : (dv.setDie n x).hwin = dv.hwin := rfl
@[simp] theorem Device.setDie_pendCmds (dv : Device) (n : Nat) (x : Die) : (dv.setDie n x).pendCmds = dv.pendCmds := rfl
@[simp] theorem Device.setDie_outbox (dv : Device) (n : Nat) (x : Die) : (dv.setDie n x).outbox = dv.outbox := rfl
@[simp] theorem Device.setDie_heldNotices (dv : Device) (n : Nat) (x : Die) : (dv.setDie n x).heldNotices = dv.heldNotices := rfl
@[simp] theorem Device.setDie_conns (dv : Device) (n : Nat) (x : Die) : (dv.setDie n x).conns = dv.conns := rfl
@[simp] theorem Device.setDie_sessions (dv : Device) (n : Nat) (x : Die) : (dv.setDie n x).sessions = dv.sessions := rfl
@[simp] theorem Device.setDie_links (dv : Device) (n : Nat) (x : Die) : (dv.setDie n x).links = dv.links := rfl
@[simp] theorem Device.setDie_ports (dv : Device) (n : Nat) (x : Die) : (dv.setDie n x).ports = dv.ports := rfl
@[simp] theorem Device.setDie_mon (dv : Device) (n : Nat) (x : Die) : (dv.setDie n x).mon = dv.mon := rfl
@[simp] theorem Device.setDie_refresh2 (dv : Device) (n : Nat) (x : Die) : (dv.setDie n x).refresh2 = dv.refresh2 := rfl
@[simp] theorem Device.setDie_lostModules (dv : Device) (n : Nat) (x : Die) : (dv.setDie n x).lostModules = dv.lostModules := rfl
@[simp] theorem Device.setDie_inbox (dv : Device) (n : Nat) (x : Die) : (dv.setDie n x).inbox = dv.inbox := rfl
@[simp] theorem Device.setDie_steps (dv : Device) (n : Nat) (x : Die) : (dv.setDie n x).steps = dv.steps := rfl
@[simp] theorem Device.setDie_turns (dv : Device) (n : Nat) (x : Die) : (dv.setDie n x).turns = dv.turns := rfl
@[simp] theorem Device.setDie_focus (dv : Device) (n : Nat) (x : Die) : (dv.setDie n x).focus = dv.focus := rfl
@[simp] theorem Device.setDie_log (dv : Device) (n : Nat) (x : Die) : (dv.setDie n x).log = dv.log := rfl
@[simp] theorem Device.setDie_nextId (dv : Device) (n : Nat) (x : Die) : (dv.setDie n x).nextId = dv.nextId := rfl

@[simp] theorem Device.spend_booted (dv : Device) (core cycles : Nat) : (dv.spend core cycles).booted = dv.booted := rfl
@[simp] theorem Device.spend_fwImage (dv : Device) (core cycles : Nat) : (dv.spend core cycles).fwImage = dv.fwImage := rfl
@[simp] theorem Device.spend_fwPieces (dv : Device) (core cycles : Nat) : (dv.spend core cycles).fwPieces = dv.fwPieces := rfl
@[simp] theorem Device.spend_meas (dv : Device) (core cycles : Nat) : (dv.spend core cycles).meas = dv.meas := rfl
@[simp] theorem Device.spend_keys (dv : Device) (core cycles : Nat) : (dv.spend core cycles).keys = dv.keys := rfl
@[simp] theorem Device.spend_keyGen (dv : Device) (core cycles : Nat) : (dv.spend core cycles).keyGen = dv.keyGen := rfl
@[simp] theorem Device.spend_linkKeys (dv : Device) (core cycles : Nat) : (dv.spend core cycles).linkKeys = dv.linkKeys := rfl
@[simp] theorem Device.spend_bootReport (dv : Device) (core cycles : Nat) : (dv.spend core cycles).bootReport = dv.bootReport := rfl
@[simp] theorem Device.spend_modnum (dv : Device) (core cycles : Nat) : (dv.spend core cycles).modnum = dv.modnum := rfl
@[simp] theorem Device.spend_standalone (dv : Device) (core cycles : Nat) : (dv.spend core cycles).standalone = dv.standalone := rfl
@[simp] theorem Device.spend_portDies (dv : Device) (core cycles : Nat) : (dv.spend core cycles).portDies = dv.portDies := rfl
@[simp] theorem Device.spend_vclock (dv : Device) (core cycles : Nat) : (dv.spend core cycles).vclock = dv.vclock := rfl
@[simp] theorem Device.spend_applied (dv : Device) (core cycles : Nat) : (dv.spend core cycles).applied = dv.applied := rfl
@[simp] theorem Device.spend_markers (dv : Device) (core cycles : Nat) : (dv.spend core cycles).markers = dv.markers := rfl
@[simp] theorem Device.spend_ctxs (dv : Device) (core cycles : Nat) : (dv.spend core cycles).ctxs = dv.ctxs := rfl
@[simp] theorem Device.spend_groups (dv : Device) (core cycles : Nat) : (dv.spend core cycles).groups = dv.groups := rfl
@[simp] theorem Device.spend_spans (dv : Device) (core cycles : Nat) : (dv.spend core cycles).spans = dv.spans := rfl
@[simp] theorem Device.spend_entries (dv : Device) (core cycles : Nat) : (dv.spend core cycles).entries = dv.entries := rfl
@[simp] theorem Device.spend_reqs (dv : Device) (core cycles : Nat) : (dv.spend core cycles).reqs = dv.reqs := rfl
@[simp] theorem Device.spend_writes (dv : Device) (core cycles : Nat) : (dv.spend core cycles).writes = dv.writes := rfl
@[simp] theorem Device.spend_msgs (dv : Device) (core cycles : Nat) : (dv.spend core cycles).msgs = dv.msgs := rfl
@[simp] theorem Device.spend_cmds (dv : Device) (core cycles : Nat) : (dv.spend core cycles).cmds = dv.cmds := rfl
@[simp] theorem Device.spend_walks (dv : Device) (core cycles : Nat) : (dv.spend core cycles).walks = dv.walks := rfl
@[simp] theorem Device.spend_walkFails (dv : Device) (core cycles : Nat) : (dv.spend core cycles).walkFails = dv.walkFails := rfl
@[simp] theorem Device.spend_fetches (dv : Device) (core cycles : Nat) : (dv.spend core cycles).fetches = dv.fetches := rfl
@[simp] theorem Device.spend_tlb (dv : Device) (core cycles : Nat) : (dv.spend core cycles).tlb = dv.tlb := rfl
@[simp] theorem Device.spend_pcache (dv : Device) (core cycles : Nat) : (dv.spend core cycles).pcache = dv.pcache := rfl
@[simp] theorem Device.spend_replicas (dv : Device) (core cycles : Nat) : (dv.spend core cycles).replicas = dv.replicas := rfl
@[simp] theorem Device.spend_ways (dv : Device) (core cycles : Nat) : (dv.spend core cycles).ways = dv.ways := rfl
@[simp] theorem Device.spend_seen (dv : Device) (core cycles : Nat) : (dv.spend core cycles).seen = dv.seen := rfl
@[simp] theorem Device.spend_pins (dv : Device) (core cycles : Nat) : (dv.spend core cycles).pins = dv.pins := rfl
@[simp] theorem Device.spend_wrecs (dv : Device) (core cycles : Nat) : (dv.spend core cycles).wrecs = dv.wrecs := rfl
@[simp] theorem Device.spend_versions (dv : Device) (core cycles : Nat) : (dv.spend core cycles).versions = dv.versions := rfl
@[simp] theorem Device.spend_bad (dv : Device) (core cycles : Nat) : (dv.spend core cycles).bad = dv.bad := rfl
@[simp] theorem Device.spend_sectorKeys (dv : Device) (core cycles : Nat) : (dv.spend core cycles).sectorKeys = dv.sectorKeys := rfl
@[simp] theorem Device.spend_futures (dv : Device) (core cycles : Nat) : (dv.spend core cycles).futures = dv.futures := rfl
@[simp] theorem Device.spend_reds (dv : Device) (core cycles : Nat) : (dv.spend core cycles).reds = dv.reds := rfl
@[simp] theorem Device.spend_ends (dv : Device) (core cycles : Nat) : (dv.spend core cycles).ends = dv.ends := rfl
@[simp] theorem Device.spend_tiles (dv : Device) (core cycles : Nat) : (dv.spend core cycles).tiles = dv.tiles := rfl
@[simp] theorem Device.spend_deckOps (dv : Device) (core cycles : Nat) : (dv.spend core cycles).deckOps = dv.deckOps := rfl
@[simp] theorem Device.spend_hwin (dv : Device) (core cycles : Nat) : (dv.spend core cycles).hwin = dv.hwin := rfl
@[simp] theorem Device.spend_pendCmds (dv : Device) (core cycles : Nat) : (dv.spend core cycles).pendCmds = dv.pendCmds := rfl
@[simp] theorem Device.spend_outbox (dv : Device) (core cycles : Nat) : (dv.spend core cycles).outbox = dv.outbox := rfl
@[simp] theorem Device.spend_heldNotices (dv : Device) (core cycles : Nat) : (dv.spend core cycles).heldNotices = dv.heldNotices := rfl
@[simp] theorem Device.spend_conns (dv : Device) (core cycles : Nat) : (dv.spend core cycles).conns = dv.conns := rfl
@[simp] theorem Device.spend_sessions (dv : Device) (core cycles : Nat) : (dv.spend core cycles).sessions = dv.sessions := rfl
@[simp] theorem Device.spend_links (dv : Device) (core cycles : Nat) : (dv.spend core cycles).links = dv.links := rfl
@[simp] theorem Device.spend_ports (dv : Device) (core cycles : Nat) : (dv.spend core cycles).ports = dv.ports := rfl
@[simp] theorem Device.spend_mon (dv : Device) (core cycles : Nat) : (dv.spend core cycles).mon = dv.mon := rfl
@[simp] theorem Device.spend_refresh2 (dv : Device) (core cycles : Nat) : (dv.spend core cycles).refresh2 = dv.refresh2 := rfl
@[simp] theorem Device.spend_lostModules (dv : Device) (core cycles : Nat) : (dv.spend core cycles).lostModules = dv.lostModules := rfl
@[simp] theorem Device.spend_inbox (dv : Device) (core cycles : Nat) : (dv.spend core cycles).inbox = dv.inbox := rfl
@[simp] theorem Device.spend_steps (dv : Device) (core cycles : Nat) : (dv.spend core cycles).steps = dv.steps := rfl
@[simp] theorem Device.spend_turns (dv : Device) (core cycles : Nat) : (dv.spend core cycles).turns = dv.turns := rfl
@[simp] theorem Device.spend_focus (dv : Device) (core cycles : Nat) : (dv.spend core cycles).focus = dv.focus := rfl
@[simp] theorem Device.spend_log (dv : Device) (core cycles : Nat) : (dv.spend core cycles).log = dv.log := rfl
@[simp] theorem Device.spend_nextId (dv : Device) (core cycles : Nat) : (dv.spend core cycles).nextId = dv.nextId := rfl

@[simp] theorem Device.send_booted (dv : Device) (x : Out) : (dv.send x).booted = dv.booted := rfl
@[simp] theorem Device.send_fwImage (dv : Device) (x : Out) : (dv.send x).fwImage = dv.fwImage := rfl
@[simp] theorem Device.send_fwPieces (dv : Device) (x : Out) : (dv.send x).fwPieces = dv.fwPieces := rfl
@[simp] theorem Device.send_meas (dv : Device) (x : Out) : (dv.send x).meas = dv.meas := rfl
@[simp] theorem Device.send_keys (dv : Device) (x : Out) : (dv.send x).keys = dv.keys := rfl
@[simp] theorem Device.send_keyGen (dv : Device) (x : Out) : (dv.send x).keyGen = dv.keyGen := rfl
@[simp] theorem Device.send_linkKeys (dv : Device) (x : Out) : (dv.send x).linkKeys = dv.linkKeys := rfl
@[simp] theorem Device.send_bootReport (dv : Device) (x : Out) : (dv.send x).bootReport = dv.bootReport := rfl
@[simp] theorem Device.send_modnum (dv : Device) (x : Out) : (dv.send x).modnum = dv.modnum := rfl
@[simp] theorem Device.send_standalone (dv : Device) (x : Out) : (dv.send x).standalone = dv.standalone := rfl
@[simp] theorem Device.send_dies (dv : Device) (x : Out) : (dv.send x).dies = dv.dies := rfl
@[simp] theorem Device.send_portDies (dv : Device) (x : Out) : (dv.send x).portDies = dv.portDies := rfl
@[simp] theorem Device.send_vclock (dv : Device) (x : Out) : (dv.send x).vclock = dv.vclock := rfl
@[simp] theorem Device.send_applied (dv : Device) (x : Out) : (dv.send x).applied = dv.applied := rfl
@[simp] theorem Device.send_markers (dv : Device) (x : Out) : (dv.send x).markers = dv.markers := rfl
@[simp] theorem Device.send_ctxs (dv : Device) (x : Out) : (dv.send x).ctxs = dv.ctxs := rfl
@[simp] theorem Device.send_groups (dv : Device) (x : Out) : (dv.send x).groups = dv.groups := rfl
@[simp] theorem Device.send_spans (dv : Device) (x : Out) : (dv.send x).spans = dv.spans := rfl
@[simp] theorem Device.send_entries (dv : Device) (x : Out) : (dv.send x).entries = dv.entries := rfl
@[simp] theorem Device.send_reqs (dv : Device) (x : Out) : (dv.send x).reqs = dv.reqs := rfl
@[simp] theorem Device.send_writes (dv : Device) (x : Out) : (dv.send x).writes = dv.writes := rfl
@[simp] theorem Device.send_msgs (dv : Device) (x : Out) : (dv.send x).msgs = dv.msgs := rfl
@[simp] theorem Device.send_cmds (dv : Device) (x : Out) : (dv.send x).cmds = dv.cmds := rfl
@[simp] theorem Device.send_walks (dv : Device) (x : Out) : (dv.send x).walks = dv.walks := rfl
@[simp] theorem Device.send_walkFails (dv : Device) (x : Out) : (dv.send x).walkFails = dv.walkFails := rfl
@[simp] theorem Device.send_fetches (dv : Device) (x : Out) : (dv.send x).fetches = dv.fetches := rfl
@[simp] theorem Device.send_tlb (dv : Device) (x : Out) : (dv.send x).tlb = dv.tlb := rfl
@[simp] theorem Device.send_pcache (dv : Device) (x : Out) : (dv.send x).pcache = dv.pcache := rfl
@[simp] theorem Device.send_replicas (dv : Device) (x : Out) : (dv.send x).replicas = dv.replicas := rfl
@[simp] theorem Device.send_ways (dv : Device) (x : Out) : (dv.send x).ways = dv.ways := rfl
@[simp] theorem Device.send_seen (dv : Device) (x : Out) : (dv.send x).seen = dv.seen := rfl
@[simp] theorem Device.send_pins (dv : Device) (x : Out) : (dv.send x).pins = dv.pins := rfl
@[simp] theorem Device.send_wrecs (dv : Device) (x : Out) : (dv.send x).wrecs = dv.wrecs := rfl
@[simp] theorem Device.send_versions (dv : Device) (x : Out) : (dv.send x).versions = dv.versions := rfl
@[simp] theorem Device.send_bad (dv : Device) (x : Out) : (dv.send x).bad = dv.bad := rfl
@[simp] theorem Device.send_sectorKeys (dv : Device) (x : Out) : (dv.send x).sectorKeys = dv.sectorKeys := rfl
@[simp] theorem Device.send_futures (dv : Device) (x : Out) : (dv.send x).futures = dv.futures := rfl
@[simp] theorem Device.send_reds (dv : Device) (x : Out) : (dv.send x).reds = dv.reds := rfl
@[simp] theorem Device.send_ends (dv : Device) (x : Out) : (dv.send x).ends = dv.ends := rfl
@[simp] theorem Device.send_tiles (dv : Device) (x : Out) : (dv.send x).tiles = dv.tiles := rfl
@[simp] theorem Device.send_deckOps (dv : Device) (x : Out) : (dv.send x).deckOps = dv.deckOps := rfl
@[simp] theorem Device.send_hwin (dv : Device) (x : Out) : (dv.send x).hwin = dv.hwin := rfl
@[simp] theorem Device.send_pendCmds (dv : Device) (x : Out) : (dv.send x).pendCmds = dv.pendCmds := rfl
@[simp] theorem Device.send_outbox (dv : Device) (x : Out) : (dv.send x).outbox = dv.outbox ++ [x] := rfl
@[simp] theorem Device.send_heldNotices (dv : Device) (x : Out) : (dv.send x).heldNotices = dv.heldNotices := rfl
@[simp] theorem Device.send_conns (dv : Device) (x : Out) : (dv.send x).conns = dv.conns := rfl
@[simp] theorem Device.send_sessions (dv : Device) (x : Out) : (dv.send x).sessions = dv.sessions := rfl
@[simp] theorem Device.send_links (dv : Device) (x : Out) : (dv.send x).links = dv.links := rfl
@[simp] theorem Device.send_ports (dv : Device) (x : Out) : (dv.send x).ports = dv.ports := rfl
@[simp] theorem Device.send_mon (dv : Device) (x : Out) : (dv.send x).mon = dv.mon := rfl
@[simp] theorem Device.send_refresh2 (dv : Device) (x : Out) : (dv.send x).refresh2 = dv.refresh2 := rfl
@[simp] theorem Device.send_lostModules (dv : Device) (x : Out) : (dv.send x).lostModules = dv.lostModules := rfl
@[simp] theorem Device.send_inbox (dv : Device) (x : Out) : (dv.send x).inbox = dv.inbox := rfl
@[simp] theorem Device.send_steps (dv : Device) (x : Out) : (dv.send x).steps = dv.steps := rfl
@[simp] theorem Device.send_turns (dv : Device) (x : Out) : (dv.send x).turns = dv.turns := rfl
@[simp] theorem Device.send_focus (dv : Device) (x : Out) : (dv.send x).focus = dv.focus := rfl
@[simp] theorem Device.send_log (dv : Device) (x : Out) : (dv.send x).log = dv.log := rfl
@[simp] theorem Device.send_nextId (dv : Device) (x : Out) : (dv.send x).nextId = dv.nextId := rfl

@[simp] theorem setThread_gid (g : Group) (t : Nat) (th : Thread) : (setThread g t th).gid = g.gid := rfl
@[simp] theorem setThread_ctx (g : Group) (t : Nat) (th : Thread) : (setThread g t th).ctx = g.ctx := rfl
@[simp] theorem setThread_core (g : Group) (t : Nat) (th : Thread) : (setThread g t th).core = g.core := rfl
@[simp] theorem setThread_gidx (g : Group) (t : Nat) (th : Thread) : (setThread g t th).gidx = g.gidx := rfl
@[simp] theorem setThread_partner (g : Group) (t : Nat) (th : Thread) : (setThread g t th).partner = g.partner := rfl
@[simp] theorem setThread_d (g : Group) (t : Nat) (th : Thread) : (setThread g t th).d = g.d := rfl
@[simp] theorem setThread_x (g : Group) (t : Nat) (th : Thread) : (setThread g t th).x = g.x := rfl
@[simp] theorem setThread_base (g : Group) (t : Nat) (th : Thread) : (setThread g t th).base = g.base := rfl
@[simp] theorem setThread_place (g : Group) (t : Nat) (th : Thread) : (setThread g t th).place = g.place := rfl
@[simp] theorem setThread_cond (g : Group) (t : Nat) (th : Thread) : (setThread g t th).cond = g.cond := rfl
@[simp] theorem setThread_threads (g : Group) (t : Nat) (th : Thread) : (setThread g t th).threads = g.threads.set! t th := rfl
@[simp] theorem setThread_s (g : Group) (t : Nat) (th : Thread) : (setThread g t th).s = g.s := rfl
@[simp] theorem setThread_c (g : Group) (t : Nat) (th : Thread) : (setThread g t th).c = g.c := rfl
@[simp] theorem setThread_loops (g : Group) (t : Nat) (th : Thread) : (setThread g t th).loops = g.loops := rfl
@[simp] theorem setThread_mode (g : Group) (t : Nat) (th : Thread) : (setThread g t th).mode = g.mode := rfl
@[simp] theorem setThread_flags (g : Group) (t : Nat) (th : Thread) : (setThread g t th).flags = g.flags := rfl
@[simp] theorem setThread_fmask (g : Group) (t : Nat) (th : Thread) : (setThread g t th).fmask = g.fmask := rfl
@[simp] theorem setThread_tcause (g : Group) (t : Nat) (th : Thread) : (setThread g t th).tcause = g.tcause := rfl
@[simp] theorem setThread_tframe (g : Group) (t : Nat) (th : Thread) : (setThread g t th).tframe = g.tframe := rfl
@[simp] theorem setThread_frame (g : Group) (t : Nat) (th : Thread) : (setThread g t th).frame = g.frame := rfl
@[simp] theorem setThread_task (g : Group) (t : Nat) (th : Thread) : (setThread g t th).task = g.task := rfl
@[simp] theorem setThread_dispatch (g : Group) (t : Nat) (th : Thread) : (setThread g t th).dispatch = g.dispatch := rfl
@[simp] theorem setThread_restart (g : Group) (t : Nat) (th : Thread) : (setThread g t th).restart = g.restart := rfl
@[simp] theorem setThread_region (g : Group) (t : Nat) (th : Thread) : (setThread g t th).region = g.region := rfl
@[simp] theorem setThread_barPend (g : Group) (t : Nat) (th : Thread) : (setThread g t th).barPend = g.barPend := rfl
@[simp] theorem setThread_barBroken (g : Group) (t : Nat) (th : Thread) : (setThread g t th).barBroken = g.barBroken := rfl
@[simp] theorem setThread_barPc (g : Group) (t : Nat) (th : Thread) : (setThread g t th).barPc = g.barPc := rfl
@[simp] theorem setThread_hold (g : Group) (t : Nat) (th : Thread) : (setThread g t th).hold = g.hold := rfl
@[simp] theorem setThread_gang (g : Group) (t : Nat) (th : Thread) : (setThread g t th).gang = g.gang := rfl
@[simp] theorem setThread_pendFaults (g : Group) (t : Nat) (th : Thread) : (setThread g t th).pendFaults = g.pendFaults := rfl
@[simp] theorem setThread_ordPasses (g : Group) (t : Nat) (th : Thread) : (setThread g t th).ordPasses = g.ordPasses := rfl
@[simp] theorem setThread_pendLate (g : Group) (t : Nat) (th : Thread) : (setThread g t th).pendLate = g.pendLate := rfl
@[simp] theorem setThread_pendBreach (g : Group) (t : Nat) (th : Thread) : (setThread g t th).pendBreach = g.pendBreach := rfl
@[simp] theorem setThread_qwin (g : Group) (t : Nat) (th : Thread) : (setThread g t th).qwin = g.qwin := rfl
@[simp] theorem setThread_rc (g : Group) (t : Nat) (th : Thread) : (setThread g t th).rc = g.rc := rfl
@[simp] theorem setThread_sb (g : Group) (t : Nat) (th : Thread) : (setThread g t th).sb = g.sb := rfl
@[simp] theorem setThread_poison (g : Group) (t : Nat) (th : Thread) : (setThread g t th).poison = g.poison := rfl
@[simp] theorem setThread_turn (g : Group) (t : Nat) (th : Thread) : (setThread g t th).turn = g.turn := rfl
@[simp] theorem setThread_next (g : Group) (t : Nat) (th : Thread) : (setThread g t th).next = g.next := rfl
@[simp] theorem setThread_wanted (g : Group) (t : Nat) (th : Thread) : (setThread g t th).wanted = g.wanted := rfl
@[simp] theorem setThread_instantiated (g : Group) (t : Nat) (th : Thread) : (setThread g t th).instantiated = g.instantiated := rfl
@[simp] theorem setThread_saved (g : Group) (t : Nat) (th : Thread) : (setThread g t th).saved = g.saved := rfl
@[simp] theorem setThread_discarded (g : Group) (t : Nat) (th : Thread) : (setThread g t th).discarded = g.discarded := rfl
@[simp] theorem setThread_halted (g : Group) (t : Nat) (th : Thread) : (setThread g t th).halted = g.halted := rfl
@[simp] theorem setThread_moving (g : Group) (t : Nat) (th : Thread) : (setThread g t th).moving = g.moving := rfl
@[simp] theorem setThread_moveTo (g : Group) (t : Nat) (th : Thread) : (setThread g t th).moveTo = g.moveTo := rfl
@[simp] theorem setThread_residentAt (g : Group) (t : Nat) (th : Thread) : (setThread g t th).residentAt = g.residentAt := rfl
@[simp] theorem setThread_quantumAt (g : Group) (t : Nat) (th : Thread) : (setThread g t th).quantumAt = g.quantumAt := rfl
@[simp] theorem setThread_idleAt (g : Group) (t : Nat) (th : Thread) : (setThread g t th).idleAt = g.idleAt := rfl
@[simp] theorem setThread_asked (g : Group) (t : Nat) (th : Thread) : (setThread g t th).asked = g.asked := rfl
@[simp] theorem setThread_waitAt (g : Group) (t : Nat) (th : Thread) : (setThread g t th).waitAt = g.waitAt := rfl
@[simp] theorem setThread_waitTick (g : Group) (t : Nat) (th : Thread) : (setThread g t th).waitTick = g.waitTick := rfl
@[simp] theorem setThread_yieldAt (g : Group) (t : Nat) (th : Thread) : (setThread g t th).yieldAt = g.yieldAt := rfl
@[simp] theorem setThread_dzeroAt (g : Group) (t : Nat) (th : Thread) : (setThread g t th).dzeroAt = g.dzeroAt := rfl
@[simp] theorem setThread_unmet (g : Group) (t : Nat) (th : Thread) : (setThread g t th).unmet = g.unmet := rfl
@[simp] theorem setThread_cClean (g : Group) (t : Nat) (th : Thread) : (setThread g t th).cClean = g.cClean := rfl

@[simp] theorem onThread_gid (g : Group) (t : Nat) (f : Thread → Thread) : (onThread g t f).gid = g.gid := rfl
@[simp] theorem onThread_ctx (g : Group) (t : Nat) (f : Thread → Thread) : (onThread g t f).ctx = g.ctx := rfl
@[simp] theorem onThread_core (g : Group) (t : Nat) (f : Thread → Thread) : (onThread g t f).core = g.core := rfl
@[simp] theorem onThread_gidx (g : Group) (t : Nat) (f : Thread → Thread) : (onThread g t f).gidx = g.gidx := rfl
@[simp] theorem onThread_partner (g : Group) (t : Nat) (f : Thread → Thread) : (onThread g t f).partner = g.partner := rfl
@[simp] theorem onThread_d (g : Group) (t : Nat) (f : Thread → Thread) : (onThread g t f).d = g.d := rfl
@[simp] theorem onThread_x (g : Group) (t : Nat) (f : Thread → Thread) : (onThread g t f).x = g.x := rfl
@[simp] theorem onThread_base (g : Group) (t : Nat) (f : Thread → Thread) : (onThread g t f).base = g.base := rfl
@[simp] theorem onThread_place (g : Group) (t : Nat) (f : Thread → Thread) : (onThread g t f).place = g.place := rfl
@[simp] theorem onThread_cond (g : Group) (t : Nat) (f : Thread → Thread) : (onThread g t f).cond = g.cond := rfl
@[simp] theorem onThread_threads (g : Group) (t : Nat) (f : Thread → Thread) : (onThread g t f).threads = g.threads.set! t (f (thread g t)) := rfl
@[simp] theorem onThread_s (g : Group) (t : Nat) (f : Thread → Thread) : (onThread g t f).s = g.s := rfl
@[simp] theorem onThread_c (g : Group) (t : Nat) (f : Thread → Thread) : (onThread g t f).c = g.c := rfl
@[simp] theorem onThread_loops (g : Group) (t : Nat) (f : Thread → Thread) : (onThread g t f).loops = g.loops := rfl
@[simp] theorem onThread_mode (g : Group) (t : Nat) (f : Thread → Thread) : (onThread g t f).mode = g.mode := rfl
@[simp] theorem onThread_flags (g : Group) (t : Nat) (f : Thread → Thread) : (onThread g t f).flags = g.flags := rfl
@[simp] theorem onThread_fmask (g : Group) (t : Nat) (f : Thread → Thread) : (onThread g t f).fmask = g.fmask := rfl
@[simp] theorem onThread_tcause (g : Group) (t : Nat) (f : Thread → Thread) : (onThread g t f).tcause = g.tcause := rfl
@[simp] theorem onThread_tframe (g : Group) (t : Nat) (f : Thread → Thread) : (onThread g t f).tframe = g.tframe := rfl
@[simp] theorem onThread_frame (g : Group) (t : Nat) (f : Thread → Thread) : (onThread g t f).frame = g.frame := rfl
@[simp] theorem onThread_task (g : Group) (t : Nat) (f : Thread → Thread) : (onThread g t f).task = g.task := rfl
@[simp] theorem onThread_dispatch (g : Group) (t : Nat) (f : Thread → Thread) : (onThread g t f).dispatch = g.dispatch := rfl
@[simp] theorem onThread_restart (g : Group) (t : Nat) (f : Thread → Thread) : (onThread g t f).restart = g.restart := rfl
@[simp] theorem onThread_region (g : Group) (t : Nat) (f : Thread → Thread) : (onThread g t f).region = g.region := rfl
@[simp] theorem onThread_barPend (g : Group) (t : Nat) (f : Thread → Thread) : (onThread g t f).barPend = g.barPend := rfl
@[simp] theorem onThread_barBroken (g : Group) (t : Nat) (f : Thread → Thread) : (onThread g t f).barBroken = g.barBroken := rfl
@[simp] theorem onThread_barPc (g : Group) (t : Nat) (f : Thread → Thread) : (onThread g t f).barPc = g.barPc := rfl
@[simp] theorem onThread_hold (g : Group) (t : Nat) (f : Thread → Thread) : (onThread g t f).hold = g.hold := rfl
@[simp] theorem onThread_gang (g : Group) (t : Nat) (f : Thread → Thread) : (onThread g t f).gang = g.gang := rfl
@[simp] theorem onThread_pendFaults (g : Group) (t : Nat) (f : Thread → Thread) : (onThread g t f).pendFaults = g.pendFaults := rfl
@[simp] theorem onThread_ordPasses (g : Group) (t : Nat) (f : Thread → Thread) : (onThread g t f).ordPasses = g.ordPasses := rfl
@[simp] theorem onThread_pendLate (g : Group) (t : Nat) (f : Thread → Thread) : (onThread g t f).pendLate = g.pendLate := rfl
@[simp] theorem onThread_pendBreach (g : Group) (t : Nat) (f : Thread → Thread) : (onThread g t f).pendBreach = g.pendBreach := rfl
@[simp] theorem onThread_qwin (g : Group) (t : Nat) (f : Thread → Thread) : (onThread g t f).qwin = g.qwin := rfl
@[simp] theorem onThread_rc (g : Group) (t : Nat) (f : Thread → Thread) : (onThread g t f).rc = g.rc := rfl
@[simp] theorem onThread_sb (g : Group) (t : Nat) (f : Thread → Thread) : (onThread g t f).sb = g.sb := rfl
@[simp] theorem onThread_poison (g : Group) (t : Nat) (f : Thread → Thread) : (onThread g t f).poison = g.poison := rfl
@[simp] theorem onThread_turn (g : Group) (t : Nat) (f : Thread → Thread) : (onThread g t f).turn = g.turn := rfl
@[simp] theorem onThread_next (g : Group) (t : Nat) (f : Thread → Thread) : (onThread g t f).next = g.next := rfl
@[simp] theorem onThread_wanted (g : Group) (t : Nat) (f : Thread → Thread) : (onThread g t f).wanted = g.wanted := rfl
@[simp] theorem onThread_instantiated (g : Group) (t : Nat) (f : Thread → Thread) : (onThread g t f).instantiated = g.instantiated := rfl
@[simp] theorem onThread_saved (g : Group) (t : Nat) (f : Thread → Thread) : (onThread g t f).saved = g.saved := rfl
@[simp] theorem onThread_discarded (g : Group) (t : Nat) (f : Thread → Thread) : (onThread g t f).discarded = g.discarded := rfl
@[simp] theorem onThread_halted (g : Group) (t : Nat) (f : Thread → Thread) : (onThread g t f).halted = g.halted := rfl
@[simp] theorem onThread_moving (g : Group) (t : Nat) (f : Thread → Thread) : (onThread g t f).moving = g.moving := rfl
@[simp] theorem onThread_moveTo (g : Group) (t : Nat) (f : Thread → Thread) : (onThread g t f).moveTo = g.moveTo := rfl
@[simp] theorem onThread_residentAt (g : Group) (t : Nat) (f : Thread → Thread) : (onThread g t f).residentAt = g.residentAt := rfl
@[simp] theorem onThread_quantumAt (g : Group) (t : Nat) (f : Thread → Thread) : (onThread g t f).quantumAt = g.quantumAt := rfl
@[simp] theorem onThread_idleAt (g : Group) (t : Nat) (f : Thread → Thread) : (onThread g t f).idleAt = g.idleAt := rfl
@[simp] theorem onThread_asked (g : Group) (t : Nat) (f : Thread → Thread) : (onThread g t f).asked = g.asked := rfl
@[simp] theorem onThread_waitAt (g : Group) (t : Nat) (f : Thread → Thread) : (onThread g t f).waitAt = g.waitAt := rfl
@[simp] theorem onThread_waitTick (g : Group) (t : Nat) (f : Thread → Thread) : (onThread g t f).waitTick = g.waitTick := rfl
@[simp] theorem onThread_yieldAt (g : Group) (t : Nat) (f : Thread → Thread) : (onThread g t f).yieldAt = g.yieldAt := rfl
@[simp] theorem onThread_dzeroAt (g : Group) (t : Nat) (f : Thread → Thread) : (onThread g t f).dzeroAt = g.dzeroAt := rfl
@[simp] theorem onThread_unmet (g : Group) (t : Nat) (f : Thread → Thread) : (onThread g t f).unmet = g.unmet := rfl
@[simp] theorem onThread_cClean (g : Group) (t : Nat) (f : Thread → Thread) : (onThread g t f).cClean = g.cClean := rfl

@[simp] theorem setV_gid (g : Group) (t : Nat) (r : VReg) (x : Word) : (setV g t r x).gid = g.gid := rfl
@[simp] theorem setV_ctx (g : Group) (t : Nat) (r : VReg) (x : Word) : (setV g t r x).ctx = g.ctx := rfl
@[simp] theorem setV_core (g : Group) (t : Nat) (r : VReg) (x : Word) : (setV g t r x).core = g.core := rfl
@[simp] theorem setV_gidx (g : Group) (t : Nat) (r : VReg) (x : Word) : (setV g t r x).gidx = g.gidx := rfl
@[simp] theorem setV_partner (g : Group) (t : Nat) (r : VReg) (x : Word) : (setV g t r x).partner = g.partner := rfl
@[simp] theorem setV_d (g : Group) (t : Nat) (r : VReg) (x : Word) : (setV g t r x).d = g.d := rfl
@[simp] theorem setV_x (g : Group) (t : Nat) (r : VReg) (x : Word) : (setV g t r x).x = g.x := rfl
@[simp] theorem setV_base (g : Group) (t : Nat) (r : VReg) (x : Word) : (setV g t r x).base = g.base := rfl
@[simp] theorem setV_place (g : Group) (t : Nat) (r : VReg) (x : Word) : (setV g t r x).place = g.place := rfl
@[simp] theorem setV_cond (g : Group) (t : Nat) (r : VReg) (x : Word) : (setV g t r x).cond = g.cond := rfl
@[simp] theorem setV_s (g : Group) (t : Nat) (r : VReg) (x : Word) : (setV g t r x).s = g.s := rfl
@[simp] theorem setV_c (g : Group) (t : Nat) (r : VReg) (x : Word) : (setV g t r x).c = g.c := rfl
@[simp] theorem setV_loops (g : Group) (t : Nat) (r : VReg) (x : Word) : (setV g t r x).loops = g.loops := rfl
@[simp] theorem setV_mode (g : Group) (t : Nat) (r : VReg) (x : Word) : (setV g t r x).mode = g.mode := rfl
@[simp] theorem setV_flags (g : Group) (t : Nat) (r : VReg) (x : Word) : (setV g t r x).flags = g.flags := rfl
@[simp] theorem setV_fmask (g : Group) (t : Nat) (r : VReg) (x : Word) : (setV g t r x).fmask = g.fmask := rfl
@[simp] theorem setV_tcause (g : Group) (t : Nat) (r : VReg) (x : Word) : (setV g t r x).tcause = g.tcause := rfl
@[simp] theorem setV_tframe (g : Group) (t : Nat) (r : VReg) (x : Word) : (setV g t r x).tframe = g.tframe := rfl
@[simp] theorem setV_frame (g : Group) (t : Nat) (r : VReg) (x : Word) : (setV g t r x).frame = g.frame := rfl
@[simp] theorem setV_task (g : Group) (t : Nat) (r : VReg) (x : Word) : (setV g t r x).task = g.task := rfl
@[simp] theorem setV_dispatch (g : Group) (t : Nat) (r : VReg) (x : Word) : (setV g t r x).dispatch = g.dispatch := rfl
@[simp] theorem setV_restart (g : Group) (t : Nat) (r : VReg) (x : Word) : (setV g t r x).restart = g.restart := rfl
@[simp] theorem setV_region (g : Group) (t : Nat) (r : VReg) (x : Word) : (setV g t r x).region = g.region := rfl
@[simp] theorem setV_barPend (g : Group) (t : Nat) (r : VReg) (x : Word) : (setV g t r x).barPend = g.barPend := rfl
@[simp] theorem setV_barBroken (g : Group) (t : Nat) (r : VReg) (x : Word) : (setV g t r x).barBroken = g.barBroken := rfl
@[simp] theorem setV_barPc (g : Group) (t : Nat) (r : VReg) (x : Word) : (setV g t r x).barPc = g.barPc := rfl
@[simp] theorem setV_hold (g : Group) (t : Nat) (r : VReg) (x : Word) : (setV g t r x).hold = g.hold := rfl
@[simp] theorem setV_gang (g : Group) (t : Nat) (r : VReg) (x : Word) : (setV g t r x).gang = g.gang := rfl
@[simp] theorem setV_pendFaults (g : Group) (t : Nat) (r : VReg) (x : Word) : (setV g t r x).pendFaults = g.pendFaults := rfl
@[simp] theorem setV_ordPasses (g : Group) (t : Nat) (r : VReg) (x : Word) : (setV g t r x).ordPasses = g.ordPasses := rfl
@[simp] theorem setV_pendLate (g : Group) (t : Nat) (r : VReg) (x : Word) : (setV g t r x).pendLate = g.pendLate := rfl
@[simp] theorem setV_pendBreach (g : Group) (t : Nat) (r : VReg) (x : Word) : (setV g t r x).pendBreach = g.pendBreach := rfl
@[simp] theorem setV_qwin (g : Group) (t : Nat) (r : VReg) (x : Word) : (setV g t r x).qwin = g.qwin := rfl
@[simp] theorem setV_rc (g : Group) (t : Nat) (r : VReg) (x : Word) : (setV g t r x).rc = g.rc := rfl
@[simp] theorem setV_sb (g : Group) (t : Nat) (r : VReg) (x : Word) : (setV g t r x).sb = g.sb := rfl
@[simp] theorem setV_turn (g : Group) (t : Nat) (r : VReg) (x : Word) : (setV g t r x).turn = g.turn := rfl
@[simp] theorem setV_next (g : Group) (t : Nat) (r : VReg) (x : Word) : (setV g t r x).next = g.next := rfl
@[simp] theorem setV_wanted (g : Group) (t : Nat) (r : VReg) (x : Word) : (setV g t r x).wanted = g.wanted := rfl
@[simp] theorem setV_instantiated (g : Group) (t : Nat) (r : VReg) (x : Word) : (setV g t r x).instantiated = g.instantiated := rfl
@[simp] theorem setV_saved (g : Group) (t : Nat) (r : VReg) (x : Word) : (setV g t r x).saved = g.saved := rfl
@[simp] theorem setV_discarded (g : Group) (t : Nat) (r : VReg) (x : Word) : (setV g t r x).discarded = g.discarded := rfl
@[simp] theorem setV_halted (g : Group) (t : Nat) (r : VReg) (x : Word) : (setV g t r x).halted = g.halted := rfl
@[simp] theorem setV_moving (g : Group) (t : Nat) (r : VReg) (x : Word) : (setV g t r x).moving = g.moving := rfl
@[simp] theorem setV_moveTo (g : Group) (t : Nat) (r : VReg) (x : Word) : (setV g t r x).moveTo = g.moveTo := rfl
@[simp] theorem setV_residentAt (g : Group) (t : Nat) (r : VReg) (x : Word) : (setV g t r x).residentAt = g.residentAt := rfl
@[simp] theorem setV_quantumAt (g : Group) (t : Nat) (r : VReg) (x : Word) : (setV g t r x).quantumAt = g.quantumAt := rfl
@[simp] theorem setV_idleAt (g : Group) (t : Nat) (r : VReg) (x : Word) : (setV g t r x).idleAt = g.idleAt := rfl
@[simp] theorem setV_asked (g : Group) (t : Nat) (r : VReg) (x : Word) : (setV g t r x).asked = g.asked := rfl
@[simp] theorem setV_waitAt (g : Group) (t : Nat) (r : VReg) (x : Word) : (setV g t r x).waitAt = g.waitAt := rfl
@[simp] theorem setV_waitTick (g : Group) (t : Nat) (r : VReg) (x : Word) : (setV g t r x).waitTick = g.waitTick := rfl
@[simp] theorem setV_yieldAt (g : Group) (t : Nat) (r : VReg) (x : Word) : (setV g t r x).yieldAt = g.yieldAt := rfl
@[simp] theorem setV_dzeroAt (g : Group) (t : Nat) (r : VReg) (x : Word) : (setV g t r x).dzeroAt = g.dzeroAt := rfl
@[simp] theorem setV_unmet (g : Group) (t : Nat) (r : VReg) (x : Word) : (setV g t r x).unmet = g.unmet := rfl
@[simp] theorem setV_cClean (g : Group) (t : Nat) (r : VReg) (x : Word) : (setV g t r x).cClean = g.cClean := rfl

@[simp] theorem setS_gid (g : Group) (r : SReg) (x : Word) : (setS g r x).gid = g.gid := rfl
@[simp] theorem setS_ctx (g : Group) (r : SReg) (x : Word) : (setS g r x).ctx = g.ctx := rfl
@[simp] theorem setS_core (g : Group) (r : SReg) (x : Word) : (setS g r x).core = g.core := rfl
@[simp] theorem setS_gidx (g : Group) (r : SReg) (x : Word) : (setS g r x).gidx = g.gidx := rfl
@[simp] theorem setS_partner (g : Group) (r : SReg) (x : Word) : (setS g r x).partner = g.partner := rfl
@[simp] theorem setS_d (g : Group) (r : SReg) (x : Word) : (setS g r x).d = g.d := rfl
@[simp] theorem setS_x (g : Group) (r : SReg) (x : Word) : (setS g r x).x = g.x := rfl
@[simp] theorem setS_base (g : Group) (r : SReg) (x : Word) : (setS g r x).base = g.base := rfl
@[simp] theorem setS_place (g : Group) (r : SReg) (x : Word) : (setS g r x).place = g.place := rfl
@[simp] theorem setS_cond (g : Group) (r : SReg) (x : Word) : (setS g r x).cond = g.cond := rfl
@[simp] theorem setS_threads (g : Group) (r : SReg) (x : Word) : (setS g r x).threads = g.threads := rfl
@[simp] theorem setS_s (g : Group) (r : SReg) (x : Word) : (setS g r x).s = g.s.set r.toNat x r.isLt := rfl
@[simp] theorem setS_c (g : Group) (r : SReg) (x : Word) : (setS g r x).c = g.c := rfl
@[simp] theorem setS_loops (g : Group) (r : SReg) (x : Word) : (setS g r x).loops = g.loops := rfl
@[simp] theorem setS_mode (g : Group) (r : SReg) (x : Word) : (setS g r x).mode = g.mode := rfl
@[simp] theorem setS_flags (g : Group) (r : SReg) (x : Word) : (setS g r x).flags = g.flags := rfl
@[simp] theorem setS_fmask (g : Group) (r : SReg) (x : Word) : (setS g r x).fmask = g.fmask := rfl
@[simp] theorem setS_tcause (g : Group) (r : SReg) (x : Word) : (setS g r x).tcause = g.tcause := rfl
@[simp] theorem setS_tframe (g : Group) (r : SReg) (x : Word) : (setS g r x).tframe = g.tframe := rfl
@[simp] theorem setS_frame (g : Group) (r : SReg) (x : Word) : (setS g r x).frame = g.frame := rfl
@[simp] theorem setS_task (g : Group) (r : SReg) (x : Word) : (setS g r x).task = g.task := rfl
@[simp] theorem setS_dispatch (g : Group) (r : SReg) (x : Word) : (setS g r x).dispatch = g.dispatch := rfl
@[simp] theorem setS_restart (g : Group) (r : SReg) (x : Word) : (setS g r x).restart = g.restart := rfl
@[simp] theorem setS_region (g : Group) (r : SReg) (x : Word) : (setS g r x).region = g.region := rfl
@[simp] theorem setS_barPend (g : Group) (r : SReg) (x : Word) : (setS g r x).barPend = g.barPend := rfl
@[simp] theorem setS_barBroken (g : Group) (r : SReg) (x : Word) : (setS g r x).barBroken = g.barBroken := rfl
@[simp] theorem setS_barPc (g : Group) (r : SReg) (x : Word) : (setS g r x).barPc = g.barPc := rfl
@[simp] theorem setS_hold (g : Group) (r : SReg) (x : Word) : (setS g r x).hold = g.hold := rfl
@[simp] theorem setS_gang (g : Group) (r : SReg) (x : Word) : (setS g r x).gang = g.gang := rfl
@[simp] theorem setS_pendFaults (g : Group) (r : SReg) (x : Word) : (setS g r x).pendFaults = g.pendFaults := rfl
@[simp] theorem setS_ordPasses (g : Group) (r : SReg) (x : Word) : (setS g r x).ordPasses = g.ordPasses := rfl
@[simp] theorem setS_pendLate (g : Group) (r : SReg) (x : Word) : (setS g r x).pendLate = g.pendLate := rfl
@[simp] theorem setS_pendBreach (g : Group) (r : SReg) (x : Word) : (setS g r x).pendBreach = g.pendBreach := rfl
@[simp] theorem setS_qwin (g : Group) (r : SReg) (x : Word) : (setS g r x).qwin = g.qwin := rfl
@[simp] theorem setS_rc (g : Group) (r : SReg) (x : Word) : (setS g r x).rc = g.rc := rfl
@[simp] theorem setS_sb (g : Group) (r : SReg) (x : Word) : (setS g r x).sb = g.sb := rfl
@[simp] theorem setS_turn (g : Group) (r : SReg) (x : Word) : (setS g r x).turn = g.turn := rfl
@[simp] theorem setS_next (g : Group) (r : SReg) (x : Word) : (setS g r x).next = g.next := rfl
@[simp] theorem setS_wanted (g : Group) (r : SReg) (x : Word) : (setS g r x).wanted = g.wanted := rfl
@[simp] theorem setS_instantiated (g : Group) (r : SReg) (x : Word) : (setS g r x).instantiated = g.instantiated := rfl
@[simp] theorem setS_saved (g : Group) (r : SReg) (x : Word) : (setS g r x).saved = g.saved := rfl
@[simp] theorem setS_discarded (g : Group) (r : SReg) (x : Word) : (setS g r x).discarded = g.discarded := rfl
@[simp] theorem setS_halted (g : Group) (r : SReg) (x : Word) : (setS g r x).halted = g.halted := rfl
@[simp] theorem setS_moving (g : Group) (r : SReg) (x : Word) : (setS g r x).moving = g.moving := rfl
@[simp] theorem setS_moveTo (g : Group) (r : SReg) (x : Word) : (setS g r x).moveTo = g.moveTo := rfl
@[simp] theorem setS_residentAt (g : Group) (r : SReg) (x : Word) : (setS g r x).residentAt = g.residentAt := rfl
@[simp] theorem setS_quantumAt (g : Group) (r : SReg) (x : Word) : (setS g r x).quantumAt = g.quantumAt := rfl
@[simp] theorem setS_idleAt (g : Group) (r : SReg) (x : Word) : (setS g r x).idleAt = g.idleAt := rfl
@[simp] theorem setS_asked (g : Group) (r : SReg) (x : Word) : (setS g r x).asked = g.asked := rfl
@[simp] theorem setS_waitAt (g : Group) (r : SReg) (x : Word) : (setS g r x).waitAt = g.waitAt := rfl
@[simp] theorem setS_waitTick (g : Group) (r : SReg) (x : Word) : (setS g r x).waitTick = g.waitTick := rfl
@[simp] theorem setS_yieldAt (g : Group) (r : SReg) (x : Word) : (setS g r x).yieldAt = g.yieldAt := rfl
@[simp] theorem setS_dzeroAt (g : Group) (r : SReg) (x : Word) : (setS g r x).dzeroAt = g.dzeroAt := rfl
@[simp] theorem setS_unmet (g : Group) (r : SReg) (x : Word) : (setS g r x).unmet = g.unmet := rfl
@[simp] theorem setS_cClean (g : Group) (r : SReg) (x : Word) : (setS g r x).cClean = g.cClean := rfl

end Sys2Proof.Machine
end

