-- ==== Sys2Proof/Laws/Group.lean ====
section
/-! SUPPORT. Threads, groups and registers: a read after a write, and what a write leaves alone. -/

namespace Sys2Proof.Machine

/-! ## Threads of a group -/

theorem thread_setThread {g : Group} {t u : Nat} {th : Thread} (ht : t < 32) :
    thread (setThread g t th) u = if u = t then th else thread g u := by
  simp only [thread, setThread, Vector.set!_eq_setIfInBounds, Vector.toArray_setIfInBounds, Array.getD_eq_getD_getElem?,
    Array.getElem?_setIfInBounds, Vector.size_toArray]
  by_cases h : t = u
  · subst u; simp [ht]
  · have h' : ¬ u = t := fun e => h e.symm
    simp [h, h']

theorem thread_onThread {g : Group} {t u : Nat} {f : Thread → Thread} (ht : t < 32) :
    thread (onThread g t f) u = if u = t then f (thread g t) else thread g u := thread_setThread ht

theorem thread_out {g : Group} {t : Nat} (h : 32 ≤ t) : thread g t = {} := by
  simp [thread, h]

/-- Groups whose threads read alike have the same threads. -/
theorem threads_ext {a b : Vector Thread 32} (h : ∀ t, t < 32 → a.toArray.getD t {} = b.toArray.getD t {}) : a = b := by
  apply Vector.ext
  intro i hi
  have := h i hi
  simpa [Array.getD, hi] using this

theorem setThread_thread (g : Group) (t : Nat) (ht : t < 32) : setThread g t (thread g t) = g := by
  have h : g.threads.set! t (thread g t) = g.threads := by
    apply threads_ext
    intro u _
    have := thread_setThread (g := g) (u := u) (th := thread g t) ht
    simp only [thread, setThread] at this ⊢
    rw [this]
    split
    · subst u; rfl
    · rfl
  simp only [setThread, h]

/-- Where every thread of a list gets its own update, a thread of the list has its own and any other none. -/
theorem thread_foldl_onThread {g : Group} {ts : List Nat} {f : Nat → Thread → Thread} (hn : ts.Nodup) (hb : ∀ t ∈ ts, t < 32)
    (u : Nat) : thread (ts.foldl (fun h t => onThread h t (f t)) g) u = if u ∈ ts then f u (thread g u) else thread g u := by
  induction ts generalizing g with
  | nil => simp
  | cons t rest ih =>
    have hn' := List.nodup_cons.mp hn
    rw [List.foldl_cons, ih hn'.2 fun x hx => hb x (List.mem_cons_of_mem _ hx)]
    rw [thread_onThread (hb t (List.mem_cons_self ..))]
    by_cases hu : u = t
    · subst u
      simp [hn'.1]
    · simp [hu]

theorem foldl_onThread_group (g : Group) (ts : List Nat) (f : Nat → Thread → Thread) :
    ∃ v, ts.foldl (fun h t => onThread h t (f t)) g = { g with threads := v } := by
  induction ts generalizing g with
  | nil => exact ⟨_, rfl⟩
  | cons t rest ih => exact ih (onThread g t (f t))

/-! ## Groups of a device -/

theorem findGroup_putGroup_self {gs : List Group} {g h : Group} (hf : findGroup gs g.gid = some h) :
    findGroup (putGroup gs g) g.gid = some g := by
  induction gs with
  | nil => simp [findGroup] at hf
  | cons x rest ih =>
    simp only [putGroup]
    split
    · simp [findGroup]
    · rename_i hx
      simp only [findGroup, hx, if_false] at hf ⊢
      exact ih hf

theorem findGroup_putGroup_other {gs : List Group} {g : Group} {id : Nat} (h : id ≠ g.gid) :
    findGroup (putGroup gs g) id = findGroup gs id := by
  induction gs with
  | nil => rfl
  | cons x rest ih =>
    simp only [putGroup]
    split
    · rename_i hx
      simp only [findGroup]
      rw [if_neg (fun e => h e.symm), if_neg (fun e => h (by rw [← e, hx]))]
    · simp only [findGroup]
      split
      · rfl
      · exact ih

theorem group?_setGroup_self {dv : Device} {g h : Group} (hf : dv.group? g.gid = some h) :
    (dv.setGroup g).group? g.gid = some g := findGroup_putGroup_self hf

theorem group?_setGroup_other {dv : Device} {g : Group} {id : Nat} (h : id ≠ g.gid) :
    (dv.setGroup g).group? id = dv.group? id := findGroup_putGroup_other h

theorem findGroup_gid {gs : List Group} {id : Nat} {g : Group} (h : findGroup gs id = some g) : g.gid = id := by
  induction gs with
  | nil => simp [findGroup] at h
  | cons x rest ih =>
    simp only [findGroup] at h
    split at h
    · rename_i hx; cases h; exact hx
    · exact ih h

/-! ## Slots -/

theorem slots_nodup : slots.Nodup := List.nodup_range

theorem mem_slots {t : Nat} : t ∈ slots ↔ t < 32 := List.mem_range

theorem presentOf_nodup (g : Group) (turn : Turn) (pc : DWord) : (presentOf g turn pc).Nodup := slots_nodup.filter _

theorem activeOf_nodup (op : Op) (g : Group) {l : List Nat} (h : l.Nodup) : (activeOf op g l).Nodup := h.filter _

theorem mem_presentOf {g : Group} {turn : Turn} {pc : DWord} {t : Nat} :
    t ∈ presentOf g turn pc ↔ t < 32 ∧ isRun (thread g t) = true ∧ (thread g t).pc = pc ∧ mayRun turn t = true := by
  simp only [presentOf, List.mem_filter, mem_slots, Bool.and_eq_true, beq_iff_eq, and_assoc]

theorem mem_activeOf {op : Op} {g : Group} {l : List Nat} {t : Nat} :
    t ∈ activeOf op g l ↔ t ∈ l ∧ guardOf op (thread g t) = true := by
  simp only [activeOf, List.mem_filter]

end Sys2Proof.Machine
end

