-- ==== Sys2Proof/Laws/Memory.lean ====
section
/-! SUPPORT. Memory: every operation keeps the canonical form, a read after a write, equal reads of equal memories. -/

namespace Sys2Proof.Machine

theorem memWfFrom_mono {j k : Nat} {m : Memory} (hjk : j ≤ k) (h : memWfFrom k m = true) : memWfFrom j m = true := by
  cases m with
  | nil => rfl
  | cons c rest =>
    simp only [memWfFrom, Bool.and_eq_true, decide_eq_true_eq] at h ⊢
    exact ⟨⟨by omega, h.1.2⟩, h.2⟩

/-- A key below every listed key reads the byte of an unlisted one. -/
theorem memGet_below {k a : Nat} {m : Memory} (h : memWfFrom k m = true) (ha : a < k) : memGet m a = 0 := by
  induction m generalizing k with
  | nil => rfl
  | cons c rest ih =>
    simp only [memWfFrom, Bool.and_eq_true, decide_eq_true_eq] at h
    rw [memGet, if_neg (by omega)]
    exact ih h.2 (by omega)

/-- A write keeps the canonical form. -/
theorem memSet_wfFrom {j k : Nat} {b : Byte} {m : Memory} (hjk : j ≤ k) (h : memWfFrom j m = true) :
    memWfFrom j (memSet m k b) = true := by
  induction m generalizing j with
  | nil =>
    simp only [memSet]
    split
    · rfl
    · simp_all [memWfFrom]
  | cons c rest ih =>
    obtain ⟨a, c⟩ := c
    simp only [memWfFrom, Bool.and_eq_true, decide_eq_true_eq] at h
    obtain ⟨⟨h1, h2⟩, h3⟩ := h
    simp only [memSet]
    split
    · split
      · simp_all [memWfFrom]
      · simp only [memWfFrom, Bool.and_eq_true, decide_eq_true_eq]
        exact ⟨⟨hjk, by simpa using ‹¬b = 0›⟩, ⟨⟨by omega, h2⟩, h3⟩⟩
    · split
      · split
        · exact memWfFrom_mono (by omega) h3
        · subst k
          simp only [memWfFrom, Bool.and_eq_true, decide_eq_true_eq]
          exact ⟨⟨h1, by simpa using ‹¬b = 0›⟩, h3⟩
      · simp only [memWfFrom, Bool.and_eq_true, decide_eq_true_eq]
        exact ⟨⟨h1, h2⟩, ih (by omega) h3⟩

theorem memSet_wf {k : Nat} {b : Byte} {m : Memory} (h : m.wf = true) : Memory.wf (memSet m k b) = true :=
  memSet_wfFrom (Nat.zero_le k) h

theorem memWriteAll_wf {log : List Host.Cell} {m : Memory} (h : m.wf = true) : Memory.wf (memWriteAll m log) = true := by
  induction log with
  | nil => exact h
  | cons c older ih => exact memSet_wf ih

/-- The end of a step keeps the canonical form. -/
theorem commit_wf {s : State} {dv : Device} (h : s.mem.wf = true) : (commit s dv).mem.wf = true := memWriteAll_wf h

@[simp] theorem commit_log (s : State) (dv : Device) : (commit s dv).dev.log = [] := rfl

theorem filter_wfFrom {k : Nat} {m : Memory} (p : Host.Cell → Bool) (h : memWfFrom k m = true) :
    memWfFrom k (m.filter p) = true := by
  induction m generalizing k with
  | nil => rfl
  | cons c rest ih =>
    obtain ⟨a, c⟩ := c
    simp only [memWfFrom, Bool.and_eq_true, decide_eq_true_eq] at h
    rw [List.filter_cons]
    split
    · simp only [memWfFrom, Bool.and_eq_true, decide_eq_true_eq]
      exact ⟨h.1, ih h.2⟩
    · exact memWfFrom_mono (by omega) (ih h.2)

/-- Removing cells keeps the canonical form. -/
theorem filter_wf {m : Memory} (p : Host.Cell → Bool) (h : m.wf = true) : Memory.wf (m.filter p) = true := filter_wfFrom p h

/-- A read after a write of one byte. -/
theorem memGet_memSet {j k a : Nat} {b : Byte} {m : Memory} (h : memWfFrom j m = true) :
    memGet (memSet m k b) a = if a = k then b else memGet m a := by
  induction m generalizing j with
  | nil =>
    simp only [memSet]
    by_cases hb : b = 0
    · rw [if_pos hb, memGet, hb, ite_self]
    · rw [if_neg hb, memGet, memGet]
      by_cases ha : a = k
      · rw [if_pos ha, if_pos ha.symm]
      · rw [if_neg ha, if_neg (fun e => ha e.symm)]; rfl
  | cons c rest ih =>
    obtain ⟨x, c⟩ := c
    simp only [memWfFrom, Bool.and_eq_true, decide_eq_true_eq] at h
    simp only [memSet]
    split
    · by_cases hb : b = 0
      · rw [if_pos hb]
        split
        · subst a; subst b
          rw [memGet, if_neg (by omega), memGet_below h.2 (by omega)]
        · rfl
      · rw [if_neg hb]
        by_cases ha : a = k
        · subst a; simp [memGet]
        · rw [if_neg ha, memGet, if_neg (fun e => ha e.symm)]
    · split
      · subst k
        by_cases hb : b = 0
        · rw [if_pos hb]
          by_cases ha : a = x
          · subst a; subst b; rw [if_pos rfl, memGet_below h.2 (by omega)]
          · rw [if_neg ha, memGet, if_neg (fun e => ha e.symm)]
        · rw [if_neg hb]
          by_cases ha : a = x
          · subst a; simp [memGet]
          · rw [if_neg ha, memGet, memGet, if_neg (fun e => ha e.symm), if_neg (fun e => ha e.symm)]
      · rw [memGet, memGet]
        split
        · subst a
          rw [if_neg (by omega)]
        · exact ih h.2

/-- A read after the writes of a step: the newest cell of the key, else what memory held. -/
theorem memGet_memWriteAll {log : List Host.Cell} {m : Memory} (h : m.wf = true) (a : Nat) :
    memGet (memWriteAll m log) a = match log.find? (fun c => c.1 == a) with
      | some c => c.2
      | none => memGet m a := by
  induction log with
  | nil => rfl
  | cons c older ih =>
    obtain ⟨k, b⟩ := c
    rw [memWriteAll, memGet_memSet (j := 0) (memWriteAll_wf h), List.find?_cons]
    by_cases ha : a = k
    · subst a; simp
    · rw [if_neg ha, ih]
      have hk : (k == a) = false := beq_false_of_ne fun e => ha e.symm
      simp only [hk]

/-- What a step sees of a key is what memory holds once the step has ended. -/
theorem memGet_commit {s : State} {dv : Device} (h : s.mem.wf = true) (a : Nat) :
    memGet (commit s dv).mem a = peek s.mem dv a := memGet_memWriteAll h a

/-- A step that writes nothing leaves memory and the histories as they are. -/
theorem noteDeck_nil (o : DeckOp) : noteDeck [] o = o := rfl

theorem noteCmd_nil (c : Cmd) : noteCmd [] c = c := by
  simp only [noteCmd]
  split <;> rfl

theorem map_noteCmd_nil (l : List Cmd) : l.map (noteCmd []) = l := by
  rw [show noteCmd [] = id from funext noteCmd_nil, List.map_id]

theorem map_noteDeck_nil (l : List DeckOp) : l.map (noteDeck []) = l := by
  rw [show noteDeck [] = id from funext noteDeck_nil, List.map_id]

/-- The end of a step that has written nothing. -/
theorem commit_quiet {s : State} {dv : Device} (h : dv.log = []) : commit s dv = { mem := s.mem, dev := dv } := by
  simp only [commit, h, replaced, List.map_nil, memWriteAll, map_noteCmd_nil, map_noteDeck_nil]
  cases dv
  simp_all

/-! ## Check values (R236, R441) -/

/-- A sector's stored check value is that of its bytes where the two do not differ. -/
theorem storedCheck_eq_iff (m : Memory) (dv : Device) (sector : Nat) :
    storedCheck m dv sector = checkValue (peekBytes m dv (sector * 32) 32) ↔ checkDiff dv sector = 0 := by
  rw [storedCheck]
  constructor <;> intro h
  · have := congrArg (checkValue (peekBytes m dv (sector * 32) 32) ^^^ ·) h
    rw [← BitVec.xor_assoc, BitVec.xor_self, BitVec.zero_xor] at this
    exact this
  · rw [h]
    exact BitVec.xor_zero

/-- A byte whose sector's stored check value does not match reads as uncorrectable, under every key. -/
theorem badSector_of_mismatch (m : Memory) (dv : Device) (key dom : Nat)
    (h : storedCheck m dv (sectorOf key) ≠ checkValue (peekBytes m dv (sectorOf key * 32) 32)) : badSector dv key dom = true := by
  have := mt (storedCheck_eq_iff m dv (sectorOf key)).2 h
  rw [badSector, Bool.or_eq_true, bne_iff_ne]
  exact .inl this

end Sys2Proof.Machine
end

