-- ==== Sys2Proof/Laws/Pass.lean ====
section
/-! SUPPORT. What one pass does, said once: an instruction that executes normally takes its pass at once. -/

namespace Sys2Proof.Machine

theorem dieOf_lt (core : Nat) : dieOf core < 4 := Nat.mod_lt _ (by decide)

/-- Putting back what stands there changes nothing. -/
theorem setDie_die (dv : Device) (n : Nat) : dv.setDie n (dv.die n) = dv := by
  have : dv.dies.set! n (dv.die n) = dv.dies := by
    apply Vector.ext
    intro i hi
    simp only [Vector.set!_eq_setIfInBounds, Vector.getElem_setIfInBounds, Device.die]
    split
    · subst i; simp [hi]
    · rfl
  simp only [Device.setDie, this]

theorem spend_zero (dv : Device) (core : Nat) : dv.spend core 0 = dv := by
  have h := setDie_die dv (dieOf core)
  simpa [Device.spend] using h

theorem cyclesUntil_past {dv : Device} {core tick : Nat} (h : tick ≤ dv.tickOf core) : cyclesUntil dv core tick = 0 := by
  simp only [cyclesUntil]
  generalize spanTicks _ = n
  rw [show tick - dv.tickOf core = 0 by omega, Nat.zero_add]
  cases n with
  | zero => rfl
  | succ k => exact Nat.div_eq_of_lt (by omega)

/-- Gates that are open for every thread of a list are open for the list. -/
theorem gates_open {m : Memory} {op : Op} {info : PassInfo} {ts : List Nat} {w : Work}
    (h : ∀ t ∈ ts, op.gate m info t w = none) : gates m op info ts w = none := by
  simp only [gates]
  induction ts with
  | nil => rfl
  | cons t rest ih =>
    simp only [List.foldl_cons, Option.map_none, Option.getD_none, h t (List.mem_cons_self ..)]
    exact ih fun u hu => h u (List.mem_cons_of_mem _ hu)

/-- An instruction that executes normally takes its pass at once. -/
theorem runPass_runs {dec : Nat → Option Op} {op : Op} {s : State} {g : Group} {turn : Turn} {pc : DWord}
    (r : Runs op s g turn pc) :
    runPass dec op s = .next (commit s (takePass s.mem dec op turn (passInfo op s g turn pc) (presentOf g turn pc)
      (actives op g turn pc) { d := s.dev, g := g })) := by
  obtain ⟨k, hk, hk'⟩ := r.regs
  have hp : passPc g turn = some pc := by rw [passPc, r.fresh]; exact r.first
  have ht : max k (fwdsWhen (rdOf s.dev g turn) op (presentOf g turn pc) (actives op g turn pc)) ≤ s.dev.tickOf g.core :=
    Nat.max_le.mpr ⟨hk', r.fwds⟩
  have hi : issue s.mem dec op turn pc (presentOf g turn pc) (actives op g turn pc) { d := s.dev, g := g } =
      takePass s.mem dec op turn (passInfo op s g turn pc) (presentOf g turn pc) (actives op g turn pc)
        { d := s.dev, g := g } := by
    have hg : gates s.mem op (infoOf s.dev (rdOf s.dev g turn) g pc (actives op g turn pc))
        (if op.uniform = true then (actives op g turn pc).take 1 else actives op g turn pc) { d := s.dev, g := g } = none := by
      apply gates_open
      intro t h
      apply r.open_
      split at h
      · exact List.mem_of_mem_take h
      · exact h
    simp only [issue, r.room, r.resolved, hk, Bool.or_self, Bool.false_eq_true, if_false]
    rw [if_neg (fun h => absurd h.1 (by omega))]
    simp only [cyclesUntil_past ht, spend_zero]
    rw [hg]
    rfl
  simp only [runPass, passDev, r.focus, Option.bind_some, r.here, r.hasTurn, hp, r.legal, Bool.false_eq_true, if_false,
    r.operands, Bool.not_true]
  exact congrArg (fun d => Host.Outcome.next (commit s d)) hi

end Sys2Proof.Machine
end

