-- ==== Sys2Proof/Laws/DonePass.lean ====
section
/-! SUPPORT. What follows the threads of a pass that no fault ends, for any instruction. -/

namespace Sys2Proof.Machine

theorem popLevels_nil (pc : DWord) (ls : List Level) : popLevels [] pc ls = ls := by
  induction ls with
  | nil => rfl
  | cons l rest ih => simp [popLevels, ih]

theorem popLoops_nil (g : Group) : popLoops [] g = g := by
  simp only [popLoops]
  split
  · rw [popLevels_nil]
  · rfl

/-- Making operand-cache entries valid changes the marks alone. -/
theorem validate_group (g : Group) (ks : List CReg) : ∃ c, validate g ks = { g with c := c } ∧
    ∀ k (h : k < 8), ((c)[k]).map (·.reg) = (g.c[k]).map (·.reg) := by
  simp only [validate]
  induction ks generalizing g with
  | nil => exact ⟨g.c, rfl, fun _ _ => rfl⟩
  | cons a rest ih =>
    obtain ⟨c, hc, hk⟩ := ih { g with c := g.c.set a.toNat ((g.c[a.toNat]'(a.isLt)).map fun e => { e with valid := true }) a.isLt }
    refine ⟨c, hc, fun k h => ?_⟩
    rw [hk k h]
    simp only [Vector.getElem_set]
    split
    · rename_i q; subst q
      simp only [Option.map_map]
      rfl
    · rfl

theorem readyQ_group (at_ : Nat) (g : Group) : ∃ q, readyQ at_ g = { g with qwin := q } ∧
    ∀ u, (q.toArray.getD u []).map (·.value) = (g.qwin.toArray.getD u []).map (·.value) := by
  refine ⟨_, rfl, fun u => ?_⟩
  simp only [Vector.toArray_map, Array.getD_eq_getD_getElem?, Array.getElem?_map]
  cases h : g.qwin.toArray[u]? with
  | none => rfl
  | some l =>
    simp only [Option.map_some, Option.getD_some, List.map_map]
    apply List.map_congr_left
    intro e _
    simp only [Function.comp]
    split <;> rfl

theorem passBy_thread {op : Op} {pc : DWord} {ts : List Nat} (hn : ts.Nodup) (hb : ∀ t ∈ ts, t < 32) (g : Group) (u : Nat) :
    thread (passBy op pc ts g) u =
      if u ∈ ts then { thread g u with pc := pc + BitVec.ofNat 64 op.size } else thread g u :=
  thread_foldl_onThread (f := fun _ th => { th with pc := pc + BitVec.ofNat 64 op.size }) hn hb u

theorem passBy_group (op : Op) (pc : DWord) (ts : List Nat) (g : Group) : ∃ v, passBy op pc ts g = { g with threads := v } :=
  foldl_onThread_group g ts fun _ th => { th with pc := pc + BitVec.ofNat 64 op.size }

/-- The device after such a pass. -/
structure Closed (gid : Nat) (before after : Device) (g' : Group) : Prop where
  rest : { after with groups := before.groups, dies := before.dies, steps := before.steps, focus := before.focus } = before
  groups : after.groups = putGroup before.groups g'

/-- Two groups that differ at most in what every pass may change. -/
def SameRest (h F : Group) : Prop :=
  { F with threads := h.threads, c := h.c, turn := h.turn, rc := h.rc, sb := h.sb, qwin := h.qwin, loops := h.loops } = h

theorem SameRest.threads {h F : Group} {v : Vector Thread 32} (e : F = { h with threads := v }) : SameRest h F := by
  subst e; rfl

theorem SameRest.trans {h F G : Group} (q : SameRest h F) (p : SameRest F G) : SameRest h G := by
  have q1 := congrArg (fun x : Group =>
    { x with threads := h.threads, c := h.c, turn := h.turn, rc := h.rc, sb := h.sb, qwin := h.qwin, loops := h.loops }) p
  exact q1.trans q

section
variable {op : Op} {r : Run} {info : PassInfo} {span tick : Nat} {g : Group} {pc : DWord} {quiet active : List Nat}

theorem countPass_rest : SameRest g (countPass op r info span g) := rfl
theorem countPass_thread (u : Nat) : thread (countPass op r info span g) u = thread g u := rfl
theorem countPass_rc : (countPass op r info span g).rc = g.rc + 1 := rfl
theorem countPass_c : (countPass op r info span g).c = g.c := rfl
theorem countPass_qwin : (countPass op r info span g).qwin = g.qwin := rfl
theorem countPass_loops : (countPass op r info span g).loops = g.loops := rfl

theorem pushPass_eq : ∃ q : Vector (List QEntry) 32, pushPass r tick g = { g with qwin := q } ∧
    ∀ u, (q.toArray.getD u []).map (·.value) = (g.qwin.toArray.getD u []).map (·.value) := by
  simp only [pushPass]
  split
  · exact readyQ_group tick g
  · exact ⟨g.qwin, rfl, fun _ => rfl⟩

theorem pushPass_rest : SameRest g (pushPass r tick g) := by
  obtain ⟨q, e, _⟩ := pushPass_eq (r := r) (tick := tick) (g := g)
  rw [e]; rfl

theorem pushPass_thread (u : Nat) : thread (pushPass r tick g) u = thread g u := by
  obtain ⟨q, e, _⟩ := pushPass_eq (r := r) (tick := tick) (g := g)
  rw [e]; rfl

theorem pushPass_rc : (pushPass r tick g).rc = g.rc := by
  obtain ⟨q, e, _⟩ := pushPass_eq (r := r) (tick := tick) (g := g)
  rw [e]

theorem pushPass_c : (pushPass r tick g).c = g.c := by
  obtain ⟨q, e, _⟩ := pushPass_eq (r := r) (tick := tick) (g := g)
  rw [e]

theorem pushPass_qwin (u : Nat) : ((pushPass r tick g).qwin.toArray.getD u []).map (·.value) =
    (g.qwin.toArray.getD u []).map (·.value) := by
  obtain ⟨q, e, h⟩ := pushPass_eq (r := r) (tick := tick) (g := g)
  rw [e]; exact h u

theorem pushPass_loops : (pushPass r tick g).loops = g.loops := by
  obtain ⟨q, e, _⟩ := pushPass_eq (r := r) (tick := tick) (g := g)
  rw [e]

/-- What passing by the threads with a false guard and refilling the operand cache change. -/
theorem quietPass_eq (before : Group) : ∃ (v : Vector Thread 32) (c : Vector (Option CEntry) 8),
    quietPass op pc quiet active before g = { g with threads := v, c := c } ∧
    (∀ (k : Nat) (q : k < 8), Option.map CEntry.reg ((c)[k]) = Option.map CEntry.reg (g.c[k])) := by
  obtain ⟨v, hv⟩ := passBy_group op pc quiet g
  have h1 : ∃ v, (if op.uniform ∧ active ≠ [] then g else passBy op pc quiet g) = { g with threads := v } := by
    split
    · exact ⟨g.threads, rfl⟩
    · exact ⟨v, hv⟩
  obtain ⟨v1, h1⟩ := h1
  simp only [quietPass, h1]
  split
  · exact ⟨v1, g.c, rfl, fun _ _ => rfl⟩
  · obtain ⟨c, hc, hk⟩ := validate_group { g with threads := v1 } (refills before op.pos)
    exact ⟨v1, c, hc, hk⟩

theorem quietPass_rest (before : Group) : SameRest g (quietPass op pc quiet active before g) := by
  obtain ⟨v, c, e, _⟩ := quietPass_eq (op := op) (pc := pc) (quiet := quiet) (active := active) (g := g) before
  rw [e]; rfl

theorem quietPass_rc (before : Group) : (quietPass op pc quiet active before g).rc = g.rc := by
  obtain ⟨v, c, e, _⟩ := quietPass_eq (op := op) (pc := pc) (quiet := quiet) (active := active) (g := g) before
  rw [e]

theorem quietPass_qwin (before : Group) : (quietPass op pc quiet active before g).qwin = g.qwin := by
  obtain ⟨v, c, e, _⟩ := quietPass_eq (op := op) (pc := pc) (quiet := quiet) (active := active) (g := g) before
  rw [e]

theorem quietPass_loops (before : Group) : (quietPass op pc quiet active before g).loops = g.loops := by
  obtain ⟨v, c, e, _⟩ := quietPass_eq (op := op) (pc := pc) (quiet := quiet) (active := active) (g := g) before
  rw [e]

theorem quietPass_bound (before : Group) (k : Nat) (q : k < 8) :
    Option.map CEntry.reg ((quietPass op pc quiet active before g).c[k]) = Option.map CEntry.reg (g.c[k]) := by
  obtain ⟨v, c, e, h⟩ := quietPass_eq (op := op) (pc := pc) (quiet := quiet) (active := active) (g := g) before
  have := h k q
  simp only [e]
  exact this

theorem validate_thread (ks : List CReg) (u : Nat) : thread (validate g ks) u = thread g u := by
  obtain ⟨c, e, _⟩ := validate_group g ks
  rw [e]; rfl

theorem quietPass_thread (before : Group) (hn : quiet.Nodup) (hb : ∀ t ∈ quiet, t < 32) (ha : active ≠ []) (u : Nat) :
    thread (quietPass op pc quiet active before g) u =
      if op.uniform = false ∧ u ∈ quiet then { thread g u with pc := pc + BitVec.ofNat 64 op.size } else thread g u := by
  cases hu : op.uniform with
  | true => simp [quietPass, hu, ha]
  | false =>
    simp only [quietPass, hu, ha, Bool.false_eq_true, false_and, or_self, if_false, validate_thread, passBy_thread hn hb, true_and]

theorem popLoops_eq (ctl : List DWord) : ∃ ls, popLoops ctl g = { g with loops := ls } := by
  simp only [popLoops]
  split
  · exact ⟨_, rfl⟩
  · exact ⟨g.loops, rfl⟩

theorem loopPass_false (stay : List Nat) : loopPass false stay r g = popLoops r.ctl g := by
  simp only [loopPass, Bool.false_eq_true, false_and, if_false]

theorem loopPass_rest (stay : List Nat) : SameRest g (loopPass false stay r g) := by
  obtain ⟨ls, e⟩ := popLoops_eq (g := g) r.ctl
  rw [loopPass_false, e]; rfl

theorem loopPass_thread (stay : List Nat) (u : Nat) : thread (loopPass false stay r g) u = thread g u := by
  obtain ⟨ls, e⟩ := popLoops_eq (g := g) r.ctl
  rw [loopPass_false, e]; rfl

theorem loopPass_rc (stay : List Nat) : (loopPass false stay r g).rc = g.rc := by
  obtain ⟨ls, e⟩ := popLoops_eq (g := g) r.ctl
  rw [loopPass_false, e]

theorem loopPass_c (stay : List Nat) : (loopPass false stay r g).c = g.c := by
  obtain ⟨ls, e⟩ := popLoops_eq (g := g) r.ctl
  rw [loopPass_false, e]

theorem loopPass_qwin (stay : List Nat) : (loopPass false stay r g).qwin = g.qwin := by
  obtain ⟨ls, e⟩ := popLoops_eq (g := g) r.ctl
  rw [loopPass_false, e]

theorem loopPass_loops (stay : List Nat) (h : r.ctl = []) : (loopPass false stay r g).loops = g.loops := by
  rw [loopPass_false, h, popLoops_nil]

theorem setTurn_rest (x : Option Turn) : SameRest g { g with turn := x } := rfl

end

/-- The group a pass without a fault puts back, before it is put there. -/
def doneGroup (op : Op) (turn : Turn) (info : PassInfo) (present active quiet : List Nat) (w : Work) (r : Run) (span : Nat)
    (d : Device) (g : Group) : Group :=
  let stopped := slots.filter fun t => isRun (thread w.g t) && (thread w.g t).pc == info.pc && !present.contains t
  let g := quietPass op info.pc quiet active w.g g
  let g := yieldPass r d (loopPass false ((present.filter fun t => !r.took.contains t) ++ stopped) r g)
  let turn' := turnPass op turn info r span g
  { g with turn := if overPass r turn' g then none else some turn' }

theorem donePass_group {m : Memory} {op : Op} {turn : Turn} {info : PassInfo} {present active quiet : List Nat} {w : Work}
    {r : Run} {span : Nat} {d : Device} {g F : Group} (hp : r.post = .none)
    (hF : doneGroup op turn info present active quiet w r span d g = F) (hall : allDone F = false) :
    donePass m op turn info present active quiet false w r span d g =
      (if r.commits then commitTask F.gid (Work.close { d := d, g := F }) else Work.close { d := d, g := F }) := by
  have e : ∃ x, donePass m op turn info present active quiet false w r span d g =
      postPass m x info active r.post (doneGroup op turn info present active quiet w r span d g)
        (if r.commits then commitTask (doneGroup op turn info present active quiet w r span d g).gid
            (Work.close { d := d, g := doneGroup op turn info present active quiet w r span d g })
          else Work.close { d := d, g := doneGroup op turn info present active quiet w r span d g }) := ⟨_, rfl⟩
  obtain ⟨x, e⟩ := e
  rw [e, hF, hp]
  simp only [postPass, hall, Bool.false_eq_true, false_and, if_false]

theorem close_closed {gid core n : Nat} {w : Device} {F : Group} :
    Closed gid w (Work.close { d := { w.spend core n with steps := (w.spend core n).steps + 1 }, g := F }) F := by
  refine ⟨?_, ?_⟩ <;>
  · simp only [Work.close]
    split <;> rfl

theorem lowest_none {l : List DWord} (h : lowest l = none) : l = [] := by
  cases l with
  | nil => rfl
  | cons a rest =>
    simp only [lowest] at h
    split at h
    · cases h
    · split at h <;> cases h

/-- A thread that runs gives the group a broadcast PC. -/
theorem broadcastPc_some {g : Group} {u : Nat} (hu : u < 32) (h : isRun (thread g u) = true) : (broadcastPc g).isNone = false := by
  cases e : broadcastPc g with
  | some _ => rfl
  | none =>
    have hl := lowest_none e
    rw [List.filterMap_eq_nil_iff] at hl
    have := hl (thread g u) (List.mem_map.mpr ⟨u, mem_slots.mpr hu, rfl⟩)
    rw [if_pos h] at this
    cases this

theorem overPass_iff {r : Run} {t : Turn} {g : Group} :
    overPass r t g = true ↔ r.ends = true ∨ Config.turnPasses ≤ t.pos ∨ broadcastPc g = none := by
  simp only [overPass, Bool.or_eq_true, decide_eq_true_eq, Option.isNone_iff_eq_none, or_assoc]

theorem none_if (b : Bool) (x : Turn) : (if b = true then none else some x) = none ↔ b = true := by
  cases b <;> simp

/-- The group that a pass without a fault leaves, from the one its threads left. -/
structure AfterPass (op : Op) (turn : Turn) (pc : DWord) (present active : List Nat) (r : Run) (F : Group) : Prop where
  group : SameRest r.w.g F
  count : F.rc = r.w.g.rc + 1
  levels : r.ctl = [] → F.loops = r.w.g.loops
  bound : ∀ (k : Nat) (q : k < 8), (F.c[k]).map (·.reg) = (r.w.g.c[k]).map (·.reg)
  qwin : ∀ u, (F.qwin.toArray.getD u []).map (·.value) = (r.w.g.qwin.toArray.getD u []).map (·.value)
  threads : ∀ u < 32, thread F u = if op.uniform = false ∧ u ∈ present ∧ u ∉ active then
    { thread r.w.g u with pc := pc + BitVec.ofNat 64 op.size } else thread r.w.g u
  turnOver : F.turn = none ↔ r.ends = true ∨ Config.turnPasses ≤ turn.pos + 1 ∨ broadcastPc F = none
  latch : ∀ turn', F.turn = some turn' → turn'.l1 = turn.l0 ∧ turn'.pos = turn.pos + 1 ∧
    turn'.l0.void = (op.void || op.uniform) ∧
    ∀ u (q : u < 32), turn'.l0.lanes[u] = ((r.lanes.find? (·.1 == u)).map (·.2)).getD 0

/-- The pass of an instruction that executes normally, up to the commitment of the task. -/
theorem takePass_done {dec : Nat → Option Op} {op : Op} {s : State} {g : Group} {turn : Turn} {pc : DWord} {r : Run}
    (hr : Runs op s g turn pc)
    (hrt : runThreads s.mem dec op (passInfo op s g turn pc) (presentOf g turn pc) (actives op g turn pc) { d := s.dev, g := g } = r)
    (hf : r.fault = none) (hp : r.post = .none) (hd : ∃ u < 32, (thread r.w.g u).st ≠ .done)
    (hy : r.yields = true → ∃ u < 32, isRun (thread r.w.g u) = true) :
    ∃ F d, AfterPass op turn pc (presentOf g turn pc) (actives op g turn pc) r F ∧
      d = { r.w.d.spend g.core (max r.cyc 1) with steps := (r.w.d.spend g.core (max r.cyc 1)).steps + 1 } ∧
      takePass s.mem dec op turn (passInfo op s g turn pc) (presentOf g turn pc) (actives op g turn pc) { d := s.dev, g := g } =
        if r.commits then commitTask F.gid (Work.close { d := d, g := F }) else Work.close { d := d, g := F } := by
  have hpc : (passInfo op s g turn pc).pc = pc := rfl
  have hin : (isLoopEnd g (passInfo op s g turn pc).pc op.size && !((turn.reissue.map (·.lone)).getD false)) = false := by
    rw [hpc, hr.inside]; rfl
  have hqn : ((presentOf g turn pc).filter fun t => !(actives op g turn pc).contains t).Nodup := (presentOf_nodup g turn pc).filter _
  have hqm : ∀ t, t ∈ (presentOf g turn pc).filter (fun t => !(actives op g turn pc).contains t) ↔
      t ∈ presentOf g turn pc ∧ t ∉ actives op g turn pc := by
    intro t; simp [List.mem_filter]
  generalize hQ : (presentOf g turn pc).filter (fun t => !(actives op g turn pc).contains t) = quiet at hqn hqm
  have hqb : ∀ t ∈ quiet, t < 32 := fun t ht => (mem_presentOf.mp ((hqm t).mp ht).1).1
  generalize hI : passInfo op s g turn pc = info at hpc hin hrt
  generalize hP : presentOf g turn pc = present at hqm hrt hQ
  generalize hA : actives op g turn pc = active at hqm hrt hQ
  have hne : active ≠ [] := by rw [← hA]; exact hr.some_
  generalize hdv : ({ r.w.d.spend g.core (max r.cyc 1) with steps := (r.w.d.spend g.core (max r.cyc 1)).steps + 1 } : Device) = d
  generalize hsp : spanTicks (s.dev.die (dieOf g.core)).mhz = span
  generalize htk : info.tick + (max r.cyc 1 + Config.pipeDepth) * span = tick
  generalize hG : pushPass r tick (countPass op r info span r.w.g) = G
  generalize hF : doneGroup op turn info present active quiet { d := s.dev, g := g } r span d G = F
  have hGr : SameRest r.w.g G := by
    rw [← hG]
    exact countPass_rest.trans pushPass_rest
  have hGt : ∀ u, thread G u = thread r.w.g u := fun u => by rw [← hG, pushPass_thread, countPass_thread]
  have hGrc : G.rc = r.w.g.rc + 1 := by rw [← hG, pushPass_rc, countPass_rc]
  have hGc : G.c = r.w.g.c := by rw [← hG, pushPass_c, countPass_c]
  have hGl : G.loops = r.w.g.loops := by rw [← hG, pushPass_loops, countPass_loops]
  have hGq : ∀ u, (G.qwin.toArray.getD u []).map (·.value) = (r.w.g.qwin.toArray.getD u []).map (·.value) := fun u => by
    rw [← hG, pushPass_qwin, countPass_qwin]
  have hyield : ∀ stay, yieldPass r d (loopPass false stay r (quietPass op info.pc quiet active g G)) =
      loopPass false stay r (quietPass op info.pc quiet active g G) := by
    intro stay
    cases e : r.yields with
    | false => simp only [yieldPass, e, Bool.false_eq_true, false_and, if_false]
    | true =>
      obtain ⟨u, hu, hrun⟩ := hy e
      have hst : isRun (thread (loopPass false stay r (quietPass op info.pc quiet active g G)) u) = true := by
        rw [loopPass_thread, quietPass_thread g hqn hqb hne, hGt]
        split
        · exact hrun
        · exact hrun
      simp only [yieldPass, broadcastPc_some hu hst, Bool.false_eq_true, and_false, if_false]
  obtain ⟨x, stay, hFe, hx, hov⟩ : ∃ x stay, F = { loopPass false stay r (quietPass op info.pc quiet active g G) with turn := x } ∧
      (∀ turn', x = some turn' → ∃ H, turn' = turnPass op turn info r span H) ∧
      (x = none ↔ r.ends = true ∨ Config.turnPasses ≤ turn.pos + 1 ∨
        broadcastPc (loopPass false stay r (quietPass op info.pc quiet active g G)) = none) := by
    rw [← hF]
    simp only [doneGroup, hyield]
    refine ⟨_, _, rfl, ?_, ?_⟩
    · intro turn' h
      split at h
      · cases h
      · cases h
        exact ⟨_, rfl⟩
    · exact (none_if _ _).trans overPass_iff
  have hFt : ∀ u, thread F u = thread (quietPass op info.pc quiet active g G) u := fun u => by
    rw [hFe]; exact loopPass_thread stay u
  have hpcs : ∀ u < 32, thread F u = if op.uniform = false ∧ u ∈ present ∧ u ∉ active then
      { thread r.w.g u with pc := pc + BitVec.ofNat 64 op.size } else thread r.w.g u := by
    intro u hu
    rw [hFt, quietPass_thread g hqn hqb hne, hGt, hpc]
    simp only [hqm]
  have hall : allDone F = false := by
    obtain ⟨u, hu, hst⟩ := hd
    simp only [allDone]
    rw [Vector.all_eq_false]
    refine ⟨u, hu, ?_⟩
    have e : F.threads[u] = thread F u := by simp [thread, Array.getD, hu]
    have e2 : (thread F u).st = (thread r.w.g u).st := by
      rw [hpcs u hu]
      split <;> rfl
    rw [e, e2]
    simpa using hst
  refine ⟨F, d, ⟨?_, ?_, ?_, ?_, ?_, hpcs, ?_, ?_⟩, rfl, ?_⟩
  · rw [hFe]
    exact hGr.trans ((quietPass_rest g).trans ((loopPass_rest stay).trans (setTurn_rest x)))
  · rw [hFe]
    exact (loopPass_rc stay).trans ((quietPass_rc g).trans hGrc)
  · intro hp
    rw [hFe]
    exact (loopPass_loops stay hp).trans ((quietPass_loops g).trans hGl)
  · intro k q
    have e1 : F.c = (quietPass op info.pc quiet active g G).c := by rw [hFe]; exact loopPass_c stay
    have e2 := quietPass_bound (op := op) (pc := info.pc) (quiet := quiet) (active := active) (g := G) g k q
    simp only [e1]
    refine Eq.trans e2 ?_
    simp only [hGc]
  · intro u
    have e1 : F.qwin = G.qwin := by rw [hFe]; exact (loopPass_qwin stay).trans (quietPass_qwin g)
    rw [e1]; exact hGq u
  · rw [hFe]
    exact hov
  · intro turn' ht
    rw [hFe] at ht
    obtain ⟨H, e⟩ := hx turn' ht
    rw [e]
    refine ⟨rfl, rfl, rfl, ?_⟩
    intro u hu
    simp only [turnPass, shiftLatch, hr.fresh, Option.map_none, Option.getD_none, List.nil_append, Vector.getElem_ofFn]
  · have e : takePass s.mem dec op turn info present active { d := s.dev, g := g } =
        donePass s.mem op turn info present active quiet false { d := s.dev, g := g } r span d G := by
      simp only [takePass, hrt, hf, hin, hQ, hp, splitAt]
      rw [hsp, htk, hG, hdv]
    rw [e, donePass_group hp hF hall]

end Sys2Proof.Machine
end

