-- ==== Sys2Proof/Laws/Lanes.lean ====
section
/-! SUPPORT. A pass whose instruction acts in each active thread for itself: its lanes one by one, then all of them. -/

namespace Sys2Proof.Machine

/-- What an instruction does for one thread: its update of the thread, the flags it raises, the poison marks it keeps, the
words it pushes to Q. -/
structure LaneEff where
  th : Thread → Thread := id
  fl : Flags := 0
  keep : Nat × Reg → Bool := fun _ => true
  push : List (Option Word) := []

def applyEff (t : Nat) (e : LaneEff) (g : Group) : Group :=
  { onThread g t e.th with
    flags := g.flags ||| e.fl
    poison := g.poison.filter e.keep
    qwin := g.qwin.set! t (g.qwin.toArray.getD t [] ++ e.push.map fun v => { id := 0, value := v }) }

/-- One lane with its dead marks and its new pc. -/
def laneGroup (op : Op) (next : DWord) (t : Nat) (e : LaneEff) (g : Group) : Group :=
  onThread (applyEff t e (markAll op t g)) t fun th => { th with pc := next }

theorem onThread_onThread {g : Group} {t : Nat} {f h : Thread → Thread} (ht : t < 32) :
    onThread (onThread g t f) t h = onThread g t fun th => h (f th) := by
  have e : thread (onThread g t f) t = f (thread g t) := by rw [thread_onThread ht, if_pos rfl]
  simp only [onThread] at e ⊢
  rw [e]
  simp only [setThread, Vector.set!_eq_setIfInBounds]
  congr 1
  apply Vector.ext
  intro i hi
  simp only [Vector.getElem_setIfInBounds]
  split <;> rfl

theorem shift_bit {n k : Nat} (h : (1#64 <<< n).getLsbD k = true) : k = n := by
  simp only [BitVec.getLsbD_shiftLeft, BitVec.getLsbD_one, Bool.and_eq_true, Bool.not_eq_true', decide_eq_false_iff_not,
    decide_eq_true_eq] at h
  omega

/-- Dead marks are bits of the thread's own mark word, of the registers that the operands mark. -/
theorem markAll_eq (op : Op) (t : Nat) (ht : t < 32) :
    ∃ m : DWord, (∀ g, markAll op t g = onThread g t fun th => { th with dead := th.dead ||| m }) ∧
      ∀ n, m.getLsbD n = true → n ∈ op.pos.flatMap deadRegs := by
  simp only [markAll]
  induction op.pos.flatMap deadRegs with
  | nil =>
    refine ⟨0, fun g => ?_, fun n h => by simp at h⟩
    have : (fun th : Thread => { th with dead := th.dead ||| 0 }) = id := by
      funext th; simp
    rw [this]
    exact (setThread_thread g t ht).symm
  | cons n rest ih =>
    obtain ⟨m, hm, hb⟩ := ih
    refine ⟨(1#64 <<< n) ||| m, fun g => ?_, fun k h => ?_⟩
    · rw [List.foldl_cons, hm, markDead, onThread_onThread ht]
      congr 1
      funext th
      simp only [BitVec.or_assoc]
    · rw [BitVec.getLsbD_or, Bool.or_eq_true] at h
      rcases h with h | h
      · rw [shift_bit h]; exact List.mem_cons_self ..
      · exact List.mem_cons_of_mem _ (hb k h)

/-- The thread of a lane after it, its dead marks apart. -/
def laneThread (next : DWord) (e : LaneEff) (th : Thread) : Thread := { e.th th with pc := next, dead := 0 }

/-- An update that does not look at dead marks, but for what it leaves of them, sets none, and does not stop the thread. -/
def LaneEff.plain (e : LaneEff) : Prop :=
  (∀ th d, { e.th { th with dead := d } with dead := 0 } = { e.th th with dead := 0 }) ∧ (∀ th, (e.th th).st = th.st) ∧
    ∀ th n, (e.th th).dead.getLsbD n = true → th.dead.getLsbD n = true

theorem laneGroup_thread {op : Op} {next : DWord} {t u : Nat} {e : LaneEff} {g : Group} (ht : t < 32) (he : e.plain) :
    { thread (laneGroup op next t e g) u with dead := 0 } =
      if u = t then laneThread next e (thread g t) else { thread g u with dead := 0 } := by
  obtain ⟨m, hm, _⟩ := markAll_eq op t ht
  have h1 : thread (laneGroup op next t e g) u =
      if u = t then { e.th { thread g t with dead := (thread g t).dead ||| m } with pc := next } else thread g u := by
    rw [laneGroup, thread_onThread ht, hm]
    have h2 : ∀ v, thread (applyEff t e (onThread g t fun th => { th with dead := th.dead ||| m })) v =
        if v = t then e.th { thread g t with dead := (thread g t).dead ||| m } else thread g v := by
      intro v
      have : thread (applyEff t e (onThread g t fun th => { th with dead := th.dead ||| m })) v =
          thread (onThread (onThread g t fun th => { th with dead := th.dead ||| m }) t e.th) v := rfl
      rw [this, onThread_onThread ht, thread_onThread ht]
    rw [h2 t, h2 u]
    by_cases hu : u = t <;> simp [hu]
  rw [h1]
  by_cases hu : u = t
  · simp only [hu, if_true, laneThread]
    have := he.1 (thread g t) ((thread g t).dead ||| m)
    exact congrArg (fun th : Thread => { th with pc := next }) this
  · simp only [hu, if_false]

theorem laneGroup_other {op : Op} {next : DWord} {t u : Nat} {e : LaneEff} {g : Group} (ht : t < 32) (hu : u ≠ t) :
    thread (laneGroup op next t e g) u = thread g u := by
  obtain ⟨m, hm, _⟩ := markAll_eq op t ht
  rw [laneGroup, thread_onThread ht, if_neg hu, hm]
  have : thread (applyEff t e (onThread g t fun th => { th with dead := th.dead ||| m })) u =
      thread (onThread (onThread g t fun th => { th with dead := th.dead ||| m }) t e.th) u := rfl
  rw [this, thread_onThread ht, if_neg hu, thread_onThread ht, if_neg hu]

/-- What lanes leave of the group. -/
theorem laneGroup_group (op : Op) (next : DWord) (t : Nat) (ht : t < 32) (e : LaneEff) (g : Group) :
    { laneGroup op next t e g with threads := g.threads, flags := g.flags, poison := g.poison, qwin := g.qwin } = g := by
  obtain ⟨m, hm, _⟩ := markAll_eq op t ht
  rw [laneGroup, hm]
  simp only [applyEff, onThread, setThread]

theorem laneGroup_flags (op : Op) (next : DWord) (t : Nat) (ht : t < 32) (e : LaneEff) (g : Group) :
    (laneGroup op next t e g).flags = g.flags ||| e.fl := by
  obtain ⟨m, hm, _⟩ := markAll_eq op t ht
  rw [laneGroup, hm]
  rfl

theorem laneGroup_poison (op : Op) (next : DWord) (t : Nat) (ht : t < 32) (e : LaneEff) (g : Group) :
    (laneGroup op next t e g).poison = g.poison.filter e.keep := by
  obtain ⟨m, hm, _⟩ := markAll_eq op t ht
  rw [laneGroup, hm]
  rfl

theorem laneGroup_qwin (op : Op) (next : DWord) (t : Nat) (ht : t < 32) (e : LaneEff) (g : Group) :
    (laneGroup op next t e g).qwin =
      g.qwin.set! t (g.qwin.toArray.getD t [] ++ e.push.map fun v => { id := 0, value := v }) := by
  obtain ⟨m, hm, _⟩ := markAll_eq op t ht
  rw [laneGroup, hm]
  rfl

theorem laneGroup_dead {op : Op} {next : DWord} {t n : Nat} {e : LaneEff} {g : Group} (ht : t < 32) (he : e.plain)
    (h : (thread (laneGroup op next t e g) t).dead.getLsbD n = true) :
    (thread g t).dead.getLsbD n = true ∨ n ∈ op.pos.flatMap deadRegs := by
  obtain ⟨m, hm, hb⟩ := markAll_eq op t ht
  have h1 : thread (laneGroup op next t e g) t =
      { e.th { thread g t with dead := (thread g t).dead ||| m } with pc := next } := by
    rw [laneGroup, thread_onThread ht, if_pos rfl, hm]
    have : thread (applyEff t e (onThread g t fun th => { th with dead := th.dead ||| m })) t =
        thread (onThread (onThread g t fun th => { th with dead := th.dead ||| m }) t e.th) t := rfl
    rw [this, onThread_onThread ht, thread_onThread ht, if_pos rfl]
  rw [h1] at h
  have h2 := he.2.2 _ n h
  simp only [BitVec.getLsbD_or, Bool.or_eq_true] at h2
  exact h2.imp id (hb n)

/-- What follows the last lane: a scalar written and flags raised. -/
def applyFin (sc : Option (SReg × Word)) (fl : Flags) (g : Group) : Group :=
  match sc with
  | none => { g with flags := g.flags ||| fl }
  | some (r, x) => setS { g with flags := g.flags ||| fl } r x

theorem applyFin_thread (sc : Option (SReg × Word)) (fl : Flags) (g : Group) (u : Nat) :
    thread (applyFin sc fl g) u = thread g u := by
  cases sc <;> rfl

/-! ## All lanes -/

/-- The lanes of a list of threads. -/
def lanesGroup (op : Op) (next : Nat → DWord) (e : Nat → LaneEff) (ts : List Nat) (g : Group) : Group :=
  ts.foldl (fun h t => laneGroup op (next t) t (e t) h) g

section
variable {op : Op} {next : Nat → DWord} {e : Nat → LaneEff}

theorem lanesGroup_thread {ts : List Nat} {g : Group} (hn : ts.Nodup) (hb : ∀ t ∈ ts, t < 32) (he : ∀ t, (e t).plain)
    (u : Nat) : { thread (lanesGroup op next e ts g) u with dead := 0 } =
      if u ∈ ts then laneThread (next u) (e u) (thread g u) else { thread g u with dead := 0 } := by
  induction ts generalizing g with
  | nil => rfl
  | cons t rest ih =>
    have hn' := List.nodup_cons.mp hn
    have ht := hb t (List.mem_cons_self ..)
    have h := ih (g := laneGroup op (next t) t (e t) g) hn'.2 fun x hx => hb x (List.mem_cons_of_mem _ hx)
    rw [show lanesGroup op next e (t :: rest) g = lanesGroup op next e rest (laneGroup op (next t) t (e t) g) from rfl, h]
    by_cases hu : u = t
    · subst u
      rw [if_neg hn'.1, laneGroup_thread ht (he t), if_pos rfl, if_pos (List.mem_cons_self ..)]
    · rw [laneGroup_other ht hu]
      simp [hu]

theorem lanesGroup_other {ts : List Nat} {g : Group} (hb : ∀ t ∈ ts, t < 32) {u : Nat} (hu : u ∉ ts) :
    thread (lanesGroup op next e ts g) u = thread g u := by
  induction ts generalizing g with
  | nil => rfl
  | cons t rest ih =>
    rw [show lanesGroup op next e (t :: rest) g = lanesGroup op next e rest (laneGroup op (next t) t (e t) g) from rfl,
      ih (fun x hx => hb x (List.mem_cons_of_mem _ hx)) (fun h => hu (List.mem_cons_of_mem _ h)),
      laneGroup_other (hb t (List.mem_cons_self ..)) fun h => hu (by rw [h]; exact List.mem_cons_self ..)]

theorem lanesGroup_group {ts : List Nat} {g : Group} (hb : ∀ t ∈ ts, t < 32) :
    { lanesGroup op next e ts g with threads := g.threads, flags := g.flags, poison := g.poison, qwin := g.qwin } = g := by
  induction ts generalizing g with
  | nil => rfl
  | cons t rest ih =>
    have h := ih (g := laneGroup op (next t) t (e t) g) fun x hx => hb x (List.mem_cons_of_mem _ hx)
    have h2 := laneGroup_group op (next t) t (hb t (List.mem_cons_self ..)) (e t) g
    have h3 := congrArg (fun x : Group => { x with threads := g.threads, flags := g.flags, poison := g.poison, qwin := g.qwin }) h
    exact h3.trans h2

theorem lanesGroup_flags {ts : List Nat} {g : Group} (hb : ∀ t ∈ ts, t < 32) (b : Nat) :
    (lanesGroup op next e ts g).flags.getLsbD b = (g.flags.getLsbD b || ts.any fun u => (e u).fl.getLsbD b) := by
  induction ts generalizing g with
  | nil => simp [lanesGroup]
  | cons t rest ih =>
    rw [show lanesGroup op next e (t :: rest) g = lanesGroup op next e rest (laneGroup op (next t) t (e t) g) from rfl,
      ih fun x hx => hb x (List.mem_cons_of_mem _ hx), laneGroup_flags op (next t) t (hb t (List.mem_cons_self ..))]
    simp [Bool.or_assoc]

theorem lanesGroup_poison {ts : List Nat} {g : Group} (hb : ∀ t ∈ ts, t < 32) :
    ∀ p ∈ (lanesGroup op next e ts g).poison, p ∈ g.poison := by
  induction ts generalizing g with
  | nil => exact fun p h => h
  | cons t rest ih =>
    intro p hp
    have := ih (g := laneGroup op (next t) t (e t) g) (fun x hx => hb x (List.mem_cons_of_mem _ hx)) p hp
    rw [laneGroup_poison op (next t) t (hb t (List.mem_cons_self ..))] at this
    exact (List.mem_filter.mp this).1

theorem qwin_set {q : Vector (List QEntry) 32} {t u : Nat} {l : List QEntry} (ht : t < 32) :
    (q.set! t l).toArray.getD u [] = if u = t then l else q.toArray.getD u [] := by
  simp only [Vector.set!_eq_setIfInBounds, Vector.toArray_setIfInBounds, Array.getD_eq_getD_getElem?,
    Array.getElem?_setIfInBounds, Vector.size_toArray]
  by_cases h : t = u
  · subst u; simp [ht]
  · have h' : ¬ u = t := fun e => h e.symm
    simp [h, h']

theorem lanesGroup_qwin {ts : List Nat} {g : Group} (hn : ts.Nodup) (hb : ∀ t ∈ ts, t < 32) (u : Nat) :
    ((lanesGroup op next e ts g).qwin.toArray.getD u []) = g.qwin.toArray.getD u [] ++
      (if u ∈ ts then (e u).push.map fun v => { id := 0, value := v } else []) := by
  induction ts generalizing g with
  | nil => simp [lanesGroup]
  | cons t rest ih =>
    have hn' := List.nodup_cons.mp hn
    have ht := hb t (List.mem_cons_self ..)
    rw [show lanesGroup op next e (t :: rest) g = lanesGroup op next e rest (laneGroup op (next t) t (e t) g) from rfl,
      ih hn'.2 fun x hx => hb x (List.mem_cons_of_mem _ hx), laneGroup_qwin op (next t) t ht, qwin_set ht]
    by_cases hu : u = t
    · subst u; simp [hn'.1]
    · simp [hu]

theorem lanesGroup_dead {ts : List Nat} {g : Group} (hn : ts.Nodup) (hb : ∀ t ∈ ts, t < 32) (he : ∀ t, (e t).plain)
    {u n : Nat} (hu : u ∈ ts) (h : (thread (lanesGroup op next e ts g) u).dead.getLsbD n = true) :
    (thread g u).dead.getLsbD n = true ∨ n ∈ op.pos.flatMap deadRegs := by
  induction ts generalizing g with
  | nil => cases hu
  | cons t rest ih =>
    have hn' := List.nodup_cons.mp hn
    have ht := hb t (List.mem_cons_self ..)
    have hb' : ∀ x ∈ rest, x < 32 := fun x hx => hb x (List.mem_cons_of_mem _ hx)
    rw [show lanesGroup op next e (t :: rest) g = lanesGroup op next e rest (laneGroup op (next t) t (e t) g) from rfl] at h
    by_cases q : u = t
    · subst q
      rw [lanesGroup_other hb' hn'.1] at h
      exact laneGroup_dead ht (he u) h
    · have hm : u ∈ rest := by
        rcases List.mem_cons.mp hu with r | r
        · exact absurd r q
        · exact r
      have h1 := ih hn'.2 hb' hm h
      rwa [laneGroup_other ht q] at h1

end

end Sys2Proof.Machine
end

