-- ==== Sys2Proof/Laws/LanePass.lean ====
section
/-! SUPPORT. The pass of an instruction that acts in each active thread for itself, from the state before it to the state
after it. -/

namespace Sys2Proof.Machine

/-- The thread is active in a pass whose RUN threads stand together. -/
def isActive (op : Op) (g : Group) (t : Nat) : Bool := isRun (thread g t) && guardOf op (thread g t)

/-- The device and the group as a lane of a pass finds them: its own thread as it was before the pass, dead marks apart. -/
structure Beside (op : Op) (dv : Device) (g : Group) (t : Nat) (w : Work) : Prop where
  dev : { w.d with groups := dv.groups } = dv
  same : op.pos.any readsQ = false → w.d = dv
  group : { w.g with threads := g.threads, flags := g.flags, poison := g.poison, qwin := g.qwin } = g
  own : { thread w.g t with dead := 0 } = { thread g t with dead := 0 }

/-- The lane of an instruction at any tick: an update of its own thread, a result, a branch; then what follows the lanes. -/
structure LocalOp (op : Op) (s : State) (g : Group) (info : PassInfo) (ts : List Nat) (e : Nat → Nat → LaneEff)
    (res : Nat → Nat → Option DWord) (tgt : Nat → Option DWord) (sc : Option (SReg × Word)) (fl : Flags) : Prop where
  lane : ∀ t ∈ ts, ∀ k w, Beside op s.dev g t w → op.lane s.mem { info with tick := k } t w =
    { w := { w with g := applyEff t (e k t) w.g }, res := res k t, target := tgt t }
  plain : ∀ k t, (e k t).plain
  uniform : op.uniform = false
  commits : op.commits = false
  fin : ∀ w, op.fin info w = { w with g := applyFin sc fl w.g }

theorem findGroup_putGroup_isSome {gs : List Group} {g : Group} {id : Nat} (h : (findGroup gs id).isSome = true) :
    (findGroup (putGroup gs g) id).isSome = true := by
  by_cases hid : id = g.gid
  · subst hid
    obtain ⟨x, hx⟩ := Option.isSome_iff_exists.mp h
    rw [findGroup_putGroup_self hx]; rfl
  · rw [findGroup_putGroup_other hid]; exact h

/-- What the device of a pass may differ in from the one before it. -/
structure SameBut (op : Op) (gid : Nat) (dv d : Device) : Prop where
  rest : { d with groups := dv.groups } = dv
  found : (findGroup d.groups gid).isSome = true
  same : op.pos.any readsQ = false → d = dv

theorem SameBut.popQ {op : Op} {dv : Device} {w : Work} (t : Nat) (h : SameBut op w.g.gid dv w.d)
    (hq : op.pos.any readsQ = true) : SameBut op w.g.gid dv (popQ t w).d := by
  simp only [Machine.popQ]
  split
  · exact h
  · exact ⟨h.rest, findGroup_putGroup_isSome h.found, fun e => by rw [hq] at e; cases e⟩

theorem popQ_g (t : Nat) (w : Work) : (popQ t w).g = w.g := by
  simp only [popQ]
  split <;> rfl

/-- A fault at the operands depends on the group in hand by its pending faults and operand-cache entries alone. -/
theorem operandFault_congr {op : Op} {info : PassInfo} {t : Nat} {g h : Group} (hp : h.pendFaults = g.pendFaults)
    (hc : h.c = g.c) (hn : operandFault op info t g = none) : operandFault op info t h = none := by
  have hh : pendHit { info.rd with g := h } op.pos (readers op info t) =
      pendHit { info.rd with g := g } op.pos (readers op info t) := by
    unfold pendHit
    rw [hp]
    congr 1
    funext f
    have hr : ∀ d p, readsDest { g := h, turn := info.rd.turn, fifo := info.rd.fifo, shadowDone := info.rd.shadowDone, steps := info.rd.steps } d p =
        readsDest { g := g, turn := info.rd.turn, fifo := info.rd.fifo, shadowDone := info.rd.shadowDone, steps := info.rd.steps } d p := by
      intro d p
      simp only [readsDest, hc]
    exact congrArg _ (congrArg _ (funext (hr f.dst)))
  simp only [operandFault] at hn ⊢
  rw [hh]
  split at hn
  · cases hn
  · rw [if_neg ‹_›]
    revert hn
    generalize pendHit _ _ _ = q
    cases q with
    | some f => intro hn; cases hn
    | none =>
      simp only
      intro hn
      split at hn
      · cases hn
      · rw [if_neg ‹_›]

/-- What the run of a pass has come to after some lanes. -/
structure Ran (op : Op) (dv : Device) (g0 : Group) (next : Nat → DWord) (e : Nat → LaneEff) (res : Nat → Option DWord)
    (ts : List Nat) (r : Run) : Prop where
  dev : SameBut op g0.gid dv r.w.d
  group : r.w.g = lanesGroup op next e ts g0
  fault : r.fault = none
  post : r.post = .none
  ctl : op.pops = false → r.ctl = []
  ends : r.ends = (op.always || (op.ends && !ts.isEmpty))
  commits : r.commits = false
  did : r.did = ts
  lanes : r.lanes = ts.filterMap fun t => (res t).map fun x => (t, x)

theorem lanesGroup_append (op : Op) (next : Nat → DWord) (e : Nat → LaneEff) (ts : List Nat) (t : Nat) (g : Group) :
    lanesGroup op next e (ts ++ [t]) g = laneGroup op (next t) t (e t) (lanesGroup op next e ts g) := by
  simp only [lanesGroup, List.foldl_append, List.foldl_cons, List.foldl_nil]

theorem lanesGroup_congr {op : Op} {next : Nat → DWord} {e e' : Nat → LaneEff} {ts : List Nat} (h : ∀ t ∈ ts, e t = e' t) (g : Group) :
    lanesGroup op next e ts g = lanesGroup op next e' ts g := by
  induction ts generalizing g with
  | nil => rfl
  | cons t rest ih =>
    have h1 := ih (fun x hx => h x (List.mem_cons_of_mem _ hx)) (laneGroup op (next t) t (e t) g)
    rw [h t (List.mem_cons_self ..)] at h1
    simp only [lanesGroup, List.foldl_cons, h t (List.mem_cons_self ..)] at h1 ⊢
    exact h1

theorem filterMap_same {α β : Type} {f h : α → Option β} {l : List α} (e : ∀ x ∈ l, f x = h x) :
    l.filterMap f = l.filterMap h := by
  induction l with
  | nil => rfl
  | cons x rest ih =>
    rw [List.filterMap_cons, List.filterMap_cons, e x (List.mem_cons_self ..), ih fun y hy => e y (List.mem_cons_of_mem _ hy)]

theorem beside_lanes {op : Op} {dv : Device} {g : Group} {next : Nat → DWord} {e : Nat → LaneEff} {ts : List Nat} {t : Nat}
    {w : Work} (hd : SameBut op g.gid dv w.d) (hg : w.g = lanesGroup op next e ts g) (ht : t < 32)
    (hts : ∀ u ∈ ts, u < 32) (hnew : t ∉ ts) : Beside op dv g t { w with g := markAll op t w.g } := by
  obtain ⟨m, hm, _⟩ := markAll_eq op t ht
  refine ⟨hd.rest, hd.same, ?_, ?_⟩
  · show { markAll op t w.g with threads := g.threads, flags := g.flags, poison := g.poison, qwin := g.qwin } = g
    rw [hm, hg]
    exact lanesGroup_group hts
  · show { thread (markAll op t w.g) t with dead := 0 } = _
    rw [hm, thread_onThread ht, if_pos rfl, hg, lanesGroup_other hts hnew]

/-- One lane, where nothing stands in its way. -/
theorem runLane_ok {m : Memory} {op : Op} {info : PassInfo} {u k : Nat} {r : Run} {out : LaneOut}
    (hk : info.tick + r.cyc * spanTicks (r.w.d.die (dieOf r.w.g.core)).mhz = k)
    (hf : operandFault op { info with tick := k } u r.w.g = none) (hc : r.commits = false)
    (hout : op.lane m { info with tick := k } u { r.w with g := markAll op u r.w.g } = out) (hn : out.raise = none) :
    runLane m op info u r =
      { r with
        w := { (if op.pos.any readsQ then popQ u out.w else out.w) with
          g := onThread (if op.pos.any readsQ then popQ u out.w else out.w).g u fun th =>
            { th with pc := out.target.getD (info.pc + BitVec.ofNat 64 op.size) } }
        lanes := match out.res with
          | some x => r.lanes ++ [(u, x)]
          | none => r.lanes
        took := if out.target.isSome then r.took ++ [u] else r.took
        cyc := r.cyc + laneCost op info.rd.g
        ctl := if op.pops then info.pc :: r.ctl else r.ctl
        ends := r.ends || op.ends
        slow := r.slow ++ ((if op.arrives then [] else op.pos.flatMap slowRegs) ++ op.also { info with tick := k } u).map
          fun x => (x, bitOf u)
        fast := r.fast ++ (op.pos.flatMap fastRegs).map fun x => (x, bitOf u)
        pushed := r.pushed || op.pos.any pushesQ
        flags := r.flags || op.flagger
        commits := r.commits || op.commits
        yields := r.yields || op.yields
        post := out.post } := by
  have hb : beforeFault op { info with tick := k } u r.commits r.w.g = none := by
    simp only [beforeFault, hf, hc, Bool.and_false, Bool.false_eq_true, if_false]
  simp only [runLane]
  rw [hk]
  simp only [hb, hout, hn] <;> rfl

/-- One slot of the pass. -/
theorem runSlot_local {dec : Nat → Option Op} {op : Op} {s : State} {g : Group} {turn : Turn} {pc : DWord}
    {e : Nat → Nat → LaneEff} {res : Nat → Nat → Option DWord} {tgt : Nat → Option DWord} {sc : Option (SReg × Word)}
    {fl : Flags} (hr : Runs op s g turn pc)
    (hl : LocalOp op s g (passInfo op s g turn pc) (actives op g turn pc) e res tgt sc fl) {κ : Nat → Nat} {ts : List Nat}
    {t : Nat} (ht : t < 32) (hts : ∀ u ∈ ts, u < 32) (hnew : t ∉ ts) {r : Run}
    (h : Ran op s.dev g (fun u => (tgt u).getD (pc + BitVec.ofNat 64 op.size)) (fun u => e (κ u) u) (fun u => res (κ u) u) ts r) :
    ∃ κ' : Nat → Nat, Ran op s.dev g (fun u => (tgt u).getD (pc + BitVec.ofNat 64 op.size)) (fun u => e (κ' u) u)
      (fun u => res (κ' u) u)
      (ts ++ (if isActive op g t then [t] else [])) (runSlot s.mem dec op (passInfo op s g turn pc) t r) := by
  have hg : (passInfo op s g turn pc).rd.g = g := rfl
  have hpc : (passInfo op s g turn pc).pc = pc := rfl
  have htn : (passInfo op s g turn pc).rd.turn = turn := rfl
  have hm : mayRun turn t = true := by simp [mayRun, hr.fresh]
  simp only [runSlot, hg, hpc, htn, h.fault, h.post, hm, Option.isSome_none, ne_eq, not_true_eq_false, false_or,
    Bool.not_true, Bool.false_eq_true, or_false]
  by_cases hrun : isRun (thread g t) = true
  · have hp := hr.together t ht hrun
    simp only [hrun, Bool.not_true, Bool.false_eq_true, if_false, hp, if_true]
    by_cases hga : guardOf op (thread g t) = true
    · have hact : isActive op g t = true := by simp [isActive, hrun, hga]
      have hin : t ∈ actives op g turn pc := by
        simp only [actives, mem_activeOf, mem_presentOf]
        exact ⟨⟨ht, hrun, hp, hm⟩, hga⟩
      simp only [hga, if_true, hact]
      generalize hk : (passInfo op s g turn pc).tick + r.cyc * spanTicks (r.w.d.die (dieOf r.w.g.core)).mhz = k
      have hgrp := lanesGroup_group (op := op) (next := fun u => (tgt u).getD (pc + BitVec.ofNat 64 op.size))
        (e := fun u => e (κ u) u) (g := g) hts
      have hrg : r.w.g.gid = g.gid := by
        rw [h.group]; (have q := congrArg Group.gid hgrp; exact q)
      have hf : operandFault op { passInfo op s g turn pc with tick := k } t r.w.g = none := by
        refine operandFault_congr ?_ ?_ (hr.sound t hin k)
        · rw [h.group]; (have q := congrArg Group.pendFaults hgrp; exact q)
        · rw [h.group]; (have q := congrArg Group.c hgrp; exact q)
      have hlane := hl.lane t hin k { r.w with g := markAll op t r.w.g } (beside_lanes h.dev h.group ht hts hnew)
      refine ⟨fun u => if u = t then k else κ u, ?_⟩
      have hfold : lanesGroup op (fun u => (tgt u).getD (pc + BitVec.ofNat 64 op.size))
            (fun u => e (if u = t then k else κ u) u) (ts ++ [t]) g =
          laneGroup op ((tgt t).getD (pc + BitVec.ofNat 64 op.size)) t (e k t) r.w.g := by
        rw [lanesGroup_append, h.group]
        simp only [if_true]
        congr 1
        exact lanesGroup_congr (fun u hu => by rw [if_neg fun q : u = t => hnew (by rw [← q]; exact hu)]) g
      have hrl := runLane_ok (m := s.mem) (op := op) (info := passInfo op s g turn pc) (u := t) hk hf h.commits hlane rfl
      rw [hrl]
      simp only [h.fault, Option.isNone_none, if_true, hpc]
      refine ⟨?_, ?_, rfl, rfl, ?_, ?_, ?_, ?_, ?_⟩
      · by_cases hq : op.pos.any readsQ = true
        · simp only [hq, if_true]
          have h1 := SameBut.popQ (op := op) (dv := s.dev)
            (w := { d := r.w.d, g := applyEff t (e k t) (markAll op t r.w.g) }) t ?_ hq
          · have hgid : (applyEff t (e k t) (markAll op t r.w.g)).gid = g.gid := by
              have := congrArg Group.gid (laneGroup_group op (pc + BitVec.ofNat 64 op.size) t ht (e k t) r.w.g)
              exact this.trans hrg
            rw [hgid] at h1
            exact h1
          · have hgid : (applyEff t (e k t) (markAll op t r.w.g)).gid = g.gid := by
              have := congrArg Group.gid (laneGroup_group op (pc + BitVec.ofNat 64 op.size) t ht (e k t) r.w.g)
              exact this.trans hrg
            simp only [hgid]
            exact h.dev
        · simp only [hq]
          exact h.dev
      · rw [hfold]
        by_cases hq : op.pos.any readsQ = true
        · simp only [hq, if_true, popQ_g]; rfl
        · simp only [hq]; rfl
      · intro hp
        simp only [hp, Bool.false_eq_true, if_false]
        exact h.ctl hp
      · rw [h.ends]
        cases op.always <;> cases op.ends <;> simp
      · rw [h.commits, hl.commits]; rfl
      · rw [h.did]
      · rw [List.filterMap_append, h.lanes]
        have e1 : ts.filterMap (fun u => (res (κ u) u).map fun x => (u, x)) =
            ts.filterMap (fun u => (res (if u = t then k else κ u) u).map fun x => (u, x)) := by
          apply filterMap_same
          intro u hu
          rw [if_neg fun q : u = t => hnew (by rw [← q]; exact hu)]
        rw [← e1]
        cases hres : res k t <;> simp [hres]
    · have hact : isActive op g t = false := by simp [isActive, hga]
      simp only [hga, if_false, hact, Bool.false_eq_true, List.append_nil]
      exact ⟨κ, h⟩
  · have hact : isActive op g t = false := by simp [isActive, hrun]
    simp only [hrun, Bool.not_false, if_true, hact, Bool.false_eq_true, if_false, List.append_nil]
    exact ⟨κ, h⟩

/-- All slots of the pass. -/
theorem runSlots_local {dec : Nat → Option Op} {op : Op} {s : State} {g : Group} {turn : Turn} {pc : DWord}
    {e : Nat → Nat → LaneEff} {res : Nat → Nat → Option DWord} {tgt : Nat → Option DWord} {sc : Option (SReg × Word)}
    {fl : Flags} (hr : Runs op s g turn pc)
    (hl : LocalOp op s g (passInfo op s g turn pc) (actives op g turn pc) e res tgt sc fl) {l : List Nat} (hb : ∀ t ∈ l, t < 32)
    (hn : l.Nodup) {κ : Nat → Nat} {ts : List Nat} (hts : ∀ u ∈ ts, u < 32) (hd : ∀ u ∈ l, u ∉ ts) {r : Run}
    (h : Ran op s.dev g (fun u => (tgt u).getD (pc + BitVec.ofNat 64 op.size)) (fun u => e (κ u) u) (fun u => res (κ u) u) ts r) :
    ∃ κ' : Nat → Nat, Ran op s.dev g (fun u => (tgt u).getD (pc + BitVec.ofNat 64 op.size)) (fun u => e (κ' u) u)
      (fun u => res (κ' u) u)
      (ts ++ l.filter (isActive op g)) (l.foldl (fun r t => runSlot s.mem dec op (passInfo op s g turn pc) t r) r) := by
  induction l generalizing κ ts r with
  | nil => exact ⟨κ, by simpa using h⟩
  | cons t rest ih =>
    have hn' := List.nodup_cons.mp hn
    have ht := hb t (List.mem_cons_self ..)
    obtain ⟨κ1, h1⟩ := runSlot_local (dec := dec) hr hl ht hts (hd t (List.mem_cons_self ..)) h
    have q1 : ∀ u ∈ ts ++ (if isActive op g t then [t] else []), u < 32 := by
      intro u hu
      rcases List.mem_append.mp hu with h | h
      · exact hts u h
      · split at h
        · rw [List.mem_singleton.mp h]; exact ht
        · cases h
    have q2 : ∀ u ∈ rest, u ∉ ts ++ (if isActive op g t then [t] else []) := by
      intro u hu hm
      rcases List.mem_append.mp hm with h | h
      · exact hd u (List.mem_cons_of_mem _ hu) h
      · split at h
        · rw [List.mem_singleton.mp h] at hu; exact hn'.1 hu
        · cases h
    obtain ⟨κ2, h2⟩ := ih (fun u hu => hb u (List.mem_cons_of_mem _ hu)) hn'.2 q1 q2 h1
    refine ⟨κ2, ?_⟩
    have e1 : ts ++ (t :: rest).filter (isActive op g) =
        ts ++ (if isActive op g t then [t] else []) ++ rest.filter (isActive op g) := by
      rw [List.filter_cons]
      split <;> simp
    rw [e1]
    exact h2

/-! ## After the lanes -/

theorem actives_eq {op : Op} {s : State} {g : Group} {turn : Turn} {pc : DWord} (hr : Runs op s g turn pc) :
    actives op g turn pc = slots.filter (isActive op g) := by
  simp only [actives, activeOf, presentOf, List.filter_filter]
  apply List.filter_congr
  intro t ht
  have hm : mayRun turn t = true := by simp [mayRun, hr.fresh]
  by_cases h : isRun (thread g t) = true
  · simp [isActive, h, hr.together t (mem_slots.mp ht) h, hm]
  · simp [isActive, h]

theorem find_lane (l : List Nat) (res : Nat → Option DWord) (u : Nat) :
    (((l.filterMap fun t => (res t).map fun x => (t, x)).find? (·.1 == u)).map (·.2)).getD 0 =
      if u ∈ l then (res u).getD 0 else 0 := by
  induction l with
  | nil => rfl
  | cons t rest ih =>
    rw [List.filterMap_cons]
    cases h : res t with
    | none =>
      simp only [Option.map_none, ih]
      by_cases e : u = t
      · subst u; simp [h]
      · simp [e]
    | some x =>
      simp only [Option.map_some, List.find?_cons]
      by_cases e : u = t
      · subst u; simp [h]
      · have e' : (t == u) = false := beq_false_of_ne fun q => e q.symm
        simp only [e', ih, List.mem_cons, e, false_or]

theorem lanesGroup_st {op : Op} {next : Nat → DWord} {e : Nat → LaneEff} {ts : List Nat} {g : Group} (hn : ts.Nodup)
    (hb : ∀ t ∈ ts, t < 32) (he : ∀ t, (e t).plain) (u : Nat) : (thread (lanesGroup op next e ts g) u).st = (thread g u).st := by
  have h := congrArg Thread.st (lanesGroup_thread (op := op) (next := next) (g := g) hn hb he u)
  refine h.trans ?_
  split
  · exact (he u).2.1 (thread g u)
  · rfl

/-- The threads of the pass. -/
theorem runThreads_local {dec : Nat → Option Op} {op : Op} {s : State} {g : Group} {turn : Turn} {pc : DWord}
    {e : Nat → Nat → LaneEff} {res : Nat → Nat → Option DWord} {tgt : Nat → Option DWord} {sc : Option (SReg × Word)}
    {fl : Flags} (hr : Runs op s g turn pc)
    (hl : LocalOp op s g (passInfo op s g turn pc) (actives op g turn pc) e res tgt sc fl) :
    ∃ (κ : Nat → Nat) (q r : Run), runThreads s.mem dec op (passInfo op s g turn pc) (presentOf g turn pc) (actives op g turn pc)
        { d := s.dev, g := g } = r ∧ r = { q with w := { q.w with g := applyFin sc fl q.w.g } } ∧
      Ran op s.dev g (fun u => (tgt u).getD (pc + BitVec.ofNat 64 op.size)) (fun u => e (κ u) u) (fun u => res (κ u) u)
        (actives op g turn pc) q := by
  have h0 : Ran op s.dev g (fun u => (tgt u).getD (pc + BitVec.ofNat 64 op.size)) (fun u => e ((fun _ => 0) u) u)
      (fun u => res ((fun _ => 0) u) u) [] { w := { d := s.dev, g := g }, ends := op.always } :=
    ⟨⟨rfl, by show (findGroup s.dev.groups g.gid).isSome = true; rw [show findGroup s.dev.groups g.gid = some g from hr.here]; rfl,
      fun _ => rfl⟩, rfl, rfl, rfl, fun _ => rfl, by simp, rfl, rfl, rfl⟩
  obtain ⟨κ, h1⟩ := runSlots_local (dec := dec) hr hl (fun t ht => mem_slots.mp ht) slots_nodup (ts := []) (by simp) (by simp) h0
  rw [List.nil_append, ← actives_eq hr] at h1
  refine ⟨κ, _, _, ?_, rfl, h1⟩
  have hne : actives op g turn pc ≠ [] := hr.some_
  simp only [runThreads, hl.uniform, Bool.false_eq_true, if_false]
  rw [if_neg (by simp [h1.fault, h1.post, stopsPass]), hl.fin, h1.did, if_neg hne]

/-- What the lanes and what follows them leave of the group, the parts every pass changes apart. -/
def SameBase (h F : Group) : Prop :=
  { F with threads := h.threads, flags := h.flags, poison := h.poison, qwin := h.qwin, s := h.s } = h

theorem applyFin_base (sc : Option (SReg × Word)) (fl : Flags) {g h : Group}
    (q : { g with threads := h.threads, flags := h.flags, poison := h.poison, qwin := h.qwin } = h) :
    SameBase h (applyFin sc fl g) := by
  have q1 := congrArg (fun x : Group => { x with s := h.s }) q
  cases sc with
  | none => exact q1
  | some p => exact q1

/-- The pass of an instruction that acts in each active thread for itself. -/
theorem lanes_pass {dec : Nat → Option Op} {op : Op} {s : State} {g : Group} {turn : Turn} {pc : DWord}
    {e : Nat → Nat → LaneEff} {res : Nat → Nat → Option DWord} {tgt : Nat → Option DWord} {sc : Option (SReg × Word)}
    {fl : Flags} (hr : Runs op s g turn pc)
    (hl : LocalOp op s g (passInfo op s g turn pc) (actives op g turn pc) e res tgt sc fl) :
    ∃ (κ : Nat → Nat) (t : State) (g' : Group), runPass dec op s = .next t ∧
      Lanes op s g turn pc { upd := fun u => (e (κ u) u).th, fl := fun u => (e (κ u) u).fl, push := fun u => (e (κ u) u).push, res := fun u => res (κ u) u, next := tgt, scalar := sc, flAll := fl } t g' := by
  obtain ⟨κ, q, r, hrt, hrq, h⟩ := runThreads_local (dec := dec) hr hl
  have he : ∀ t, (e (κ t) t).plain := fun t => hl.plain _ _
  have hab : ∀ t ∈ actives op g turn pc, t < 32 := fun t ht => (mem_presentOf.mp (mem_activeOf.mp ht).1).1
  have han : (actives op g turn pc).Nodup := activeOf_nodup op g (presentOf_nodup g turn pc)
  have hne : actives op g turn pc ≠ [] := hr.some_
  have hLg := lanesGroup_group (op := op) (next := fun u => (tgt u).getD (pc + BitVec.ofNat 64 op.size))
    (e := fun u => e (κ u) u) (g := g) hab
  have hLt := lanesGroup_thread (op := op) (next := fun u => (tgt u).getD (pc + BitVec.ofNat 64 op.size))
    (e := fun u => e (κ u) u) (g := g) han hab he
  have hLo := fun u (hu : u ∉ actives op g turn pc) => lanesGroup_other (op := op)
    (next := fun u => (tgt u).getD (pc + BitVec.ofNat 64 op.size)) (e := fun u => e (κ u) u) (g := g) hab hu
  have hLs := lanesGroup_st (op := op) (next := fun u => (tgt u).getD (pc + BitVec.ofNat 64 op.size))
    (e := fun u => e (κ u) u) (g := g) han hab he
  have hLd := fun u (n : Nat) (hu : u ∈ actives op g turn pc) => lanesGroup_dead (op := op)
    (next := fun u => (tgt u).getD (pc + BitVec.ofNat 64 op.size)) (e := fun u => e (κ u) u) (g := g) (n := n) han hab he hu
  have hLp := lanesGroup_poison (op := op) (next := fun u => (tgt u).getD (pc + BitVec.ofNat 64 op.size))
    (e := fun u => e (κ u) u) (g := g) hab
  have hLf := lanesGroup_flags (op := op) (next := fun u => (tgt u).getD (pc + BitVec.ofNat 64 op.size))
    (e := fun u => e (κ u) u) (g := g) hab
  have hLq := lanesGroup_qwin (op := op) (next := fun u => (tgt u).getD (pc + BitVec.ofNat 64 op.size))
    (e := fun u => e (κ u) u) (g := g) han hab
  rw [← h.group] at hLg hLt hLo hLs hLd hLp hLf hLq
  have hrg : r.w.g = applyFin sc fl q.w.g := by rw [hrq]
  have hrth : ∀ u, thread r.w.g u = thread q.w.g u := fun u => by rw [hrg, applyFin_thread]
  obtain ⟨u0, hu0⟩ := List.exists_mem_of_ne_nil _ hne
  have hrun0 : isRun (thread r.w.g u0) = true := by
    have := (mem_presentOf.mp (mem_activeOf.mp hu0).1).2.1
    rw [hrth]
    simpa [isRun, hLs u0] using this
  have hrf : r.fault = none := by rw [hrq]; exact h.fault
  have hrp : r.post = .none := by rw [hrq]; exact h.post
  have hrc : r.commits = false := by rw [hrq]; exact h.commits
  obtain ⟨F, d, hF, hd, htk⟩ := takePass_done hr hrt hrf hrp
    ⟨u0, hab u0 hu0, by intro q; simp [isRun, q] at hrun0⟩ fun _ => ⟨u0, hab u0 hu0, hrun0⟩
  rw [runPass_runs hr, htk, hrc]
  simp only [Bool.false_eq_true, if_false]
  have hb : SameBase g r.w.g := by rw [hrg]; exact applyFin_base sc fl hLg
  have hcl := close_closed (gid := g.gid) (core := g.core) (n := max r.cyc 1) (w := r.w.d) (F := F)
  rw [← hd] at hcl
  generalize Work.close { d := d, g := F } = D at hcl
  have hrd : r.w.d = q.w.d := by rw [hrq]
  have hsame : SameBut op g.gid s.dev r.w.d := by rw [hrd]; exact h.dev
  have hFg : F.gid = g.gid := by
    have q1 := congrArg Group.gid hF.group
    have q2 := congrArg Group.gid hb
    exact Eq.trans (by exact q1) q2
  have hDd : { D with groups := s.dev.groups, dies := s.dev.dies, steps := s.dev.steps, focus := s.dev.focus } = s.dev := by
    have q1 := congrArg (fun x : Device => { x with groups := s.dev.groups, dies := s.dev.dies, steps := s.dev.steps, focus := s.dev.focus }) hcl.rest
    have q2 := congrArg (fun x : Device => { x with groups := s.dev.groups, dies := s.dev.dies, steps := s.dev.steps, focus := s.dev.focus }) hsame.rest
    exact q1.trans q2
  have hDlog : D.log = [] := by
    have q1 := congrArg Device.log hDd
    exact Eq.trans (by exact q1) hr.log
  have hDF : findGroup D.groups g.gid = some F := by
    rw [hcl.groups, ← hFg]
    obtain ⟨x, hx⟩ := Option.isSome_iff_exists.mp hsame.found
    rw [← hFg] at hx
    exact findGroup_putGroup_self hx
  refine ⟨κ, { mem := s.mem, dev := D }, F, by rw [commit_quiet hDlog],
    ⟨⟨hDF, rfl, hDd, ?_, ?_, ?_, ?_, ?_, ?_, ?_, ?_, ?_⟩, ?_, ?_, ?_, ?_, ?_, ?_⟩⟩
  · intro hq id hid
    show findGroup D.groups id = findGroup s.dev.groups id
    rw [hcl.groups, hsame.same hq, findGroup_putGroup_other (by rw [hFg]; exact hid)]
  · have q1 := congrArg (fun x : Group => { x with
      threads := g.threads, s := g.s, c := g.c, flags := g.flags, poison := g.poison, qwin := g.qwin, turn := g.turn
      rc := g.rc, sb := g.sb, loops := g.loops }) hF.group
    have q2 := congrArg (fun x : Group => { x with
      threads := g.threads, s := g.s, c := g.c, flags := g.flags, poison := g.poison, qwin := g.qwin, turn := g.turn
      rc := g.rc, sb := g.sb, loops := g.loops }) hb
    exact q1.trans q2
  · intro hp
    have q1 : r.ctl = [] := by rw [hrq]; exact h.ctl hp
    have q2 := congrArg Group.loops hb
    exact (hF.levels q1).trans q2
  · have q2 := congrArg Group.rc hb
    rw [hF.count]
    exact congrArg (· + 1) q2
  · have q1 : r.ends = (op.ends || op.always) := by
      rw [hrq]
      show q.ends = _
      rw [h.ends]
      have : (actives op g turn pc).isEmpty = false := by simpa [List.isEmpty_iff] using hne
      rw [this, Bool.not_false, Bool.and_true, Bool.or_comm]
    rw [hF.turnOver, q1]
  · intro k hk
    have q2 : r.w.g.c = g.c := (have q := congrArg Group.c hb; q)
    have q3 := hF.bound k hk
    refine q3.trans ?_
    simp only [q2]
  · intro p hp
    have q1 : F.poison = r.w.g.poison := (have q := congrArg Group.poison hF.group; q)
    rw [q1, hrg] at hp
    refine hLp p ?_
    cases sc with
    | none => exact hp
    | some x => exact (List.mem_filter.mp hp).1
  · intro u hu hn
    have hna : u ∉ actives op g turn pc := fun q => hn (mem_activeOf.mp q).1
    rw [hF.threads u hu, if_neg fun q => hn q.2.1, hrth, hLo u hna]
  · intro u hu hn
    rw [hF.threads u (mem_presentOf.mp hu).1, if_pos ⟨hl.uniform, hu, hn⟩, hrth, hLo u hn]
  · intro u hu
    rw [hF.threads u (hab u hu), if_neg fun q => q.2.2 hu, hrth]
    have := hLt u
    rw [if_pos hu] at this
    exact this
  · intro u hu n hn
    rw [hF.threads u (hab u hu), if_neg fun q => q.2.2 hu, hrth] at hn
    exact hLd u n hu hn
  · have q1 : F.s = r.w.g.s := (have q := congrArg Group.s hF.group; q)
    have q2 : q.w.g.s = g.s := (have q := congrArg Group.s hLg; q)
    rw [q1, hrg]
    cases sc with
    | none => exact q2
    | some x =>
      show q.w.g.s.set x.1.toNat x.2 x.1.isLt = _
      simp only [q2]
  · intro b
    have q1 : F.flags = r.w.g.flags := (have q := congrArg Group.flags hF.group; q)
    have q2 : r.w.g.flags = q.w.g.flags ||| fl := by rw [hrg]; cases sc <;> rfl
    rw [q1, q2, BitVec.getLsbD_or, hLf b]
    simp only [Bool.or_assoc, Bool.or_comm]
  · intro u hu
    have q1 : r.w.g.qwin = q.w.g.qwin := by rw [hrg]; cases sc <;> rfl
    rw [hF.qwin u, q1, hLq u, List.map_append]
    by_cases m : u ∈ actives op g turn pc
    · rw [if_pos m, if_pos m, List.map_map]
      exact congrArg (_ ++ ·) (List.map_id _)
    · rw [if_neg m, if_neg m]; rfl
  · intro x hx
    obtain ⟨q1, q2, q3, q4⟩ := hF.latch x hx
    refine ⟨q1, q2, by rw [q3, hl.uniform, Bool.or_false], fun u hu => ?_⟩
    have q5 : r.lanes = q.lanes := by rw [hrq]
    rw [q4 u hu, q5, h.lanes, find_lane]

end Sys2Proof.Machine
end

