-- ==== Sys2Proof/Laws/OncePass.lean ====
section
/-! SUPPORT. The pass of an instruction that acts once: for the group (R43), or for the one active thread. -/

namespace Sys2Proof.Machine

/-- The condition under which an instruction that acts once does nothing more than its lane does. -/
structure PlainOut (op : Op) (g : Group) (out : LaneOut) : Prop where
  raise : out.raise = none
  post : out.post = .none
  gid : out.w.g.gid = g.gid
  partner : out.w.g.partner = g.partner
  found : (findGroup out.w.d.groups g.gid).isSome = true

theorem popQ_found {t : Nat} {w : Work} {id : Nat} (h : (findGroup w.d.groups id).isSome = true) :
    (findGroup (popQ t w).d.groups id).isSome = true := by
  simp only [popQ]
  split
  · exact h
  · exact findGroup_putGroup_isSome h

theorem popQ_rest (t : Nat) (w : Work) : { (popQ t w).d with groups := w.d.groups } = w.d := by
  simp only [popQ]
  split <;> rfl

/-- What the threads of such a pass leave. -/
structure RanOnce (op : Op) (g : Group) (out : LaneOut) (present : List Nat) (next : DWord) (movers : List Nat) (r : Run) : Prop where
  rest : { r.w.d with groups := out.w.d.groups } = out.w.d
  found : (findGroup r.w.d.groups g.gid).isSome = true
  same : op.pos.any readsQ = false → r.w.d = out.w.d
  group : ∃ v, r.w.g = { out.w.g with threads := v }
  threads : ∀ u < 32, thread r.w.g u = if u ∈ movers then { thread out.w.g u with pc := next } else thread out.w.g u
  fault : r.fault = none
  post : r.post = .none
  commits : r.commits = op.commits
  yields : r.yields = true → op.yields = true
  ctl : op.pops = false → r.ctl = []
  ends : r.ends = (op.ends || op.always)

theorem commitTask_eq {d : Device} {g : Group} (h : findGroup d.groups g.gid = some g) :
    ∃ gs, commitTask g.gid d = { d with groups := gs } ∧
      (∀ id, id ≠ g.gid → g.partner ≠ some id → findGroup gs id = findGroup d.groups id) ∧
      ∃ k, findGroup gs g.gid = some { g with task := k } ∧
        (g.partner = none → k = g.task.map fun x => { x with committed := true }) := by
  simp only [commitTask, Device.group?, h, taskGroup]
  have hcase : g.partner = none ∨ ∃ p, g.partner = some p := by
    cases hp : g.partner with
    | none => exact .inl rfl
    | some p => exact .inr ⟨p, rfl⟩
  obtain hp | ⟨p, hp⟩ := hcase
  · rw [show g.partner.getD g.gid = g.gid by rw [hp]; rfl]
    simp only [Device.onGroup, Device.group?, h]
    refine ⟨_, rfl, fun id hid _ => ?_, g.task.map fun x => { x with committed := true }, ?_, fun _ => rfl⟩
    · exact findGroup_putGroup_other (g := { g with task := g.task.map fun x => { x with committed := true } }) hid
    · exact findGroup_putGroup_self (g := { g with task := g.task.map fun x => { x with committed := true } }) h
  · rw [show g.partner.getD g.gid = p by rw [hp]; rfl]
    have hne' : ∀ q : Prop, g.partner = none → q := fun q e => by rw [hp] at e; cases e
    simp only [Device.onGroup, Device.group?]
    cases hf : findGroup d.groups p with
    | none =>
      exact ⟨d.groups, rfl, fun _ _ _ => rfl, g.task, h, hne' _⟩
    | some x =>
      have hx : x.gid = p := findGroup_gid hf
      refine ⟨_, rfl, fun id hid hne => ?_, ?_⟩
      · refine findGroup_putGroup_other (g := { x with task := x.task.map fun x => { x with committed := true } }) ?_
        intro e
        exact hne (by rw [e, hx, hp])
      · by_cases e : p = g.gid
        · subst e
          rw [h] at hf
          cases hf
          exact ⟨_, findGroup_putGroup_self (g := { g with task := g.task.map fun x => { x with committed := true } }) h,
            hne' _⟩
        · refine ⟨g.task, ?_, hne' _⟩
          have := findGroup_putGroup_other (gs := d.groups) (g := { x with task := x.task.map fun x => { x with committed := true } })
            (id := g.gid) (fun q => e (by rw [← hx]; exact q.symm))
          exact this.trans h

/-- The group such a pass puts back. -/
structure OnceGroup (op : Op) (g : Group) (turn : Turn) (pc next : DWord) (h : Group) (movers : List Nat) (F : Group) : Prop where
  group : SameRest h F
  count : F.rc = h.rc + 1
  turnOver : F.turn = none ↔ (op.ends || op.always) = true ∨ Config.turnPasses ≤ turn.pos + 1 ∨ broadcastPc F = none
  levels : op.pops = false → F.loops = h.loops
  bound : ∀ (k : Nat) (q : k < 8), (F.c[k]).map (·.reg) = (h.c[k]).map (·.reg)
  pcs : ∀ u < 32, thread F u =
    if u ∈ movers then { thread h u with pc := next }
    else if u ∈ presentOf g turn pc then { thread h u with pc := pc + BitVec.ofNat 64 op.size } else thread h u

/-- The pass up to the commitment of the task. -/
theorem once_take {dec : Nat → Option Op} {op : Op} {s : State} {g : Group} {turn : Turn} {pc next : DWord} {out : LaneOut}
    {movers : List Nat} {r : Run} (hr : Runs op s g turn pc)
    (hrt : runThreads s.mem dec op (passInfo op s g turn pc) (presentOf g turn pc) (actives op g turn pc) { d := s.dev, g := g } = r)
    (h : RanOnce op g out (presentOf g turn pc) next movers r)
    (hm : movers = if op.uniform then presentOf g turn pc else actives op g turn pc)
    (hy : op.yields = true → ∃ u < 32, isRun (thread out.w.g u) = true) (hd : ∃ u < 32, (thread out.w.g u).st ≠ .done) :
    ∃ F d, OnceGroup op g turn pc next out.w.g movers F ∧
      d = { r.w.d.spend g.core (max r.cyc 1) with steps := (r.w.d.spend g.core (max r.cyc 1)).steps + 1 } ∧
      takePass s.mem dec op turn (passInfo op s g turn pc) (presentOf g turn pc) (actives op g turn pc) { d := s.dev, g := g } =
        if op.commits then commitTask F.gid (Work.close { d := d, g := F }) else Work.close { d := d, g := F } := by
  have hst : ∀ u < 32, (thread r.w.g u).st = (thread out.w.g u).st := by
    intro u hu
    rw [h.threads u hu]
    split <;> rfl
  obtain ⟨v, hv⟩ := h.group
  have hd' : ∃ u < 32, (thread r.w.g u).st ≠ .done := by
    obtain ⟨u, hu, q⟩ := hd
    exact ⟨u, hu, by rw [hst u hu]; exact q⟩
  have hy' : r.yields = true → ∃ u < 32, isRun (thread r.w.g u) = true := by
    intro e
    obtain ⟨u, hu, q⟩ := hy (h.yields e)
    exact ⟨u, hu, by simp only [isRun, hst u hu]; exact q⟩
  obtain ⟨F, d, hF, hd1, htk⟩ := takePass_done hr hrt h.fault h.post hd' hy'
  rw [h.commits] at htk
  refine ⟨F, d, ⟨(SameRest.threads hv).trans hF.group, ?_, ?_, ?_, ?_, ?_⟩, hd1, htk⟩
  · rw [hF.count, hv]
  · rw [hF.turnOver, h.ends]
  · intro hp
    exact (hF.levels (h.ctl hp)).trans (by rw [hv])
  · intro k q
    refine (hF.bound k q).trans ?_
    have q2 : r.w.g.c = out.w.g.c := by rw [hv]
    simp only [q2]
  · intro u hu
    rw [hF.threads u hu, h.threads u hu, hm]
    cases hun : op.uniform with
    | true =>
      simp only [if_true, Bool.true_eq_false, false_and, if_false]
      by_cases m1 : u ∈ presentOf g turn pc <;> simp only [m1, if_true, if_false]
    | false =>
      simp only [Bool.false_eq_true, if_false, true_and]
      by_cases m1 : u ∈ actives op g turn pc
      · simp only [m1, if_true, not_true_eq_false, and_false, if_false]
      · by_cases m2 : u ∈ presentOf g turn pc <;> simp only [m1, m2, if_true, if_false, not_false_eq_true, and_self, false_and]

theorem once_done {dec : Nat → Option Op} {op : Op} {s : State} {g : Group} {turn : Turn} {pc next : DWord} {out : LaneOut}
    {movers : List Nat} {r : Run} (hr : Runs op s g turn pc) (ho : PlainOut op g out)
    (hrt : runThreads s.mem dec op (passInfo op s g turn pc) (presentOf g turn pc) (actives op g turn pc) { d := s.dev, g := g } = r)
    (h : RanOnce op g out (presentOf g turn pc) next movers r)
    (hm : movers = if op.uniform then presentOf g turn pc else actives op g turn pc)
    (hy : op.yields = true → ∃ u < 32, isRun (thread out.w.g u) = true) (hd : ∃ u < 32, (thread out.w.g u).st ≠ .done) :
    ∃ t g', runPass dec op s = .next t ∧ Once op s g turn pc out.w.g out.w.d next movers t g' := by
  rw [runPass_runs hr]
  obtain ⟨F, d, hf, hd1, ht⟩ := once_take hr hrt h hm hy hd
  rw [ht]
  have hFgroup := hf.group
  have hFgid : F.gid = g.gid := by
    have q := congrArg Group.gid hFgroup
    exact Eq.trans (by exact q) ho.gid
  have hFpartner : F.partner = g.partner := by
    have q := congrArg Group.partner hFgroup
    exact Eq.trans (by exact q) ho.partner
  have hFtask : F.task = out.w.g.task := by
    have q := congrArg Group.task hFgroup
    exact q
  have hcl : Closed g.gid r.w.d (Work.close { d := d, g := F }) F := by
    subst hd1
    refine ⟨?_, ?_⟩
    · simp only [Work.close]
      split <;> rfl
    · simp only [Work.close]
      split <;> rfl
  generalize hC : Work.close { d := _, g := F } = C at hcl
  have hCF : findGroup C.groups g.gid = some F := by
    rw [hcl.groups, ← hFgid]
    obtain ⟨x, hx⟩ := Option.isSome_iff_exists.mp h.found
    rw [← hFgid] at hx
    exact findGroup_putGroup_self hx
  have hCo : op.pos.any readsQ = false → ∀ id, id ≠ g.gid → findGroup C.groups id = findGroup out.w.d.groups id := by
    intro hq id hid
    rw [hcl.groups, h.same hq, findGroup_putGroup_other (by rw [hFgid]; exact hid)]
  have hCd : { C with groups := out.w.d.groups, dies := out.w.d.dies, steps := out.w.d.steps, focus := out.w.d.focus } = out.w.d := by
    have q1 := congrArg (fun x : Device => { x with groups := out.w.d.groups, dies := out.w.d.dies, steps := out.w.d.steps, focus := out.w.d.focus }) hcl.rest
    have q2 := congrArg (fun x : Device => { x with groups := out.w.d.groups, dies := out.w.d.dies, steps := out.w.d.steps, focus := out.w.d.focus }) h.rest
    exact q1.trans q2
  obtain ⟨D, hD, hDd, hDo, k, hDF, hk1, hk2⟩ : ∃ D, (if op.commits then commitTask F.gid C else C) = D ∧
      { D with groups := C.groups } = C ∧
      (∀ id, id ≠ g.gid → (op.commits = true → g.partner ≠ some id) → findGroup D.groups id = findGroup C.groups id) ∧
      ∃ k, findGroup D.groups g.gid = some { F with task := k } ∧ (op.commits = false → k = F.task) ∧
        (op.commits = true → g.partner = none → k = F.task.map fun x => { x with committed := true }) := by
    cases hcm : op.commits with
    | false => exact ⟨C, rfl, rfl, fun _ _ _ => rfl, F.task, hCF, fun _ => rfl, fun e => by cases e⟩
    | true =>
      obtain ⟨gs, e1, e2, k, e3, e4⟩ := commitTask_eq (d := C) (g := F) (by rw [hFgid]; exact hCF)
      refine ⟨_, rfl, ?_, ?_, k, ?_, fun e => (by cases e), ?_⟩
      · simp only [if_true, e1]
      · intro id hid hne
        simp only [if_true, e1]
        exact e2 id (by rw [hFgid]; exact hid) (by rw [hFpartner]; exact hne rfl)
      · simp only [if_true, e1]
        rw [← hFgid]; exact e3
      · intro _ hp
        exact e4 (by rw [hFpartner]; exact hp)
  rw [hD]
  have hDlog : D.log = out.w.d.log := by
    have q1 := congrArg Device.log hDd
    have q2 := congrArg Device.log hCd
    exact Eq.trans (by exact q1) q2
  have hDdeck : D.deckOps = out.w.d.deckOps := by
    have q1 := congrArg Device.deckOps hDd
    have q2 := congrArg Device.deckOps hCd
    exact Eq.trans (by exact q1) q2
  have hDcmds : D.cmds = out.w.d.cmds := by
    have q1 := congrArg Device.cmds hDd
    have q2 := congrArg Device.cmds hCd
    exact Eq.trans (by exact q1) q2
  refine ⟨_, { F with task := k }, rfl, ⟨hDF, ?_, ?_, ?_, ?_, ?_, hf.count, hf.turnOver, hf.levels, ?_, ?_, hf.bound, hf.pcs⟩⟩
  · simp only [commit, hDlog]
  · have q1 := congrArg (fun x : Device => { x with groups := out.w.d.groups, dies := out.w.d.dies, steps := out.w.d.steps, focus := out.w.d.focus, log := out.w.d.log, deckOps := out.w.d.deckOps, cmds := out.w.d.cmds }) hDd
    have q2 := congrArg (fun x : Device => { x with log := out.w.d.log, deckOps := out.w.d.deckOps, cmds := out.w.d.cmds }) hCd
    exact q1.trans q2
  · intro hl
    rw [hl] at hDlog
    rw [commit_quiet hDlog]
    exact ⟨hDdeck, hDcmds⟩
  · intro hq id hid hne
    exact (hDo id hid hne).trans (hCo hq id hid)
  · have q := congrArg (fun x : Group => { x with task := out.w.g.task }) hFgroup
    exact q
  · intro hcm
    exact (hk1 hcm).trans hFtask
  · intro hcm hp
    show k = _
    rw [hk2 hcm hp, hFtask]

theorem foldl_setPc_group (next : DWord) (ts : List Nat) (g : Group) :
    ∃ v, ts.foldl (fun g u => onThread g u fun th => { th with pc := next }) g = { g with threads := v } :=
  foldl_onThread_group g ts fun _ th => { th with pc := next }

/-- An instruction that acts once for the group. -/
theorem uniform_pass {dec : Nat → Option Op} {op : Op} {s : State} {g : Group} {turn : Turn} {pc : DWord} {u : Nat}
    {rest : List Nat} {out : LaneOut} (hr : Runs op s g turn pc) (hu : op.uniform = true) (hy : op.yields = true → ∃ u < 32, isRun (thread out.w.g u) = true)
    (ha : actives op g turn pc = u :: rest)
    (hout : op.lane s.mem (passInfo op s g turn pc) u { d := s.dev, g := g } = out) (ho : PlainOut op g out)
    (hd : ∃ u < 32, (thread out.w.g u).st ≠ .done) :
    ∃ t g', runPass dec op s = .next t ∧
      Once op s g turn pc out.w.g out.w.d (out.target.getD (pc + BitVec.ofNat 64 op.size)) (presentOf g turn pc) t g' := by
  have hpc : (passInfo op s g turn pc).pc = pc := rfl
  have hf : operandFault op (passInfo op s g turn pc) u g = none := hr.sound u (by rw [ha]; exact List.mem_cons_self ..) _
  refine once_done hr ho rfl ?_ (by rw [hu]; rfl) hy hd
  simp only [runThreads, hu, if_true, ha, hf, hout, ho.raise]
  refine ⟨rfl, ho.found, fun _ => rfl, foldl_setPc_group _ _ _, ?_, rfl, ho.post, rfl, fun e => (by cases e), ?_, rfl⟩
  · intro v _
    exact thread_foldl_onThread (f := fun _ th => { th with pc := out.target.getD (pc + BitVec.ofNat 64 op.size) })
      (presentOf_nodup g turn pc) (fun t ht => (mem_presentOf.mp ht).1) v
  · intro hp
    simp only [hp, Bool.false_eq_true, if_false]

theorem foldl_single {α : Type} {f : α → Nat → α} {l : List Nat} {u : Nat} (hn : l.Nodup) (hm : u ∈ l)
    (hs : ∀ v ∈ l, v ≠ u → ∀ r, f r v = r) (r : α) : l.foldl f r = f r u := by
  have hnone : ∀ (l : List Nat), (∀ v ∈ l, ∀ r, f r v = r) → ∀ r, l.foldl f r = r := by
    intro l
    induction l with
    | nil => intro _ r; rfl
    | cons a rest ih =>
      intro h r
      rw [List.foldl_cons, h a (List.mem_cons_self ..)]
      exact ih (fun v hv => h v (List.mem_cons_of_mem _ hv)) r
  induction l generalizing r with
  | nil => cases hm
  | cons a rest ih =>
    have hn' := List.nodup_cons.mp hn
    rw [List.foldl_cons]
    by_cases e : a = u
    · subst e
      exact hnone rest (fun v hv => hs v (List.mem_cons_of_mem _ hv) fun q => hn'.1 (q ▸ hv)) _
    · rw [hs a (List.mem_cons_self ..) e]
      refine ih hn'.2 ?_ (fun v hv => hs v (List.mem_cons_of_mem _ hv)) r
      rcases List.mem_cons.mp hm with q | q
      · exact absurd q.symm e
      · exact q

/-- The first lane of a pass, where nothing stands in its way. -/
theorem runLane_start {m : Memory} {op : Op} {info : PassInfo} {u : Nat} {w : Work} {out : LaneOut} {ends : Bool}
    (hf : operandFault op info u w.g = none) (hout : op.lane m info u { w with g := markAll op u w.g } = out)
    (hn : out.raise = none) :
    runLane m op info u { w := w, ends := ends } =
      { w := { (if op.pos.any readsQ then popQ u out.w else out.w) with
          g := onThread (if op.pos.any readsQ then popQ u out.w else out.w).g u fun th =>
            { th with pc := out.target.getD (info.pc + BitVec.ofNat 64 op.size) } }
        lanes := match out.res with
          | some x => [] ++ [(u, x)]
          | none => []
        took := if out.target.isSome then [] ++ [u] else []
        did := []
        cyc := 0 + laneCost op info.rd.g
        ctl := if op.pops then info.pc :: [] else []
        ends := ends || op.ends
        slow := [] ++ ((if op.arrives then [] else op.pos.flatMap slowRegs) ++ op.also info u).map fun x => (x, bitOf u)
        fast := [] ++ (op.pos.flatMap fastRegs).map fun x => (x, bitOf u)
        pushed := false || op.pos.any pushesQ
        flags := false || op.flagger
        commits := false || op.commits
        yields := false || op.yields
        fault := none
        post := out.post } := by
  refine (runLane_ok (k := info.tick) ?_ ?_ rfl ?_ hn).trans rfl
  · show info.tick + 0 * _ = info.tick
    rw [Nat.zero_mul, Nat.add_zero]
  · exact hf
  · exact hout

/-- A slot that is not active does nothing in a pass whose RUN threads stand together. -/
theorem runSlot_skip {dec : Nat → Option Op} {op : Op} {s : State} {g : Group} {turn : Turn} {pc : DWord} {v : Nat}
    (hr : Runs op s g turn pc) (hv : v < 32) (hn : v ∉ actives op g turn pc) (r : Run) :
    runSlot s.mem dec op (passInfo op s g turn pc) v r = r := by
  have hpc : (passInfo op s g turn pc).pc = pc := rfl
  have hg : (passInfo op s g turn pc).rd.g = g := rfl
  have htn : (passInfo op s g turn pc).rd.turn = turn := rfl
  simp only [runSlot, hg, hpc, htn]
  by_cases hrun : isRun (thread g v) = true
  · have hp := hr.together v hv hrun
    have hga : guardOf op (thread g v) = false := by
      cases e : guardOf op (thread g v) with
      | false => rfl
      | true =>
        refine absurd ?_ hn
        simp only [actives, mem_activeOf, mem_presentOf]
        exact ⟨⟨hv, hrun, hp, by simp [mayRun, hr.fresh]⟩, e⟩
    simp only [hp, hga, if_true, Bool.false_eq_true, if_false, ite_self]
  · simp only [hrun, Bool.not_false, true_or, or_true, if_true]

/-- An active slot that meets no fault runs its lane. -/
theorem runSlot_active {dec : Nat → Option Op} {op : Op} {s : State} {g : Group} {turn : Turn} {pc : DWord} {u : Nat}
    {r q : Run} (hr : Runs op s g turn pc) (hm : u ∈ actives op g turn pc) (h1 : r.fault = none) (h2 : r.post = .none)
    (hq : runLane s.mem op (passInfo op s g turn pc) u r = q) (hf : q.fault = none) :
    runSlot s.mem dec op (passInfo op s g turn pc) u r = { q with did := q.did ++ [u] } := by
  have hpc : (passInfo op s g turn pc).pc = pc := rfl
  have hg : (passInfo op s g turn pc).rd.g = g := rfl
  have htn : (passInfo op s g turn pc).rd.turn = turn := rfl
  have hrun : isRun (thread g u) = true := (mem_presentOf.mp (mem_activeOf.mp hm).1).2.1
  have hguard : guardOf op (thread g u) = true := (mem_activeOf.mp hm).2
  have hp := hr.together u (mem_presentOf.mp (mem_activeOf.mp hm).1).1 hrun
  have hmay : mayRun turn u = true := by simp [mayRun, hr.fresh]
  simp only [runSlot, hg, hpc, htn, hrun, hmay, hp, hguard, if_true, h1, h2, Option.isSome_none, Bool.false_eq_true, ne_eq,
    not_true_eq_false, Bool.not_true, or_self, if_false, hq, hf, Option.isNone_none]

/-- The threads of a pass with one active thread. -/
theorem single_run {dec : Nat → Option Op} {op : Op} {s : State} {g : Group} {turn : Turn} {pc : DWord} {u : Nat}
    {q : Run} (hr : Runs op s g turn pc) (hu : op.uniform = false)
    (hfin : ∀ i w, op.fin i w = w) (ha : actives op g turn pc = [u])
    (hq : runLane s.mem op (passInfo op s g turn pc) u { w := { d := s.dev, g := g }, ends := op.always } = q)
    (hf : q.fault = none) (hp : q.post = .none) :
    runThreads s.mem dec op (passInfo op s g turn pc) (presentOf g turn pc) (actives op g turn pc) { d := s.dev, g := g } =
      { q with did := q.did ++ [u] } := by
  have hmem : u ∈ actives op g turn pc := by rw [ha]; exact List.mem_cons_self ..
  have hu32 : u < 32 := (mem_presentOf.mp (mem_activeOf.mp hmem).1).1
  have hfold := foldl_single (f := fun r t => runSlot s.mem dec op (passInfo op s g turn pc) t r) slots_nodup
    (mem_slots.mpr hu32) (fun v hv hne r => runSlot_skip hr (mem_slots.mp hv) (by rw [ha]; simpa using hne) r)
    { w := { d := s.dev, g := g }, ends := op.always }
  have hslot := runSlot_active (dec := dec) (r := { w := { d := s.dev, g := g }, ends := op.always }) hr hmem rfl rfl hq hf
  simp only [runThreads, hu, Bool.false_eq_true, if_false]
  rw [hfold, hslot]
  simp only [hf, hp, Option.isSome_none, stopsPass, Bool.false_eq_true, or_self, hfin, ite_self]

/-- An instruction with one active thread. -/
theorem single_pass {dec : Nat → Option Op} {op : Op} {s : State} {g : Group} {turn : Turn} {pc : DWord} {u : Nat}
    {out : LaneOut} (hr : Runs op s g turn pc) (hu : op.uniform = false) (hy : op.yields = true → ∃ u < 32, isRun (thread out.w.g u) = true)
    (hfin : ∀ i w, op.fin i w = w) (ha : actives op g turn pc = [u])
    (hout : op.lane s.mem (passInfo op s g turn pc) u { d := s.dev, g := markAll op u g } = out) (ho : PlainOut op g out)
    (hd : ∃ u < 32, (thread out.w.g u).st ≠ .done) :
    ∃ t g', runPass dec op s = .next t ∧
      Once op s g turn pc out.w.g out.w.d (out.target.getD (pc + BitVec.ofNat 64 op.size)) [u] t g' := by
  have hpc : (passInfo op s g turn pc).pc = pc := rfl
  have hmem : u ∈ actives op g turn pc := by rw [ha]; exact List.mem_cons_self ..
  have hu32 : u < 32 := (mem_presentOf.mp (mem_activeOf.mp hmem).1).1
  have hf : operandFault op (passInfo op s g turn pc) u g = none := hr.sound u hmem _
  refine once_done hr ho (single_run hr hu hfin ha (runLane_start (ends := op.always) hf hout ho.raise) rfl ho.post) ?_ (by rw [hu]; simp [ha]) hy hd
  refine ⟨?_, ?_, ?_, ?_, ?_, rfl, ho.post, Bool.false_or _, ?_, ?_, Bool.or_comm ..⟩
  · split
    · exact popQ_rest u out.w
    · rfl
  · split
    · exact popQ_found ho.found
    · exact ho.found
  · intro hq; rw [hq]; rfl
  · refine ⟨(setThread out.w.g u { thread out.w.g u with pc := out.target.getD (pc + BitVec.ofNat 64 op.size) }).threads, ?_⟩
    split
    · rw [popQ_g]; rfl
    · rfl
  · intro v hv
    have : ∀ w : Work, (if op.pos.any readsQ = true then popQ u w else w).g = w.g := by
      intro w; split
      · exact popQ_g u w
      · rfl
    rw [this, thread_onThread hu32]
    by_cases e : v = u
    · subst e; simp [hpc]
    · simp [e]
  · intro h
    exact (Bool.false_or _).symm.trans h
  · intro hp
    simp only [hp, Bool.false_eq_true, if_false]
end Sys2Proof.Machine
end

