-- ==== Sys2Proof/Laws/Effects.lean ====
section
/-! SUPPORT. The effects of threads as updates: a result that goes to its destination, a predicate, an index register, a time
register; and the pass of each kind of instruction. -/

namespace Sys2Proof.Machine

theorem qwin_keep {q : Vector (List QEntry) 32} {t : Nat} : q.set! t (q.toArray.getD t []) = q := by
  apply Vector.ext
  intro i hi
  simp only [Vector.set!_eq_setIfInBounds, Vector.getElem_setIfInBounds]
  split
  · subst i; simp [Array.getD, hi]
  · rfl

/-- Words into consecutive V registers, which become defined (R93). -/
def putTh (r : VReg) (ws : List Word) (th : Thread) : Thread :=
  match ws with
  | [] => th
  | w :: rest => putTh (r + 1) rest { th with v := th.v.set r.toNat w r.isLt, dead := th.dead &&& ~~~(1#64 <<< r.toNat) }

/-- The poison marks that a write of consecutive V registers keeps. -/
def keepV (t : Nat) (r : VReg) (ws : List Word) (p : Nat × Reg) : Bool :=
  match ws with
  | [] => true
  | _ :: rest => !markOf t r p && keepV t (r + 1) rest p

theorem putWords_eq {t : Nat} (ht : t < 32) (r : VReg) (ws : List Word) (g : Group) :
    putWords g t r ws = { onThread g t (putTh r ws) with poison := g.poison.filter (keepV t r ws) } := by
  induction ws generalizing g r with
  | nil =>
    have e : onThread g t (putTh r []) = g := by
      simp only [onThread, putTh]
      exact setThread_thread g t ht
    have e2 : g.poison.filter (keepV t r []) = g.poison := List.filter_eq_self.mpr fun _ _ => rfl
    rw [e, e2]
    rfl
  | cons w rest ih =>
    rw [putWords, ih]
    have e : onThread (setV g t r w) t (putTh (r + 1) rest) =
        { onThread g t (putTh r (w :: rest)) with poison := g.poison.filter fun p => !markOf t r p } := by
      have h := onThread_onThread (g := g) (t := t)
        (f := fun th => { th with v := th.v.set r.toNat w r.isLt, dead := th.dead &&& ~~~(1#64 <<< r.toNat) })
        (h := putTh (r + 1) rest) ht
      exact congrArg (fun x : Group => { x with poison := g.poison.filter fun p => !markOf t r p }) h
    rw [e]
    show ({ onThread g t (putTh r (w :: rest)) with poison := (g.poison.filter fun p => !markOf t r p).filter (keepV t (r + 1) rest) } : Group) = _
    have e3 : (g.poison.filter fun p => !markOf t r p).filter (keepV t (r + 1) rest) =
        g.poison.filter (keepV t r (w :: rest)) := by
      rw [List.filter_filter]
      apply List.filter_congr
      intro p _
      simp only [keepV, Bool.and_comm]
    rw [e3]

/-- The update of a thread by a result. -/
def dstEff (t : Nat) (d : Dst) (ws : List Word) (fl : Flags) : LaneEff :=
  match d with
  | .v r => { th := putTh r ws, keep := keepV t r ws, fl := fl }
  | .q => { push := [ws.head?], fl := fl }
  | .sup | .rsv _ => { fl := fl }

theorem onThread_id {g : Group} {t : Nat} (ht : t < 32) : onThread g t id = g := setThread_thread g t ht

theorem filter_all {α : Type} (l : List α) : l.filter (fun _ => true) = l := List.filter_eq_self.mpr fun _ _ => rfl

/-- A result that goes to its destination is an update of its thread. -/
theorem putDst_eq {t : Nat} (ht : t < 32) (d : Dst) (ws : List Word) (fl : Flags) (g : Group) :
    putDst { g with flags := g.flags ||| fl } t d ws = applyEff t (dstEff t d ws fl) g := by
  cases d with
  | v r =>
    simp only [putDst, putWords_eq ht, dstEff, applyEff, List.map_nil, List.append_nil, qwin_keep]
    rfl
  | q =>
    simp only [putDst, pushQ, dstEff, applyEff, onThread_id ht, filter_all]
    rfl
  | sup =>
    simp only [putDst, dstEff, applyEff, onThread_id ht, filter_all, List.map_nil, List.append_nil, qwin_keep]
  | rsv n =>
    simp only [putDst, dstEff, applyEff, onThread_id ht, filter_all, List.map_nil, List.append_nil, qwin_keep]

theorem putTh_write (r : VReg) (ws : List Word) (th : Thread) :
    { putTh r ws th with dead := 0 } = { writeWords r ws th with dead := 0 } := by
  induction ws generalizing r th with
  | nil => rfl
  | cons w rest ih =>
    simp only [putTh, writeWords]
    rw [ih]
    generalize hx : th.v.set r.toNat w r.isLt = v
    have : ∀ (ws : List Word) (r : VReg) (th : Thread) (d : DWord),
        { writeWords r ws { th with dead := d } with dead := 0 } = { writeWords r ws th with dead := 0 } := by
      intro ws
      induction ws with
      | nil => intro _ _ _; rfl
      | cons w rest ih => intro r th d; exact ih (r + 1) { th with v := th.v.set r.toNat w r.isLt } d
    exact this rest (r + 1) { th with v := v } _

theorem putTh_dead (r : VReg) (ws : List Word) (th : Thread) (n : Nat) (h : (putTh r ws th).dead.getLsbD n = true) :
    th.dead.getLsbD n = true := by
  induction ws generalizing r th with
  | nil => exact h
  | cons w rest ih =>
    have := ih _ _ h
    simp only [BitVec.getLsbD_and, Bool.and_eq_true] at this
    exact this.1

theorem putTh_st (r : VReg) (ws : List Word) (th : Thread) : (putTh r ws th).st = th.st := by
  induction ws generalizing r th with
  | nil => rfl
  | cons w rest ih => exact ih _ _

theorem putTh_congr (r : VReg) (ws : List Word) (th : Thread) (d : DWord) :
    { putTh r ws { th with dead := d } with dead := 0 } = { putTh r ws th with dead := 0 } := by
  induction ws generalizing r th d with
  | nil => rfl
  | cons w rest ih =>
    simp only [putTh]
    rw [ih _ { th with v := th.v.set r.toNat w r.isLt } _, ← ih _ { th with v := th.v.set r.toNat w r.isLt } _]

theorem dstEff_plain (t : Nat) (d : Dst) (ws : List Word) (fl : Flags) : (dstEff t d ws fl).plain := by
  cases d with
  | v r => exact ⟨fun th d => putTh_congr r ws th d, putTh_st r ws, putTh_dead r ws⟩
  | q => exact ⟨fun _ _ => rfl, fun _ => rfl, fun _ _ h => h⟩
  | sup => exact ⟨fun _ _ => rfl, fun _ => rfl, fun _ _ h => h⟩
  | rsv n => exact ⟨fun _ _ => rfl, fun _ => rfl, fun _ _ h => h⟩

theorem dstEff_th (t : Nat) (d : Dst) (ws : List Word) (fl : Flags) (th : Thread) :
    { (dstEff t d ws fl).th th with dead := 0 } = { writeDst d ws th with dead := 0 } := by
  cases d with
  | v r => exact putTh_write r ws th
  | q => rfl
  | sup => rfl
  | rsv n => rfl

theorem dstEff_push (t : Nat) (d : Dst) (ws : List Word) (fl : Flags) : (dstEff t d ws fl).push = pushDst d ws := by
  cases d <;> rfl

theorem dstEff_fl (t : Nat) (d : Dst) (ws : List Word) (fl : Flags) : (dstEff t d ws fl).fl = fl := by
  cases d <;> rfl

/-- What a pass comes to depends on its rule's updates but for dead marks. -/
theorem Lanes.congr {op : Op} {s : State} {g : Group} {turn : Turn} {pc : DWord} {r q : PassRule} {t : State} {g' : Group}
    (h : Lanes op s g turn pc r t g')
    (h1 : ∀ u ∈ actives op g turn pc, { r.upd u (thread g u) with dead := 0 } = { q.upd u (thread g u) with dead := 0 })
    (h2 : r.fl = q.fl) (h3 : r.push = q.push) (h4 : r.res = q.res) (h5 : r.next = q.next) (h6 : r.scalar = q.scalar)
    (h7 : r.flAll = q.flAll) : Lanes op s g turn pc q t g' := by
  refine ⟨h.passed, ?_, h.dead, ?_, ?_, ?_, ?_⟩
  · intro u hu
    rw [h.ran u hu, h5]
    exact congrArg (fun th : Thread => { th with pc := (q.next u).getD (pc + BitVec.ofNat 64 op.size) }) (h1 u hu)
  · rw [← h6]; exact h.scalars
  · rw [← h2, ← h7]; exact h.flags
  · rw [← h3]; exact h.pushed
  · rw [← h4]; exact h.latch

/-- Active threads are slots. -/
theorem actives_lt {op : Op} {g : Group} {turn : Turn} {pc : DWord} {t : Nat} (h : t ∈ actives op g turn pc) : t < 32 :=
  (mem_presentOf.mp (mem_activeOf.mp h).1).1

/-- The pass of an instruction whose threads each write a result to D. -/
theorem dst_pass {dec : Nat → Option Op} {op : Op} {s : State} {g : Group} {turn : Turn} {pc : DWord} {d : Dst}
    {ws : Nat → List Word} {fl : Nat → Flags} {res : Nat → Option DWord} (hr : Runs op s g turn pc)
    (hu : op.uniform = false) (hc : op.commits = false) (hf : ∀ i w, op.fin i w = w)
    (hl : ∀ t ∈ actives op g turn pc, ∀ k w, Beside op s.dev g t w → op.lane s.mem { passInfo op s g turn pc with tick := k } t w =
      { w := { w with g := putDst { w.g with flags := w.g.flags ||| fl t } t d (ws t) }, res := res t }) :
    ∃ t g', runPass dec op s = .next t ∧ Lanes op s g turn pc { upd := fun u => writeDst d (ws u), fl := fl, push := fun u => pushDst d (ws u), res := res } t g' := by
  have hab : ∀ t ∈ actives op g turn pc, t < 32 := fun t ht => (mem_presentOf.mp (mem_activeOf.mp ht).1).1
  have hlo : LocalOp op s g (passInfo op s g turn pc) (actives op g turn pc) (fun _ t => dstEff t d (ws t) (fl t))
      (fun _ t => res t) (fun _ => none) none 0 := by
    refine ⟨?_, fun _ _ => dstEff_plain .., hu, hc, ?_⟩
    · intro t ht k w hw
      rw [hl t ht k w hw, putDst_eq (hab t ht)]
    · intro w
      rw [hf]
      have : applyFin none 0 w.g = w.g := by simp [applyFin]
      rw [this]
  obtain ⟨κ, t, g', h1, h2⟩ := lanes_pass (dec := dec) hr hlo
  refine ⟨t, g', h1, h2.congr (fun u _ => dstEff_th ..) ?_ ?_ rfl rfl rfl rfl⟩
  · funext u; exact dstEff_fl ..
  · funext u; exact dstEff_push ..

/-- The pass of an instruction whose threads each update registers other than V, and branch or do not. -/
theorem upd_pass {dec : Nat → Option Op} {op : Op} {s : State} {g : Group} {turn : Turn} {pc : DWord}
    {upd : Nat → Thread → Thread} {fl : Nat → Flags} {keep : Nat → Nat × Reg → Bool} {res : Nat → Option DWord}
    {tgt : Nat → Option DWord} {sc : Option (SReg × Word)} {flA : Flags} (hr : Runs op s g turn pc)
    (hu : op.uniform = false) (hc : op.commits = false)
    (hf : ∀ w, op.fin (passInfo op s g turn pc) w = { w with g := applyFin sc flA w.g })
    (hp : ∀ t th d, { upd t { th with dead := d } with dead := 0 } = { upd t th with dead := 0 })
    (hs : ∀ t th, (upd t th).st = th.st) (hd : ∀ t th n, (upd t th).dead.getLsbD n = true → th.dead.getLsbD n = true)
    (hl : ∀ t ∈ actives op g turn pc, ∀ k w, Beside op s.dev g t w → op.lane s.mem { passInfo op s g turn pc with tick := k } t w =
      { w := { w with g := { onThread w.g t (upd t) with flags := w.g.flags ||| fl t, poison := w.g.poison.filter (keep t) } }, res := res t, target := tgt t }) :
    ∃ t g', runPass dec op s = .next t ∧
      Lanes op s g turn pc { upd := upd, fl := fl, res := res, next := tgt, scalar := sc, flAll := flA } t g' := by
  have hab : ∀ t ∈ actives op g turn pc, t < 32 := fun t ht => (mem_presentOf.mp (mem_activeOf.mp ht).1).1
  have hlo : LocalOp op s g (passInfo op s g turn pc) (actives op g turn pc)
      (fun _ t => { th := upd t, fl := fl t, keep := keep t }) (fun _ t => res t) tgt sc flA := by
    refine ⟨?_, fun _ t => ⟨hp t, hs t, hd t⟩, hu, hc, hf⟩
    intro t ht k w hw
    rw [hl t ht k w hw]
    simp only [applyEff, List.map_nil, List.append_nil, qwin_keep]
    rfl
  obtain ⟨κ, t, g', h1, h2⟩ := lanes_pass (dec := dec) hr hlo
  exact ⟨t, g', h1, h2⟩

end Sys2Proof.Machine
end

