-- ==== Sys2Proof/Laws/Runs.lean ====
section
/-! SUPPORT. When an instruction executes normally, in two parts: what the state says of the group alone, and what depends on the
instruction, as a check that evaluates. -/

namespace Sys2Proof.Machine

/-- A group stands at `pc` with its turn begun, no word of it marked uncorrectable, no fault pending. -/
structure Standing (s : State) (g : Group) (turn : Turn) (pc : DWord) : Prop where
  focus : s.dev.focus = some g.gid
  here : s.dev.group? g.gid = some g
  hasTurn : g.turn = some turn
  fresh : turn.reissue = none
  log : s.dev.log = []
  first : broadcastPc g = some pc
  together : ∀ t < 32, isRun (thread g t) = true → (thread g t).pc = pc
  sound : g.poison = []
  none_ : g.pendFaults = []

/-- The rest of `Runs`. -/
def runsCheck (op : Op) (s : State) (g : Group) (turn : Turn) (pc : DWord) : Bool :=
  let act := actives op g turn pc
  let rd := rdOf s.dev g turn
  let now := s.dev.tickOf g.core
  !op.illegal g pc && operandsAllowed (qRole s.dev g) g turn op.pos && !act.any (fifoFull op g) && !fgetOpen s.dev g &&
  (match regsWhen s.dev rd op.pos act with
    | .at_ k => decide (k ≤ now)
    | .arrival => false) &&
  decide (fwdsWhen rd op (presentOf g turn pc) act ≤ now) &&
  (act.all fun t => (op.gate s.mem (passInfo op s g turn pc) t { d := s.dev, g := g }).isNone) &&
  (!op.pos.any readsQ || act.all fun t => rd.fifo.toArray.getD t [] != []) && !isLoopEnd g pc op.size && !act.isEmpty

theorem operandFault_none (op : Op) (info : PassInfo) (t : Nat) (g : Group) (hp : info.rd.g.poison = []) (hf : g.pendFaults = [])
    (hq : op.pos.any readsQ = false ∨ info.rd.fifo.toArray.getD t [] ≠ []) : operandFault op info t g = none := by
  unfold operandFault poisoned pendHit
  simp only [hp, hf, List.isEmpty_nil, Bool.not_true, Bool.false_and, Bool.false_eq_true, if_false, List.find?_nil]
  rcases hq with q | q
  · rw [q, if_neg (by simp)]
  · rw [if_neg fun e => q e.2]

theorem runs_of_check {op : Op} {s : State} {g : Group} {turn : Turn} {pc : DWord} (st : Standing s g turn pc)
    (h : runsCheck op s g turn pc = true) : Runs op s g turn pc := by
  simp only [runsCheck, Bool.and_eq_true, decide_eq_true_eq, Bool.not_eq_true', List.all_eq_true, Bool.or_eq_true,
    Option.isNone_iff_eq_none, bne_iff_ne, ne_eq] at h
  obtain ⟨⟨⟨⟨⟨⟨⟨⟨⟨h8, h9⟩, h10⟩, h11⟩, h12⟩, h13⟩, h14⟩, h17⟩, h18⟩, h19⟩ := h
  refine ⟨st.focus, st.here, st.hasTurn, st.fresh, st.log, st.first, st.together, h8, h9, h10, h11, ?_, h13, h14,
    fun t ht k => ?_, h18, fun e => ?_⟩
  · split at h12
    · exact ⟨_, by assumption, by simpa using h12⟩
    · cases h12
  · exact operandFault_none op _ t g st.sound st.none_ (h17.imp id fun q => q t ht)
  · rw [e] at h19
    cases h19

end Sys2Proof.Machine
end

