-- ==== Sys2Proof/Tests/Slice0.lean ====
section
/-! SUPPORT. Tests of the model's own author: words written out from the spec's encodings, ill-formed terms, results worked
out by hand from the rules, and for every statement with hypotheses a witness that meets them together. -/

namespace Sys2Proof.Tests

open Machine

set_option Elab.async false
set_option maxRecDepth 4000

/-- A property of every member of a list, one after another. -/
def All {α : Type} (p : α → Prop) : List α → Prop
  | [] => True
  | a :: l => p a ∧ All p l


/-! ## Witnesses: a small machine -/

/-- A turn in its third pass, both latches full. -/
def turn2 : Turn := { pos := 2, l0 := { void := false }, l1 := { void := false } }

/-- A context at code base 0, a handler at 64, a region of 4 KiB of each scratchpad. -/
def ctx0 : Ctx := { loaderCtx with handler := some 64, z := 4096, regions := [(0, 0)] }

/-- A group resident on core 0, every thread RUN at 0, P1 true in the even slots, I1 at the last register of the window. -/
def wide : Group :=
  { gid := 0, ctx := 0, core := 0, gidx := 0, d := 64, x := 128, place := some (0, 0), instantiated := true, turn := some turn2
    threads := Vector.ofFn fun k => { p := if k.val % 2 = 0 then 2 else 0, i := (Vector.replicate 4 0).set 1 0x007F8000 } }

/-- A machine with one group in focus, its code and data mapped by one page of 4 KiB. -/
def withGroup (g : Group) : State :=
  { dev := { booted := true, ctxs := [ctx0], groups := [g], focus := some g.gid, tlb := [loaderTrans], keys := [(0, 0, 1)] } }

/-- `Standing` of the group in focus, as a check. -/
def stands (g : Group) : Bool :=
  decide (g.turn = some turn2) && decide (broadcastPc g = some 0) && g.poison.isEmpty && g.pendFaults.isEmpty &&
  (List.range 32).all fun t => !isRun (thread g t) || decide ((thread g t).pc = 0)

theorem standing {s : State} {g : Group} (h1 : s.dev.focus = some g.gid) (h2 : s.dev.group? g.gid = some g) (h3 : s.dev.log = [])
    (q : stands g = true) : Standing s g turn2 0 := by
  simp only [stands, Bool.and_eq_true, decide_eq_true_eq, List.isEmpty_iff, List.all_eq_true, Bool.or_eq_true,
    Bool.not_eq_true'] at q
  exact ⟨h1, h2, q.1.1.1.1, rfl, h3, q.1.1.1.2, fun t ht r => (q.2 t (List.mem_range.2 ht)).resolve_left (by simp [r]),
    q.1.1.2, q.1.2⟩

theorem wide_stands : Standing (withGroup wide) wide turn2 0 := standing rfl rfl rfl (by decide +kernel)

theorem ok_of {e : Except Cause Nat} {n : Nat} (h : e.toOption = some n) : e = .ok n := by
  cases e with
  | ok x => simpa [Except.toOption] using h
  | error x => simp [Except.toOption] at h

/-- An instruction that runs for a group of a machine. -/
def RunsIn (s : State) (g : Group) (i : Instr) : Prop := ∃ op, opOf i = some op ∧ Runs op s g turn2 0

/-- A pass of an instruction in which every one of 32 threads is present. -/
def RunsWide (i : Instr) : Prop := RunsIn (withGroup wide) wide i

theorem runsIn {s : State} {g : Group} {i : Instr} {op : Op} (st : Standing s g turn2 0) (h : opOf i = some op)
    (q : runsCheck op s g turn2 0 = true) : RunsIn s g i := ⟨op, h, runs_of_check st q⟩

theorem runsWide {i : Instr} {op : Op} (h : opOf i = some op) (q : runsCheck op (withGroup wide) wide turn2 0 = true) :
    RunsWide i := runsIn wide_stands h q

/-- Registers of the thread below: V2:V3 and S2:S3 the address 0x40 of memory, V4:V5 and S4:S5 the scratchpad address of offset
0x20, V6 0x40, V10 1, V12:V13 an address that is not canonical; a control block of MMA from S16, of MCRD from S24, of QPOST from S32, operands of
BAR.ARRIVE in S36 and S37. -/
def regs : Vector Word 64 :=
  Vector.ofFn fun k => match k.val with
    | 2 | 6 => 0x40
    | 4 => 0x20
    | 5 => 0xFFFE0000
    | 10 => 1
    | 13 => 0x01000000
    | 17 | 19 => 64
    | 24 | 27 => 128
    | 29 => 1
    | 32 => 0x40
    | 35 => 1
    | 36 => 0x100
    | 37 => 0x20F
    | _ => 0

/-- A group resident on core 0 of which the thread in slot 31 alone is RUN. -/
def lone : Group :=
  { wide with
    threads := Vector.ofFn fun k => if k.val = 31 then { v := regs } else { st := .done }
    s := regs }

theorem lone_stands : Standing (withGroup lone) lone turn2 0 := standing rfl rfl rfl (by decide +kernel)

/-- A pass of an instruction in one thread, the one in slot 31. -/
def RunsLone (s : State) (g : Group) (i : Instr) : Prop :=
  ∃ op, opOf i = some op ∧ Runs op s g turn2 0 ∧ actives op g turn2 0 = [31]

theorem runsLone {s : State} {g : Group} {i : Instr} {op : Op} (st : Standing s g turn2 0) (h : opOf i = some op)
    (q : runsCheck op s g turn2 0 = true) (a : actives op g turn2 0 = [31]) : RunsLone s g i := ⟨op, h, runs_of_check st q, a⟩

/-- `IntegerResults`, row by row. -/
theorem witness_IntegerResults : All (fun i => (∃ d f, Rules.IntA i d f) ∧ RunsWide i) [
    .add { b := .v 2, a := .v 4, d := .v 6, kb := false, ka := true },
    .sub { b := .v 2, a := .v 4, d := .v 6, kb := false, ka := true },
    .mullo { b := .v 2, a := .v 4, d := .v 6, kb := false, ka := true },
    .mulhi { b := .v 2, a := .v 4, d := .v 6, kb := false, ka := true },
    .mulhiu { b := .v 2, a := .v 4, d := .v 6, kb := false, ka := true },
    .mad { b := .v 2, a := .v 4, d := .v 6, kb := false, ka := true },
    .absdiff { b := .v 2, a := .v 4, d := .v 6, kb := false, ka := true },
    .avg { b := .v 2, a := .v 4, d := .v 6, kb := false, ka := true },
    .min { b := .v 2, a := .v 4, d := .v 6, kb := false, ka := true },
    .max { b := .v 2, a := .v 4, d := .v 6, kb := false, ka := true },
    .minu { b := .v 2, a := .v 4, d := .v 6, kb := false, ka := true },
    .maxu { b := .v 2, a := .v 4, d := .v 6, kb := false, ka := true },
    .and { b := .v 2, a := .v 4, d := .v 6, kb := false, ka := true },
    .or { b := .v 2, a := .v 4, d := .v 6, kb := false, ka := true },
    .xor { b := .v 2, a := .v 4, d := .v 6, kb := false, ka := true },
    .andn { b := .v 2, a := .v 4, d := .v 6, kb := false, ka := true },
    .shl { b := .v 2, a := .v 4, d := .v 6, kb := false, ka := true },
    .shr { b := .v 2, a := .v 4, d := .v 6, kb := false, ka := true },
    .sar { b := .v 2, a := .v 4, d := .v 6, kb := false, ka := true },
    .rotl { b := .v 2, a := .v 4, d := .v 6, kb := false, ka := true },
    .bfx { b := .v 2, a := .v 4, d := .v 6, kb := false, ka := true },
    .bfi { b := .v 2, a := .v 4, d := .v 6, kb := false, ka := true },
    .lea2 { b := .v 2, a := .v 4, d := .v 6, kb := false, ka := true },
    .lea3 { b := .v 2, a := .v 4, d := .v 6, kb := false, ka := true },
    .selp { b := .v 2, a := .v 4, d := .v 6, kb := false, ka := false, p := 1 },
    .add64 { b := .v 2, a := .v 4, d := .v 6, kb := false, ka := true },
    .sub64 { b := .v 2, a := .v 4, d := .v 6, kb := false, ka := true },
    .shl64 { b := .v 2, a := .v 4, d := .v 6, kb := false, ka := true },
    .shr64 { b := .v 2, a := .v 4, d := .v 6, kb := false, ka := true }] := by
  repeat' apply And.intro
  all_goals first
    | exact True.intro
    | exact runsWide rfl (by decide +kernel)
    | exact ⟨_, _, by constructor⟩

/-- `ImmediateAndUnaryResults`, row by row. -/
theorem witness_ImmediateAndUnaryResults : All (fun i => (∃ d f, Rules.IntI i d f) ∧ RunsWide i) [
    .addi { imm := 0x7FF, a := .v 4, d := .v 6 },
    .andi { imm := 0x7FF, a := .v 4, d := .v 6 },
    .ori { imm := 0x7FF, a := .v 4, d := .v 6 },
    .xori { imm := 0x7FF, a := .v 4, d := .v 6 },
    .muli { imm := 0x7FF, a := .v 4, d := .v 6 },
    .shifti { kind := .sar, amt := 31, a := .v 4, d := .v 6 },
    .lui { imm := 0x3FFFF, d := .v 6 },
    .llo { imm := 0x3FFF, d := .v 6 },
    .adr { imm := 0x3FFFF, d := .v 6 },
    .mov { a := .v 4, d := .v 6, k1 := false, ka := true, g := 0 },
    .not { a := .v 4, d := .v 6, k1 := false, ka := true, g := 0 },
    .neg { a := .v 4, d := .v 6, k1 := false, ka := true, g := 0 },
    .abs { a := .v 4, d := .v 6, k1 := false, ka := true, g := 0 },
    .clz { a := .v 4, d := .v 6, k1 := false, ka := true, g := 0 },
    .ctz { a := .v 4, d := .v 6, k1 := false, ka := true, g := 0 },
    .popc { a := .v 4, d := .v 6, k1 := false, ka := true, g := 0 },
    .brev { a := .v 4, d := .v 6, k1 := false, ka := true, g := 0 },
    .bswap { a := .v 4, d := .v 6, k1 := false, ka := true, g := 0 },
    .sext8 { a := .v 4, d := .v 6, k1 := false, ka := true, g := 0 },
    .sext16 { a := .v 4, d := .v 6, k1 := false, ka := true, g := 0 },
    .mov64 { a := .v 4, d := .v 6, k1 := false, ka := true, g := 0 },
    .iget { i := 1, d := .v 6, k1 := false, ka := false, g := 0 },
    .pget { pa := 1, d := .v 6, k1 := false, ka := false, g := 0 }] := by
  repeat' apply And.intro
  all_goals first
    | exact True.intro
    | exact runsWide rfl (by decide +kernel)
    | exact ⟨_, _, by constructor⟩

/-- `FloatResults`, row by row. -/
theorem witness_FloatResults : All (fun i => (∃ d f, Rules.Fp i d f) ∧ RunsWide i) [
    .fadd { b := .v 2, a := .v 4, d := .v 6, kb := false, ka := true },
    .fsub { b := .v 2, a := .v 4, d := .v 6, kb := false, ka := true },
    .fmul { b := .v 2, a := .v 4, d := .v 6, kb := false, ka := true },
    .ffma { b := .v 2, a := .v 4, d := .v 6, kb := false, ka := true },
    .fnma { b := .v 2, a := .v 4, d := .v 6, kb := false, ka := true },
    .ffmal { b := .v 2, a := .v 4, d := .v 6, kb := false, ka := true },
    .fmin { b := .v 2, a := .v 4, d := .v 6, kb := false, ka := true },
    .fmax { b := .v 2, a := .v 4, d := .v 6, kb := false, ka := true },
    .padd2 { b := .v 2, a := .v 4, d := .v 6, kb := false, ka := true },
    .pmul2 { b := .v 2, a := .v 4, d := .v 6, kb := false, ka := true },
    .pfma2 { b := .v 2, a := .v 4, d := .v 6, kb := false, ka := true },
    .pmax2 { b := .v 2, a := .v 4, d := .v 6, kb := false, ka := true },
    .dadd { b := .v 2, a := .v 4, d := .v 6, kb := false, ka := true },
    .dsub { b := .v 2, a := .v 4, d := .v 6, kb := false, ka := true },
    .dmul { b := .v 2, a := .v 4, d := .v 6, kb := false, ka := true },
    .dfma { b := .v 2, a := .v 4, d := .v 6, kb := false, ka := true },
    .dmin { b := .v 2, a := .v 4, d := .v 6, kb := false, ka := true },
    .dmax { b := .v 2, a := .v 4, d := .v 6, kb := false, ka := true },
    .fneg { a := .v 4, d := .v 6, k1 := false, ka := true, g := 0 },
    .fabs { a := .v 4, d := .v 6, k1 := false, ka := true, g := 0 },
    .fsqrt { a := .v 4, d := .v 6, k1 := false, ka := true, g := 0 },
    .frcp { a := .v 4, d := .v 6, k1 := false, ka := true, g := 0 },
    .frsq { a := .v 4, d := .v 6, k1 := false, ka := true, g := 0 },
    .fexp2 { a := .v 4, d := .v 6, k1 := false, ka := true, g := 0 },
    .flog2 { a := .v 4, d := .v 6, k1 := false, ka := true, g := 0 },
    .fsinpi { a := .v 4, d := .v 6, k1 := false, ka := true, g := 0 },
    .fcospi { a := .v 4, d := .v 6, k1 := false, ka := true, g := 0 },
    .frint { a := .v 4, d := .v 6, k1 := false, ka := true, g := 0 },
    .fclass { a := .v 4, d := .v 6, k1 := false, ka := true, g := 0 },
    .dneg { a := .v 4, d := .v 6, k1 := false, ka := true, g := 0 },
    .dabs { a := .v 4, d := .v 6, k1 := false, ka := true, g := 0 },
    .dsqrt { a := .v 4, d := .v 6, k1 := false, ka := true, g := 0 },
    .drcp { a := .v 4, d := .v 6, k1 := false, ka := true, g := 0 },
    .drint { a := .v 4, d := .v 6, k1 := false, ka := true, g := 0 },
    .dclass { a := .v 4, d := .v 6, k1 := false, ka := true, g := 0 },
    .pneg2 { a := .v 4, d := .v 6, k1 := false, ka := true, g := 0 },
    .pabs2 { a := .v 4, d := .v 6, k1 := false, ka := true, g := 0 },
    .cvtF32I32 { r := .dyn, a := .v 4, d := .v 6, k1 := false, ka := false, g := 0 },
    .cvtF32N32 { r := .dyn, a := .v 4, d := .v 6, k1 := false, ka := false, g := 0 },
    .cvtI32F32 { r := .dyn, a := .v 4, d := .v 6, k1 := false, ka := false, g := 0 },
    .cvtN32F32 { r := .dyn, a := .v 4, d := .v 6, k1 := false, ka := false, g := 0 },
    .cvtF64F32 { r := .dyn, a := .v 4, d := .v 6, k1 := false, ka := false, g := 0 },
    .cvtF32F64 { r := .dyn, a := .v 4, d := .v 6, k1 := false, ka := false, g := 0 },
    .cvtF64I32 { r := .dyn, a := .v 4, d := .v 6, k1 := false, ka := false, g := 0 },
    .cvtI32F64 { r := .dyn, a := .v 4, d := .v 6, k1 := false, ka := false, g := 0 },
    .cvtF32F16 { r := .dyn, a := .v 4, d := .v 6, k1 := false, ka := false, g := 0 },
    .cvtF16x2F32x2 { r := .dyn, a := .v 4, d := .v 6, k1 := false, ka := false, g := 0 },
    .cvtBf16x2F32x2 { r := .dyn, a := .v 4, d := .v 6, k1 := false, ka := false, g := 0 },
    .cvtBf16x4E8x4 { r := .dyn, a := .v 4, d := .v 6, k1 := false, ka := false, g := 0 },
    .cvtE4m3x4Bf16x4 { r := .dyn, a := .v 4, d := .v 6, k1 := false, ka := false, g := 0 },
    .cvtE5m2x4Bf16x4 { r := .dyn, a := .v 4, d := .v 6, k1 := false, ka := false, g := 0 },
    .cvtBf16x2B4 { r := .dyn, a := .v 4, d := .v 6, k1 := false, ka := false, g := 0 },
    .cvtB4F32 { r := .dyn, a := .v 4, d := .v 6, k1 := false, ka := false, g := 0 }] := by
  repeat' apply And.intro
  all_goals first
    | exact True.intro
    | exact runsWide rfl (by decide +kernel)
    | exact ⟨_, _, by constructor⟩

/-- `SixteenBitForms`, row by row. -/
theorem witness_SixteenBitForms : All (fun i => (∃ j d f, Rules.Wide i j ∧ Rules.Result j d f) ∧ RunsWide i) [
    .add16 { b := .v 1, d := 2 },
    .sub16 { b := .v 1, d := 2 },
    .and16 { b := .v 1, d := 2 },
    .or16 { b := .v 1, d := 2 },
    .xor16 { b := .v 1, d := 2 },
    .shl16 { b := .v 1, d := 2 },
    .shr16 { b := .v 1, d := 2 },
    .min16 { b := .v 1, d := 2 },
    .max16 { b := .v 1, d := 2 },
    .mov16 { b := .v 1, d := 2 },
    .fadd16 { b := .v 1, d := 2 },
    .fmul16 { b := .v 1, d := 2 },
    .fmac16 { b := .v 1, d := 2 },
    .padd2s16 { b := .v 1, d := 2 },
    .pfma2s16 { b := .v 1, d := 2 },
    .fmax16 { b := .v 1, d := 2 }] := by
  repeat' apply And.intro
  all_goals first
    | exact True.intro
    | exact runsWide rfl (by decide +kernel)
    | exact ⟨_, _, _, by constructor, .inl ⟨_, by constructor, rfl⟩⟩
    | exact ⟨_, _, _, by constructor, .inr (.inl ⟨_, by constructor, rfl⟩)⟩
    | exact ⟨_, _, _, by constructor, .inr (.inr (by constructor))⟩

/-- `PredicateResults`, row by row. -/
theorem witness_PredicateResults : All (fun i => (∃ p c fl, Rules.Pred i p c fl) ∧ RunsWide i) [
    .icmp { b := .v 2, a := .v 4, conj := true, cond := .lt, p := 1, kb := false, ka := false, ty := .n64 },
    .fcmp { b := .v 2, a := .v 4, conj := true, cond := .lt, p := 1, kb := false, ka := false, ty := .f64 },
    .pand { nb := true, na := false, pb := 1, pa := 2, pd := 3, k1 := false, ka := false, g := 0 },
    .por { nb := true, na := false, pb := 1, pa := 2, pd := 3, k1 := false, ka := false, g := 0 },
    .pxor { nb := true, na := false, pb := 1, pa := 2, pd := 3, k1 := false, ka := false, g := 0 },
    .ptest { a := .v 4, pd := 3, k1 := false, ka := false, g := 0 },
    .pbit { a := .v 4, pd := 3, k1 := false, ka := false, g := 0 }] := by
  repeat' apply And.intro
  all_goals first
    | exact True.intro
    | exact runsWide rfl (by decide +kernel)
    | exact ⟨_, _, _, by constructor⟩

/-- `ExchangeResults`, row by row. -/
theorem witness_ExchangeResults : All (fun i => (∃ d f, Rules.Exchange i d f) ∧ RunsWide i) [
    .scan { op := .addF32, seg := 1, a := .v 4, d := .v 6, k1 := false, ka := false, g := 0 },
    .delay { a := .v 4, d := .v 6, k1 := false, ka := true, g := 0 },
    .perm { a := .v 4, d := .v 6, k1 := false, ka := true, g := 0 },
    .bfirst { a := .v 4, d := .v 6, k1 := false, ka := true, g := 0 },
    .blast { a := .v 4, d := .v 6, k1 := false, ka := true, g := 0 },
    .rank { a := .v 4, d := .v 6, k1 := false, ka := true, g := 0 },
    .matchLanes { a := .v 4, d := .v 6, k1 := false, ka := true, g := 0 },
    .scan { op := .addF32, seg := 1, a := .v 4, d := .v 6, k1 := true, ka := false, g := 0 }] := by
  repeat' apply And.intro
  all_goals first
    | exact True.intro
    | exact runsWide rfl (by decide +kernel)
    | exact ⟨_, _, .scan _ rfl⟩
    | exact ⟨_, _, .scanEx _ rfl⟩
    | exact ⟨_, _, by constructor⟩

/-- `TimeReads`, row by row. -/
theorem witness_TimeReads : All (fun i => (∃ d f, Rules.TimeRead i d f) ∧ RunsWide i) [
    .tnow { d := .v 6, k1 := false, ka := false, g := 0 },
    .tdiff { t := 1, d := .v 6, k1 := false, ka := false, g := 0 },
    .tstat { t := 1, d := .v 6, k1 := false, ka := false, g := 0 },
    .tmin { a := .v 4, d := .v 6, k1 := false, ka := true, g := 0 }] := by
  repeat' apply And.intro
  all_goals first
    | exact True.intro
    | exact runsWide rfl (by decide +kernel)
    | exact ⟨_, _, by constructor⟩

/-- `TimeWrites`, row by row. -/
theorem witness_TimeWrites : All (fun i => (∃ r f, Rules.TimeWrite i r f) ∧ RunsWide i) [
    .tmov { t := 1, u := 2, k1 := false, ka := false, g := 0 },
    .tset { a := .v 4, t := 1, ka := false, g := 0 },
    .tsetClr { a := .zero, t := 1, ka := false, g := 0 }] := by
  repeat' apply And.intro
  all_goals first
    | exact True.intro
    | exact runsWide rfl (by decide +kernel)
    | exact ⟨_, _, by constructor⟩

/-- `ThreadBranches`, row by row. -/
theorem witness_ThreadBranches : All (fun i => (∃ c a, Rules.Branch i c a) ∧ RunsWide i) [
    .nop { k1 := false, ka := false, g := 0 },
    .brt { off := 5, t := 1, test := .due },
    .jmp { a := .v 4, k1 := false, ka := false, g := 0 },
    .braThr { off := 5, g := 1 },
    .braThrNot { off := 5, g := 1 }] := by
  repeat' apply And.intro
  all_goals first
    | exact True.intro
    | exact runsWide rfl (by decide +kernel)
    | exact ⟨_, _, by constructor⟩

/-- `ScalarResults`, row by row. -/
theorem witness_ScalarResults : All (fun i => (∃ r f, Rules.Scalar i (.s r) f) ∧ RunsWide i) [
    .sadd { b := .s 2, a := .imm 9, d := .s 4, kb := false, ka := false },
    .ssub { b := .s 2, a := .imm 9, d := .s 4, kb := false, ka := false },
    .smul { b := .s 2, a := .imm 9, d := .s 4, kb := false, ka := false },
    .sand { b := .s 2, a := .imm 9, d := .s 4, kb := false, ka := false },
    .sor { b := .s 2, a := .imm 9, d := .s 4, kb := false, ka := false },
    .sxor { b := .s 2, a := .imm 9, d := .s 4, kb := false, ka := false },
    .sshl { b := .s 2, a := .imm 9, d := .s 4, kb := false, ka := false },
    .sshr { b := .s 2, a := .imm 9, d := .s 4, kb := false, ka := false },
    .saddi { imm := 0x400, a := .s 1, d := .s 2 },
    .slui { imm := 1, d := .s 2 },
    .sllo { imm := 1, d := .s 2 },
    .smov { a := .s 2, d := .s 4, k1 := false, ka := false },
    .spopc { a := .s 2, d := .s 4, k1 := false, ka := false },
    .sctz { a := .s 2, d := .s 4, k1 := false, ka := false },
    .sclz { a := .s 2, d := .s 4, k1 := false, ka := false },
    .sfromv { a := .v 4, d := .s 4, k1 := false, ka := false, g := 0 },
    .sread { a := .v 4, d := .s 4, k1 := false, ka := false, g := 0 },
    .estat { k := .free, d := .s 4, k1 := false, ka := false }] := by
  repeat' apply And.intro
  all_goals first
    | exact True.intro
    | exact runsWide rfl (by decide +kernel)
    | exact ⟨_, _, .sllo _ _ rfl⟩
    | exact ⟨_, _, .sread _ _ rfl⟩
    | exact ⟨_, _, by constructor⟩

/-- `UniformBranches`, row by row. -/
theorem witness_UniformBranches : All (fun i => (∃ c a, Rules.Vote i c a) ∧ RunsWide i) [
    .braAlways { off := 0x7FFFF },
    .braAny { off := 5, g := 1 },
    .braAll { off := 5, g := 1 },
    .braNone { off := 5, g := 1 },
    .endturn { k1 := false, ka := false }] := by
  repeat' apply And.intro
  all_goals first
    | exact True.intro
    | exact runsWide rfl (by decide +kernel)
    | exact ⟨_, _, by constructor⟩

/-! ## Witnesses: further statements about passes -/

/-- `IndexedWindow`. -/
theorem witness_IndexedWindow : All (fun i => RunsWide i ∧ ∀ u ∈ presentOf wide turn2 0, (indexOf wide (thread wide u) 1).isSome = true) [
    .movx { i := 1, d := .v 6, k1 := true, ka := false, g := 0 }, .movxw { a := .v 4, i := 1, k1 := true, ka := false, g := 0 },
    .iset { a := .v 4, i := 1, k1 := false, ka := false, g := 0 }] := by
  refine ⟨⟨runsWide rfl ?_, ?_⟩, ⟨runsWide rfl ?_, ?_⟩, ⟨runsWide rfl ?_, ?_⟩, trivial⟩ <;> decide +kernel

/-- `ReduceAndVote`, the threads with a true guard being half. -/
theorem witness_ReduceAndVote : All RunsWide [
    .reduce { op := .addF32, a := .v 4, d := .s 63, k1 := false, ka := false, g := 1 },
    .vote { a := .v 4, d := .s 0, k1 := true, ka := false, g := 1 }] := by
  refine ⟨runsWide rfl ?_, runsWide rfl ?_, trivial⟩ <;> decide +kernel

/-- The group with two levels on its loop stack and S1 = 0. -/
def looping : Group := { wide with loops := [{ counter := 2, start := 4, stop := 32 }, { counter := 1, start := 0, stop := 64 }] }

theorem looping_stands : Standing (withGroup looping) looping turn2 0 := standing rfl rfl rfl (by decide +kernel)

/-- The group with S1 = 3. -/
def counting : Group := { looping with s := wide.s.set 1 3 }

theorem counting_stands : Standing (withGroup counting) counting turn2 0 := standing rfl rfl rfl (by decide +kernel)

/-- `BreakLoop`, and the code at the end address can be read. -/
theorem witness_BreakLoop : RunsIn (withGroup looping) looping (.brkloop { k1 := false, ka := false, g := 0 }) ∧
    looping.loops = { counter := 2, start := 4, stop := 32 } :: [{ counter := 1, start := 0, stop := 64 }] ∧
    codeWord (withGroup looping).mem (withGroup looping).dev looping 32 = .ok 0 := by
  refine ⟨runsIn looping_stands rfl ?_, ?_, ok_of ?_⟩ <;> decide +kernel

/-- `LoopLevels`: a new level, and none. -/
theorem witness_LoopLevels : RunsIn (withGroup counting) counting (.loop { off := 8, s := 1 }) ∧ getS counting 1 = 3 ∧
    counting.loops.length < 3 ∧ RunsIn (withGroup looping) looping (.loop { off := 8, s := 1 }) ∧ getS looping 1 = 0 ∧
    codeWord (withGroup looping).mem (withGroup looping).dev looping (branchTo 0 8) = .ok 0 := by
  refine ⟨runsIn counting_stands rfl ?_, ?_, ?_, runsIn looping_stands rfl ?_, ?_, ok_of ?_⟩ <;> decide +kernel

/-- A trap frame. -/
def frame0 : Frame := { kind := 0, threads := Vector.replicate 32 { epc := 8, resume := true }, pc := 8, pos := 2 }

/-- The group in HANDLER. -/
def handling : Group := { wide with cond := .handler, frame := some frame0 }

theorem handling_stands : Standing (withGroup handling) handling turn2 0 := standing rfl rfl rfl (by decide +kernel)

/-- `SystemReads`, every value. -/
theorem witness_SystemReads :
    All (fun v => (∃ f, Rules.SysValue v f) ∧ RunsIn (withGroup handling) handling (.srd { val := v, d := .s 63, ka := false }))
      [.coreid, .grantX, .grantY, .grantW, .grantH, .codeBase, .codeBaseHi, .whereAt, .mode, .flags, .fmask, .tcause, .tframe,
       .context, .restart] ∧
    All (fun v => (∃ f, Rules.FrameValue v f) ∧
      RunsIn (withGroup handling) handling (.srdV { val := v, d := .v 63, ka := false, g := 0 }))
      [.epc, .estate, .eaddr, .eaddrHi] ∧
    RunsIn (withGroup wide) wide (.srdV { val := .epc, d := .v 63, ka := false, g := 0 }) := by
  refine ⟨?_, ?_, ?_⟩
  all_goals repeat' apply And.intro
  all_goals first
    | exact True.intro
    | exact runsIn handling_stands rfl (by decide +kernel)
    | exact runsIn wide_stands rfl (by decide +kernel)
    | exact ⟨_, by constructor⟩

/-- The group in an idempotent region. -/
def inRegion : Group := { wide with region := some { entry := 4, s := wide.s, mode := 0, flags := 0, loops := [], mask := 0 } }

theorem inRegion_stands : Standing (withGroup inRegion) inRegion turn2 0 := standing rfl rfl rfl (by decide +kernel)

/-- `GroupWrites`, row by row. -/
theorem witness_GroupWrites :
    (∃ c f, Rules.GroupWrite (.swrite { a := .s 2, d := .v 63, k1 := false, ka := false }) c f) ∧
    RunsWide (.swrite { a := .s 2, d := .v 63, k1 := false, ka := false }) ∧
    (∃ c f, Rules.GroupWrite (.swr { flags := false, a := .s 2, ka := false }) c f) ∧
    RunsWide (.swr { flags := false, a := .s 2, ka := false }) ∧
    (∃ c f, Rules.GroupWrite (.swr { flags := true, a := .zero, ka := false }) c f) ∧
    RunsWide (.swr { flags := true, a := .zero, ka := false }) ∧
    (∃ c f, Rules.GroupWrite (.cbind { a := .v 4, c := 7, k1 := false, ka := false }) c f) ∧
    RunsWide (.cbind { a := .v 4, c := 7, k1 := false, ka := false }) ∧
    (∃ c f, Rules.GroupWrite (.cunbind { c := 7, k1 := false, ka := false }) c f) ∧
    RunsWide (.cunbind { c := 7, k1 := false, ka := false }) ∧
    (∃ c f, Rules.GroupWrite (.ideme { k1 := false, ka := false }) c f ∧
      c (withGroup inRegion) inRegion (passInfo (opIdeme { k1 := false, ka := false }) (withGroup inRegion) inRegion turn2 0)) ∧
    RunsIn (withGroup inRegion) inRegion (.ideme { k1 := false, ka := false }) := by
  refine ⟨⟨_, _, .swrite _ _ _ rfl rfl⟩, ?_, ⟨_, _, .swrMode _ rfl⟩, ?_, ⟨_, _, .swrFlags _ rfl⟩, ?_, ⟨_, _, .cbind _ _ rfl⟩, ?_,
    ⟨_, _, .cunbind _⟩, ?_, ⟨_, _, .ideme _, rfl⟩, runsIn inRegion_stands rfl (by decide +kernel)⟩
  all_goals exact runsWide rfl (by decide +kernel)

/-- `GroupWrites`: IDEMB with every thread at it. -/
theorem witness_GroupWrites_idemb : RunsWide (.idemb { k1 := false, ka := false }) ∧
    ∃ c f, Rules.GroupWrite (.idemb { k1 := false, ka := false }) c f ∧
      c (withGroup wide) wide (passInfo (opIdemb { k1 := false, ka := false }) (withGroup wide) wide turn2 0) :=
  ⟨runsWide rfl (by decide +kernel), _, _, .idemb _ 0, rfl, rfl, rfl, by decide +kernel, by decide +kernel⟩

/-- `CallsAndReturns`: even code offsets. -/
theorem witness_CallsAndReturns : RunsWide (.call { off := 0x40000 }) ∧
    RunsWide (.callr { a := .s 62, k1 := false, ka := false }) ∧ RunsWide (.ret { a := .s 62, k1 := false, ka := false }) ∧
    (usrc32 wide (.s 62)).getLsbD 0 = false := by
  refine ⟨runsWide rfl ?_, runsWide rfl ?_, runsWide rfl ?_, ?_⟩ <;> decide +kernel

/-- `YieldHolds`. -/
theorem witness_YieldHolds : RunsWide (.yield { k1 := false, ka := false }) := runsWide rfl (by decide +kernel)

/-! ## Witnesses: memory -/

/-- What the thread in slot 31 reads. -/
def rd0 : Rd := rdOf (withGroup lone).dev lone turn2

/-- The leaf of the mapped page. -/
def leaf0 : Leaf := transLeaf loaderTrans

theorem mapped {va : DWord} {size k : Nat} {need : Need} (h1 : vaClass va = .canonical ∧ va.toNat % size = 0)
    (h2 : lookup (withGroup lone).dev lone.core lone.ctx va = .leaf leaf0)
    (h3 : (leafKey (withGroup lone).mem (withGroup lone).dev ctx0 lone.core va leaf0 need).toOption = some k) :
    Rules.Mapped (withGroup lone) lone va size need k leaf0 := ⟨h1, ctx0, rfl, h2, ok_of h3⟩

theorem inPad {va : DWord} (h : vaClass va = .scratch ∧ placeCheck lone (vaDx va) (vaDy va) = some 0) :
    Rules.InPad lone va 0 := h

/-- `LoadsIssue`, row by row, in memory. -/
theorem witness_LoadsIssue : All (fun i => (∃ f dst tr size n e, Rules.Load i f dst tr size n e ∧
      Rules.InMemory (f rd0 31) size) ∧ RunsLone (withGroup lone) lone i) [
    .ldw { off := 31, t := 15, b := .v 2, d := .v 63, g := 0 }, .ldd { off := 31, t := 0, b := .v 2, d := .v 62, g := 0 },
    .ldq { off := 31, t := 1, b := .v 2, d := .v 60, g := 0 },
    .ldsub { sz := .i8, off := 7, t := 1, b := .v 2, d := .v 16, g := 0 },
    .ldsub { sz := .n8, off := 7, t := 1, b := .v 2, d := .v 0, g := 0 },
    .ldsub { sz := .i16, off := 7, t := 1, b := .v 2, d := .v 16, g := 0 },
    .ldsub { sz := .n16, off := 7, t := 1, b := .v 2, d := .v 16, g := 0 }] := by
  repeat' apply And.intro
  all_goals first
    | exact True.intro
    | exact runsLone lone_stands rfl (by decide +kernel) (by decide +kernel)
    | exact ⟨_, _, _, _, _, _, .ldsub8 _ rfl, by decide +kernel, by decide +kernel⟩
    | exact ⟨_, _, _, _, _, _, .ldsub8u _ rfl, by decide +kernel, by decide +kernel⟩
    | exact ⟨_, _, _, _, _, _, .ldsub16 _ rfl, by decide +kernel, by decide +kernel⟩
    | exact ⟨_, _, _, _, _, _, .ldsub16u _ rfl, by decide +kernel, by decide +kernel⟩
    | exact ⟨_, _, _, _, _, _, by constructor, by decide +kernel, by decide +kernel⟩

/-- `LoadsIssue` in a scratchpad, where an address need not be aligned. -/
theorem witness_LoadsIssue_pad : (∃ f dst tr size n e,
      Rules.Load (.ldq { off := 1, t := 1, b := .v 4, d := .v 60, g := 0 }) f dst tr size n e ∧ Rules.InPad lone (f rd0 31) 0) ∧
    RunsLone (withGroup lone) lone (.ldq { off := 1, t := 1, b := .v 4, d := .v 60, g := 0 }) :=
  ⟨⟨_, _, _, _, _, _, .ldq _, inPad (by decide +kernel)⟩, runsLone lone_stands rfl (by decide +kernel) (by decide +kernel)⟩

/-- `ScratchStores`, row by row: nothing holds the store back. -/
theorem witness_ScratchStores : All (fun i => (∃ f v size, Rules.PadStore i f v size ∧ Rules.InPad lone (f rd0 31) 0 ∧
      held (withGroup lone).dev 0 (scratchKeys (withGroup lone).dev lone 0 (f rd0 31) size) 1 = false ∧
      pathHolds (withGroup lone).dev 0 (scratchKeys (withGroup lone).dev lone 0 (f rd0 31) size) = false) ∧
      RunsLone (withGroup lone) lone i) [
    .stw { off := 31, t := 0, b := .v 4, x := .v 8, g := 0 }, .std { off := 31, t := 0, b := .v 4, x := .v 8, g := 0 },
    .stq { off := 31, t := 0, b := .v 4, x := .v 8, g := 0 },
    .stsub { half := false, off := 7, t := 0, b := .v 4, x := .v 8, g := 0 },
    .stsub { half := true, off := 7, t := 0, b := .v 4, x := .v 8, g := 0 },
    .mcst { a := .v 4, b := .v 8, k1 := false, ka := false, g := 0 }, .mcst { a := .v 4, b := .v 8, k1 := true, ka := false, g := 0 }] := by
  repeat' apply And.intro
  all_goals first
    | exact True.intro
    | exact runsLone lone_stands rfl (by decide +kernel) (by decide +kernel)
    | exact ⟨_, _, _, .store _ _ _ _ (by constructor), inPad (by decide +kernel), by decide +kernel, by decide +kernel⟩
    | exact ⟨_, _, _, .mcst _ rfl, inPad (by decide +kernel), by decide +kernel, by decide +kernel⟩
    | exact ⟨_, _, _, .mcst64 _ rfl, inPad (by decide +kernel), by decide +kernel, by decide +kernel⟩

/-- `MemoryStores`, row by row. -/
theorem witness_MemoryStores : All (fun i => (∃ f v size k, Rules.Store i f v size ∧
      Rules.Mapped (withGroup lone) lone (f rd0 31) size .w k leaf0) ∧ RunsLone (withGroup lone) lone i) [
    .stw { off := 31, t := 0, b := .v 2, x := .v 8, g := 0 }, .std { off := 31, t := 0, b := .v 2, x := .v 8, g := 0 },
    .stq { off := 31, t := 0, b := .v 2, x := .v 8, g := 0 },
    .stsub { half := false, off := 7, t := 0, b := .v 2, x := .v 8, g := 0 },
    .stsub { half := true, off := 7, t := 0, b := .v 2, x := .v 8, g := 0 }] := by
  repeat' apply And.intro
  all_goals first
    | exact True.intro
    | exact runsLone lone_stands rfl (by decide +kernel) (by decide +kernel)
    | exact ⟨_, _, _, 0xBC, by constructor, mapped (by decide +kernel) (by decide +kernel) (by decide +kernel)⟩
    | exact ⟨_, _, _, 0x138, by constructor, mapped (by decide +kernel) (by decide +kernel) (by decide +kernel)⟩
    | exact ⟨_, _, _, 0x230, by constructor, mapped (by decide +kernel) (by decide +kernel) (by decide +kernel)⟩
    | exact ⟨_, _, _, 0x47, by constructor, mapped (by decide +kernel) (by decide +kernel) (by decide +kernel)⟩
    | exact ⟨_, _, _, 0x4E, by constructor, mapped (by decide +kernel) (by decide +kernel) (by decide +kernel)⟩

/-- `MulticastStores`, outside every replica region. -/
theorem witness_MulticastStores : RunsLone (withGroup lone) lone (.mcst { a := .v 2, b := .v 8, k1 := true, ka := false, g := 0 }) ∧
    Rules.Mapped (withGroup lone) lone (src64 rd0 31 (.v 2)) 8 .w 0x40 leaf0 ∧
    (copyKeys (withGroup lone).mem (withGroup lone).dev ctx0 (src64 rd0 31 (.v 2)) leaf0).toOption = some [0x40] :=
  ⟨runsLone lone_stands rfl (by decide +kernel) (by decide +kernel),
    mapped (by decide +kernel) (by decide +kernel) (by decide +kernel), by decide +kernel⟩

/-- `ScalarLoads`, in memory and in a scratchpad. -/
theorem witness_ScalarLoads :
    RunsLone (withGroup lone) lone (.sld { a := .s 2, d := .s 63, k1 := false, ka := false }) ∧ Rules.InMemory (usrc64 lone (.s 2)) 4 ∧
    RunsLone (withGroup lone) lone (.sldd { a := .s 4, d := .s 62, k1 := false, ka := false }) ∧
    Rules.InPad lone (usrc64 lone (.s 4)) 0 :=
  ⟨runsLone lone_stands rfl (by decide +kernel) (by decide +kernel), ⟨by decide +kernel, by decide +kernel⟩,
    runsLone lone_stands rfl (by decide +kernel) (by decide +kernel), inPad (by decide +kernel)⟩

/-- An atomic of the tests meets the premises of `AtomicsIssue`, in mapped memory. -/
structure AtomRuns (i : Instr) : Prop where
  at_ : ∃ o aop ty size, Rules.Atom i o aop ty size ∧ ∃ keys,
    Rules.AtomAt (withGroup lone) lone (pair (readV rd0 31 o.addr) (readV rd0 31 (o.addr + 1)))
      (Rules.rmwOf aop ty size (srcWords rd0 31 (.v o.opnd) (Rules.shape aop size).1)) keys 0
  runs : RunsLone (withGroup lone) lone i

theorem atomRuns {i : Instr} {op : Op} {o : FmtT} {aop : AtomOp} {ty : AtomTy} {size : Nat} (h : Rules.Atom i o aop ty size)
    (ho : opOf i = some op) (q : runsCheck op (withGroup lone) lone turn2 0 = true) (a : actives op lone turn2 0 = [31])
    (h1 : pair (readV rd0 31 o.addr) (readV rd0 31 (o.addr + 1)) = 0x40) (h2 : 0x40 % size = 0) : AtomRuns i := by
  refine ⟨⟨o, aop, ty, size, h, _, .inr ⟨0x40, leaf0, ?_, rfl, rfl, fun e => ?_⟩⟩, runsLone lone_stands ho q a⟩
  · rw [h1]
    exact mapped ⟨by decide +kernel, h2⟩ (by decide +kernel) (by decide +kernel)
  · exact absurd e (by decide +kernel)

/-- `AtomicsIssue`, with a destination, row by row. -/
theorem witness_AtomicsIssue_return : All AtomRuns [
    .atom32AddI32 { opnd := 8, addr := 2, d := .v 16, g := 0 },
    .atom32AddF32 { opnd := 8, addr := 2, d := .v 16, g := 0 },
    .atom32MinI32 { opnd := 8, addr := 2, d := .v 16, g := 0 },
    .atom32MinN32 { opnd := 8, addr := 2, d := .v 16, g := 0 },
    .atom32MinF32 { opnd := 8, addr := 2, d := .v 16, g := 0 },
    .atom32MaxI32 { opnd := 8, addr := 2, d := .v 16, g := 0 },
    .atom32MaxN32 { opnd := 8, addr := 2, d := .v 16, g := 0 },
    .atom32MaxF32 { opnd := 8, addr := 2, d := .v 16, g := 0 },
    .atom32AndB32 { opnd := 8, addr := 2, d := .v 16, g := 0 },
    .atom32OrB32 { opnd := 8, addr := 2, d := .v 16, g := 0 },
    .atom32XorB32 { opnd := 8, addr := 2, d := .v 16, g := 0 },
    .atom32ExchB32 { opnd := 8, addr := 2, d := .v 16, g := 0 },
    .atom32CasB32 { opnd := 8, addr := 2, d := .v 16, g := 0 },
    .atom64AddI64 { opnd := 8, addr := 2, d := .v 16, g := 0 },
    .atom64AddF64 { opnd := 8, addr := 2, d := .v 16, g := 0 },
    .atom64MinI64 { opnd := 8, addr := 2, d := .v 16, g := 0 },
    .atom64MinN64 { opnd := 8, addr := 2, d := .v 16, g := 0 },
    .atom64MinF64 { opnd := 8, addr := 2, d := .v 16, g := 0 },
    .atom64MaxI64 { opnd := 8, addr := 2, d := .v 16, g := 0 },
    .atom64MaxN64 { opnd := 8, addr := 2, d := .v 16, g := 0 },
    .atom64MaxF64 { opnd := 8, addr := 2, d := .v 16, g := 0 },
    .atom64AndB64 { opnd := 8, addr := 2, d := .v 16, g := 0 },
    .atom64OrB64 { opnd := 8, addr := 2, d := .v 16, g := 0 },
    .atom64XorB64 { opnd := 8, addr := 2, d := .v 16, g := 0 },
    .atom64ExchB64 { opnd := 8, addr := 2, d := .v 16, g := 0 },
    .atom64CasB64 { opnd := 8, addr := 2, d := .v 16, g := 0 },
    .atomxAddBf16 { opnd := 8, addr := 2, d := .v 16, g := 0 },
    .atomxMinBf16 { opnd := 8, addr := 2, d := .v 16, g := 0 },
    .atomxMaxBf16 { opnd := 8, addr := 2, d := .v 16, g := 0 },
    .atomxAddBf16x2 { opnd := 8, addr := 2, d := .v 16, g := 0 },
    .atomxMinBf16x2 { opnd := 8, addr := 2, d := .v 16, g := 0 },
    .atomxMaxBf16x2 { opnd := 8, addr := 2, d := .v 16, g := 0 },
    .atomxAddF16x2 { opnd := 8, addr := 2, d := .v 16, g := 0 },
    .atomxMinF16x2 { opnd := 8, addr := 2, d := .v 16, g := 0 },
    .atomxMaxF16x2 { opnd := 8, addr := 2, d := .v 16, g := 0 },
    .atomxExchB128 { opnd := 8, addr := 2, d := .v 16, g := 0 },
    .atomxCasB128 { opnd := 8, addr := 2, d := .v 16, g := 0 }] := by
  repeat' apply And.intro
  all_goals first
    | exact True.intro
    | (refine atomRuns (by constructor) rfl ?_ ?_ ?_ ?_ <;> decide +kernel)

/-- `AtomicsIssue`, without one. -/
theorem witness_AtomicsIssue_none : All AtomRuns [
    .atom32AddF32 { opnd := 8, addr := 2, d := .sup, g := 0 },
    .atom64CasB64 { opnd := 8, addr := 2, d := .sup, g := 0 },
    .atomxExchB128 { opnd := 8, addr := 2, d := .sup, g := 0 }] := by
  repeat' apply And.intro
  all_goals first
    | exact True.intro
    | (refine atomRuns (by constructor) rfl ?_ ?_ ?_ ?_ <;> decide +kernel)

/-- `AtomicsIssue` without a destination: nothing to merge with, and room in the buffer. -/
theorem witness_AtomicsIssue_room : (withGroup lone).dev.reds = [] ∧ (buffered (withGroup lone).dev lone.core).length < 512 := by
  decide +kernel

/-- `AtomicResults`: four bytes at the top of a memory die, with and without an uncorrectable sector. -/
theorem witness_AtomicResults : let keys := [0x17FFFFFFC, 0x17FFFFFFD, 0x17FFFFFFE, 0x17FFFFFFF]
    keys.Nodup ∧ keys.length = 4 ∧ keys.any (badSector (withGroup lone).dev · 0) = false ∧
    keys.any (badSector { (withGroup lone).dev with bad := [(0x17FFFFFFC / 32, 1)] } · 0) = true := by decide +kernel

/-! ## Witnesses: cores together, decks, time, traps -/

theorem lone_runs {i : Instr} {op : Op} (h : opOf i = some op) (q : runsCheck op (withGroup lone) lone turn2 0 = true)
    (a : actives op lone turn2 0 = [31]) : RunsLone (withGroup lone) lone i := runsLone lone_stands h q a

/-- `LineOperations`. -/
theorem witness_LineOperations : All (RunsLone (withGroup lone) lone) [
    .pin { a := .v 2, d := .v 16, k1 := false, ka := false, g := 0 }, .unpin { a := .v 2, k1 := false, ka := false, g := 0 },
    .cflush { a := .v 2, k1 := false, ka := false, g := 0 }, .cinv { a := .v 2, k1 := false, ka := true, g := 0 }] ∧
    Rules.Mapped (withGroup lone) lone (src64 rd0 31 (.v 2)) 1 .r 0x40 leaf0 ∧ keyKind 0x40 ≠ .host := by
  refine ⟨⟨lone_runs rfl ?_ ?_, lone_runs rfl ?_ ?_, lone_runs rfl ?_ ?_, lone_runs rfl ?_ ?_, trivial⟩, mapped ?_ ?_ ?_, ?_⟩ <;>
    decide +kernel

/-- `Messages`. -/
theorem witness_Messages : RunsLone (withGroup lone) lone (.msend { a := .v 4, b := .v 8, k1 := true, ka := false, g := 0 }) ∧
    RunsLone (withGroup lone) lone (.mwait { a := .v 4, k1 := false, ka := false, g := 0 }) ∧ lone.region = none ∧
    Rules.InPad lone (src64 rd0 31 (.v 4)) 0 ∧ vaDx (src64 rd0 31 (.v 4)) = 0 ∧ vaDy (src64 rd0 31 (.v 4)) = 0 ∧
    (headerKey (withGroup lone).dev lone 0 (src64 rd0 31 (.v 4))).isSome = true := by
  refine ⟨lone_runs rfl ?_ ?_, lone_runs rfl ?_ ?_, rfl, inPad ?_, ?_, ?_, ?_⟩ <;> decide +kernel

/-- `EngineCommands`, row by row. -/
theorem witness_EngineCommands : All (fun i => (∃ o k c b, Rules.Engine i o k c b ∧ c (withGroup lone) lone) ∧
      RunsLone (withGroup lone) lone i) [
    .cpy { a := .s 2, t := 15, k1 := false, ka := false }, .cpyx { a := .s 2, t := 1, k1 := false, ka := false },
    .coll { a := .s 2, t := 1, k1 := false, ka := false }, .mcrd { a := .s 24, t := 1, k1 := false, ka := false }] := by
  refine ⟨⟨⟨_, _, _, _, .cpy _, rfl⟩, lone_runs rfl ?_ ?_⟩, ⟨⟨_, _, _, _, .cpyx _, rfl⟩, lone_runs rfl ?_ ?_⟩,
    ⟨⟨_, _, _, _, .coll _, rfl⟩, lone_runs rfl ?_ ?_⟩, ⟨⟨_, _, _, _, .mcrd _, rfl, ?_, ?_⟩, lone_runs rfl ?_ ?_⟩, trivial⟩ <;>
    decide +kernel

/-- `BarrierNetwork`: the last arrival of one, the first of two, a wait for a barrier with nothing pending. -/
theorem witness_BarrierNetwork :
    RunsLone (withGroup lone) lone (.barArrive { a := .s 36, sc := .clus, k1 := false, ka := false }) ∧
    RunsLone (withGroup lone) lone (.barArrive { a := .s 37, sc := .core, k1 := false, ka := false }) ∧
    RunsLone (withGroup lone) lone (.barWait { k := 15, sc := .core, k1 := false, ka := false }) ∧
    (usrc32 lone (.s 36)).toNat = 256 ∧ (usrc32 lone (.s 37)).toNat = 2 * 256 + 15 ∧ lone.barBroken = [] ∧
    (barOf ctx0 .clus (barUnit .clus 0) 0).broken = false ∧ (barOf ctx0 .clus (barUnit .clus 0) 0).count = 0 := by
  refine ⟨lone_runs rfl ?_ ?_, lone_runs rfl ?_ ?_, lone_runs rfl ?_ ?_, ?_, ?_, ?_, ?_, ?_⟩ <;> decide +kernel

/-- `BarrierObjects`: a wait for 0 and one for 1. -/
theorem witness_BarrierObjects :
    RunsLone (withGroup lone) lone (.boset { a := .v 6, b := .v 8, k1 := false, ka := false, g := 0 }) ∧
    RunsLone (withGroup lone) lone (.boadd { a := .v 4, b := .v 8, k1 := false, ka := false, g := 0 }) ∧
    RunsLone (withGroup lone) lone (.bowait { a := .v 6, b := .v 8, k1 := false, ka := false, g := 0 }) ∧
    RunsLone (withGroup lone) lone (.bowait { a := .v 6, b := .v 10, k1 := false, ka := false, g := 0 }) ∧
    (objectKey (withGroup lone).dev 0 0 (src32 rd0 31 (.v 6)).toNat).isSome = true ∧
    (objectKey (withGroup lone).dev 0 0 ((src64 rd0 31 (.v 4)).toNat % 2 ^ 32)).isSome = true ∧
    Rules.InPad lone (src64 rd0 31 (.v 4)) 0 := by
  refine ⟨lone_runs rfl ?_ ?_, lone_runs rfl ?_ ?_, lone_runs rfl ?_ ?_, lone_runs rfl ?_ ?_, ?_, ?_, inPad ?_⟩ <;> decide +kernel

/-- `Fences`: the narrowest scope, and each kind at a wide one. -/
theorem witness_Fences : All (RunsLone (withGroup lone) lone) [
    .fence { kind := .ar, sc := .thread, k1 := false, ka := false, g := 0 },
    .fence { kind := .rel, sc := .quad, k1 := false, ka := false, g := 0 },
    .fence { kind := .acq, sc := .pod, k1 := false, ka := false, g := 0 }] := by
  refine ⟨lone_runs rfl ?_ ?_, lone_runs rfl ?_ ?_, lone_runs rfl ?_ ?_, trivial⟩ <;> decide +kernel

/-- `TaskQueues`: QTAKE outside a task, QPOST of one image that memory holds. -/
theorem witness_TaskQueues : RunsLone (withGroup lone) lone (.qtake { d := .s 8, k1 := false, ka := false }) ∧
    lone.task = none ∧ lone.partner = none ∧ lone.cond ≠ .handler ∧
    RunsLone (withGroup lone) lone (.qpost { a := .s 32, d := .s 0, k1 := false, ka := false }) ∧
    ∃ w, readRun (withGroup lone).mem 0x40 4 { d := (withGroup lone).dev, g := lone } = (.ok (List.replicate 32 0), w) :=
  ⟨lone_runs rfl (by decide +kernel) (by decide +kernel), rfl, rfl, by decide, lone_runs rfl (by decide +kernel) (by decide +kernel),
    _, Prod.ext (by rfl) rfl⟩

/-- A task without a gang. -/
def task0 : Task := { entry := 7, words := List.replicate 8 0, queue := 0, rect := { die := 0, clus := 0, x := 0, y := 0, w := 1, h := 1 } }

/-- The group in a task, every other thread DONE. -/
def tasked : Group := { lone with task := some task0 }

theorem tasked_stands : Standing (withGroup tasked) tasked turn2 0 := standing rfl rfl rfl (by decide +kernel)

/-- The group in a task, the thread in slot 0 waiting. -/
def tasked2 : Group := setThread tasked 0 { st := .wait (.time 1) }

theorem tasked2_stands : Standing (withGroup tasked2) tasked2 turn2 0 := standing rfl rfl rfl (by decide +kernel)

/-- `TaskEnds`: the last thread, and one that is not. -/
theorem witness_TaskEnds : RunsLone (withGroup tasked) tasked (.taskend { k1 := false, ka := false, g := 0 }) ∧
    (∀ v < 32, v ≠ 31 → (thread tasked v).st = .done) ∧ Rules.Apart (withGroup tasked) 0 ∧
    RunsLone (withGroup tasked2) tasked2 (.taskend { k1 := false, ka := false, g := 0 }) ∧ (thread tasked2 0).st ≠ .done ∧
    tasked.cond = .busy ∧ tasked.partner = none := by
  refine ⟨runsLone tasked_stands rfl ?_ ?_, ?_, fun x hx e => ?_, runsLone tasked2_stands rfl ?_ ?_, ?_, rfl, rfl⟩
  case refine_4 =>
    cases List.mem_singleton.1 hx
    exact absurd e (by decide)
  all_goals decide +kernel

/-- `Futures`: each form, on a dword of the module's memory. -/
theorem witness_Futures : All (RunsLone (withGroup tasked) tasked) [
    .finit { a := .v 2, b := .v 8, ka := false, g := 0 }, .finitFull { a := .v 2, b := .v 8, ka := false, g := 0 },
    .ffill { a := .v 2, b := .v 8, k1 := false, ka := false, g := 0 },
    .fget { a := .v 2, d := .v 16, k1 := false, ka := false, g := 0 }] ∧
    Rules.Mapped (withGroup lone) lone (src64 rd0 31 (.v 2)) 8 .rw 0x40 leaf0 ∧ keyKind 0x40 = .own ∧
    badSector (withGroup tasked).dev 0x40 leaf0.dom = false ∧ badSector (withGroup tasked).dev 0x47 leaf0.dom = false ∧
    inReplica (withGroup tasked).mem (withGroup tasked).dev ctx0 0x40 = false ∧
    (futureOf (withGroup tasked).dev 0x40).parked = [] := by
  refine ⟨⟨runsLone tasked_stands rfl ?_ ?_, runsLone tasked_stands rfl ?_ ?_, runsLone tasked_stands rfl ?_ ?_,
    runsLone tasked_stands rfl ?_ ?_, trivial⟩, mapped ?_ ?_ ?_, ?_, ?_, ?_, ?_, ?_⟩ <;> decide +kernel

/-- The group with a restart address. -/
def restarted : Group := { lone with restart := some (0, []) }

/-- A machine whose deck holds a tile of the group under each type. -/
def withTiles : State :=
  { dev := { (withGroup restarted).dev with
      tiles := [{ quad := 0, z := 1, owner := 0, f64 := false }, { quad := 0, z := 2, owner := 0, f64 := true }] } }

theorem tiles_stand : Standing withTiles restarted turn2 0 := standing rfl rfl rfl (by decide +kernel)

/-- `DeckOperations`, row by row. -/
theorem witness_DeckOperations : All (fun i => (∃ x c op, Rules.DeckSend i x c ∧ opOf i = some op ∧
      c withTiles.dev restarted (passInfo op withTiles restarted turn2 0)) ∧
      RunsLone withTiles restarted i) [
    .mma { n := .s 16, z := 1, k1 := false, ka := false }, .mmaRa { n := .s 16, z := 1, m := 8, k1 := false, ka := false },
    .mmaRb { n := .s 16, z := 1, m := 8, k1 := false, ka := false },
    .drdrow { r := 2, z := 2, d := .v 56, k1 := true, ka := false }, .drdcol { r := 15, z := 1, d := .v 60, k1 := false, ka := false },
    .dwrrow { r := 15, z := 1, d := .v 60, k1 := false, ka := false }] := by
  refine ⟨⟨⟨_, _, _, .mma _, rfl, ?_⟩, runsLone tiles_stand rfl ?_ ?_⟩, ⟨⟨_, _, _, .mmaRa _, rfl, ?_⟩, runsLone tiles_stand rfl ?_ ?_⟩,
    ⟨⟨_, _, _, .mmaRb _, rfl, ?_⟩, runsLone tiles_stand rfl ?_ ?_⟩, ⟨⟨_, _, _, .drdrow _ _ rfl, rfl, ?_⟩, runsLone tiles_stand rfl ?_ ?_⟩,
    ⟨⟨_, _, _, .drdcol _ _ rfl, rfl, ?_⟩, runsLone tiles_stand rfl ?_ ?_⟩, ⟨⟨_, _, _, .dwrrow _ _ rfl, rfl, ?_⟩, runsLone tiles_stand rfl ?_ ?_⟩,
    trivial⟩ <;> decide +kernel

/-- `DeckTiles`: a claim, a release, a restart address given and withdrawn. -/
theorem witness_DeckTiles : RunsLone withTiles restarted (.dzero { z := 4, k1 := true, ka := false }) ∧
    RunsLone withTiles restarted (.dzeroFree { z := 1, k1 := false, ka := false }) ∧
    RunsLone withTiles restarted (.drestart { a := .s 6, k1 := false, ka := false }) ∧
    (usrc32 restarted (.s 6)).getLsbD 0 = false ∧
    RunsLone (withGroup lone) lone (.drestart { a := .zero, k1 := false, ka := false }) ∧
    holdsTile (withGroup lone).dev lone.gid = false ∧ restarted.region = none ∧ restarted.restart.isSome = true := by
  refine ⟨runsLone tiles_stand rfl ?_ ?_, runsLone tiles_stand rfl ?_ ?_, runsLone tiles_stand rfl ?_ ?_, ?_, lone_runs rfl ?_ ?_,
    ?_, rfl, rfl⟩ <;> decide +kernel

/-- The thread in slot 31 with T1 pending and P1 true. -/
def pending1 : Group := setThread lone 31 { v := regs, p := 2, t := (Vector.replicate 16 {}).set 1 { st := .pending, req := 9 } }

theorem pending1_stands : Standing (withGroup pending1) pending1 turn2 0 := standing rfl rfl rfl (by decide +kernel)

/-- `pending1` with a thread in slot 0 that is RUN, its guard P1 false. -/
def pending2 : Group := setThread pending1 0 {}

theorem pending2_stands : Standing (withGroup pending2) pending2 turn2 0 := standing rfl rfl rfl (by decide +kernel)

/-- `TimeWaits`: a register that has arrived, and one that is pending. -/
theorem witness_TimeWaits :
    (∃ ks wt, Rules.TimeWait (.twait { t := 0, k1 := false, ka := false, g := 0 }) ks wt) ∧
    RunsLone (withGroup lone) lone (.twait { t := 0, k1 := false, ka := false, g := 0 }) ∧
    RunsLone (withGroup lone) lone (.yieldt { t := 15, k1 := false, ka := false, g := 0 }) ∧
    RunsLone (withGroup lone) lone (.twaitany { a := .v 6, k1 := false, ka := false, g := 0 }) ∧
    (timeOf (thread lone 31) 0).st = .arrived ∧ (timeOf (thread lone 31) 15).st = .arrived ∧
    RunsLone (withGroup pending1) pending1 (.twait { t := 1, k1 := false, ka := false, g := 0 }) ∧
    RunsLone (withGroup pending1) pending1 (.yieldt { t := 1, k1 := false, ka := false, g := 0 }) ∧
    (timeOf (thread pending1 31) 1).st = .pending ∧ (∀ v < 32, v ≠ 31 → (thread pending1 v).st ≠ .run) ∧
    RunsLone (withGroup pending2) pending2 (.yieldt { t := 1, k1 := false, ka := false, g := 1 }) ∧
    (thread pending2 0).st = .run := by
  refine ⟨⟨_, _, .twait _⟩, lone_runs rfl ?_ ?_, lone_runs rfl ?_ ?_, lone_runs rfl ?_ ?_, ?_, ?_,
    runsLone pending1_stands rfl ?_ ?_, runsLone pending1_stands rfl ?_ ?_, ?_, ?_,
    runsLone pending2_stands rfl ?_ ?_, ?_⟩ <;> decide +kernel

/-- `TrapEntry`: TRAP and BKPT outside HANDLER, with the largest operand. -/
theorem witness_TrapEntry : (∃ o c, Rules.Request (.trap { k := 127, k1 := false, ka := false }) o c) ∧
    RunsWide (.trap { k := 127, k1 := false, ka := false }) ∧
    (∃ o c, Rules.Request (.bkpt { k := 127, k1 := false, ka := false }) o c) ∧
    RunsWide (.bkpt { k := 127, k1 := false, ka := false }) ∧ wide.cond ≠ .handler ∧
    (withGroup wide).dev.ctx? 0 = some ctx0 ∧ ctx0.handler = some 64 ∧ ctx0.attached = none :=
  ⟨⟨_, _, .trap _⟩, runsWide rfl (by decide +kernel), ⟨_, _, .bkpt _⟩, runsWide rfl (by decide +kernel), by decide, rfl, rfl, rfl⟩

/-- `TrapReturn`. -/
theorem witness_TrapReturn : RunsIn (withGroup handling) handling (.eret { ka := false }) ∧ handling.frame = some frame0 :=
  ⟨runsIn handling_stands rfl (by decide +kernel), rfl⟩

/-- The group in HANDLER, in a task. -/
def failing : Group := { handling with task := some task0 }

theorem failing_stands : Standing (withGroup failing) failing turn2 0 := standing rfl rfl rfl (by decide +kernel)

/-- `TaskFailure`. -/
theorem witness_TaskFailure : RunsIn (withGroup failing) failing (.eretFail { ka := false }) ∧ failing.partner = none ∧
    failing.task = some task0 ∧ task0.gang = none ∧ Rules.Apart (withGroup failing) 0 := by
  refine ⟨runsIn failing_stands rfl (by decide +kernel), rfl, rfl, rfl, fun x hx e => ?_⟩
  cases List.mem_singleton.1 hx
  exact absurd e (by decide)

/-- One thread RUN, in HANDLER. -/
def handling1 : Group := { lone with cond := .handler, frame := some frame0 }

theorem handling1_stands : Standing (withGroup handling1) handling1 turn2 0 := standing rfl rfl rfl (by decide +kernel)

/-- `EpcWrites`. -/
theorem witness_EpcWrites : RunsLone (withGroup handling1) handling1 (.swrV { a := .v 6, ka := false, g := 0 }) ∧
    (src32 (rdOf (withGroup handling1).dev handling1 turn2) 31 (.v 6)).getLsbD 0 = false :=
  ⟨runsLone handling1_stands rfl (by decide +kernel) (by decide +kernel), by decide +kernel⟩
/-- The machine whose context has no scratchpad. -/
def padless : State := { dev := { (withGroup lone).dev with ctxs := [{ ctx0 with z := 0, regions := [] }] } }

theorem padless_stands : Standing padless lone turn2 0 := standing rfl rfl rfl (by decide +kernel)

/-- `Messages` and `BarrierObjects` where the context has no scratchpad. -/
theorem witness_padless : All (RunsLone padless lone) [
    .msend { a := .v 4, b := .v 8, k1 := true, ka := false, g := 0 }, .mwait { a := .v 4, k1 := false, ka := false, g := 0 },
    .boset { a := .v 6, b := .v 8, k1 := false, ka := false, g := 0 }, .boadd { a := .v 4, b := .v 8, k1 := true, ka := false, g := 0 },
    .bowait { a := .v 6, b := .v 8, k1 := false, ka := false, g := 0 }] ∧
    headerKey padless.dev lone 0 (src64 rd0 31 (.v 4)) = none ∧ objectKey padless.dev 0 0 (src32 rd0 31 (.v 6)).toNat = none ∧
    objectKey padless.dev 0 0 ((src64 rd0 31 (.v 4)).toNat % 2 ^ 32) = none := by
  refine ⟨⟨runsLone padless_stands rfl ?_ ?_, runsLone padless_stands rfl ?_ ?_, runsLone padless_stands rfl ?_ ?_,
    runsLone padless_stands rfl ?_ ?_, runsLone padless_stands rfl ?_ ?_, trivial⟩, ?_, ?_, ?_⟩ <;> decide +kernel

/-- The group in a task, its thread in slot 0 ahead of a RUN one in slot 5 whose guard is false. -/
def ahead : Group :=
  { tasked with threads := Vector.ofFn fun k => if k.val = 0 then { v := regs, p := 2 } else if k.val = 5 then {} else { st := .done } }

theorem ahead_stands : Standing (withGroup ahead) ahead turn2 0 := standing rfl rfl rfl (by decide +kernel)

/-- `Futures`: FGET of a FULL future, of an EMPTY one with no thread behind, and of one with a thread behind. -/
theorem witness_Futures_fget : let full : State := { dev := { (withGroup tasked).dev with futures := [{ key := 0x40, full := true }] } }
    let i : Instr := .fget { a := .v 2, d := .v 16, k1 := false, ka := false, g := 1 }
    RunsLone full tasked (.fget { a := .v 2, d := .v 16, k1 := false, ka := false, g := 0 }) ∧ (futureOf full.dev 0x40).full = true ∧
    task0.committed = false ∧ task0.gang = none ∧ (futureOf (withGroup tasked).dev 0x40).full = false ∧
    (∃ op, opOf i = some op ∧ Runs op (withGroup ahead) ahead turn2 0 ∧ actives op ahead turn2 0 = [0]) ∧
    (thread ahead 5).st = .run ∧
    Rules.Mapped (withGroup ahead) ahead (src64 (rdOf (withGroup ahead).dev ahead turn2) 0 (.v 2)) 8 .rw 0x40 leaf0 := by
  refine ⟨runsLone (standing rfl rfl rfl ?_) rfl ?_ ?_, ?_, rfl, rfl, ?_, ⟨_, rfl, runs_of_check ahead_stands ?_, ?_⟩, ?_,
    ⟨⟨?_, ?_⟩, ctx0, rfl, ?_, ok_of ?_⟩⟩ <;> decide +kernel

/-! ## Witnesses: the step, faults, the invariant -/

/-- The machine with a word of code in the private data cache, at the address where the group stands. -/
def withCode (w : Nat) : State :=
  { dev := { (withGroup wide).dev with pcache := [{ core := 0, key := 0, data := BitVec.ofNat 256 w, version := 0 }] } }

theorem got_of {f : Fetched Nat} {w : Nat} (h : (match f with
    | .got x _ => x == w
    | _ => false) = true) : ∃ d, f = .got w d := by
  cases f with
  | got x d => exact ⟨d, by rw [eq_of_beq h]⟩
  | fault c => cases h
  | wait d => cases h

/-- `StepRunsDecoded`: ADD V5, V5, #2 where the group stands. -/
theorem witness_StepRunsDecoded : (withCode 0xF4142801).dev.booted = true ∧ (withCode 0xF4142801).dev.inbox = [] ∧
    (withCode 0xF4142801).dev.focus = some wide.gid ∧ (withCode 0xF4142801).dev.group? wide.gid = some wide ∧
    wide.turn = some turn2 ∧ turn2.stalled = false ∧ passPc wide turn2 = some 0 ∧
    (dueWork (withCode 0xF4142801).mem (withCode 0xF4142801).dev).isNone = true ∧
    (∃ d, fetchWord (withCode 0xF4142801).mem wide 0 (withCode 0xF4142801).dev = .got 0xF4142801 d) ∧
    (∃ i n r, decode (wordBytes 4 0xF4142801) = some (i, n, r)) :=
  ⟨rfl, rfl, rfl, rfl, rfl, rfl, by decide +kernel, by decide +kernel, got_of (by decide +kernel), _, _, _, rfl⟩

/-- `RoundTrip`: a 16-bit and a 32-bit instruction. -/
theorem witness_RoundTrip : (Instr.add16 { d := 63, b := .l0 }).fits = true ∧
    encode (.add16 { d := 63, b := .l0 }) = some (16, 0xC7E0) ∧
    (Instr.trap { k := 127, k1 := false, ka := false }).fits = true ∧
    (encode (.trap { k := 127, k1 := false, ka := false })).isSome = true := by decide +kernel

/-- `StepKeepsInv`: a state that meets the invariant, and its step. -/
theorem witness_StepKeepsInv : State.reset.Inv ∧ ∃ t, step State.reset = .next t := ⟨⟨by decide, rfl⟩, _, rfl⟩

/-- `DecodeFaults`: the halfword 0, a page that does not grant a fetch, BRKLOOP outside a loop, TSET.CLR with an operand. -/
theorem witness_DecodeFaults : passPc wide turn2 = some 0 ∧ wide.cond ≠ .handler ∧
    (∃ c h, (withCode 0).dev.ctx? wide.ctx = some c ∧ c.handler = some h) ∧
    (∃ d, fetchWord (withCode 0).mem wide 0 (withCode 0).dev = .got 0 d) ∧ decode (wordBytes 4 0) = none ∧
    (match fetchWord [] wide 0 { (withCode 0).dev with tlb := [{ loaderTrans with x := false }] } with
      | .fault c => c == .perm
      | _ => false) = true ∧
    (opBrkloop { k1 := false, ka := false, g := 0 }).illegal wide 0 = true ∧
    (opTsetClr { a := .v 4, t := 1, ka := false, g := 0 }).illegal wide 0 = false ∧
    operandsAllowed (qRole (withCode 0).dev wide) wide turn2 (opTsetClr { a := .v 4, t := 1, ka := false, g := 0 }).pos = false := by
  refine ⟨?_, ?_, ⟨_, _, rfl, rfl⟩, got_of ?_, ?_, ?_, ?_, ?_, ?_⟩ <;> decide +kernel

/-- The thread with an address one core to the east in V4:V5, outside a task. -/
def east : Group := setThread lone 31 { v := regs.set 5 0xFFFE0100 }

theorem east_stands : Standing (withGroup east) east turn2 0 := standing rfl rfl rfl (by decide +kernel)

/-- `AccessFaults`: each cause, by a load and by a store. -/
theorem witness_AccessFaults :
    RunsLone (withGroup lone) lone (.ldw { off := 0, t := 1, b := .v 12, d := .v 16, g := 0 }) ∧
    Rules.BadAddress lone (src64 rd0 31 (.v 12)) 4 .page ∧
    RunsLone (withGroup lone) lone (.stsub { half := true, off := 0, t := 0, b := .v 10, x := .v 16, g := 0 }) ∧
    Rules.BadAddress lone (src64 rd0 31 (.v 10)) 2 .align ∧
    RunsLone (withGroup east) east (.stq { off := 0, t := 0, b := .v 4, x := .v 16, g := 0 }) ∧
    Rules.BadAddress east (src64 (rdOf (withGroup east).dev east turn2) 31 (.v 4)) 16 .place ∧ lone.cond ≠ .handler := by
  refine ⟨lone_runs rfl ?_ ?_, .page ?_, lone_runs rfl ?_ ?_, .align ?_ ?_, runsLone east_stands rfl ?_ ?_, .place ?_ ?_, ?_⟩ <;>
    decide +kernel

/-- The thread with T1 withdrawn, its reason kept. -/
def revoked : Group :=
  let x : TimeReg := { st := .withdrawn, req := 9, why := some { cause := .perm, acc := 1, addr := 0x123 } }
  setThread lone 31 { v := regs, t := (Vector.replicate 16 {}).set 1 x }

theorem revoked_stands : Standing (withGroup revoked) revoked turn2 0 := standing rfl rfl rfl (by decide +kernel)

/-- The group in a task that has committed, and in a gang's task. -/
def settled : Group := { lone with task := some { task0 with committed := true } }

theorem settled_stands : Standing (withGroup settled) settled turn2 0 := standing rfl rfl rfl (by decide +kernel)

def inGang : Group := { lone with task := some { task0 with gang := some 7 } }

theorem inGang_stands : Standing (withGroup inGang) inGang turn2 0 := standing rfl rfl rfl (by decide +kernel)

/-- `AccessFaults`: a time register that has been withdrawn; FGET after a commit, and in a gang from a future that is EMPTY. -/
theorem witness_AccessFaults_later :
    (∃ ks wt, Rules.TimeWait (.twait { t := 1, k1 := false, ka := false, g := 0 }) ks wt) ∧
    RunsLone (withGroup revoked) revoked (.twait { t := 1, k1 := false, ka := false, g := 0 }) ∧
    (timeOf (thread revoked 31) 1).st = .withdrawn ∧ (timeFault revoked 31 (timeOf (thread revoked 31) 1)).isNone = true ∧
    RunsLone (withGroup settled) settled (.fget { a := .v 2, d := .v 16, k1 := false, ka := false, g := 0 }) ∧
    (∀ k, settled.task = some k → k.committed = true) ∧
    RunsLone (withGroup inGang) inGang (.fget { a := .v 2, d := .v 16, k1 := false, ka := false, g := 0 }) ∧
    inGang.partner = none ∧ inGang.task = some { task0 with gang := some 7 } ∧
    Rules.Mapped (withGroup inGang) inGang (src64 (rdOf (withGroup inGang).dev inGang turn2) 31 (.v 2)) 8 .rw 0x40 leaf0 ∧
    inReplica (withGroup inGang).mem (withGroup inGang).dev ctx0 0x40 = false ∧ keyKind 0x40 = .own ∧
    lostKey (withGroup inGang).dev 0x40 = false ∧ badSector (withGroup inGang).dev 0x40 leaf0.dom = false ∧
    badSector (withGroup inGang).dev 0x47 leaf0.dom = false ∧ (futureOf (withGroup inGang).dev 0x40).full = false := by
  refine ⟨⟨_, _, .twait _⟩, runsLone revoked_stands rfl ?_ ?_, ?_, ?_, runsLone settled_stands rfl ?_ ?_, ?_,
    runsLone inGang_stands rfl ?_ ?_, rfl, rfl, ⟨⟨?_, ?_⟩, ctx0, rfl, ?_, ok_of ?_⟩, ?_, ?_, ?_, ?_, ?_, ?_⟩
  case refine_7 => exact fun k h => by cases h; rfl
  all_goals decide +kernel

/-! ## Witnesses: the Keystone -/

/-- A request of the session numbered 5 for context 0. -/
def head0 : MgmtHead := { session := some 5, tag := 0xFFFF, ctx := 0 }

/-- A group that is resident and not in its turn. -/
def idleG : Group := { wide with turn := none }

/-- A machine with connections at each stage, a session in its handshake and one ready, one context with one group. -/
def hosted : State :=
  { dev := {
      booted := true, ctxs := [ctx0], groups := [idleG], keys := [(0, 0, 1)], tlb := [loaderTrans]
      conns := [{ conn := 1, stage := 1 }, { conn := 2, stage := 2, version := 0x13 }, { conn := 3, stage := 3, version := 0x13 }]
      sessions := [{ id := 4, conn := 3, ready := false }, { id := 5, conn := 3, ready := true }]
      dies := (Vector.replicate 4 { st := .running }) } }

/-- A row of `SpdmAnswers` whose premises hold, and what it says. -/
def SpdmRow (i : Instr) (s : State) : Prop := ∃ d, Rules.Spdm s.dev i d ∧ exec i s = .next { s with dev := d }

/-- `SpdmAnswers`, row by row. -/
theorem witness_SpdmAnswers : SpdmRow (.getVersion 0) hosted ∧ SpdmRow (.getCapabilities 1 0x12) hosted ∧
    SpdmRow (.getCapabilities 1 0x11) hosted ∧ SpdmRow (.negotiateAlgorithms 2 ⟨true, true, true, true⟩) hosted ∧
    SpdmRow (.getDigests 3) hosted ∧ SpdmRow (.getCertificate 3 0 8 2) hosted ∧ SpdmRow (.getCertificate 3 1 0 2) hosted ∧
    SpdmRow (.challenge 3 0 99) hosted ∧ SpdmRow (.getMeasurements 3 1) hosted ∧ SpdmRow (.getMeasurements 3 9) hosted ∧
    SpdmRow (.getMeasurements 3 0xFF) hosted ∧ SpdmRow (.keyExchange 3 0 7) hosted ∧ SpdmRow (.finish 4 true) hosted ∧
    SpdmRow (.finish 4 false) hosted ∧ SpdmRow (.heartbeat 5) hosted ∧ SpdmRow (.keyUpdate 5) hosted ∧
    SpdmRow (.endSession 5) hosted ∧ SpdmRow (.spdmUnsupported 9 0x77) hosted :=
  ⟨⟨_, .getVersion _, rfl⟩, ⟨_, .getCapabilities _ _ (by decide) (by decide), rfl⟩,
    ⟨_, .otherVersion _ _ (by decide) (by decide), rfl⟩, ⟨_, .negotiate _ _ (by decide) (by decide), rfl⟩,
    ⟨_, .getDigests _ (by decide), rfl⟩, ⟨_, .getCertificate _ _ _ (by decide), rfl⟩,
    ⟨_, .otherSlot _ _ _ _ (by decide) (by decide), rfl⟩, ⟨_, .challenge _ _ (by decide), rfl⟩,
    ⟨_, .getMeasurements _ _ (by decide) (by decide), rfl⟩, ⟨_, .getMeasurements _ _ (by decide) (by decide), rfl⟩,
    ⟨_, .allMeasurements _ (by decide), rfl⟩, ⟨_, .keyExchange _ _ (by decide) (by decide), rfl⟩,
    ⟨_, .finish _ _ rfl rfl, rfl⟩, ⟨_, .finishFails _ _ rfl rfl, rfl⟩, ⟨_, .heartbeat _ _ rfl rfl, rfl⟩,
    ⟨_, .keyUpdate _ _ rfl rfl, rfl⟩, ⟨_, .endSession _ _ rfl rfl, rfl⟩, ⟨_, .unsupported _ _, rfl⟩⟩

/-- A machine with 16 sessions. -/
def crowded : State := { dev := { hosted.dev with sessions := List.replicate 16 { id := 5, conn := 3, ready := true } } }

/-- `SpdmAnswers`: the seventeenth session. -/
theorem witness_SpdmAnswers_full : SpdmRow (.keyExchange 3 0 7) crowded := ⟨_, .seventeenth _ _ (by decide) (by decide), rfl⟩

/-- A row of a statement about steps outside a pass, in a state that meets its premises, and what it says there. -/
def Row (p : State → Instr → (State → Prop) → Prop) (s : State) (i : Instr) : Prop :=
  s.dev.log = [] ∧ ∃ post, p s i post ∧ ∃ t, exec i s = .next t ∧ post t

theorem acc : Rules.Accepted hosted.dev head0 5 := ⟨rfl, rfl, rfl, by decide⟩

/-- A machine without contexts. -/
def bare : State := { dev := { hosted.dev with ctxs := [], groups := [] } }

theorem accBare : Rules.Accepted bare.dev head0 5 := ⟨rfl, rfl, rfl, by decide⟩

/-- A header of version 2: its TAG 0xFFFF, its CTX 0. -/
def badHead : List Byte := [2, 1, 0xFF, 0xFF, 0, 0, 0, 0, 0, 0, 0, 0, 0, 0, 0, 0]

/-- A context that is suspended, one that ends, and a command that waits. -/
def suspended0 : State := { dev := { hosted.dev with ctxs := [{ ctx0 with suspended := true }] } }
def ending0 : State := { dev := { hosted.dev with ctxs := [{ ctx0 with ending := some head0 }], groups := [] } }
def waiting (p : PendCmd) : State := { dev := { hosted.dev with pendCmds := [p] } }

/-- `ManagementEffects`: commands that leave the contexts alone. -/
theorem witness_ManagementEffects_module : Row Rules.Mgmt hosted (.mgmtMalformed (some 5) 0 badHead) ∧
    Row Rules.Mgmt bare (.keyset head0 1 15) ∧ Row Rules.Mgmt bare (.keyerase head0 (-1) 1) ∧
    Row Rules.Mgmt bare (.modset head0 63) ∧ Row Rules.Mgmt hosted (.fwupdate head0 [1] false) ∧
    Row Rules.Mgmt hosted (.portmode head0 0 3) ∧ Row Rules.Mgmt hosted (.portmode head0 7 0) ∧
    Row Rules.Mgmt (waiting (.portMode (some head0) 7 3)) (.portRetrainDone 7) ∧
    Row Rules.Mgmt (waiting (.portMode none 0 1)) (.portRetrainDone 0) :=
  ⟨⟨rfl, _, .malformed _ _ _ ⟨rfl, rfl, rfl, by decide⟩ (by decide), _, rfl, rfl, rfl, rfl⟩, ⟨rfl, _, .keyset _ _ _ _ accBare rfl (by decide), _, rfl, rfl⟩,
    ⟨rfl, _, .keyerase _ _ _ _ accBare rfl (by decide), _, rfl, rfl⟩, ⟨rfl, _, .modset _ _ _ accBare rfl, _, rfl, rfl⟩,
    ⟨rfl, _, .fwupdate _ _ _ acc (by decide), _, rfl, rfl⟩, ⟨rfl, _, .portmode _ _ _ _ acc (by decide), _, rfl, rfl⟩,
    ⟨rfl, _, .portmode _ _ _ _ acc (by decide), _, rfl, rfl⟩, ⟨rfl, _, .retrained _ _ _ rfl, _, rfl, rfl⟩,
    ⟨rfl, _, .retrained _ _ _ rfl, _, rfl, rfl⟩⟩

/-- The premises alone, where a free value stands in the way of the rest. -/
def Premises (p : State → Instr → (State → Prop) → Prop) (s : State) (i : Instr) : Prop := s.dev.log = [] ∧ ∃ post, p s i post

/-- A memory with a descriptor at 0x400, a procedure table at 0x800 and the tables of one page of 1 GiB from 0x1000. -/
def descMem : Memory :=
  [(0x409, 0x10), (0x411, 0x08), (0x418, 1), (0x420, 0xFF), (0x421, 0xFF), (0x422, 0xFF), (0x423, 0xFF), (0x424, 0x10), (0x425, 0x01),
   (0x426, 0x42), (0x439, 0x10), (0x43E, 0x04), (0x804, 4), (0x808, 64), (0x1000, 0x01), (0x1001, 0x20), (0x2000, 0x01),
   (0x2001, 0x30), (0x3000, 0x1F)]

/-- A machine with that memory. -/
def described : State := { mem := descMem, dev := bare.dev }

theorem place_one {d : Device} {c : Ctx} {r : Rect} (h : r ∈ allRects d c) (q : rectFits d c [] r = true) :
    ∃ rs, placeRects d c [] 1 = some rs := by
  have hr : ∃ x ∈ rotated (allRects d c) (Config.placement d.steps 0), (if rectFits d c [] x then some ([] ++ [x]) else none).isSome := by
    refine ⟨r, ?_, by simp [q]⟩
    rw [← List.take_append_drop (Config.placement d.steps 0 % max (allRects d c).length 1) (allRects d c)] at h
    exact List.mem_append.2 (List.mem_append.1 h).symm
  exact Option.isSome_iff_exists.1 (List.findSome?_isSome_iff.2 hr)

/-- `ManagementEffects`: CTXSTART of a context of one core; where it lies is free (log 15). -/
theorem witness_ManagementEffects_ctxstart : Premises Rules.Mgmt described (.ctxstart head0 0x400) := by
  have a : Rules.Accepted described.dev head0 5 := ⟨rfl, rfl, rfl, by decide⟩
  have w : ∃ c, newCtx descMem { Rules.begun described head0 5 with steps := 1 } 5 0x400 (fun g => bits g 17 5) = .ok c := by
    let d : Device := { Rules.begun described head0 5 with steps := 1 }
    have h1 : ∃ bs, descriptorAt descMem d 0x400 = some bs ∧ (fieldChecks bs).find? (fun p => !p.2) = none ∧
        (bits (fld bs 36 4) 17 5 = 1) ∧ (badProc descMem d (ctxFrom (freeNum d) 5 bs) 0 0 (ctxFrom (freeNum d) 5 bs).nproc = none) ∧
        (procOf descMem d (ctxFrom (freeNum d) 5 bs) (ctxFrom (freeNum d) 5 bs).resent.toNat).isSome = true ∧
        { die := 0, clus := 0, x := 0, y := 0, w := 1, h := 1 } ∈ allRects d (ctxFrom (freeNum d) 5 bs) ∧
        rectFits d (ctxFrom (freeNum d) 5 bs) [] { die := 0, clus := 0, x := 0, y := 0, w := 1, h := 1 } = true :=
      ⟨_, rfl, by decide +kernel⟩
    obtain ⟨bs, h1, h2, h3, h4, h5, h6, h7⟩ := h1
    obtain ⟨p, hp⟩ := Option.isSome_iff_exists.1 h5
    unfold newCtx
    rw [show descriptorAt descMem { Rules.begun described head0 5 with steps := 1 } 0x400 = some bs from h1]
    simp only [h2]
    rw [show badProc descMem _ _ 0 0 _ = none from h4, show procOf descMem _ _ _ = some p from hp, h3]
    have pl : ∃ rs, placeRects d { ctxFrom (freeNum d) 5 bs with
        d := p.d, x := p.x, slotSize := if anyShadow descMem d (ctxFrom (freeNum d) 5 bs) then 65536 else 32768 } [] 1 = some rs :=
      place_one (r := { die := 0, clus := 0, x := 0, y := 0, w := 1, h := 1 }) h6 h7
    obtain ⟨rs, pl⟩ := pl
    simp only
    rw [pl]
    exact ⟨_, rfl⟩
  obtain ⟨c, w⟩ := w
  exact ⟨rfl, _, .ctxstart _ _ _ c a w fun x hx => nomatch hx⟩

/-- A machine whose context has page tables, with more of the context, one group, and a command that waits. -/
def tabled (c : Ctx → Ctx) (g : List Group) (p : List PendCmd) : State :=
  { mem := descMem, dev := { hosted.dev with ctxs := [c { ctx0 with root := 0x1000 }], groups := g, pendCmds := p } }

theorem accTab (c : Ctx → Ctx) (g : List Group) : Rules.Accepted (tabled c g []).dev head0 5 := ⟨rfl, rfl, rfl, rfl⟩

/-- `ManagementEffects`: commands for a context, and what completes them. -/
theorem witness_ManagementEffects_context : Row Rules.Mgmt (tabled id [idleG] []) (.ctxend head0) ∧
    Row Rules.Mgmt (tabled (fun c => { c with ending := some head0 }) [] [.ctxEnd head0]) (.ctxendComplete 0) ∧
    Row Rules.Mgmt (tabled id [idleG] []) (.suspend head0) ∧ Row Rules.Mgmt (tabled id [] []) (.suspend head0) ∧
    Row Rules.Mgmt (tabled (fun c => { c with suspended := true }) [] []) (.resume head0) := by
  refine ⟨⟨rfl, _, .ctxend _ _ _ (accTab _ _) rfl, _, rfl, ?_⟩, ⟨rfl, _, .ctxendComplete _ _ _ rfl rfl ?_, _, rfl, ?_⟩,
    ⟨rfl, _, .suspend _ _ _ (accTab _ _) rfl rfl ?_, _, rfl, ?_⟩,
    ⟨rfl, _, .suspendIdle _ _ _ (accTab _ _) rfl rfl ?_ ?_, _, rfl, ?_⟩,
    ⟨rfl, _, .resume _ _ _ (accTab _ _) rfl rfl ?_, _, rfl, ?_⟩⟩ <;> decide +kernel

/-- `ManagementEffects`: TLBINV and HWINSET, and their completions. -/
theorem witness_ManagementEffects_invalidate : Premises Rules.Mgmt hosted (.tlbinv head0 0 4096 true) ∧
    Premises Rules.Mgmt (waiting (.tlbInv 9 head0 0x100000 4096)) (.tlbinvComplete 9) ∧
    Row Rules.Mgmt hosted (.hwinset head0 { window := 7, endpoint := 1, base := 0, len := 2 ^ 48, r := true, w := true, a := false }) ∧
    Row Rules.Mgmt (waiting (.hwinSet head0 9 { window := 7, endpoint := 1, base := 0, len := 0, r := true, w := true, a := true }))
      (.hwinsetComplete 7) ∧
    Row Rules.Mgmt (waiting (.hwinSet head0 9 { window := 0, endpoint := 1, base := 0, len := 4096, r := true, w := true, a := true }))
      (.hwinsetComplete 0) :=
  ⟨⟨rfl, _, .tlbinv _ _ _ _ _ _ acc rfl (by decide)⟩, ⟨rfl, _, .tlbinvComplete _ _ _ _ rfl (by decide)⟩,
    ⟨rfl, _, .hwinset _ _ _ acc (by decide), _, rfl, rfl⟩,
    ⟨rfl, _, .hwinsetComplete head0 9 { window := 7, endpoint := 1, base := 0, len := 0, r := true, w := true, a := true } rfl
      (by decide), _, rfl, rfl⟩,
    ⟨rfl, _, .hwinsetComplete head0 9 { window := 0, endpoint := 1, base := 0, len := 4096, r := true, w := true, a := true } rfl
      (by decide), _, rfl, rfl⟩⟩

/-- A machine with a width change pending on link 0. -/
def narrowing : State := { dev := { hosted.dev with links := hosted.dev.links.set 0 { full := true, wantFull := some false } } }

/-- `ManagementEffects`: monitors, links, clocks; what a final firmware piece comes to is free (log 14). -/
theorem witness_ManagementEffects_links : Premises Rules.Mgmt hosted (.fwupdate head0 [] true) ∧
    Row Rules.Mgmt hosted (.monread head0 (.die 3)) ∧ Row Rules.Mgmt hosted (.monread head0 (.cluster 7)) ∧
    Premises Rules.Mgmt hosted (.linkset head0 (.width 3 false)) ∧
    Premises Rules.Mgmt hosted (.linkset head0 (.freq 0 2100)) ∧ Premises Rules.Mgmt hosted (.linkset head0 (.freq 3 1200)) ∧
    Premises Rules.Mgmt narrowing (.linkset head0 (.freq 0 1800)) :=
  ⟨⟨rfl, _, .fwlast _ _ _ acc (by decide)⟩, ⟨rfl, _, .monread _ _ _ acc (.inl ⟨3, by decide, rfl⟩), _, rfl, _, _, ⟨rfl, rfl⟩, rfl⟩,
    ⟨rfl, _, .monread _ _ _ acc (.inr ⟨7, by decide, rfl⟩), _, rfl, _, _, ⟨rfl, rfl⟩, rfl⟩,
    ⟨rfl, _, .width _ _ _ _ acc (by decide) (by decide)⟩, ⟨rfl, _, .raise _ _ _ _ acc (by decide) (by decide) (by decide) (by decide)⟩,
    ⟨rfl, _, .lower _ _ _ _ acc (by decide) (by decide) (by decide) (by decide)⟩,
    ⟨rfl, _, .after _ _ _ _ ⟨rfl, rfl, rfl, by decide⟩ (by decide) (by decide) (by decide)⟩⟩

/-! ## Witnesses: debug and trace -/

/-- The group, halted by a debugger, with a level on its loop stack. -/
def haltedG : Group :=
  { wide with loops := [{ counter := 2, start := 4, stop := 32 }, { counter := 1, start := 0, stop := 64 }], turn := none, halted := true }

/-- A machine whose context a session debugs. -/
def debugged (g : Group) : State :=
  { dev := { hosted.dev with
      ctxs := [{ ctx0 with attached := some 5 }], groups := [g]
      pcache := [{ core := 0, key := 0, data := BitVec.ofNat 256 0xF4142801, version := 0 }] } }

theorem attached0 (g : Group) (h : (debugged g).dev.group? g.gid = some g) (q : g.ctx = 0) :
    Rules.Attached (debugged g) head0 5 { ctx0 with attached := some 5 } g := ⟨⟨rfl, rfl, rfl, rfl⟩, rfl, rfl, h, q⟩

/-- A machine in which die 3 is halted, one with a deterministic context, and one that traces die 0. -/
def haltedDie3 : State := { dev := hosted.dev.setDie 3 { st := .halted } }
def detState : State := { dev := { hosted.dev with ctxs := [{ ctx0 with det := true }] } }
def unit0 : TraceUnit :=
  { on := true, ctx := 0, session := 5, pages := [{ va := 0, size := 65536, parts := [(0, 0)] }], mask := 0xFF, wrap := true
    period := some 10 }

def tracing : State := { dev := hosted.dev.setDie 0 { st := .running, tick := 2 ^ 20, trace := unit0 } }

/-- `DebugEffects`: attaching, halting, going on. -/
theorem witness_DebugEffects_halt : Row Rules.Debug hosted (.dbgattach head0) ∧
    Row Rules.Debug (debugged idleG) (.dbghalt head0 0) ∧ Row Rules.Debug hosted (.dbghaltDie head0 3) ∧
    Row Rules.Debug detState (.dbghaltDie head0 0) ∧ Row Rules.Debug (debugged haltedG) (.dbgrun head0 (.group 0)) ∧
    Premises Rules.Debug haltedDie3 (.dbgrun head0 (.die 3 [])) :=
  ⟨⟨rfl, _, .attach _ _ _ acc rfl (fun _ h => nomatch h), _, rfl, rfl⟩,
    ⟨rfl, _, .halt _ _ _ idleG (attached0 _ rfl rfl) rfl, _, rfl, rfl⟩, ⟨rfl, _, .haltDie _ _ _ acc (by decide) rfl, _, rfl, rfl⟩,
    ⟨rfl, _, .haltDet _ _ _ _ ⟨rfl, rfl, rfl, by decide⟩ (by decide) rfl, _, rfl, rfl⟩,
    ⟨rfl, _, .run _ _ _ haltedG (attached0 _ rfl rfl) rfl, _, rfl, rfl⟩,
    ⟨rfl, _, .runDie _ _ _ _ ⟨rfl, rfl, rfl, by decide⟩ (by decide)⟩⟩

theorem run_of {p : Prep} {w : Nat} (h : (match p with
    | .run x _ => x == w
    | _ => false) = true) : ∃ d, p = .run w d := by
  cases p with
  | run x d => exact ⟨d, by rw [eq_of_beq h]⟩
  | done d => cases h

/-- `DebugEffects`: a step of the thread in slot 31 at an ADD. -/
theorem witness_DebugEffects_step : Premises Rules.Debug (debugged haltedG) (.dbgstep head0 0 31) := by
  obtain ⟨d, p⟩ : ∃ d, prepare [] { (Rules.begun (debugged haltedG) head0 5).setGroup
      { haltedG with turn := some (Rules.stepTurn haltedG 31 0), next := none } with focus := some 0 } = .run 0xF4142801 d :=
    run_of (by decide +kernel)
  exact ⟨rfl, _, .step _ _ _ haltedG _ 0 _ d (.add { b := .imm 2, a := .v 5, d := .v 5, kb := false, ka := false }) _
    (attached0 _ rfl rfl) rfl (by decide +kernel) (by decide +kernel) (by decide +kernel) p ⟨rfl, rfl⟩⟩

/-- `DebugEffects`: every item read and written. -/
theorem witness_DebugEffects_items : All (fun x => Premises Rules.Debug (debugged haltedG) (.dbgread head0 0 x) ∧
      Premises Rules.Debug (debugged haltedG) (.dbgwrite head0 0 x 0xFFFFFFFE))
    [.v 31 63, .x 31 127, .s 63, .p 0 3, .i 31 3, .t 31 15, .loop 1 .counter, .loop 0 .start, .loop 0 .stop, .pc 31] := by
  repeat' apply And.intro
  all_goals first
    | exact True.intro
    | rfl
    | exact ⟨_, .read _ _ _ haltedG _ (attached0 _ rfl rfl) rfl (by decide +kernel)⟩
    | exact ⟨_, .write _ _ _ haltedG _ _ (attached0 _ rfl rfl) rfl (by decide +kernel) (fun u r h => by
        simp only [itemReg, Option.some.injEq, Prod.mk.injEq, reduceCtorEq] at h <;>
        (try obtain ⟨rfl, rfl⟩ := h) <;> rfl) (by decide +kernel)⟩

/-- A list for the unit of die 0, and one for that of die 3. -/
def traces0 : TraceSetting :=
  { pages := [[(0x10000, true), (0, true)], [], [], [(0x20000, true)]], mask := 0xFF, wrap := false, period := some 20 }

/-- `DebugEffects`: trace. -/
theorem witness_DebugEffects_trace :
    Premises Rules.Debug (tabled id [] []) (.trcstart head0 traces0) ∧
    Premises Rules.Debug tracing (.trcstop head0) ∧ Premises Rules.Debug tracing (.stallSample 0 0) := by
  obtain ⟨ls, h⟩ : ∃ ls, traceLists (tabled id [] []).mem (Rules.begun (tabled id [] []) head0 5) { ctx0 with root := 0x1000 } 0
      traces0.pages = .ok ls := by
    have h : (traceLists (tabled id [] []).mem (Rules.begun (tabled id [] []) head0 5) { ctx0 with root := 0x1000 } 0
      traces0.pages).toOption.isSome = true := by decide +kernel
    cases e : traceLists (tabled id [] []).mem (Rules.begun (tabled id [] []) head0 5) { ctx0 with root := 0x1000 } 0 traces0.pages with
    | ok p => exact ⟨p, rfl⟩
    | error x => simp [e, Except.toOption] at h
  exact ⟨⟨rfl, _, .trcstart _ _ _ _ ls (accTab _ _) rfl (by decide +kernel) (by decide +kernel) h⟩,
    ⟨rfl, _, .trcstop _ _ _ ⟨rfl, rfl, rfl, by decide⟩ rfl⟩,
    ⟨rfl, _, .sample _ _ 10 _ rfl ⟨by decide, by decide⟩ ⟨by decide, by decide⟩ (by decide +kernel) (by decide +kernel)⟩⟩

/-! ## Witnesses: the platform -/

/-- A machine whose port dies run, in a pod, with a width and a frequency change pending, and a link of half width; die 1 has been
stepped down. -/
def powered : State :=
  let cool : Die := { st := .running, mhz := 1800, heat := 1 }
  let slower : Die := { st := .running, mhz := 2100, wantMhz := some 1500 }
  { mem := [(0x20, 7)]
    dev := { hosted.dev with
      portDies := Vector.replicate 2 .running, standalone := false, keys := [(0, 0, 1)]
      links := (hosted.dev.links.set 0 { full := false, wantFull := some true }).set 3 { full := true, wantFull := some false, since := 1 }
      dies := ((Vector.replicate 4 { st := .running, mhz := 1800 }).set 1 cool).set 3 slower } }

/-- The same but for link 3, whose change is not pending. -/
def settledLinks : State := { powered with dev := { powered.dev with links := hosted.dev.links } }

/-- `PlatformEffects`: power. Whether an image verifies is free (log 29). -/
theorem witness_PlatformEffects_power : Premises Rules.Platform State.reset (.powerOn ⟨[], none⟩) ∧
    Premises Rules.Platform State.reset (.powerOn ⟨[0, 5], none⟩) ∧ Premises Rules.Platform State.reset (.powerOn ⟨[3], some [1, 2]⟩) ∧
    Premises Rules.Platform powered (.dieFence 3) ∧ Premises Rules.Platform powered (.sensorOvertempFence ⟨0, 120⟩) := by
  refine ⟨⟨rfl, _, .powerOn _⟩, ⟨rfl, _, .powerOn _⟩, ⟨rfl, ?_⟩, ⟨rfl, _, .dieFence _ rfl (by decide)⟩,
    ⟨rfl, _, .overTemp _ _ rfl (by decide) (by decide)⟩⟩
  cases h : imageOk State.reset.dev.steps [1, 2] with
  | true => exact ⟨_, .recovered _ _ h⟩
  | false => exact ⟨_, .noFirmware _ _ h⟩

/-- `PlatformEffects`: clocks, refresh, retries. -/
theorem witness_PlatformEffects_clocks : Premises Rules.Platform powered (.clockStepDown ⟨0, 95, 1000⟩) ∧
    Premises Rules.Platform powered (.clockStepUp ⟨1, 89, 10000⟩) ∧ Premises Rules.Platform powered (.emergencyThrottle ⟨3, 105, false⟩ [] 0) ∧
    Premises Rules.Platform powered (.emergencyThrottle ⟨0, 0, true⟩ [9] 0) ∧
    Row Rules.Platform settledLinks (.frequencySwitch 3) ∧ Row Rules.Platform powered (.refreshDouble ⟨63, 95⟩) ∧
    Premises Rules.Platform powered (.linkRetry 2 [] 0) ∧ Row Rules.Platform powered (.correctedMemoryError 0 [] 0) := by
  refine ⟨⟨rfl, _, .stepDown _ _ _ 1500 (by decide) (by decide) (by decide)⟩,
    ⟨rfl, _, .stepUp _ _ _ 2100 (by decide) (by decide) (by decide)⟩, ⟨rfl, _, .throttle _ _ _ _ _ (by decide) (by decide)⟩,
    ⟨rfl, _, .throttle _ _ _ _ _ (by decide) (by decide)⟩,
    ⟨rfl, _, .switch _ 1500 (by decide) (by decide) (by decide) (by decide +kernel), _, rfl, ?_⟩,
    ⟨rfl, _, .refresh _ _ rfl (by decide) (by decide), _, rfl, ?_⟩,
    ⟨rfl, _, .linkRetry _ _ _ rfl⟩, ⟨rfl, _, .corrected _ _ _ rfl, _, rfl, ?_⟩⟩ <;> decide +kernel

/-- `PlatformEffects`: links. -/
theorem witness_PlatformEffects_links : Row Rules.Platform powered (.linkWidthReduce 1 true) ∧
    Row Rules.Platform powered (.linkWidthReduce 3 false) ∧ Row Rules.Platform powered (.linkWidthIncrease 0) ∧
    Row Rules.Platform powered (.viaductPathChange 3 false) := by
  refine ⟨⟨rfl, _, .reduce _ _ rfl (by decide) (.inl rfl), _, rfl, ?_⟩,
    ⟨rfl, _, .reduce _ _ rfl (by decide) (.inr ⟨by decide, by decide +kernel⟩), _, rfl, ?_⟩,
    ⟨rfl, _, .increase _ (by decide) (by decide), _, rfl, ?_⟩, ⟨rfl, _, .pathChange _ _ (by decide) (by decide), _, rfl, ?_⟩⟩ <;>
    decide +kernel

theorem served (k : UeKind) (keys : List Nat) (h : (ueRange k).2 ≤ 4096 ∧ ownKeys powered.dev (ueRange k).1 (ueRange k).2 = some keys ∧
      portReady powered.dev (4 + (7 : BitVec 3).toNat / 4) keys = true ∧ ∀ k ∈ keys, badSector powered.dev k (lineDom powered.dev k) = false) :
    Rules.Served powered ⟨7, true, k⟩ keys :=
  ⟨show activeSource powered.dev (4 + (7 : BitVec 3).toNat / 4) = true by decide, rfl, fun _ => rfl, h.1, h.2.1, h.2.2.1, h.2.2.2⟩

/-- `PlatformEffects`: requests at a port, the last of a memory die's bytes among them. -/
theorem witness_PlatformEffects_port : Row Rules.Platform powered (.ueInboundRequest ⟨7, true, .read 0x17FFFFFFC 4⟩) ∧
    Premises Rules.Platform powered (.ueInboundRequest ⟨7, true, .write 0x20 [1, 2]⟩) ∧
    Premises Rules.Platform powered (.ueInboundRequest ⟨7, true, .atomic (.add true) 0x20 (-1) 0⟩) ∧
    Row Rules.Platform powered (.ueInboundRequest ⟨7, false, .unsupported⟩) ∧
    Row Rules.Platform powered (.ueInboundRequest ⟨7, true, .collective⟩) ∧
    Row Rules.Platform powered (.ueInboundRequest ⟨0, false, .read 0x20 4097⟩) :=
  ⟨⟨rfl, _, .ueRead _ _ _ _ _ (served _ [0x17FFFFFFC, 0x17FFFFFFD, 0x17FFFFFFE, 0x17FFFFFFF] (by decide)), _, rfl, rfl, rfl⟩,
    ⟨rfl, _, .ueWrite _ _ _ _ _ (served _ [0x20, 0x21] (by decide)) (by decide) (by decide)⟩,
    ⟨rfl, _, .ueAtomic _ _ _ _ _ _ _ (served _ [0x20, 0x21, 0x22, 0x23, 0x24, 0x25, 0x26, 0x27] (by decide)) (by decide) (by decide)⟩,
    ⟨rfl, _, .ueDropped _ _ (by decide) (by decide), _, rfl, rfl⟩, ⟨rfl, _, .ueCollective _ _ (by decide) (by decide), _, rfl, rfl⟩,
    ⟨rfl, _, .ueRefused _ (by decide) (by decide) (by decide) (.inr (.inl (by decide))), _, rfl, rfl⟩⟩

/-- The group in a task, out of its turn, and a barrier of the pod that it has arrived at. -/
def taskedG : Group :=
  { idleG with task := some { entry := 7, words := List.replicate 8 0, queue := 0, rect := { die := 0, clus := 0, x := 0, y := 0, w := 1, h := 1 } } }

def podState : State :=
  { dev := { powered.dev with
      ctxs := [{ ctx0 with bars := [{ sc := .pod, unit := 0, k := 15, n := 2, count := 1, members := [0] }] }], groups := [taskedG] } }

/-- `PlatformEffects`: the loss of a module, a register scrub. -/
theorem witness_PlatformEffects_loss : Premises Rules.Platform podState (.podModuleLoss 63) ∧
    Premises Rules.Platform podState (.registerScrub 0 2 ⟨[(31, 5)], [(0, 9)]⟩ false) ∧
    Premises Rules.Platform podState (.registerScrub 0 0 ⟨[], []⟩ true) := by
  refine ⟨⟨rfl, _, .moduleLoss _ ⟨rfl, rfl⟩ (by decide)⟩, ⟨rfl, _, .scrub _ _ _ _ taskedG rfl rfl rfl⟩,
    ⟨rfl, _, .scrubControl _ _ _ _ taskedG _ rfl rfl rfl rfl rfl fun x hx e => ?_⟩⟩
  cases List.mem_singleton.1 hx
  exact absurd e (by decide)

/-! ## Witnesses: loads -/

/-- The group out of its turn, the T1 of the thread in slot 31 following request 9. -/
def askingG (st : TState) : Group :=
  { lone with
    turn := none
    threads := lone.threads.set 31 { v := regs, t := (Vector.replicate 16 {}).set 1 { st := st, req := 9, value := 5 } } }

/-- A request of that thread on the byte 0x40 of memory die 16·`d`. -/
def ask (kind : ReqKind) (st : ReqSt) (d : Nat) : Req :=
  { id := 9, gid := 0, slot := 31, kind := kind, st := st, lanes := 0x80000000, va := 0x40, keys := [16 * d * 2 ^ 33 + 0x40], size := 1
    dst := .v 8 1, value := 0xFE }

/-- A machine with a request of that thread. -/
def asking (t : TState) (r : Req) : State :=
  { mem := [(0x40, 0x7F)], dev := { hosted.dev with groups := [askingG t], reqs := [r] } }

/-- The same, its context deterministic. -/
def askingDet (t : TState) (r : Req) : State := { (asking t r) with dev := { (asking t r).dev with ctxs := [{ ctx0 with det := true }] } }

/-- The same with the sector of the byte uncorrectable. -/
def askingBad (r : Req) : State := { (asking .promised r) with dev := { (asking .promised r).dev with bad := [(2, 1)] } }

/-- A machine with a code fetch, a walk that finds a page, and one that finds none. -/
def fetching : State := { dev := { hosted.dev with fetches := [{ id := 9, core := 255, key := 0x40, ctx := 0, va := 0x40 }] } }

def walking (va : DWord) : State :=
  { (tabled id [askingG .pending] []) with
    dev := { (tabled id [askingG .pending] []).dev with
      walks := [{ id := 7, ctx := 0, va := va, cores := [255] }], reqs := [{ ask (.load .s8) .walking 0 with core := 255, va := va }] } }

/-- A replica of line 0 of memory die 16 on compute die 0. -/
def rep0 : Replica :=
  { die := 0, slice := nearestSlice 0, line := 16 * 2 ^ 33 / 128, data := 0, valid := 0xF, version := 0, epoch := 0 }

def replicated : State :=
  { (asking .promised (ask (.load .s8) .sent 1)) with
    dev := { (asking .promised (ask (.load .s8) .sent 1)).dev with replicas := [rep0] } }

theorem ok_some {α : Type} {e : Except Cause α} (h : e.toOption.isSome = true) : ∃ x, e = .ok x := by
  cases e with
  | ok x => exact ⟨x, rfl⟩
  | error c => exact absurd h (by simp [Except.toOption])

/-- The cause of a failure. -/
def causeOf {α : Type} (e : Except Cause α) : Option Cause :=
  match e with
  | .ok _ => none
  | .error c => some c

theorem error_of {α : Type} {e : Except Cause α} {c : Cause} (h : causeOf e = some c) : e = .error c := by
  cases e with
  | ok x => exact absurd h (by simp [causeOf])
  | error x => simpa [causeOf] using h

/-- A load on its way whose promise, whatever transit is (log 9), falls on the cycle 0x7000. -/
def probed : Req :=
  let r := ask (.load .s8) .sent 0
  { r with at_ := 60 * (2 ^ 32 - transitOf r % 2 ^ 32) }

theorem probed_answerable : answerable (asking .pending probed).dev probed 0x7000 = true := by
  have h : promiseFor probed 0x7000 = BitVec.ofNat 32 0x7000 := by
    have e : transitOf probed = transitOf (ask (.load .s8) .sent 0) := rfl
    have a : probed.at_ = 60 * (2 ^ 32 - transitOf (ask (.load .s8) .sent 0) % 2 ^ 32) := rfl
    unfold promiseFor
    rw [e, a, Nat.mul_div_cancel_left _ (by decide)]
    generalize transitOf (ask (.load .s8) .sent 0) = n
    apply BitVec.eq_of_toNat_eq
    simp only [BitVec.toNat_add, BitVec.toNat_ofNat, Config.horizon]
    omega
  unfold answerable
  rw [h]
  decide +kernel

/-- `ReadEffects`: promises. -/
theorem witness_ReadEffects_promises : Premises Rules.Reads (asking .pending probed) (.probeAnswer 9 0x7000) ∧
    Premises Rules.Reads (asking .promised (ask (.load .s8) .sent 0)) (.breachNotice 9 0) ∧
    Premises Rules.Reads (asking .pending (ask (.load .s8) .sent 0)) (.breachNotice 9 0) ∧
    Premises Rules.Reads (askingDet .promised (ask (.load .s8) .sent 0)) (.breachNotice 9 0) ∧
    Premises Rules.Reads (asking .promised (ask (.load .s8) .sent 0)) (.promiseLate 9) :=
  ⟨⟨rfl, _, .probe probed (askingG .pending) _ rfl probed_answerable rfl⟩,
    ⟨rfl, _, .breach 9 0 0 _ (askingG .promised) _ rfl rfl rfl⟩, ⟨rfl, _, .breach 9 0 0 _ (askingG .pending) _ rfl rfl rfl⟩,
    ⟨rfl, _, .breachDet 9 0 0 _ (askingG .promised) _ rfl rfl rfl⟩, ⟨rfl, _, .late 9 0 0 _ (askingG .promised) rfl rfl ⟨rfl, rfl⟩⟩⟩

/-- `ReadEffects`: reads, arrivals, walks, a code fetch. -/
theorem witness_ReadEffects_values : Premises Rules.Reads (asking .promised (ask (.load .s8) .served 0)) (.loadValueArrival 9) ∧
    Premises Rules.Reads (asking .promised (ask .uload .served 0)) (.loadValueArrival 9) ∧
    Premises Rules.Reads (asking .promised (ask (.load .s8) (.refused .perm) 0)) (.promiseWithdrawal 9 .perm) ∧
    Row Rules.Reads (asking .promised (ask (.load .s8) .sent 1)) (.sliceAdmit 9 3) ∧
    Premises Rules.Reads replicated (.sliceAdmit 9 0) ∧
    Premises Rules.Reads (asking .promised (ask (.load .s8) (.admitted 3) 0)) (.lineReadServe 0) ∧
    Premises Rules.Reads (askingBad (ask (.load .s8) (.admitted 3) 0)) (.lineReadServe 0) ∧
    Premises Rules.Reads (walking 0x40) (.translationWalk 7) ∧ Premises Rules.Reads (walking 0x8000000000) (.translationWalk 7) ∧
    Premises Rules.Reads fetching (.codeFetchReturn 9) := by
  obtain ⟨l, hl⟩ : ∃ l, walkOutcome (walking 0x40).mem (walking 0x40).dev { ctx0 with root := 0x1000 } 255 0x40 = .ok l :=
    ok_some (by decide +kernel)
  refine ⟨⟨rfl, _, .arrival (ask (.load .s8) .served 0) rfl rfl rfl rfl⟩, ⟨rfl, _, .arrival (ask .uload .served 0) rfl rfl rfl rfl⟩,
    ⟨rfl, _, .withdrawal (ask (.load .s8) (.refused .perm) 0) _ rfl rfl rfl rfl⟩,
    ⟨rfl, _, .admitted (ask (.load .s8) .sent 1) _ rfl rfl rfl (by decide +kernel) (by decide +kernel), _, rfl, rfl⟩,
    ⟨rfl, _, .replica (ask (.load .s8) .sent 1) _ rep0 rfl rfl rfl (by decide +kernel) (by decide +kernel) (by decide +kernel)⟩,
    ⟨rfl, _, .line (ask (.load .s8) (.admitted 3) 0) _ [] [] rfl (by decide) (fun _ h => nomatch h) (by decide +kernel)
      (by decide +kernel)⟩,
    ⟨rfl, _, .lineBad (ask (.load .s8) (.admitted 3) 0) _ [] [] 0x40 rfl (by decide) (fun _ h => nomatch h) (by decide +kernel)
      (by decide +kernel)⟩,
    ⟨rfl, _, .walked { id := 7, ctx := 0, va := 0x40, cores := [255] } _ _ l rfl rfl rfl hl rfl (by decide +kernel)⟩,
    ⟨rfl, _, .walkFails { id := 7, ctx := 0, va := 0x8000000000, cores := [255] } _ _ .page rfl rfl rfl (error_of (by decide +kernel))
      (by decide +kernel)⟩,
    ⟨rfl, _, .codeFetch { id := 9, core := 255, key := 0x40, ctx := 0, va := 0x40 } false rfl (by decide +kernel) (by decide +kernel)
      (by decide)⟩⟩

/-! ## Witnesses: homes -/

/-- A write of the thread to two bytes of its own die, of a neighbour die, of another module, of a host. -/
def write0 (key : Nat) (a : Option Atomic) : PWrite :=
  { id := 9, source := 0, core := 0, gid := 0, slot := 31, key := key, cells := [(key, 1), (key + 1, 2)]
    stamp := Vector.replicate 8 0, atomic := a }

/-- A reduction, and one that a core has buffered. -/
def addTwo : Atomic := { op := .addI, ty := .int, size := 2, x := 0xFFFF }

def red0 : Red := { id := 9, core := 255, ctx := 0, record := some (0x100, 0), keys := [0x40, 0x41], atomic := addTwo }

/-- A machine with writes and reductions on their way. -/
def homing (w : List PWrite) (r : List Red) : State :=
  { mem := (0x40, 0x7F) :: descMem
    dev := { (tabled id [askingG .promised] []).dev with writes := w, reds := r, markers := [{ source := 0, sink := 7, value := 3, seq := 8 }] } }

/-- The same after a concurrent write of a higher core. -/
def homingBeaten : State :=
  { (homing [write0 0x40 none] []) with
    dev := { (homing [write0 0x40 none] []).dev with
      wrecs := [{ sector := 2, stamp := Vector.replicate 8 0, source := 1, core := 256, mask := 1 }] } }

theorem ok_with {α : Type} {e : Except Cause α} {p : α → Bool} (h : (e.toOption.map p) = some true) : ∃ x, e = .ok x ∧ p x = true := by
  cases e with
  | ok x => exact ⟨x, rfl, by simpa [Except.toOption] using h⟩
  | error c => exact absurd h (by simp [Except.toOption])

/-- The same with an entry that watches the counter there, which holds 0x7F. -/
def homingWatched : State :=
  { (homing [write0 0x40 none] []) with
    dev := { (homing [write0 0x40 none] []).dev with
      entries := [{ id := 5, ctx := 0, queue := 0, words := [], runnable := false, watch := some 0x40, left := 0x7F }] } }

/-- The context with an overflow area of 128 entries at address 0. -/
def ctxA : Ctx := { ctx0 with root := 0x1000, ovflSize := 4096 }

def homingArea (r : List Red) : State := { (homing [] r) with dev := { (homing [] r).dev with ctxs := [ctxA] } }

/-- `HomeEffects`: writes, markers. -/
theorem witness_HomeEffects_writes : Premises Rules.Homes (homing [write0 0x40 none] []) (.homeWriteApply 9) ∧
    (Premises Rules.Homes homingBeaten (.homeWriteApply 9) ∧ Rules.beaten homingBeaten.dev (write0 0x40 none) 0x40) ∧
    Premises Rules.Homes (homing [write0 (2 ^ 50) none] []) (.homeWriteApply 9) ∧
    Premises Rules.Homes (homing [write0 (2 ^ 80) none] []) (.homeWriteApply 9) ∧
    Premises Rules.Homes homingWatched (.homeWriteApply 9) ∧
    Premises Rules.Homes (homing [write0 0x40 (some addTwo)] []) (.homeWriteApply 9) ∧
    Row Rules.Homes (homing [{ write0 (2 ^ 50) none with applied := true }] []) (.remoteWriteAck 9) ∧
    Premises Rules.Homes (homing [] []) (.markerProcess 0 7) := by
  refine ⟨⟨rfl, _, .write (write0 0x40 none) rfl (by decide +kernel) rfl (by decide) (by decide) (by decide)⟩,
    ⟨⟨rfl, _, .write (write0 0x40 none) rfl (by decide +kernel) rfl (by decide) (by decide) (by decide)⟩,
      _, rfl, by decide, by decide, by decide +kernel⟩,
    ⟨rfl, _, .write (write0 (2 ^ 50) none) rfl (by decide +kernel) rfl (by decide) (by decide) (by decide)⟩,
    ⟨rfl, _, .write (write0 (2 ^ 80) none) rfl (by decide +kernel) rfl (by decide) (by decide) (by decide)⟩,
    ⟨rfl, _, .watched (write0 0x40 none) rfl (by decide +kernel) rfl (by decide) (by decide) (fun _ h => nomatch h)⟩,
    ⟨rfl, _, .reduction (write0 0x40 (some addTwo)) _ rfl (by decide +kernel) rfl (by decide +kernel) (by decide) (by decide)⟩,
    ⟨rfl, _, .ack { write0 (2 ^ 50) none with applied := true } (by decide) rfl, _, rfl, rfl⟩,
    ⟨rfl, _, .marker { source := 0, sink := 7, value := 3, seq := 8 } rfl (by decide +kernel) (by decide)⟩⟩

/-- `HomeEffects`: entries of a reduction buffer, of the overflow area. -/
theorem witness_HomeEffects_reductions :
    Premises Rules.Homes (homing [] [red0]) (.reductionEntryLeave 255 0x40) ∧
    Premises Rules.Homes (homing [] [{ red0 with order := some (0, 0, 0, 0) }]) (.reductionEntryLeave 255 0x40) ∧
    Premises Rules.Homes (homingArea [{ red0 with id := 8, spilled := true }, red0]) (.reductionEntryLeave 255 0x40) ∧
    Premises Rules.Homes (homingArea [{ red0 with spilled := true, cell := 1 }]) (.overflowDrain 0 0) ∧
    Premises Rules.Homes (homingArea [{ red0 with spilled := true, order := some (0, 0, 0, 0) }]) (.overflowDrain 0 0) := by
  let s2 := homingArea [{ red0 with id := 8, spilled := true }, red0]
  let s3 := homingArea [{ red0 with spilled := true, cell := 1 }]
  let s4 := homingArea [{ red0 with spilled := true, order := some (0, 0, 0, 0) }]
  obtain ⟨k2, h2, b2⟩ : ∃ k, deviceSites s2.mem s2.dev ctxA (cellVa ctxA (freeCell s2.dev ctxA.num)) .w 2 = .ok k ∧
    (!halfBad s2.dev k) = true := ok_with (by decide +kernel)
  obtain ⟨k3, h3⟩ : ∃ k, deviceSites s3.mem s3.dev ctxA (cellVa ctxA 1) .r 2 = .ok k := ok_some (by decide +kernel)
  obtain ⟨k4, h4⟩ : ∃ k, deviceSites s4.mem s4.dev ctxA (cellVa ctxA 0) .r 2 = .ok k := ok_some (by decide +kernel)
  exact ⟨⟨rfl, _, .leave red0 rfl rfl rfl⟩, ⟨rfl, _, .leaveOrdered { red0 with order := some (0, 0, 0, 0) } rfl rfl rfl rfl⟩,
    ⟨rfl, _, .leaveSpilled red0 ctxA k2 rfl rfl rfl (by decide +kernel) h2 (by simpa using b2)⟩,
    ⟨rfl, _, .drain { red0 with spilled := true, cell := 1 } _ _ ctxA k3 rfl rfl h3 rfl⟩,
    ⟨rfl, _, .drainOrdered { red0 with spilled := true, order := some (0, 0, 0, 0) } _ _ ctxA k4 rfl rfl h4 rfl⟩⟩

/-- A PIN of a line, and 16 pinned lines of one set. -/
def pin0 (keys : List Nat) : Req := { ask .pin .sent 0 with keys := keys }

def pinning (pins : List (Nat × Nat)) (keys : List Nat) : State :=
  { (asking .promised (pin0 keys)) with dev := { (asking .promised (pin0 keys)).dev with pins := pins } }

/-- `HomeEffects`: atomics and pins. -/
theorem witness_HomeEffects_atomics : Premises Rules.Homes (asking .promised (ask (.atomic { addTwo with size := 1 }) .sent 0)) (.atomicHomeStep 9) ∧
    Premises Rules.Homes (askingBad (ask (.atomic { addTwo with size := 1 }) .sent 0)) (.atomicHomeStep 9) ∧
    Premises Rules.Homes (asking .promised (ask (.atomic addTwo) .served 1)) (.atomicReply 9) ∧
    Premises Rules.Homes (asking .promised (ask (.atomic addTwo) (.refused .uncorrectable) 1)) (.atomicReply 9) ∧
    Premises Rules.Homes (pinning [] [0x80]) (.pinOutcome 9) ∧ Premises Rules.Homes (pinning [(0, 1)] [0x80]) (.pinOutcome 9) ∧
    Premises Rules.Homes (pinning ((List.range 16).map fun k => (0, 3072 * (k + 1) + 1)) [0x80]) (.pinOutcome 9) ∧
    Premises Rules.Homes (pinning [] []) (.pinOutcome 9) :=
  ⟨⟨rfl, _, .atomic (ask (.atomic { addTwo with size := 1 }) .sent 0) _ rfl rfl (by decide +kernel) (by decide +kernel) (by decide) (by decide)⟩,
    ⟨rfl, _, .atomicBad (ask (.atomic { addTwo with size := 1 }) .sent 0) _ 0x40 rfl rfl (by decide +kernel) (by decide +kernel)⟩,
    ⟨rfl, _, .reply (ask (.atomic addTwo) .served 1) _ rfl rfl rfl rfl⟩,
    ⟨rfl, _, .replyBad (ask (.atomic addTwo) (.refused .uncorrectable) 1) _ _ rfl rfl rfl rfl⟩,
    ⟨rfl, _, .pin (pin0 [0x80]) 0x80 rfl rfl rfl rfl rfl⟩, ⟨rfl, _, .pin (pin0 [0x80]) 0x80 rfl rfl rfl rfl rfl⟩,
    ⟨rfl, _, .pin (pin0 [0x80]) 0x80 rfl rfl rfl rfl rfl⟩, ⟨rfl, _, .pinScratch (pin0 []) rfl rfl rfl rfl⟩⟩

/-- The second and third cases of `HomeEffects` on a PIN are met. -/
theorem witness_HomeEffects_pins : let full := ((List.range 16).map fun k => (0, 3072 * (k + 1) + 1))
    16 ≤ ((full.map (·.2)).filter (sameSet 1)).eraseDups.length ∧ (0, 1) ∉ full := by decide +kernel

/-- A ring of two slots of 16 bytes at offset 0x100 of core 0's region, its header at offset 0x20, and a message to it. -/
def msg0 : Msg := { id := 9, ctx := 0, from_ := 255, slot := 0, gid := 0, core := 0, key := scratchKey 0 0x20, bytes := [7, 8] }

def ringing (head : Byte) : State :=
  { mem := [(scratchKey 0 0x20, head), (scratchKey 0 0x24, 2), (scratchKey 0 0x2A, 1), (scratchKey 0 0x2D, 1)]
    dev := { hosted.dev with msgs := [msg0] } }

theorem apart_of {f : Nat → Option Nat} {n : Nat} {p : Nat → Prop} [DecidablePred p]
    (h : ((List.range n).all fun j => (f j).all fun k => decide (p k)) = true) : ∀ j < n, ∀ k, f j = some k → p k := fun j hj k e => by
  have := List.all_eq_true.1 h j (List.mem_range.2 hj)
  simpa [e] using this

/-- `HomeEffects`: messages. -/
theorem witness_HomeEffects_messages : Premises Rules.Homes (ringing 1) (.messageAppend 9) ∧
    Row Rules.Homes (ringing 0) (.messageAppend 9) := by
  refine ⟨⟨rfl, _, .append msg0 _ _ rfl rfl (by decide) rfl (by decide +kernel) (by decide +kernel) (apart_of ?_) (by decide)⟩,
    ⟨rfl, _, .full msg0 _ _ rfl rfl (by decide) rfl (by decide +kernel) (by decide +kernel), _, rfl, ?_⟩⟩ <;> decide +kernel

/-! ## Witnesses: tasks and queues -/

/-- The words of an entry: its flags, its arguments, the record at 0x100. -/
def words0 (flags args : Word) : List Word := [0, flags, args, 0, 0x100, 0, 9, 0]

def entry0 (flags args : Word) : Entry := { id := 5, ctx := 0, queue := 1, words := words0 flags args, runnable := true }

/-- The context with page tables, two queues and a rectangle of one core. -/
def ctxQ : Ctx := { ctx0 with root := 0x1000, nq := 1, rects := [{ die := 0, clus := 0, x := 0, y := 0, w := 1, h := 1 }] }

/-- A group that waits in QTAKE for its words in S56 to S63, and one in a task. -/
def idleQ : Group := { idleG with cond := .idle, hold := .qtake 56 }

/-- A record at 0x100 with two tasks outstanding. -/
def recMem : Memory := (0x40, 0x7F) :: (0x100, 2) :: descMem

def queued (g : Group) (es : List Entry) (rs : List Req) : State :=
  { mem := recMem, dev := { hosted.dev with ctxs := [ctxQ], groups := [g], entries := es, reqs := rs, nextId := 20 } }

/-- A machine in which the thread in slot 31 has executed FGET: the state of its request, the future, the sectors that are bad. -/
def fgetting (st : ReqSt) (full : Bool) (bad : List (Nat × BitVec 16)) : State :=
  let s := queued { askingG .promised with task := some task0 } [] [ask .fget st 0]
  { s with dev := { s.dev with futures := [{ key := 0x40, full := full }], bad := bad } }

theorem apart_one {s : State} {g : Group} {n : Nat} (h : s.dev.groups = [g]) (e : g.partner = none) : Rules.Apart s n :=
  fun x hx q => by
    rw [h] at hx
    rw [List.mem_singleton.1 hx, e] at q
    cases q

/-- `TaskEffects`: QPOST and FGET. -/
theorem witness_TaskEffects_answers :
    Premises Rules.Tasks (asking .promised (ask (.qpost 0 [] (some 0xFF01)) .sent 0)) (.qpostStatus 9) ∧
    Premises Rules.Tasks (asking .promised (ask (.qpost 0 [] none) .sent 0)) (.qpostStatus 9) ∧
    Premises Rules.Tasks (fgetting .sent true []) (.fgetAnswer 9) ∧ Premises Rules.Tasks (fgetting .sent false [(2, 1)]) (.fgetAnswer 9) ∧
    Premises Rules.Tasks (fgetting .served true []) (.fgetAnswer 9) ∧
    Premises Rules.Tasks (fgetting (.refused .uncorrectable) true []) (.fgetAnswer 9) ∧
    Premises Rules.Tasks (asking .promised { ask .fget .sent 0 with dropped := true }) (.fgetAnswer 9) ∧
    Premises Rules.Tasks (fgetting .sent false []) (.fgetAnswer 9) := by
  refine ⟨⟨rfl, _, .status (ask (.qpost 0 [] (some 0xFF01)) .sent 0) _ _ _ rfl rfl rfl⟩,
    ⟨rfl, _, .posted (ask (.qpost 0 [] none) .sent 0) _ _ _ _ rfl rfl rfl (by decide +kernel) rfl⟩,
    ⟨rfl, _, .home (ask .fget .sent 0) rfl rfl rfl ?_ rfl ?_ ?_ ?_⟩,
    ⟨rfl, _, .homeBad (ask .fget .sent 0) rfl rfl rfl ?_ rfl ?_ (.inl ⟨0x40, ?_, ?_⟩)⟩,
    ⟨rfl, _, .value (ask .fget .served 0) _ rfl rfl rfl rfl ?_ rfl ?_⟩,
    ⟨rfl, _, .withdrawn (ask .fget (.refused .uncorrectable) 0) _ rfl rfl rfl ?_ rfl ?_⟩,
    ⟨rfl, _, .dropped { ask .fget .sent 0 with dropped := true } rfl rfl rfl⟩,
    ⟨rfl, _, .empty (ask .fget .sent 0) _ _ task0 rfl rfl rfl rfl ?_ rfl ?_ ?_ ?_ rfl rfl (apart_one rfl rfl)⟩⟩
  all_goals decide +kernel

/-- A record update that waits. -/
def ending1 : State :=
  { (queued idleQ [] []) with
    dev := { (queued idleQ [] []).dev with
      ends := [{ id := 6, ctx := 0, record := 0x100, tidx := 9, entry := 7, failed := true, core := 0, cores := [0] }] } }

/-- The image of an entry. -/
def image0 : List Byte := [0, 0, 0, 0, 0, 0, 0, 0, 0, 0, 0, 0, 0, 0, 0, 0, 0, 1, 0, 0, 0, 0, 0, 0, 9, 0, 0, 0, 0, 0, 0, 0]

/-- The same of one whose word at 0x200 counts what it depends on. -/
def image1 : List Byte := [0, 0, 0, 0, 0x40, 0, 0, 0, 0, 2, 0, 0, 0, 0, 0, 0, 0, 1, 0, 0, 0, 0, 0, 0, 9, 0, 0, 0, 0, 0, 0, 0]

/-- A millisecond on. -/
def later1 (s : State) : State := { s with dev := { s.dev with dies := Vector.replicate 4 { st := .running, tick := 60 * 2100000 } } }

/-- An entry whose counter has reached zero. -/
def noted0 : Entry := { entry0 0x40 0x200 with runnable := false, watch := some 0x200, noted := true }

/-- `TaskEffects`: queues and records. -/
theorem witness_TaskEffects_queues : Row Rules.Tasks (queued idleQ [{ entry0 0 0 with runnable := false, held := true }] []) (.heldEntryEnqueue 0 1) ∧
    Premises Rules.Tasks ending1 (.taskEndUpdate 6) ∧ Premises Rules.Tasks (queued idleQ [] []) (.hostEnqueue 0 3 1 image0) ∧
    Premises Rules.Tasks (queued idleQ [] []) (.hostEnqueue 0 3 1 image1) ∧
    Row Rules.Tasks (queued idleQ [] []) (.hostEnqueue 0 3 2 image0) ∧
    Row Rules.Tasks (queued idleQ [noted0] []) (.depCounterNotice 5) ∧
    Row Rules.Tasks (later1 (queued idleQ [entry0 0 0] [])) (.agingTick 5) ∧ Row Rules.Tasks (queued idleQ [entry0 0 0] []) (.agingTick 5) := by
  let s := queued idleQ [] []
  let u0 : EndUpdate := { id := 6, ctx := 0, record := 0x100, tidx := 9, entry := 7, failed := true, core := 0, cores := [0] }
  obtain ⟨d, hd⟩ : ∃ d, enqueueRow s.mem ctxQ 0x100 s.dev (chainBound s.mem s.dev) = .ok d := ok_some (by decide +kernel)
  obtain ⟨e, he, ha⟩ : ∃ d, enqueueRow s.mem ctxQ 0x100 s.dev (chainBound s.mem s.dev) = .ok d ∧
      (counterKey s.mem d ctxQ (entWords image1)).toOption.isSome = true := ok_with (by decide +kernel)
  obtain ⟨a, ha⟩ := ok_some ha
  obtain ⟨k, hk, ho⟩ : ∃ k, recordKey ending1.mem ending1.dev ctxQ u0.record = .ok k ∧
      decide (2 ≤ (readRecord ending1.mem ending1.dev k.1).out) = true := ok_with (by decide +kernel)
  refine ⟨⟨rfl, _, .held _ _ ctxQ _ rfl rfl (by decide) (by decide), _, rfl, ?_⟩,
    ⟨rfl, _, .ended u0 ctxQ k _ rfl ?_ ?_ rfl hk ?_ rfl (of_decide_eq_true ho)⟩,
    ⟨rfl, _, .accepted _ _ _ _ ctxQ d rfl ?_ hd ?_⟩, ⟨rfl, _, .acceptedDep _ _ _ _ ctxQ e a rfl ?_ he ?_ ha⟩,
    ⟨rfl, _, .rejected _ _ _ _ ctxQ 8 rfl ?_ (by decide), _, rfl, ?_⟩, ⟨rfl, _, .notice noted0 0x200 rfl rfl rfl ?_, _, rfl, ?_⟩,
    ⟨rfl, _, .aging (entry0 0 0) rfl rfl ?_, _, rfl, ?_⟩, ⟨rfl, _, .young (entry0 0 0) rfl (.inr ?_), _, rfl, ?_⟩⟩ <;> decide +kernel

/-- The machine with a gang granted. -/
def ganged : State :=
  { (queued idleQ [] []) with
    dev := { (queued idleQ [] []).dev with
      ctxs := [{ ctxQ with gangs := [{
        id := 5, words := words0 0x1100 0, queue := 1, rect := quadRect 0, toStart := [0], running := 1 }] }] } }

/-- `TaskEffects`: pulls and starts. -/
theorem witness_TaskEffects_starts : Row Rules.Tasks (queued idleQ [entry0 7 0] []) (.entryPull 0) ∧
    Row Rules.Tasks (queued idleQ [entry0 0x1100 0] []) (.entryPull 0) ∧
    Premises Rules.Tasks (queued idleQ [{ entry0 0 0 with pulled := some 0 }] []) (.taskStart 5) ∧
    Premises Rules.Tasks (queued idleQ [{ entry0 0x20 0 with pulled := some 0 }] []) (.taskStart 5) ∧
    Premises Rules.Tasks ganged (.taskStart 5) := by
  refine ⟨⟨rfl, _, .pull _ ctxQ (entry0 7 0) idleQ ?_ ?_ ?_ ?_, _, rfl, ?_⟩,
    ⟨rfl, _, .grant _ ctxQ (entry0 0x1100 0) { die := 0, clus := 0, x := 0, y := 0, w := 1, h := 1 } ?_ ?_ ?_ ?_, _, rfl, ?_⟩,
    ⟨rfl, _, .start { entry0 0 0 with pulled := some 0 } ctxQ idleQ 56 rfl rfl rfl rfl rfl ?_ ?_ ?_ ?_⟩,
    ⟨rfl, _, .startBoth { entry0 0x20 0 with pulled := some 0 } ctxQ idleQ 56 0 0 1 [2, 3, 4, 5, 6, 7] 192 rfl rfl rfl rfl rfl ?_ ?_ ?_ ?_
      rfl ?_ ?_ ?_⟩,
    ⟨rfl, _, .member 5 _ _ 0 idleQ 56 rfl rfl rfl ?_ rfl rfl rfl rfl⟩⟩ <;> decide +kernel

/-! ## Witnesses: engines and decks -/

/-- A command block from its words. -/
def block (ws : List Nat) : List Byte := ws.flatMap (wordBytes 4)

def cmd0 (kind : CmdKind) (st : CmdSt) (ws : List Nat) : Cmd :=
  { id := 9, kind := kind, gid := 0, core := 0, ctx := 0, lead := 31, lanes := 0x80000000, t := 1, block := block ws, st := st
    rect := some (quadRect 0) }

/-- A copy of the word at 0x40 to 0x80; the same from an address that has no page; a collective of the module alone on
these addresses; an MCRD of the line at 0x80 to offset 0xFC0 of the issuing core. -/
def cpy0 (st : CmdSt) : Cmd := cmd0 .cpy st [0, 0xFFFFFFFF, 0x40, 0, 0x80, 0, 4, 1, 0, 0, 0, 0, 0, 0, 0, 0]

def cpyBad : Cmd := cmd0 .cpy .queued [0, 0xFFFFFFFF, 0x40, 0x80, 0x80, 0, 4, 1, 0, 0, 0, 0, 0, 0, 0, 0]

def coll0 (st : CmdSt) (formed : Bool) : Cmd :=
  { cmd0 .coll st [0, 0xFFFFFFFF, 0x40, 0, 0x80, 0, 1, 0, 1, 5, 0, 0, 0, 0, 0, 0] with formed := formed }

def mcrd0 (st : CmdSt) (delivered : List (Nat × Nat)) : Cmd :=
  { cmd0 .mcrd st [0x80, 0, 0xFC0, 128, 0, 1, 0xFFFFFFFF, 0] with receivers := [0], delivered := delivered, pages := [{ va := 0, key := 0, dom := 0 }] }

/-- A machine with a command of the thread in slot 31, whose T1 follows it. -/
def commanded (c : Cmd) : State :=
  { mem := recMem
    dev := { hosted.dev with ctxs := [ctxQ], groups := [askingG (if c.st = .queued then .pending else .promised)], cmds := [c] } }

/-- Its pages, once quoted. -/
def withPages (c : Cmd) : Cmd := { c with pages := [{ va := 0, key := 0, dom := 0 }] }

/-- A copy that acquires at POD; a collective of two modules, in a pod; a second one of the tag of the first. -/
def acq0 : Cmd := cmd0 .cpy .quoted [0xD00, 0xFFFFFFFF, 0x40, 0, 0x80, 0, 4, 1, 0, 0, 0, 0, 0, 0, 0, 0]

def two0 : Cmd := cmd0 .coll .queued [0, 0xFFFFFFFF, 0x40, 0, 0x80, 0, 3, 0, 1, 5, 0, 0, 0, 0, 0, 0]

def podded : State := { commanded two0 with dev := { (commanded two0).dev with standalone := false } }

def paired : State :=
  let s := commanded (coll0 .queued true)
  { s with dev := { s.dev with cmds := [{ coll0 .queued true with id := 8 }, coll0 .queued true] } }

/-- `EngineEffects`: commands that wait. -/
theorem witness_EngineEffects_quotes : Premises Rules.Engines (commanded (cpy0 .queued)) (.engineQuote 9 0xFFFFFFFF) ∧
    Premises Rules.Engines (commanded (mcrd0 .queued [])) (.engineQuote 9 0) ∧
    Premises Rules.Engines (commanded (coll0 .queued true)) (.engineQuote 9 7) ∧
    Premises Rules.Engines (commanded cpyBad) (.engineQuote 9 0) ∧ Row Rules.Engines (commanded (cpy0 .quoted)) (.engineStart 9) ∧
    Premises Rules.Engines (commanded acq0) (.engineStart 9) ∧
    Row Rules.Engines (commanded (coll0 .queued false)) (.collInstanceForm 9 false) ∧
    Premises Rules.Engines podded (.collInstanceForm 9 true) ∧ Premises Rules.Engines podded (.collInstanceForm 9 false) := by
  have q : ∀ c, ((checkCmd (commanded c).mem (commanded c).dev ctxQ c).toOption.map fun p =>
      !p.2.any (memberWaits ctxQ c) && !quoteHeld (commanded c).dev c p.1) = some true →
      ∃ ps ks, checkCmd (commanded c).mem (commanded c).dev ctxQ c = .ok (ps, ks) ∧ ks.any (memberWaits ctxQ c) = false ∧
        quoteHeld (commanded c).dev c ps = false := fun c h => by
    cases e : checkCmd (commanded c).mem (commanded c).dev ctxQ c with
    | ok p => exact ⟨p.1, p.2, rfl, by simpa [e, Except.toOption] using h⟩
    | error x => simp [e, Except.toOption] at h
  have b : ∃ e va, checkCmd (commanded cpyBad).mem (commanded cpyBad).dev ctxQ cpyBad = .error (e, va) := by
    have h : (checkCmd (commanded cpyBad).mem (commanded cpyBad).dev ctxQ cpyBad).toOption.isNone = true := by decide +kernel
    cases e : checkCmd (commanded cpyBad).mem (commanded cpyBad).dev ctxQ cpyBad with
    | ok p => simp [e, Except.toOption] at h
    | error x => exact ⟨x.1, x.2, rfl⟩
  obtain ⟨p1, k1, a1, b1, c1⟩ := q (cpy0 .queued) (by decide +kernel)
  obtain ⟨p2, k2, a2, b2, c2⟩ := q (mcrd0 .queued []) (by decide +kernel)
  obtain ⟨p3, k3, a3, b3, c3⟩ := q (coll0 .queued true) (by decide +kernel)
  obtain ⟨e, va, hb⟩ := b
  refine ⟨⟨rfl, _, .quote (cpy0 .queued) ctxQ _ _ _ _ rfl rfl rfl rfl a1 (fun h => nomatch h) b1 c1 rfl⟩,
    ⟨rfl, _, .quote (mcrd0 .queued []) ctxQ _ _ _ _ rfl rfl rfl rfl a2 (fun h => nomatch h) b2 c2 rfl⟩,
    ⟨rfl, _, .quote (coll0 .queued true) ctxQ _ _ _ _ rfl rfl rfl rfl a3 (fun _ => ?_) b3 c3 rfl⟩,
    ⟨rfl, _, .fails cpyBad ctxQ _ e va _ rfl rfl rfl rfl hb rfl rfl (by decide)⟩,
    ⟨rfl, _, .start (cpy0 .quoted) rfl rfl ?_ ?_ (by decide), _, rfl, ?_⟩,
    ⟨rfl, _, .start acq0 rfl rfl ?_ ?_ (by decide)⟩,
    ⟨rfl, _, .form (coll0 .queued false) _ rfl ?_ rfl ?_ ?_, _, rfl, ?_⟩, ⟨rfl, _, .form two0 _ rfl ?_ rfl ?_ ?_⟩,
    ⟨rfl, _, .differs two0 (askingG .pending) rfl ?_ rfl rfl ?_ rfl⟩⟩
  case refine_3 =>
    intro sc h
    exact absurd h (by rw [show cmdAcq (cpy0 .quoted) = none from by decide +kernel]; exact fun e => nomatch e)
  case refine_6 => exact fun sc h => ⟨by decide +kernel, fun _ => by decide +kernel⟩
  all_goals decide +kernel

/-- `EngineEffects`: a second collective of one tag. -/
theorem witness_EngineEffects_twice : Premises Rules.Engines paired (.engineQuote 9 7) := by
  have h : (checkCmd paired.mem paired.dev ctxQ (coll0 .queued true)).toOption.isSome = true := by decide +kernel
  cases e : checkCmd paired.mem paired.dev ctxQ (coll0 .queued true) with
  | ok p => exact ⟨rfl, _, .twice (coll0 .queued true) ctxQ (askingG .pending) p.1 p.2 _ rfl rfl rfl rfl e rfl (by decide +kernel) rfl⟩
  | error x => simp [e, Except.toOption] at h

/-- `EngineEffects`: commands that move data. -/
theorem witness_EngineEffects_moves : (Premises Rules.Engines (commanded (withPages (cpy0 .started))) (.engineComplete 9) ∧
      Rules.copyMoves ctxQ (withPages (cpy0 .started)) ≠ [] ∧ bobjOf (withPages (cpy0 .started)) = none ∧
      Rules.Untraced (commanded (withPages (cpy0 .started)))) ∧
    Premises Rules.Engines (commanded (withPages (coll0 .started true))) (.engineComplete 9) ∧
    Premises Rules.Engines (commanded (mcrd0 .started [])) (.mcrdReceiverDelivery 9 0) ∧
    Premises Rules.Engines (commanded (mcrd0 .started [(0, 1)])) (.engineComplete 9) := by
  refine ⟨⟨⟨rfl, _, .copied (withPages (cpy0 .started)) ctxQ rfl rfl rfl rfl ?_ rfl ?_ ?_⟩, ?_, ?_, ?_⟩,
    ⟨rfl, _, .collected (withPages (coll0 .started true)) ctxQ rfl rfl rfl rfl rfl ?_ ?_⟩,
    ⟨rfl, _, .delivery (mcrd0 .started []) ctxQ 0 rfl rfl rfl rfl rfl ?_ ?_ ?_ ?_ ?_⟩,
    ⟨rfl, _, .received (mcrd0 .started [(0, 1)]) ctxQ rfl rfl rfl rfl rfl ?_⟩⟩
  all_goals first
    | decide +kernel
    | (intro n h; exact match n, h with | 0, _ | 1, _ | 2, _ | 3, _ => rfl)

/-- A machine with a deck operation on a tile of the group's. -/
def deck0 (kind : DeckKind) (started : Option Nat) (ready : Bool) : DeckOp :=
  { id := 9, quad := 0, gid := 0, kind := kind, z := 1, regs := [1, 2, 3], index := 127, dst := 60, started := started, readDone := ready }

/-- The group, whose DZERO has been cut since the reference counter stood at 0. -/
def cutG : Group := { idleG with dzeroAt := some 0 }

def decked (o : DeckOp) : State :=
  { mem := [(0, 0x5D), (1, 0x18), (3, 0x10)]
    dev := { hosted.dev with
      groups := [cutG, { idleG with gid := 1 }], deckOps := [o], dies := Vector.replicate 4 { st := .running, tick := 10 ^ 9 }
      tiles := [{ quad := 0, z := 1, owner := 0, f64 := false, elems := [(127, 5)] }, { quad := 0, z := 3, owner := 1, f64 := false }] } }

/-- `EngineEffects`: the deck. The last case is that of the group whose DZERO of tile 3 waits for the other group's tile. -/
theorem witness_EngineEffects_deck : Row Rules.Engines (decked (deck0 .wrRow none false)) (.deckOpStart 0) ∧
    Premises Rules.Engines (decked (deck0 .wrRow (some 0) false)) (.deckOpComplete 0) ∧
    Premises Rules.Engines (decked (deck0 .dzero (some 0) false)) (.deckOpComplete 0) ∧
    Premises Rules.Engines (decked (deck0 .mma (some 0) false)) (.deckOpComplete 0) ∧
    Premises Rules.Engines (decked (deck0 .rdRow (some 0) false)) (.deckOpComplete 0) ∧
    Premises Rules.Engines (decked (deck0 .rdCol (some 0) false)) (.deckOpComplete 0) ∧
    Premises Rules.Engines (decked (deck0 .rdRow (some 0) true)) (.deckReadReady 0) ∧
    Premises Rules.Engines (decked (deck0 .mma none false)) (.dzeroWaitTimeout 0) := by
  refine ⟨⟨rfl, _, .deckStart 0 (deck0 .wrRow none false) [] rfl rfl, _, rfl, ?_⟩,
    ⟨rfl, _, .deckRun 0 (deck0 .wrRow (some 0) false) [] rfl ?_ ?_⟩, ⟨rfl, _, .deckRun 0 (deck0 .dzero (some 0) false) [] rfl ?_ ?_⟩,
    ⟨rfl, _, .deckRun 0 (deck0 .mma (some 0) false) [] rfl ?_ ?_⟩,
    ⟨rfl, _, .deckRead 0 (deck0 .rdRow (some 0) false) [] _ rfl ?_ ?_ rfl⟩,
    ⟨rfl, _, .deckRead 0 (deck0 .rdCol (some 0) false) [] _ rfl ?_ ?_ rfl⟩,
    ⟨rfl, _, .deckReady 0 (deck0 .rdRow (some 0) true) _ rfl rfl rfl ?_⟩,
    ⟨rfl, _, .dzeroWait cutG { z := 3, k1 := false, ka := false } 0 rfl ?_ rfl⟩⟩ <;> decide +kernel

/-! ## Witnesses: scheduling -/

/-- The first slot of the first span of core 0; a span without groups. -/
def place0 : Place := ⟨0, 0, 0⟩

def place3 : Place := ⟨0, 3, 7⟩

/-- A machine with these groups, with page tables, late in its run. -/
def later (c : Ctx) (gs : List Group) : State :=
  { mem := descMem
    dev := { (tabled id [] []).dev with
      ctxs := [c], groups := gs, dies := Vector.replicate 4 { st := .running, tick := 210000 * 60 }
      spans := [{ core := 0, num := 3, slot := 7 }] } }

def ctxT : Ctx := { ctx0 with root := 0x1000, save := 0x10000 }

/-- A group with faults pending in two slots, one that a deschedule has been asked for, one that is not resident. -/
def faulty : Group :=
  { idleG with
    loops := [{ counter := 2, start := 4, stop := 32 }]
    pendFaults := [{ slot := 31, cause := .perm, acc := 1, addr := 0x123 }, { slot := 0, cause := .page, acc := 0, addr := 0x8000 }] }

def wantedG : Group := { idleG with wanted := true }

def outG (known : Bool) : Group := { idleG with gid := 1, place := none, instantiated := known, saved := if known then some 3 else none }

/-- A group with events that ask for attention pending in slot 31, and one whose block is moving. -/
def askedG (late breach : Word) : Group := { idleG with pendLate := late, pendBreach := breach }

def slidingG : Group := { idleG with place := some (3, 0), moving := 1, moveTo := 0, base := 8 }

def detT (round pos : Nat) : Ctx := { ctxT with det := true, round := round, rq := 2, roundBusy := true, roundPos := pos }

/-- `ScheduleEffects`: turns. -/
theorem witness_ScheduleEffects_turns : Premises Rules.Sched (later ctxT [idleG]) (.turnStart place0 7) ∧
    Premises Rules.Sched (later ctxT [faulty]) (.turnStart place0 0) ∧
    Premises Rules.Sched (later ctxT [askedG 0x80000000 1]) (.turnStart place0 1024) ∧
    Premises Rules.Sched (later ctxT [askedG 0 1]) (.turnStart place0 0) ∧
    Premises Rules.Sched (later (detT 1 0) [idleG]) (.turnStart place0 0) ∧
    Premises Rules.Sched (later ctxT [idleG]) (.turnStart place3 0) ∧ Premises Rules.Sched (later ctxT [slidingG]) (.turnStart place3 0) := by
  refine ⟨⟨rfl, _, .turn place0 idleG _ ⟨rfl, ?_, rfl⟩ ?_ ⟨rfl, rfl, ⟨_, rfl, rfl⟩, ?_, rfl, rfl, rfl, ?_, ?_, ?_⟩ (.inr ⟨?_, rfl, rfl⟩)⟩,
    ⟨rfl, _, .trap place0 faulty _ ctxT 64 { slot := 0, cause := .page, acc := 0, addr := 0x8000 } ⟨rfl, ?_, rfl⟩ ?_
      ⟨rfl, rfl, ⟨_, rfl, rfl⟩, ?_, rfl, rfl, rfl, ?_, ?_, ?_⟩ rfl ?_ rfl rfl⟩,
    ⟨rfl, _, .asked place0 (askedG 0x80000000 1) _ ctxT 64 ⟨rfl, ?_, rfl⟩ ?_
      ⟨rfl, rfl, ⟨_, rfl, rfl⟩, ?_, rfl, rfl, rfl, ?_, ?_, ?_⟩ rfl ?_ rfl rfl (.inl ?_)⟩,
    ⟨rfl, _, .asked place0 (askedG 0 1) _ ctxT 64 ⟨rfl, ?_, rfl⟩ ?_
      ⟨rfl, rfl, ⟨_, rfl, rfl⟩, ?_, rfl, rfl, rfl, ?_, ?_, ?_⟩ rfl ?_ rfl rfl (.inr ?_)⟩,
    ⟨rfl, _, .detTurn place0 idleG _ (detT 1 0) ⟨rfl, ?_, rfl⟩ ?_ rfl rfl rfl rfl ?_ ⟨?_, ?_, ?_⟩ ?_ ?_ ?_ (.inr ⟨?_, rfl, rfl⟩)⟩,
    ⟨rfl, _, .noGroup place3 _ ⟨rfl, ?_, ?_⟩ ?_ ?_ ?_⟩,
    ⟨rfl, _, .slides place3 _ slidingG ⟨rfl, ?_, ?_⟩ ?_ ?_ ?_ rfl⟩⟩ <;> decide +kernel

/-- `ScheduleEffects`: a quantum ends, a group is saved, instantiated, restored. -/
theorem witness_ScheduleEffects_groups : Premises Rules.Sched (later ctxT [idleG, outG false]) (.quantumExpiry 0 0) ∧
    Premises Rules.Sched (later ctxT [idleG]) (.quantumExpiry 0 0) ∧ Premises Rules.Sched (later ctxT [idleG]) (.quantumExpiry 0 15) ∧
    Premises Rules.Sched (later ctxT [wantedG]) (.groupSave 0) ∧ Premises Rules.Sched (later ctxT [idleG, outG false]) (.groupResident 1) ∧
    Premises Rules.Sched (later ctxT [idleG, outG true]) (.groupResident 1) := by
  refine ⟨⟨rfl, _, .quantum 0 0 idleG idleG ?_ ?_ ⟨outG false, by simp [later], rfl, ?_⟩ ?_⟩,
    ⟨rfl, _, .quantumQuiet 0 0 idleG ?_ ?_ ?_⟩, ⟨rfl, _, .quantumEarly 0 15 ?_⟩,
    ⟨rfl, _, .save wantedG ctxT rfl ⟨rfl, rfl, rfl, rfl⟩ rfl rfl ?_ ⟨rfl, ?_⟩ ?_ ?_ rfl ?_⟩,
    ⟨rfl, _, .resident (outG false) ctxT 1 0 [1, 2, 3, 4, 5, 6, 7] 0 [] rfl ?_ ?_ ?_ rfl ?_ rfl⟩,
    ⟨rfl, _, .restored (outG true) ctxT 1 0 [1, 2, 3, 4, 5, 6, 7] 0 [] rfl ?_ ?_ ?_ rfl ?_ ⟨rfl, rfl⟩ ?_⟩⟩
  case refine_13 => exact fun n h => match n, h with | 0, _ | 1, _ | 2, _ | 3, _ => rfl
  all_goals decide +kernel

/-- Sixteen groups, one a span: all of span 0 but two gaps, all of every other. -/
def fullSpans : List Group :=
  { idleG with x := 0, base := 64 } ::
    (List.range 15).map fun k => { idleG with gid := k + 1, x := 192, place := some (BitVec.ofNat 4 (k + 1), 0) }

/-- `ScheduleEffects`: a block slides for a group that needs 192 registers. -/
theorem witness_ScheduleEffects_slide :
    Premises Rules.Sched (later ctxT (fullSpans ++ [{ outG true with gid := 99 }])) (.compaction 0 0) := by
  refine ⟨rfl, _, .compact 0 0 { idleG with x := 0, base := 64 } 0 ?_
    ⟨{ outG true with gid := 99 }, by simp [later], rfl, ?_, ?_, ?_, ?_, ?_⟩ ?_ ?_ rfl⟩ <;> decide +kernel

/-- `ScheduleEffects`: rounds, the first with a group that has YIELDed. -/
theorem witness_ScheduleEffects_rounds : Premises Rules.Sched (later (detT 1 100) [{ idleG with hold := .yielded, yieldAt := 0 }]) (.detRoundStart 0) ∧
    Premises Rules.Sched (later (detT 2 100) [idleG]) (.detRoundStart 0) ∧
    Premises Rules.Sched (later (detT 0 0) [idleG]) (.detRoundStart 0) := by
  refine ⟨⟨rfl, _, .round 0 _ _ rfl ⟨rfl, rfl⟩ ?_ rfl ?_ ?_ ?_ (.inl rfl) ?_⟩,
    ⟨rfl, _, .boundary 0 _ _ rfl ⟨rfl, rfl⟩ ?_ rfl ?_ rfl ?_ ?_ ?_ (.inr (.inl rfl)) ?_⟩,
    ⟨rfl, _, .boundary 0 _ _ rfl ⟨rfl, rfl⟩ ?_ rfl ?_ rfl ?_ ?_ ?_ (.inl rfl) ?_⟩⟩ <;> decide +kernel

/-! ## Decoding: words written out field by field

Each row lists (value, lowest bit) of the fields of the encoding tables of R102 to R118 and of the instruction's own rule, zeros
left out, and the instruction that those fields name. -/

/-- A word from its fields. -/
def fields (l : List (Nat × Nat)) : Nat := (l.map fun p => p.1 * 2 ^ p.2).sum

/-- The decoder reads a 32-bit word as an instruction. -/
def Reads32 (p : List (Nat × Nat) × Instr) : Prop := decode (wordBytes 4 (fields p.1)) = some (p.2, 4, [])

theorem test_decode_16 : decode (wordBytes 2 (fields [(9, 11), (5, 5)])) = some (.add16 { d := 5, b := .v 9 }, 2, []) := by
  decide +kernel

theorem test_decode_alu : All Reads32 [
    ([(0x7A, 25), (5, 18), (5, 11), (1, 0)], .add { b := .imm 2, a := .v 5, d := .v 5, kb := false, ka := false }),
    ([(0x41, 25), (0x3F, 18), (1, 17), (7, 11), (1, 10), (0xB, 0)],
      .bfx { b := .l1, a := .v 63, d := .rsv 7, kb := true, ka := false }),
    ([(3, 25), (0x43, 18), (0x3E, 11), (1, 9), (3, 7), (0xD, 0)],
      .selp { b := .v 3, a := .zero, d := .v 62, kb := false, ka := true, p := 3 }),
    ([(4, 25), (2, 18), (0x3C, 11), (1, 9), (0xF, 0)], .add64 { b := .v 4, a := .v 2, d := .v 60, kb := false, ka := true }),
    ([(1, 25), (2, 18), (5, 13), (2, 11), (1, 10), (3, 7), (0x11, 0)],
      .icmp { b := .v 1, a := .v 2, conj := false, cond := .ge, p := 2, kb := true, ka := false, ty := .n64 }),
    ([(6, 25), (7, 18), (9, 13), (1, 11), (0x13, 0)],
      .fcmp { b := .v 6, a := .v 7, conj := true, cond := .ne, p := 1, kb := false, ka := false, ty := .f32 }),
    ([(0x7F, 25), (0xA, 18), (0xB, 11), (0xF, 7), (0x15, 0)], .addi { imm := 2047, a := .v 10, d := .v 11 }),
    ([(2, 30), (1, 25), (3, 18), (4, 11), (0xF, 7), (0x1D, 0)], .shifti { kind := .sar, amt := 31, a := .v 3, d := .v 4 }),
    ([(0x3FFF, 18), (0xC, 11), (8, 7), (0x21, 0)], .lui { imm := 262136, d := .v 12 }),
    ([(0x42, 18), (0x21, 11), (2, 7), (0x27, 0)], .mov { a := .q, d := .v 33, k1 := false, ka := false, g := 2 }),
    ([(0x200, 20), (3, 18), (5, 11), (1, 10), (1, 7), (0x27, 0)], .movx { i := 3, d := .v 5, k1 := true, ka := false, g := 1 }),
    ([(0x12, 25), (9, 18), (2, 11), (1, 9), (0x27, 0)], .iset { a := .v 9, i := 2, k1 := false, ka := true, g := 0 })] := by
  repeat' apply And.intro
  all_goals first
    | exact True.intro
    | (unfold Reads32; decide +kernel)

theorem test_decode_lanes : All Reads32 [
    ([(2, 28), (5, 25), (1, 18), (2, 11), (1, 10), (1, 7), (0x29, 0)],
      .scan { op := .minN32, seg := 2, a := .v 1, d := .v 2, k1 := true, ka := false, g := 1 }),
    ([(0x20, 25), (8, 18), (9, 11), (1, 9), (2, 7), (0x29, 0)], .delay { a := .v 8, d := .v 9, k1 := false, ka := true, g := 2 }),
    ([(0x22, 25), (8, 18), (9, 11), (3, 7), (0x29, 0)], .bfirst { a := .v 8, d := .v 9, k1 := false, ka := false, g := 3 }),
    ([(5, 28), (1, 25), (7, 18), (5, 11), (0x29, 0)],
      .reduce { op := .addF32, a := .v 7, d := .s 5, k1 := false, ka := false, g := 0 }),
    ([(1, 23), (3, 20), (2, 18), (1, 11), (2, 7), (0x2B, 0)],
      .pand { nb := true, na := false, pb := 3, pa := 2, pd := 1, k1 := false, ka := false, g := 2 })] := by
  repeat' apply And.intro
  all_goals first
    | exact True.intro
    | (unfold Reads32; decide +kernel)

theorem test_decode_uniform : All Reads32 [
    ([(0x43, 25), (0x70, 18), (0x1F, 11), (0x61, 0)], .sadd { b := .zero, a := .imm 8, d := .s 31, kb := false, ka := false }),
    ([(0x22, 18), (0x3F, 11), (0x67, 0)], .smov { a := .s 34, d := .s 63, k1 := false, ka := false }),
    ([(2, 25), (0xA, 18), (0xB, 11), (0x67, 0)], .sld { a := .s 10, d := .s 11, k1 := false, ka := false }),
    ([(0x7FFF0, 13), (0x71, 0)], .braAlways { off := 524272 }),
    ([(4, 13), (1, 9), (0x73, 0)], .brt { off := 4, t := 1, test := .arrived }),
    ([(0x10, 13), (3, 9), (0x75, 0)], .loop { off := 16, s := 3 }),
    ([(0x40000, 13), (0x77, 0)], .call { off := 262144 }),
    ([(0x79, 0)], .nop { k1 := false, ka := false, g := 0 })] := by
  repeat' apply And.intro
  all_goals first
    | exact True.intro
    | (unfold Reads32; decide +kernel)

theorem test_decode_float : All Reads32 [
    ([(0xD, 25), (0xA, 18), (4, 11), (1, 10), (1, 9), (0x31, 0)],
      .fadd { b := .v 13, a := .v 10, d := .v 4, kb := true, ka := true }),
    ([(1, 25), (2, 18), (3, 11), (0x33, 0)], .fmin { b := .v 1, a := .v 2, d := .v 3, kb := false, ka := false }),
    ([(5, 18), (6, 11), (1, 9), (0x3B, 0)], .fneg { a := .v 5, d := .v 6, k1 := false, ka := true, g := 0 }),
    ([(4, 25), (5, 18), (6, 11), (1, 7), (0x3B, 0)], .frsq { a := .v 5, d := .v 6, k1 := false, ka := false, g := 1 }),
    ([(2, 25), (1, 18), (2, 11), (1, 7), (0x3D, 0)],
      .cvtF32I32 { r := .rz, a := .v 1, d := .v 2, k1 := false, ka := false, g := 1 }),
    ([(0x70, 25), (6, 18), (3, 11), (0x3D, 0)], .cvtBf16x2B4 { r := .dyn, a := .v 6, d := .v 3, k1 := false, ka := false, g := 0 }),
    ([(0xF, 28), (6, 18), (3, 11), (1, 9), (3, 7), (0x3D, 0)],
      .cvtB4F32 { r := .dyn, a := .v 6, d := .v 3, k1 := false, ka := true, g := 3 })] := by
  repeat' apply And.intro
  all_goals first
    | exact True.intro
    | (unfold Reads32; decide +kernel)

theorem test_decode_memory : All Reads32 [
    ([(2, 27), (3, 23), (2, 16), (8, 9), (0x41, 0)], .ldw { off := 2, t := 3, b := .v 2, d := .v 8, g := 0 }),
    ([(3, 30), (7, 27), (0xF, 23), (4, 16), (9, 9), (1, 7), (0x47, 0)],
      .ldsub { sz := .n16, off := 7, t := 15, b := .v 4, d := .v 9, g := 1 }),
    ([(2, 27), (0x40, 16), (0x5E, 9), (0x49, 0)], .stw { off := 2, t := 0, b := .l0, x := .s 14, g := 0 }),
    ([(6, 22), (2, 16), (8, 9), (0x51, 0)], .atom32AddI32 { opnd := 6, addr := 2, d := .v 8, g := 0 }),
    ([(6, 18), (7, 11), (1, 9), (0x57, 0)], .pin { a := .v 6, d := .v 7, k1 := false, ka := true, g := 0 }),
    ([(2, 25), (6, 18), (2, 7), (0x57, 0)], .cflush { a := .v 6, k1 := false, ka := false, g := 2 }),
    ([(4, 25), (0x10, 18), (1, 11), (0x57, 0)], .mcrd { a := .s 16, t := 1, k1 := false, ka := false }),
    ([(5, 25), (4, 18), (6, 11), (1, 10), (0x57, 0)], .mcst { a := .v 4, b := .v 6, k1 := true, ka := false, g := 0 }),
    ([(6, 25), (4, 18), (6, 11), (1, 9), (1, 7), (0x57, 0)], .msend { a := .v 4, b := .v 6, k1 := false, ka := true, g := 1 }),
    ([(7, 25), (4, 18), (0x57, 0)], .mwait { a := .v 4, k1 := false, ka := false, g := 0 })] := by
  repeat' apply And.intro
  all_goals first
    | exact True.intro
    | (unfold Reads32; decide +kernel)

theorem test_decode_sync : All Reads32 [
    ([(0x18, 18), (4, 11), (0x59, 0)], .barArrive { a := .s 24, sc := .clus, k1 := false, ka := false }),
    ([(8, 22), (9, 18), (4, 11), (0x59, 0)], .barWait { k := 9, sc := .clus, k1 := false, ka := false }),
    ([(4, 25), (0x43, 18), (0x16, 11), (3, 7), (0x59, 0)], .boset { a := .zero, b := .v 22, k1 := false, ka := false, g := 3 }),
    ([(6, 25), (0x16, 18), (0x16, 11), (0x59, 0)], .bowait { a := .v 22, b := .v 22, k1 := false, ka := false, g := 0 }),
    ([(0x20, 23), (1, 21), (4, 18), (0x59, 0)], .fence { kind := .rel, sc := .clus, k1 := false, ka := false, g := 0 }),
    ([(0x800, 18), (0x38, 11), (0x59, 0)], .qtake { d := .s 56, k1 := false, ka := false }),
    ([(0x11, 25), (0x20, 18), (9, 11), (0x59, 0)], .qpost { a := .s 32, d := .s 9, k1 := false, ka := false }),
    ([(0x120000, 9), (1, 7), (0x59, 0)], .taskend { k1 := false, ka := false, g := 1 }),
    ([(0x18, 25), (2, 18), (4, 11), (0x59, 0)], .finit { a := .v 2, b := .v 4, ka := false, g := 0 }),
    ([(0x19, 25), (2, 18), (4, 11), (1, 7), (0x59, 0)], .fget { a := .v 2, d := .v 4, k1 := false, ka := false, g := 1 })] := by
  repeat' apply And.intro
  all_goals first
    | exact True.intro
    | (unfold Reads32; decide +kernel)

theorem test_decode_engines : All Reads32 [
    ([(8, 18), (2, 11), (0x5B, 0)], .cpy { a := .s 8, t := 2, k1 := false, ka := false }),
    ([(1, 25), (8, 18), (3, 11), (0x5B, 0)], .cpyx { a := .s 8, t := 3, k1 := false, ka := false }),
    ([(2, 25), (8, 18), (4, 11), (0x5B, 0)], .coll { a := .s 8, t := 4, k1 := false, ka := false }),
    ([(0x60, 20), (2, 18), (7, 11), (0x5B, 0)], .estat { k := .coll, d := .s 7, k1 := false, ka := false }),
    ([(3, 21), (5, 11), (0x5D, 0)], .mma { n := .s 24, z := 5, k1 := false, ka := false }),
    ([(0x4000, 14), (3, 11), (1, 10), (0x5D, 0)], .dzero { z := 3, k1 := true, ka := false }),
    ([(0x10, 25), (9, 21), (2, 18), (0x38, 11), (1, 10), (0x5D, 0)],
      .drdrow { r := 9, z := 2, d := .v 56, k1 := true, ka := false }),
    ([(0x18, 25), (6, 18), (0x5D, 0)], .drestart { a := .s 6, k1 := false, ka := false })] := by
  repeat' apply And.intro
  all_goals first
    | exact True.intro
    | (unfold Reads32; decide +kernel)

theorem test_decode_time : All Reads32 [
    ([(1, 18), (0x5F, 0)], .twait { t := 1, k1 := false, ka := false, g := 0 }),
    ([(2, 25), (0x15, 18), (0x14, 11), (0x5F, 0)], .tmin { a := .v 21, d := .v 20, k1 := false, ka := false, g := 0 }),
    ([(0x18, 22), (5, 18), (6, 11), (1, 7), (0x5F, 0)], .tmov { t := 5, u := 6, k1 := false, ka := false, g := 1 }),
    ([(0x20, 22), (5, 18), (6, 11), (2, 7), (0x5F, 0)], .tstat { t := 5, d := .v 6, k1 := false, ka := false, g := 2 }),
    ([(0x55, 18), (0x7B, 0)], .trap { k := 85, k1 := false, ka := false }),
    ([(0x400007B, 0)], .eret { ka := false }),
    ([(3, 25), (5, 18), (6, 11), (0x7B, 0)], .srd { val := .codeBase, d := .s 6, ka := false }),
    ([(0xA00007B, 0)], .idemb { k1 := false, ka := false }),
    ([(0xE, 24), (7, 18), (3, 11), (0x7B, 0)], .cbind { a := .v 7, c := 3, k1 := false, ka := false })] := by
  repeat' apply And.intro
  all_goals first
    | exact True.intro
    | (unfold Reads32; decide +kernel)

/-! ## WellFormed: an ill-formed term for each check -/

/-- `fits` refuses it. -/
def Unfit (i : Instr) : Prop := i.fits = false

/-- Its fields fit, and its operands are not those that their positions allow. -/
def Unfitting (i : Instr) : Prop := i.fits = true ∧ i.operandsOk = false

theorem test_fits : All Unfit [
    .add { b := .v 1, a := .v 2, d := .rsv 0, kb := false, ka := false },
    .add { b := .v 1, a := .v 2, d := .rsv 2, kb := false, ka := false },
    .smov { a := .rsv 48, d := .s 0, k1 := false, ka := false }, .smov { a := .rsv 3, d := .s 0, k1 := false, ka := false },
    .sub16 { b := .imm 3, d := 0 }, .add16 { b := .v 0, d := 0 },
    .selp { b := .v 1, a := .v 2, d := .v 3, kb := false, ka := false, p := 0 },
    .braThrNot { off := 4, g := 0 }, .braAny { off := 4, g := 0 }, .braAll { off := 4, g := 0 }, .braNone { off := 4, g := 0 },
    .sread { a := .v 2, d := .s 0, g := 1, k1 := false, ka := false },
    .barArrive { a := .s 0, sc := .thread, k1 := false, ka := false }, .barWait { k := 0, sc := .group, k1 := false, ka := false },
    .cvtF64F32 { r := .rz, a := .v 0, d := .v 0, k1 := false, ka := false, g := 0 },
    .cvtF64I32 { r := .rz, a := .v 0, d := .v 0, k1 := false, ka := false, g := 0 },
    .cvtF32F16 { r := .rz, a := .v 0, d := .v 0, k1 := false, ka := false, g := 0 },
    .cvtBf16x4E8x4 { r := .rz, a := .v 0, d := .v 0, k1 := false, ka := false, g := 0 },
    .cvtBf16x2B4 { r := .rz, a := .v 0, d := .v 0, k1 := false, ka := false, g := 0 }] := by
  repeat' apply And.intro
  all_goals first
    | exact True.intro
    | (unfold Unfit; decide +kernel)

theorem test_operands : All Unfitting [
    -- a reserved source, an odd pair, a wide immediate, an odd scalar pair, Q in a pair
    .add { b := .rsv 4, a := .v 2, d := .v 0, kb := false, ka := false },
    .add64 { b := .v 1, a := .v 2, d := .v 0, kb := false, ka := false },
    .stq { off := 0, t := 0, b := .v 2, x := .imm 1, g := 0 }, .add64 { b := .s 1, a := .v 2, d := .v 0, kb := false, ka := false },
    .add64 { b := .q, a := .v 2, d := .v 0, kb := false, ka := false },
    -- a dead mark on a source that is no V register
    .add { b := .s 1, a := .v 2, d := .v 0, kb := true, ka := false },
    -- a destination pair from an odd number, a support destination of a load, Q in a pair, a reserved one
    .add64 { b := .v 0, a := .v 2, d := .v 1, kb := false, ka := false }, .ldw { off := 0, t := 0, b := .v 2, d := .sup, g := 0 },
    .add64 { b := .v 0, a := .v 2, d := .q, kb := false, ka := false },
    .add { b := .v 1, a := .v 2, d := .rsv 4, kb := false, ka := false },
    -- uniform sources: not a multiple of 8, none of a block, reserved; uniform destinations: past S63, reserved
    .mcrd { a := .s 4, t := 1, k1 := false, ka := false }, .mcrd { a := .zero, t := 1, k1 := false, ka := false },
    .mcrd { a := .imm 1, t := 1, k1 := false, ka := false }, .smov { a := .rsv 4, d := .s 0, k1 := false, ka := false },
    .qtake { d := .s 60, k1 := false, ka := false }, .smov { a := .s 0, d := .rsv 4, k1 := false, ka := false },
    -- a predicate destination P0, a bit that must be 0, a bound register that is no V register, Q named twice
    .pand { nb := false, na := false, pb := 1, pa := 1, pd := 0, k1 := false, ka := false, g := 0 },
    .nop { k1 := true, ka := false, g := 0 }, .cbind { a := .zero, c := 0, k1 := false, ka := false },
    .add { b := .q, a := .v 2, d := .q, kb := false, ka := false },
    -- a panel that is no V register, or begins inside a pair
    .msend { a := .v 4, b := .s 8, k1 := false, ka := false, g := 0 },
    .atom64CasB64 { opnd := 1, addr := 2, d := .v 0, g := 0 }] := by
  repeat' apply And.intro
  all_goals first
    | exact True.intro
    | decide +kernel

/-- The words of the checks that a program can hold raise their exceptions (`DecodeFaults`); an instruction of every kind above
is well formed with other operands. -/
theorem test_wf : All (fun i : Instr => i.wf = true) [
    .add { b := .q, a := .v 2, d := .v 0, kb := false, ka := true }, .add64 { b := .s 2, a := .imm 1, d := .sup, kb := false, ka := false },
    .mcrd { a := .s 56, t := 15, k1 := false, ka := false }, .sub16 { b := .imm 1, d := 63 }] := by
  repeat' apply And.intro
  all_goals first
    | exact True.intro
    | decide +kernel

/-! ## Results worked out by hand from the rules

V2 and V3 hold the first two words, V4 and V5 the next two, V6 the fifth; the result is read in V6, or V6 and V7. -/

/-- A group in its turn whose threads hold these words from V2 on, and S2 on. -/
def holding (ws : List Word) : State :=
  let regs : Vector Word 64 := Vector.ofFn fun k => if 2 ≤ k.val then ws.getD (k.val - 2) 0 else 0
  withGroup { wide with s := regs, threads := Vector.ofFn fun k => { v := regs, p := if k.val % 2 = 0 then 2 else 0 } }

/-- What a register of a thread holds after an instruction. -/
def after (i : Instr) (s : State) (f : Group → Word) : Option Word :=
  match exec i s with
  | .next t => (t.dev.group? 0).map f
  | _ => none

/-- The thread in slot 31 holds this in V6 afterwards. -/
def Gives (r : List Word × Instr × Word) : Prop :=
  after r.2.1 (holding r.1) (fun g => (thread g 31).v[6]) = some r.2.2

/-- An instruction of format A that reads V2 and V4 and writes V6. -/
def fA : FmtA := { a := .v 2, b := .v 4, d := .v 6, ka := false, kb := false }

/-- One that reads V2 and writes V6. -/
def fN : FmtN := { a := .v 2, d := .v 6, k1 := false, ka := false, g := 0 }

/-- R143 to R146: wraps, signs, shifts by the width and more, fields. -/
theorem test_integer : All Gives [
    ([0xFFFFFFFF, 0, 2], .add fA, 1), ([0, 0, 1], .sub fA, 0xFFFFFFFF), ([0x10001, 0, 0x10001], .mullo fA, 0x20001),
    ([0xFFFFFFFF, 0, 0xFFFFFFFF], .mulhi fA, 0), ([0xFFFFFFFF, 0, 0xFFFFFFFF], .mulhiu fA, 0xFFFFFFFE),
    ([3, 0, 5, 0, 100], .mad fA, 115), ([0x80000000, 0, 0x7FFFFFFF], .absdiff fA, 0xFFFFFFFF),
    ([0xFFFFFFFE, 0, 1], .avg fA, 0), ([0xFFFFFFFF, 0, 1], .min fA, 0xFFFFFFFF), ([0xFFFFFFFF, 0, 1], .minu fA, 1),
    ([0xFFFFFFFF, 0, 1], .max fA, 1), ([0xFFFFFFFF, 0, 1], .maxu fA, 0xFFFFFFFF), ([0xF0F0, 0, 0xFF00], .andn fA, 0xF0),
    ([1, 0, 32], .shl fA, 0), ([1, 0, 31], .shl fA, 0x80000000), ([0x80000000, 0, 32], .shr fA, 0),
    ([0x80000000, 0, 100], .sar fA, 0xFFFFFFFF), ([0x80000001, 0, 33], .rotl fA, 3),
    ([0x0000F00F, 0, 0x1040C], .bfx fA, 0xFFFFFFFF), ([0x0000F00F, 0, 0x040C], .bfx fA, 0xF), ([0xAB, 0, 0x0804, 0, 0xFFFFFFFF], .bfi fA, 0xFFFFFABF),
    ([0x10, 0, 0x40000001], .lea2 fA, 0x14), ([0x10, 0, 0x40000001], .lea3 fA, 0x18),
    ([0xFFFFFFFF, 0, 1, 1], .add64 fA, 0), ([0, 1, 1, 0], .sub64 fA, 0xFFFFFFFF), ([1, 0, 63, 0], .shl64 fA, 0),
    ([0, 0x80000000, 63, 0], .shr64 fA, 1)] := by
  repeat' apply And.intro
  all_goals first
    | exact True.intro
    | (unfold Gives; decide +kernel)

/-- R148, R149, R152: immediates sign-extended, one operand. -/
theorem test_unary : All Gives [
    ([5], .addi { imm := 0x7FF, a := .v 2, d := .v 6 }, 4), ([0x80000000], .shifti { kind := .sar, amt := 31, a := .v 2, d := .v 6 }, 0xFFFFFFFF),
    ([5], .not fN, 0xFFFFFFFA), ([0x80000000], .neg fN, 0x80000000), ([0xFFFFFFFB], .abs fN, 5), ([1], .clz fN, 31), ([0], .clz fN, 32),
    ([8], .ctz fN, 3), ([0xF0F], .popc fN, 8), ([1], .brev fN, 0x80000000), ([0x01020304], .bswap fN, 0x04030201),
    ([0x180], .sext8 fN, 0xFFFFFF80), ([0x7FFF], .sext16 fN, 0x7FFF)] := by
  repeat' apply And.intro
  all_goals first
    | exact True.intro
    | (unfold Gives; decide +kernel)

/-- R182, R191, R192, R195, R198: sums, a fused product, the default NaN, saturation. -/
theorem test_float : All Gives [
    -- 1.5 + 2.25 = 3.75; 1 - 1 = +0; 3 * -0.5 = -1.5; inf - inf: the default NaN
    ([0x3FC00000, 0, 0x40100000], .fadd fA, 0x40700000), ([0x3F800000, 0, 0x3F800000], .fsub fA, 0),
    ([0x40400000, 0, 0xBF000000], .fmul fA, 0xBFC00000), ([0x7F800000, 0, 0x7F800000], .fsub fA, 0x7FC00000),
    -- (1 + 2^-23)^2 - (1 + 2^-22) = 2^-46, which a rounded product would lose
    ([0x3F800001, 0, 0x3F800001, 0, 0xBF800002], .ffma fA, 0x28800000),
    -- 1 + 2^-24 is a tie: to even
    ([0x3F800000, 0, 0x33800000], .fadd fA, 0x3F800000), ([0x3F800001, 0, 0x33800000], .fadd fA, 0x3F800002),
    ([0xBF800000, 0, 0x3F800000], .fmin fA, 0xBF800000), ([0x40800000], .fsqrt fN, 0x40000000), ([0xBF800000], .fsqrt fN, 0x7FC00000),
    ([0x40000000], .frcp fN, 0x3F000000), ([0x80000000], .frcp fN, 0xFF800000), ([0xFF800000], .fclass fN, 1), ([0x3F800000], .fneg fN, 0xBF800000),
    -- 2.5 to an integer: to even 2, toward zero 2; 3e9 is above the range; a NaN gives 0; -1 to binary32
    ([0x40200000], .cvtI32F32 { r := .dyn, a := .v 2, d := .v 6, k1 := false, ka := false, g := 0 }, 2),
    ([0xC0200000], .cvtI32F32 { r := .rz, a := .v 2, d := .v 6, k1 := false, ka := false, g := 0 }, 0xFFFFFFFE),
    ([0x4F32D05E], .cvtI32F32 { r := .dyn, a := .v 2, d := .v 6, k1 := false, ka := false, g := 0 }, 0x7FFFFFFF),
    ([0x7FC00000], .cvtI32F32 { r := .dyn, a := .v 2, d := .v 6, k1 := false, ka := false, g := 0 }, 0),
    ([0xFFFFFFFF], .cvtF32I32 { r := .dyn, a := .v 2, d := .v 6, k1 := false, ka := false, g := 0 }, 0xBF800000)] := by
  repeat' apply And.intro
  all_goals first
    | exact True.intro
    | (unfold Gives; decide +kernel)

/-- R159, R160, R164, R166: the chain and the scalars. -/
theorem test_uniform : after (.matchLanes { fN with a := .v 2 }) (holding [7]) (fun g => (thread g 31).v[6]) = some 0xFFFFFFFF ∧
    after (.rank { fN with g := 1 }) (holding [7]) (fun g => (thread g 30).v[6]) = some 15 ∧
    after (.reduce { op := .addI32, a := .v 2, d := .s 6, k1 := false, ka := false, g := 1 }) (holding [7]) (fun g => g.s[6]) =
      some 112 ∧
    after (.vote { a := .v 2, d := .s 6, k1 := false, ka := false, g := 1 }) (holding [7]) (fun g => g.s[6]) = some 0x55555555 ∧
    after (.sadd { b := .imm 1, a := .s 2, d := .s 6, kb := false, ka := false }) (holding [0xFFFFFFFF]) (fun g => g.s[6]) = some 0 ∧
    after (.braAlways { off := 4 }) (holding []) (fun g => (thread g 3).pc.truncate 32) = some 8 ∧
    after (.icmp { a := .v 2, b := .v 4, conj := false, cond := .lt, p := 3, ty := .i32, ka := false, kb := false })
      (holding [0xFFFFFFFF, 0, 1]) (fun g => (thread g 3).p.zeroExtend 32) = some 8 ∧
    after (.icmp { a := .v 2, b := .v 4, conj := false, cond := .lt, p := 3, ty := .n32, ka := false, kb := false })
      (holding [0xFFFFFFFF, 0, 1]) (fun g => (thread g 3).p.zeroExtend 32) = some 0 := by
  repeat' apply And.intro
  all_goals decide +kernel

end Sys2Proof.Tests
end

section
/-! PROOFS. The invariant of every step: a step ends in a commit, and a commit keeps memory canonical and leaves no write over. -/

namespace Sys2Proof.Machine

/-! ## How a step ends -/

/-- How the dispatch and the machine's own steps end from `s`: the step's writes enter memory, in which CTXSTART alone first
zeroes the regions of the contexts that it adds (R408). -/
inductive EndsInCommit (s : State) : Host.Outcome State Fault Refusal → Prop
  | commits (d : Device) : EndsInCommit s (.next (commit s d))
  | zeroes (cs : List Ctx) (d : Device) : EndsInCommit s (.next (commit { s with mem := zeroRegions cs s.mem } d))

/-- Every arm of the dispatch is a pass or an event, but for CTXSTART, which also zeroes regions. -/
theorem exec_endsInCommit (i : Instr) (s : State) : EndsInCommit s (exec i s) := by
  cases i with
  | ctxstart h descriptor => exact .zeroes _ _
  | _ => exact .commits _

theorem stepFocus_endsInCommit (s : State) : EndsInCommit s (stepFocus s) := by
  unfold stepFocus
  split
  · exact .commits _
  · split
    · exact .commits _
    · exact .commits _

theorem stepOwn_endsInCommit {s : State} {o : Host.Outcome State Fault Refusal} (h : stepOwn s = some o) :
    EndsInCommit s o := by
  unfold stepOwn at h
  split at h
  · split at h
    · split at h <;> cases h
      · exact .commits _
      · exact stepFocus_endsInCommit s
    · cases h
      exact stepFocus_endsInCommit s
  · obtain ⟨d, -, rfl⟩ := Option.map_eq_some_iff.1 h
    exact .commits d

/-! ## What each ending keeps -/

theorem zeroRegions_wf (cs : List Ctx) {m : Memory} (h : m.wf = true) : (zeroRegions cs m).wf = true := filter_wf _ h

theorem commit_inv {s : State} (d : Device) (h : s.mem.wf = true) : (commit s d).Inv := ⟨commit_wf h, commit_log s d⟩

/-- An outcome whose next state, where it has one, meets the invariant. -/
def NextInv (o : Host.Outcome State Fault Refusal) : Prop := ∀ t, o = .next t → t.Inv

theorem nextInv_next {t : State} : NextInv (.next t) ↔ t.Inv :=
  ⟨fun h => h t rfl, fun h _ e => by cases e; exact h⟩

theorem EndsInCommit.nextInv {s : State} {o : Host.Outcome State Fault Refusal} (e : EndsInCommit s o) (h : s.Inv) :
    NextInv o := by
  cases e with
  | commits d => exact nextInv_next.2 (commit_inv d h.1)
  | zeroes cs d => exact nextInv_next.2 (commit_inv d (zeroRegions_wf cs h.1))

/-- The inbox is no part of the invariant. -/
theorem inv_withInbox {s : State} (l : List Instr) : State.Inv { s with dev := { s.dev with inbox := l } } ↔ s.Inv := Iff.rfl

theorem keepInbox_nextInv (l : List Instr) {o : Host.Outcome State Fault Refusal} (h : NextInv o) : NextInv (keepInbox l o) := by
  cases o with
  | next t => exact nextInv_next.2 ((inv_withInbox l).2 (nextInv_next.1 h))
  | fault r => exact h
  | refused r => exact h

/-! ## The step -/

theorem stepInbox_nextInv (i : Instr) (rest : List Instr) {s : State} (h : s.Inv) : NextInv (stepInbox i rest s) := by
  have ht := (inv_withInbox rest).2 h
  have hx := (exec_endsInCommit i _).nextInv ht
  unfold stepInbox
  dsimp only
  split
  · exact nextInv_next.2 ht
  · split
    next u hu =>
      rw [hu] at hx
      split
      · split
        next o ho => exact keepInbox_nextInv _ ((stepOwn_endsInCommit ho).nextInv ht)
        next => exact hx
      · exact hx
    next => exact hx

theorem stepAll_nextInv {s : State} (h : s.Inv) : NextInv (stepAll s) := by
  have commits (d : Device) : NextInv (.next (commit s d)) := nextInv_next.2 (commit_inv d h.1)
  unfold stepAll
  split
  next => exact commits _
  next => exact stepInbox_nextInv _ _ h
  next =>
    split
    · exact commits _
    · split
      next o ho => exact (stepOwn_endsInCommit ho).nextInv h
      next => exact commits _

/-- Settles O48: every step ends in a commit on a canonical memory, up to the inbox, or only drops an instruction word from the
inbox. -/
theorem stepKeepsInv : Obligations.StepKeepsInv := by
  unfold Obligations.StepKeepsInv
  exact fun _ t h e => stepAll_nextInv h t e

end Sys2Proof.Machine
end

section
/-! PROOFS. Moves through the indexed window and writes of time registers: passes whose threads each update registers that carry
no dead marks, and may write a result to D as well. -/

namespace Sys2Proof.Machine

/-- An encoded instruction executes as one pass of its operation. -/
theorem exec_of_opOf {i : Instr} {op : Op} (h : opOf i = some op) (s : State) : exec i s = runPass decodeOp op s := by
  cases i <;> cases h <;> rfl

/-! ## Updates beside the dead marks -/

/-- An update of a thread that neither looks at dead marks nor changes them, and does not stop the thread. -/
structure MarksApart (f : Thread → Thread) : Prop where
  marks : ∀ th d, f { th with dead := d } = { f th with dead := d }
  dead : ∀ th, (f th).dead = th.dead
  st : ∀ th, (f th).st = th.st

theorem marksApart_id : MarksApart id := ⟨fun _ _ => rfl, fun _ => rfl, fun _ => rfl⟩

theorem MarksApart.comp {f h : Thread → Thread} (hf : MarksApart f) (hh : MarksApart h) : MarksApart (f ∘ h) :=
  ⟨fun th d => (congrArg f (hh.marks th d)).trans (hf.marks (h th) d), fun th => (hf.dead _).trans (hh.dead th),
    fun th => (hf.st _).trans (hh.st th)⟩

/-- Such an update, whatever follows it in the lane. -/
theorem MarksApart.plain {f : Thread → Thread} (h : MarksApart f) {e : LaneEff} (he : e.plain) :
    ({ e with th := e.th ∘ f } : LaneEff).plain := by
  obtain ⟨hmarks, hst, hdead⟩ := he
  refine ⟨fun th d => ?_, fun th => (hst _).trans (h.st th), fun th n hn => ?_⟩
  · exact (congrArg (fun x => { e.th x with dead := 0 }) (h.marks th d)).trans (hmarks (f th) d)
  · rw [← h.dead th]
    exact hdead _ n hn

theorem setIdx_marksApart (i : IReg) (f : Word → Word) : MarksApart fun th => setIdx th i (f (idxOf th i)) :=
  ⟨fun _ _ => rfl, fun _ => rfl, fun _ => rfl⟩

theorem setX_marksApart (k : BitVec 7) (x : Word) : MarksApart fun th => setX th k x :=
  ⟨fun _ _ => rfl, fun _ => rfl, fun _ => rfl⟩

theorem setTime_marksApart (r : TReg) (x : TimeReg) : MarksApart fun th => setTime th r x := by
  by_cases h : r = 0
  · simp only [setTime, h, if_true]
    exact marksApart_id
  · simp only [setTime, h, if_false]
    exact ⟨fun _ _ => rfl, fun _ => rfl, fun _ => rfl⟩

/-! ## Passes of such updates -/

theorem orFlags_zero (g : Group) : { g with flags := g.flags ||| (0 : Flags) } = g := by simp

theorem applyFin_none (g : Group) : applyFin none 0 g = g := orFlags_zero g

theorem applyEff_onThread {t : Nat} (ht : t < 32) (e : LaneEff) (f : Thread → Thread) (g : Group) :
    applyEff t e (onThread g t f) = applyEff t { e with th := e.th ∘ f } g := by
  simp only [applyEff, onThread_onThread ht]
  rfl

theorem putDst_applyEff {t : Nat} (ht : t < 32) (d : Dst) (ws : List Word) (g : Group) :
    putDst g t d ws = applyEff t (dstEff t d ws 0) g := by
  rw [← putDst_eq ht, orFlags_zero]

section
variable {dec : Nat → Option Op} {op : Op} {s : State} {g : Group} {turn : Turn} {pc : DWord} {upd : Nat → Thread → Thread}
  {res : Nat → Option DWord}

/-- The pass of an instruction whose threads each update registers without dead marks. -/
theorem marksApart_pass {keep : Nat → Nat × Reg → Bool} (hr : Runs op s g turn pc) (hu : op.uniform = false)
    (hc : op.commits = false) (hf : ∀ i w, op.fin i w = w) (hm : ∀ t, MarksApart (upd t))
    (hl : ∀ t ∈ actives op g turn pc, ∀ k w, Beside op s.dev g t w → op.lane s.mem { passInfo op s g turn pc with tick := k } t w =
      laneOk { w with g := { onThread w.g t (upd t) with poison := w.g.poison.filter (keep t) } } (res t)) :
    ∃ t g', runPass dec op s = .next t ∧ Lanes op s g turn pc { upd := upd, res := res } t g' := by
  refine upd_pass (fl := fun _ => 0) (keep := keep) (tgt := fun _ => none) (sc := none) (flA := 0) hr hu hc ?_ ?_
    (fun t => (hm t).st) ?_ ?_
  · intro w
    rw [hf, applyFin_none]
  · intro t th d
    rw [(hm t).marks]
  · intro t th n hn
    rwa [← (hm t).dead th]
  · intro t ht k w hw
    rw [hl t ht k w hw, ← orFlags_zero { onThread w.g t (upd t) with poison := w.g.poison.filter (keep t) }]
    rfl

/-- The pass of an instruction whose threads each do so, then write a result to D. -/
theorem marksApart_dst_pass {d : Dst} {ws : Nat → List Word} (hr : Runs op s g turn pc) (hu : op.uniform = false)
    (hc : op.commits = false) (hf : ∀ i w, op.fin i w = w) (hm : ∀ t, MarksApart (upd t))
    (hl : ∀ t ∈ actives op g turn pc, ∀ k w, Beside op s.dev g t w → op.lane s.mem { passInfo op s g turn pc with tick := k } t w =
      laneOk { w with g := putDst (onThread w.g t (upd t)) t d (ws t) } (res t)) :
    ∃ t g', runPass dec op s = .next t ∧ Lanes op s g turn pc
      { upd := fun u th => writeDst d (ws u) (upd u th), push := fun u => pushDst d (ws u), res := res } t g' := by
  have hlo : LocalOp op s g (passInfo op s g turn pc) (actives op g turn pc)
      (fun _ t => { dstEff t d (ws t) 0 with th := (dstEff t d (ws t) 0).th ∘ upd t }) (fun _ t => res t) (fun _ => none) none 0 := by
    refine ⟨fun t ht k w hw => ?_, fun _ t => (hm t).plain (dstEff_plain ..), hu, hc, fun w => ?_⟩
    · rw [hl t ht k w hw, putDst_applyEff (actives_lt ht), applyEff_onThread (actives_lt ht)]
      rfl
    · rw [hf, applyFin_none]
  obtain ⟨_, t, g', hrun, hlanes⟩ := lanes_pass (dec := dec) hr hlo
  refine ⟨t, g', hrun, hlanes.congr (fun u _ => dstEff_th ..) ?_ ?_ rfl rfl rfl rfl⟩
  · funext u; exact dstEff_fl ..
  · funext u; exact dstEff_push ..

end

/-! ## The indexed window (R81, R153, R154) -/

/-- The post-increment of a thread's index register (R153). -/
def incTh (k1 : Bool) (i : IReg) (th : Thread) : Thread := if k1 then setIdx th i (bumpIdx (idxOf th i)) else th

theorem incTh_marksApart (k1 : Bool) (i : IReg) : MarksApart (incTh k1 i) := by
  cases k1 with
  | false => exact marksApart_id
  | true => exact setIdx_marksApart i bumpIdx

theorem postInc_eq {t : Nat} (ht : t < 32) (k1 : Bool) (i : IReg) (g : Group) : postInc k1 t i g = onThread g t (incTh k1 i) := by
  cases k1 with
  | false => exact (onThread_id ht).symm
  | true => rfl

theorem eq_some_getD {α : Type} {x : Option α} (h : x.isSome = true) (a : α) : x = some (x.getD a) :=
  (Option.eq_some_of_isSome h).trans (congrArg some (Option.get_eq_getD _))

/-- MOVX of a thread whose index passes the check of R81. -/
theorem movx_lane {o : FmtIdx} {m : Memory} {i : PassInfo} {t : Nat} {w : Work} {k : BitVec 7} (ht : t < 32)
    (hk : indexOf i.rd.g (thread i.rd.g t) o.i = some k) :
    (opMovx o).lane m i t w =
      laneOk { w with g := putDst (onThread w.g t (incTh o.k1 o.i)) t o.d [xOf (thread i.rd.g t) k] }
        (some ((xOf (thread i.rd.g t) k).zeroExtend 64)) := by
  simp only [opMovx, hk, put32, postInc_eq ht]

/-- MOVXW of a thread whose index passes the check of R81. -/
theorem movxw_lane {o : FmtIdxA} {m : Memory} {i : PassInfo} {t : Nat} {w : Work} {k : BitVec 7} (ht : t < 32)
    (hk : indexOf i.rd.g (thread i.rd.g t) o.i = some k) :
    (opMovxw o).lane m i t w = laneOk
      { w with g :=
          { onThread w.g t (incTh o.k1 o.i ∘ fun th => setX th k (src32 i.rd t o.a)) with
            poison := w.g.poison.filter fun p => p != (t, .x k) } }
      (some ((src32 i.rd t o.a).zeroExtend 64)) := by
  simp only [opMovxw, hk, postInc_eq ht]
  have h := onThread_onThread (g := w.g) (f := fun th => setX th k (src32 i.rd t o.a)) (h := incTh o.k1 o.i) ht
  rw [Function.comp_def, ← h]
  rfl

section
variable {dec : Nat → Option Op} {s : State} {g : Group} {turn : Turn} {pc : DWord}

theorem movx_pass {o : FmtIdx} (hr : Runs (opMovx o) s g turn pc)
    (hi : ∀ u ∈ actives (opMovx o) g turn pc, (indexOf g (thread g u) o.i).isSome = true) :
    ∃ t g', runPass dec (opMovx o) s = .next t ∧ Lanes (opMovx o) s g turn pc
      { upd := fun u th => writeDst o.d [xOf (thread g u) ((indexOf g (thread g u) o.i).getD 0)] (incTh o.k1 o.i th)
        push := fun u => pushDst o.d [xOf (thread g u) ((indexOf g (thread g u) o.i).getD 0)]
        res := fun u => some ((xOf (thread g u) ((indexOf g (thread g u) o.i).getD 0)).zeroExtend 64) } t g' :=
  marksApart_dst_pass hr rfl rfl (fun _ _ => rfl) (fun _ => incTh_marksApart o.k1 o.i) fun _ ht _ _ _ =>
    movx_lane (actives_lt ht) (eq_some_getD (hi _ ht) 0)

theorem movxw_pass {o : FmtIdxA} (hr : Runs (opMovxw o) s g turn pc)
    (hi : ∀ u ∈ actives (opMovxw o) g turn pc, (indexOf g (thread g u) o.i).isSome = true) :
    ∃ t g', runPass dec (opMovxw o) s = .next t ∧ Lanes (opMovxw o) s g turn pc
      { upd := fun u => incTh o.k1 o.i ∘
          fun th => setX th ((indexOf g (thread g u) o.i).getD 0) (src32 (rdOf s.dev g turn) u o.a)
        res := fun u => some ((src32 (rdOf s.dev g turn) u o.a).zeroExtend 64) } t g' :=
  marksApart_pass (keep := fun u p => p != (u, .x ((indexOf g (thread g u) o.i).getD 0))) hr rfl rfl
    (fun _ _ => rfl) (fun _ => (incTh_marksApart o.k1 o.i).comp (setX_marksApart ..)) fun _ ht _ _ _ =>
    movxw_lane (actives_lt ht) (eq_some_getD (hi _ ht) 0)

theorem iset_pass {o : FmtIdxA} (hr : Runs (opIset o) s g turn pc) :
    ∃ t g', runPass dec (opIset o) s = .next t ∧ Lanes (opIset o) s g turn pc
      { upd := fun u th => setIdx th o.i (idxMask (src32 (rdOf s.dev g turn) u o.a))
        res := fun u => some ((idxMask (src32 (rdOf s.dev g turn) u o.a)).zeroExtend 64) } t g' :=
  marksApart_pass (keep := fun u p => p != (u, .i o.i)) hr rfl rfl (fun _ _ => rfl)
    (fun _ => setIdx_marksApart o.i fun _ => _) fun _ _ _ _ _ => rfl

end

/-- Settles O7: each thread's update is one of registers without dead marks, after which MOVX writes its result to D. -/
theorem indexedWindow : Obligations.IndexedWindow := by
  unfold Obligations.IndexedWindow
  refine ⟨fun o op hop s g turn pc hr hi => ?_, fun o op hop s g turn pc hr hi => ?_, fun o op hop s g turn pc hr => ?_⟩
  · rw [exec_of_opOf hop]
    cases hop
    exact movx_pass hr hi
  · rw [exec_of_opOf hop]
    cases hop
    exact movxw_pass hr hi
  · rw [exec_of_opOf hop]
    cases hop
    exact iset_pass hr

/-! ## Time registers (R83, R256) -/

/-- A lane finds the time registers of its thread as they were before the pass. -/
theorem Beside.timeOf_eq {op : Op} {dv : Device} {g : Group} {t : Nat} {w : Work} (h : Beside op dv g t w) (r : TReg) :
    timeOf (thread w.g t) r = timeOf (thread g t) r := by
  have ht : (thread w.g t).t = (thread g t).t := (have q := congrArg Thread.t h.own; q)
  simp only [timeOf, ht]

theorem Beside.timeSeen_eq {op : Op} {dv : Device} {g : Group} {t : Nat} {w : Work} (h : Beside op dv g t w) (r : TReg)
    (now : Word) : timeSeen w.d w.g t r now = timeSeen dv g t r now := by
  have hctxs : w.d.ctxs = dv.ctxs := (have q := congrArg Device.ctxs h.dev; q)
  have hctx : w.g.ctx = g.ctx := (have q := congrArg Group.ctx h.group; q)
  have hdet : w.d.isDet w.g = dv.isDet g := by rw [Device.isDet, Device.isDet, Device.ctx?, Device.ctx?, hctxs, hctx]
  rw [timeSeen, timeSeen, hdet, h.timeOf_eq]

/-- The pass of an instruction that writes one time register in each active thread. -/
theorem time_pass {dec : Nat → Option Op} {op : Op} {s : State} {g : Group} {turn : Turn} {pc : DWord} {r : TReg}
    {x : Nat → TimeReg} (hr : Runs op s g turn pc) (hu : op.uniform = false) (hc : op.commits = false)
    (hf : ∀ i w, op.fin i w = w)
    (hl : ∀ t k w, Beside op s.dev g t w → op.lane s.mem { passInfo op s g turn pc with tick := k } t w =
      laneOk { w with g := onThread w.g t fun th => setTime th r (x t) } none) :
    ∃ t g', runPass dec op s = .next t ∧ Lanes op s g turn pc { upd := fun u th => setTime th r (x u) } t g' := by
  refine marksApart_pass (keep := fun _ _ => true) (res := fun _ => none) hr hu hc hf (fun t => setTime_marksApart r (x t))
    fun t _ k w hw => ?_
  rw [hl t k w hw, filter_all]
  rfl

/-- Settles O11: each row's lane writes the value of its rule to the register. -/
theorem timeWrites : Obligations.TimeWrites := by
  unfold Obligations.TimeWrites
  intro i r f hi op hop s g turn pc hr
  rw [exec_of_opOf hop]
  cases hi with
  | tmov o =>
    cases hop
    refine time_pass hr rfl rfl (fun _ _ => rfl) fun t k w hw => ?_
    simp only [opTmov, hw.timeSeen_eq]
    rfl
  | tset o =>
    cases hop
    exact time_pass hr rfl rfl (fun _ _ => rfl) fun _ _ _ _ => rfl
  | tsetClr o =>
    cases hop
    refine time_pass hr rfl rfl (fun _ _ => rfl) fun t k w hw => ?_
    simp only [opTsetClr, onThread, hw.timeOf_eq]
    rfl

end Sys2Proof.Machine
end

section
/-! PROOFS. Instructions that act once for the group and leave the device: the group's registers, marks and bindings, and the
transfers that move every present thread. -/

namespace Sys2Proof.Machine

/-- The pass of a uniform instruction that only leaves the group as `h`, with every thread in its state, and names a target or
none. -/
theorem group_pass {dec : Nat → Option Op} {op : Op} {s : State} {g h : Group} {turn : Turn} {pc : DWord} {tgt : Option DWord}
    (hr : Runs op s g turn pc) (hu : op.uniform = true) (hy : op.yields = false) (hgid : h.gid = g.gid)
    (hpartner : h.partner = g.partner) (hst : ∀ u, (thread h u).st = (thread g u).st)
    (hl : ∀ u, op.lane s.mem (passInfo op s g turn pc) u { d := s.dev, g := g } = { w := { d := s.dev, g := h }, target := tgt }) :
    ∃ t g', runPass dec op s = .next t ∧
      Once op s g turn pc h s.dev (tgt.getD (pc + BitVec.ofNat 64 op.size)) (presentOf g turn pc) t g' := by
  obtain ⟨u, rest, ha⟩ := List.exists_cons_of_ne_nil hr.some_
  have hmem : u ∈ actives op g turn pc := by rw [ha]; exact List.mem_cons_self ..
  have hrun : isRun (thread g u) = true := (mem_presentOf.mp (mem_activeOf.mp hmem).1).2.1
  refine uniform_pass hr hu (by rw [hy]; exact nofun) ha (hl u) ⟨rfl, rfl, hgid, hpartner, ?_⟩ ⟨u, actives_lt hmem, ?_⟩
  · rw [show findGroup s.dev.groups g.gid = some g from hr.here]
    rfl
  · rw [hst]
    intro hdone
    simp [isRun, hdone] at hrun

/-! ## Writes of the group's own state (R91, R166, R383, R403, R405) -/

theorem slots_any_eq_false {p : Nat → Bool} : slots.any p = false ↔ ∀ u < 32, p u = false := by
  simp only [List.any_eq_false, mem_slots, Bool.not_eq_true]

/-- A group without a shadow that is none itself (R71). -/
theorem paired_eq_false {d : Device} {g : Group} (hp : g.partner = none) (hs : ∀ h ∈ d.groups, h.partner ≠ some g.gid) :
    paired d g = false := by
  have hn : shadowOf d g.gid = none := List.find?_eq_none.mpr fun h hm => by simpa using hs h hm
  rw [paired, hn, hp]
  rfl

/-- IDEMB where every thread that is not DONE stands at it, outside a region and any pair (R383). -/
theorem idemb_lane {o : FmtNK} {m : Memory} {i : PassInfo} {u : Nat} {w : Work} (hr : w.g.region = none)
    (hp : paired w.d w.g = false)
    (hat : ∀ v < 32, (thread w.g v).st ≠ .done → (thread w.g v).st = .run ∧ (thread w.g v).pc = i.pc) :
    (opIdemb o).lane m i u w = laneOk { w with g := { w.g with region := some {
      entry := i.pc + 4, s := w.g.s, mode := w.g.mode, flags := w.g.flags, loops := w.g.loops
      mask := maskOf (slots.filter fun v => (thread w.g v).st != .done) } } } none := by
  have hany : slots.any (fun v => (thread w.g v).st != .done && !(isRun (thread w.g v) && (thread w.g v).pc == i.pc)) = false := by
    refine slots_any_eq_false.mpr fun v hv => ?_
    by_cases hd : (thread w.g v).st = .done
    · simp [hd]
    · obtain ⟨hrun, hpc⟩ := hat v hv hd
      simp [isRun, hrun, hpc]
  simp only [opIdemb, hr, hp, hany, Option.isSome_none, Bool.false_eq_true, or_self, if_false]

theorem thread_setV_st {g : Group} {t : Nat} {r : VReg} {x : Word} (ht : t < 32) (u : Nat) :
    (thread (setV g t r x) u).st = (thread g u).st := by
  refine (congrArg Thread.st (thread_setThread ht)).trans ?_
  split
  · rename_i hu; rw [hu]
  · rfl

/-- Settles O17: each row's lane leaves the group that its rule says, and the device as it was. -/
theorem groupWrites : Obligations.GroupWrites := by
  unfold Obligations.GroupWrites
  intro i c f hi op hop s g turn pc hr hc
  rw [exec_of_opOf hop]
  cases hi with
  | swrite o a r ha hd =>
    cases hop
    refine group_pass (tgt := none) hr rfl rfl rfl rfl (fun u => ?_) fun u => ?_
    · rw [hd]
      exact thread_setV_st (r := r) (x := getS g a) (Nat.mod_lt _ (by decide)) u
    · simp only [opSwrite, ha, hd]
      rfl
  | swrMode o h =>
    cases hop
    refine group_pass (tgt := none) hr rfl rfl rfl rfl (fun _ => rfl) fun u => ?_
    simp only [opSwr, h]
    rfl
  | swrFlags o h =>
    cases hop
    refine group_pass (tgt := none) hr rfl rfl rfl rfl (fun _ => rfl) fun u => ?_
    simp only [opSwr, h]
    rfl
  | cbind o r h =>
    cases hop
    refine group_pass (tgt := none) hr rfl rfl rfl rfl (fun _ => rfl) fun u => ?_
    simp only [opCbind, h]
    rfl
  | cunbind o =>
    cases hop
    exact group_pass (tgt := none) hr rfl rfl rfl rfl (fun _ => rfl) fun u => rfl
  | idemb o at_ =>
    cases hop
    obtain ⟨hpc, hregion, hpartner, hshadow, hat⟩ := hc
    refine group_pass (tgt := none) hr rfl rfl rfl rfl (fun _ => rfl) fun u => ?_
    rw [← hpc]
    exact idemb_lane hregion (paired_eq_false hpartner hshadow) hat
  | ideme o =>
    cases hop
    refine group_pass (tgt := none) hr rfl rfl rfl rfl (fun _ => rfl) fun u => ?_
    simp only [opIdeme, Option.isNone_eq_false_iff.mpr hc]
    rfl

/-! ## Calls and returns (R82, R172, R174) -/

theorem jumpOff_even {w : Work} {i : PassInfo} {x : Word} (h : x.getLsbD 0 = false) :
    jumpOff w i x = jumpTo w (codeAddr i.base x) := by
  simp only [jumpOff, h, Bool.false_eq_true, if_false]

/-- The pass of a uniform transfer that ends the turn. -/
theorem transfer_pass {dec : Nat → Option Op} {op : Op} {s : State} {g h : Group} {turn : Turn} {pc a : DWord}
    (hr : Runs op s g turn pc) (hu : op.uniform = true) (hy : op.yields = false) (he : op.ends = true) (hgid : h.gid = g.gid)
    (hpartner : h.partner = g.partner) (hst : ∀ u, (thread h u).st = (thread g u).st)
    (hl : ∀ u, op.lane s.mem (passInfo op s g turn pc) u { d := s.dev, g := g } = jumpTo { d := s.dev, g := h } a) :
    ∃ t g', runPass dec op s = .next t ∧ Once op s g turn pc h s.dev a (presentOf g turn pc) t g' ∧ g'.turn = none := by
  obtain ⟨t, g', hrun, hones⟩ := group_pass (dec := dec) (tgt := some a) hr hu hy hgid hpartner hst hl
  exact ⟨t, g', hrun, hones, hones.turnOver.mpr (.inl (by rw [he]; rfl))⟩

/-- Settles O19: CALL and CALLR link before they go, and a target in a scalar is read in the group before the pass. -/
theorem callsAndReturns : Obligations.CallsAndReturns := by
  unfold Obligations.CallsAndReturns
  refine ⟨fun o op hop s g turn pc hr => ?_, fun o op hop s g turn pc hr heven => ?_, fun o op hop s g turn pc hr heven => ?_⟩
  · rw [exec_of_opOf hop]
    cases hop
    exact transfer_pass hr rfl rfl rfl rfl rfl (fun _ => rfl) fun _ => rfl
  · rw [exec_of_opOf hop]
    cases hop
    exact transfer_pass hr rfl rfl rfl rfl rfl (fun _ => rfl) fun _ => jumpOff_even heven
  · rw [exec_of_opOf hop]
    cases hop
    exact transfer_pass hr rfl rfl rfl rfl rfl (fun _ => rfl) fun _ => jumpOff_even heven

end Sys2Proof.Machine
end

section
/-! PROOFS. ERET: the pass up to what it leaves due, and the return from the handler, which comes after it (R90, R402). -/

namespace Sys2Proof.Machine

/-! ## Masks and the threads to resume -/

theorem foldl_or_getLsbD (ts : List Nat) (m : Word) {u : Nat} (hu : u < 32) :
    (ts.foldl (fun m t => m ||| (1#32 <<< t)) m).getLsbD u = (m.getLsbD u || decide (u ∈ ts)) := by
  induction ts generalizing m with
  | nil => simp
  | cons t rest ih =>
    have hbit : (1#32 <<< t).getLsbD u = decide (u = t) := by
      simp only [BitVec.getLsbD_shiftLeft, BitVec.getLsbD_one, hu, decide_true, Bool.true_and, Nat.zero_lt_succ]
      by_cases h : u = t
      · simp [h]
      · simp only [h, decide_false, Bool.and_eq_false_iff, Bool.not_eq_false', decide_eq_true_eq, decide_eq_false_iff_not]
        omega
    rw [List.foldl_cons, ih, BitVec.getLsbD_or, hbit, Bool.or_assoc, ← Bool.decide_or]
    simp only [List.mem_cons]

theorem zero_getLsbD (u : Nat) : (0 : Word).getLsbD u = false := BitVec.getLsbD_zero

/-- A mask's bits are its slots. -/
theorem maskOf_getLsbD (ts : List Nat) {u : Nat} (hu : u < 32) : (maskOf ts).getLsbD u = decide (u ∈ ts) := by
  rw [maskOf, foldl_or_getLsbD ts 0 hu, zero_getLsbD, Bool.false_or]

/-- A thread that ERET runs again: a resume thread whose EPC still names the instruction of entry (R402). -/
def runsAgain (x : SavedThread) : Bool := x.resume && x.epc == x.epc0

theorem resumeMask_getLsbD (f : Frame) {u : Nat} (hu : u < 32) : (resumeMask f).getLsbD u = runsAgain f.threads[u] := by
  have hget : f.threads.toArray.getD u {} = f.threads[u] := by simp [Array.getD, hu]
  rw [resumeMask, maskOf_getLsbD _ hu]
  simp only [List.mem_filter, mem_slots, hu, true_and, hget, Bool.decide_eq_true]
  rfl

theorem resumeMask_eq_zero {f : Frame} (h : ∀ u (q : u < 32), runsAgain f.threads[u] = false) : resumeMask f = 0 := by
  refine BitVec.eq_of_getLsbD_eq fun u hu => ?_
  rw [resumeMask_getLsbD f hu, h u hu, zero_getLsbD]

theorem resumeMask_ne_zero {f : Frame} {u : Nat} (hu : u < 32) (h : runsAgain f.threads[u] = true) : resumeMask f ≠ 0 := by
  intro e
  have hbit := resumeMask_getLsbD f hu
  rw [e, h, zero_getLsbD] at hbit
  cases hbit

/-! ## What the return makes of the group -/

section
variable {base : DWord} {f : Frame} {g : Group}

theorem leaveHandler_thread {u : Nat} (hu : u < 32) : thread (leaveHandler base f g) u =
    { thread g u with st := f.threads[u].st, pc := codeAddr base f.threads[u].epc } := by
  simp [thread, leaveHandler, Array.getD, hu]

/-- The next turn is a new one where the frame is of kind 2 or 3, or no thread runs again. -/
theorem leaveHandler_next_none (h : 2 ≤ f.kind ∨ ∀ u (q : u < 32), runsAgain f.threads[u] = false) :
    (leaveHandler base f g).next = none := by
  simp only [leaveHandler]
  rw [if_neg]
  rintro ⟨hkind, hmask⟩
  rcases h with h | h
  · omega
  · exact hmask (resumeMask_eq_zero h)

/-- The pass of entry is issued again where a thread runs again and the frame is of kind 0 or 1. -/
theorem leaveHandler_next_some (hkind : f.kind ≤ 1) {u : Nat} (hu : u < 32) (h : runsAgain f.threads[u] = true) :
    (leaveHandler base f g).next = some
      { pos := f.pos, l0 := f.l0, l1 := f.l1, reissue := some { only := resumeMask f, pc := f.pc, kept := f.kept } } := by
  simp only [leaveHandler]
  rw [if_pos ⟨hkind, resumeMask_ne_zero hu h⟩]

/-- The return changes only what taking a trap writes, and what every pass may. -/
theorem SameRest.leaveHandler_trapFrame {F : Group} (h : SameRest g F) : Rules.TrapFrame g (leaveHandler base f F) := by
  have q := congrArg (fun x : Group => { x with
    threads := g.threads, c := g.c, sb := g.sb, rc := g.rc, turn := g.turn, next := g.next, frame := g.frame
    fmask := g.fmask, tcause := g.tcause, tframe := g.tframe, cond := g.cond, loops := g.loops, qwin := g.qwin }) h
  exact q

theorem leaveHandler_sameRegs {F : Group} {u : Nat} (hu : u < 32) (h : Rules.SameRegs (thread g u) (thread F u)) :
    Rules.SameRegs (thread g u) (thread (leaveHandler base f F) u) := by
  rw [leaveHandler_thread hu]
  exact h

end

/-! ## The device after a group is put back -/

theorem close_groups (w : Work) : w.close.groups = putGroup w.d.groups w.g := by
  simp only [Work.close]
  split <;> rfl

theorem close_log (w : Work) : w.close.log = w.d.log := by
  simp only [Work.close]
  split <;> rfl

theorem close_group? {w : Work} {x : Group} (h : w.d.group? w.g.gid = some x) : w.close.group? w.g.gid = some w.g := by
  rw [Device.group?, close_groups]
  exact findGroup_putGroup_self h

theorem onGroup_found {dv : Device} {id : Nat} {g : Group} (fn : Group → Group) (h : dv.group? id = some g) :
    dv.onGroup id fn = dv.setGroup (fn g) := by
  simp only [Device.onGroup, h]

/-! ## The pass -/

/-- A pass that no fault ends, outside the end of a loop body, with no FGET to wait for. -/
theorem takePass_eq_donePass {m : Memory} {dec : Nat → Option Op} {op : Op} {turn : Turn} {info : PassInfo}
    {present active : List Nat} {w : Work} {r : Run} (hrt : runThreads m dec op info present active w = r) (hf : r.fault = none)
    (hs : splitAt info r.post = none) (hin : isLoopEnd w.g info.pc op.size = false) :
    ∃ span at_, takePass m dec op turn info present active w =
      donePass m op turn info present active (present.filter fun t => !active.contains t) false w r span
        { r.w.d.spend w.g.core (max r.cyc 1) with steps := (r.w.d.spend w.g.core (max r.cyc 1)).steps + 1 }
        (pushPass r at_ (countPass op r info span r.w.g)) := by
  refine ⟨spanTicks (w.d.die (dieOf w.g.core)).mhz,
    info.tick + (max r.cyc 1 + Config.pipeDepth) * spanTicks (w.d.die (dieOf w.g.core)).mhz, ?_⟩
  simp only [takePass, hrt, hf, hs, hin, Bool.false_and]

section
variable {op : Op} {turn : Turn} {info : PassInfo} {present active quiet : List Nat} {w : Work} {r : Run} {span at_ : Nat}
  {d : Device}

/-- The group that a pass which does not count as YIELD puts back differs from the one its threads left in what every pass
may change. -/
theorem doneGroup_rest (hy : r.yields = false) : SameRest r.w.g
    (doneGroup op turn info present active quiet w r span d (pushPass r at_ (countPass op r info span r.w.g))) := by
  simp only [doneGroup, yieldPass, hy, Bool.false_eq_true, false_and, if_false]
  exact countPass_rest.trans (pushPass_rest.trans ((quietPass_rest _).trans ((loopPass_rest _).trans (setTurn_rest _))))

/-- Where the instruction is uniform, its threads are those that its run left. -/
theorem doneGroup_thread (hy : r.yields = false) (hu : op.uniform = true) (ha : active ≠ []) (u : Nat) :
    thread (doneGroup op turn info present active quiet w r span d (pushPass r at_ (countPass op r info span r.w.g))) u =
      thread r.w.g u := by
  simp only [doneGroup, yieldPass, hy, Bool.false_eq_true, false_and, if_false]
  refine (loopPass_thread _ u).trans ?_
  rw [quietPass, if_pos (.inr hu), if_pos ⟨hu, ha⟩, pushPass_thread, countPass_thread]

end

/-- What follows the pass of ERET: the return, of the group that the pass has put back. -/
theorem donePass_eret {m : Memory} {op : Op} {turn : Turn} {info : PassInfo} {present active quiet : List Nat} {w : Work}
    {r : Run} {span : Nat} {d : Device} {g F x : Group} {f : Frame} (hp : r.post = .eret) (hc : r.commits = false)
    (hF : doneGroup op turn info present active quiet w r span d g = F) (hf : F.frame = some f) (hx : d.group? F.gid = some x) :
    donePass m op turn info present active quiet false w r span d g =
      { (Work.close { d := d, g := F }).setGroup (leaveHandler info.base f F) with focus := none } := by
  have e : ∃ x, donePass m op turn info present active quiet false w r span d g =
      postPass m x info active r.post (doneGroup op turn info present active quiet w r span d g)
        (if r.commits then commitTask (doneGroup op turn info present active quiet w r span d g).gid
            (Work.close { d := d, g := doneGroup op turn info present active quiet w r span d g })
          else Work.close { d := d, g := doneGroup op turn info present active quiet w r span d g }) := ⟨_, rfl⟩
  obtain ⟨turn', e⟩ := e
  rw [e, hF, hp, hc]
  simp only [postPass, hf, Bool.false_eq_true, if_false, onGroup_found _ (close_group? (w := { d := d, g := F }) hx)]

/-- What ERET's one run for the group has come to: every present thread at the next instruction, and the return due. -/
def eretRun (dv : Device) (g : Group) (pc : DWord) (present active : List Nat) : Run :=
  { w := { d := dv, g := present.foldl (fun h u => onThread h u fun th => { th with pc := pc + 4 }) g }
    did := active, cyc := 1, ends := true, post := .eret }

theorem runThreads_eret {dec : Nat → Option Op} {o : FmtKA} {s : State} {g : Group} {turn : Turn} {pc : DWord}
    (hr : Runs (opEret o) s g turn pc) (hc : g.cond = .handler) :
    runThreads s.mem dec (opEret o) (passInfo (opEret o) s g turn pc) (presentOf g turn pc) (actives (opEret o) g turn pc)
      { d := s.dev, g := g } = eretRun s.dev g pc (presentOf g turn pc) (actives (opEret o) g turn pc) := by
  obtain ⟨u, rest, ha⟩ := List.exists_cons_of_ne_nil hr.some_
  have hf : operandFault (opEret o) (passInfo (opEret o) s g turn pc) u g = none :=
    hr.sound u (by rw [ha]; exact List.mem_cons_self ..) _
  have hl : (opEret o).lane s.mem (passInfo (opEret o) s g turn pc) u { d := s.dev, g := g } =
      { w := { d := s.dev, g := g }, post := .eret } := by
    simp only [opEret, opEretOf, hc, if_true]
  have hu : (opEret o).uniform = true := rfl
  simp only [runThreads, hu, if_true, ha, hf, hl]
  rfl

section
variable {dv : Device} {g : Group} {pc : DWord} {present active : List Nat}

theorem eretRun_rest : SameRest g (eretRun dv g pc present active).w.g := by
  obtain ⟨v, hv⟩ := foldl_setPc_group (pc + 4) present g
  exact SameRest.threads hv

theorem eretRun_sameRegs (hn : present.Nodup) (hb : ∀ t ∈ present, t < 32) (u : Nat) :
    Rules.SameRegs (thread g u) (thread (eretRun dv g pc present active).w.g u) := by
  have h : thread (eretRun dv g pc present active).w.g u =
      if u ∈ present then { thread g u with pc := pc + 4 } else thread g u :=
    thread_foldl_onThread (f := fun _ th => { th with pc := pc + 4 }) hn hb u
  rw [h]
  split <;> rfl

end

/-- The pass of ERET in HANDLER leaves the return from the handler, of a group that differs from the one before it in what every
pass may change alone. -/
theorem eret_pass {dec : Nat → Option Op} {o : FmtKA} {s : State} {g : Group} {turn : Turn} {pc : DWord} {f : Frame}
    (hr : Runs (opEret o) s g turn pc) (hc : g.cond = .handler) (hf : g.frame = some f) :
    ∃ D F, runPass dec (opEret o) s = .next { mem := s.mem, dev := D } ∧
      D.group? g.gid = some (leaveHandler (codeBaseOf s.dev g) f F) ∧ SameRest g F ∧
      ∀ u, Rules.SameRegs (thread g u) (thread F u) := by
  obtain ⟨span, at_, htake⟩ := takePass_eq_donePass (turn := turn) (runThreads_eret (dec := dec) hr hc) rfl rfl hr.inside
  generalize hrun : eretRun s.dev g pc (presentOf g turn pc) (actives (opEret o) g turn pc) = r at htake
  generalize hdev : ({ r.w.d.spend g.core (max r.cyc 1) with steps := (r.w.d.spend g.core (max r.cyc 1)).steps + 1 } : Device) = d
    at htake
  obtain ⟨F, hF, hrest, hthread⟩ : ∃ F, doneGroup (opEret o) turn (passInfo (opEret o) s g turn pc) (presentOf g turn pc)
      (actives (opEret o) g turn pc) ((presentOf g turn pc).filter fun t => !(actives (opEret o) g turn pc).contains t)
      { d := s.dev, g := g } r span d (pushPass r at_ (countPass (opEret o) r (passInfo (opEret o) s g turn pc) span r.w.g)) = F ∧
      SameRest g F ∧ ∀ u, thread F u = thread r.w.g u := by
    subst hrun
    exact ⟨_, rfl, eretRun_rest.trans (doneGroup_rest rfl), doneGroup_thread rfl rfl hr.some_⟩
  have hgid : F.gid = g.gid := (have q := congrArg Group.gid hrest; q)
  have hframe : F.frame = some f := (have q := congrArg Group.frame hrest; q).trans hf
  have hfound : d.group? F.gid = some g := by
    rw [hgid, ← hdev, ← hrun]
    exact hr.here
  have hlog : d.log = [] := by
    rw [← hdev, ← hrun]
    exact hr.log
  rw [donePass_eret (by rw [← hrun]; rfl) (by rw [← hrun]; rfl) hF hframe hfound] at htake
  refine ⟨{ (Work.close { d := d, g := F }).setGroup (leaveHandler (codeBaseOf s.dev g) f F) with focus := none }, F, ?_, ?_, hrest,
    fun u => ?_⟩
  · rw [runPass_runs hr, htake]
    exact congrArg Host.Outcome.next (commit_quiet ((close_log { d := d, g := F }).trans hlog))
  · rw [← hgid]
    exact group?_setGroup_self (g := leaveHandler (codeBaseOf s.dev g) f F) (close_group? (w := { d := d, g := F }) hfound)
  · rw [hthread, ← hrun]
    exact eretRun_sameRegs (presentOf_nodup g turn pc) (fun t ht => (mem_presentOf.mp ht).1) u

/-- Settles O42: the group after the step is what the return makes of the one that the pass has put back. -/
theorem trapReturn : Obligations.TrapReturn := by
  unfold Obligations.TrapReturn
  intro o op hop s g turn pc hr hc f hf
  rw [exec_of_opOf hop]
  cases hop
  obtain ⟨D, F, hrun, hgroup, hrest, hregs⟩ := eret_pass (dec := decodeOp) hr hc hf
  refine ⟨_, _, hrun, hgroup, hrest.leaveHandler_trapFrame, rfl, rfl, rfl, rfl, rfl, rfl, rfl, fun u hu => ?_,
    ⟨leaveHandler_next_none, ?_⟩, rfl⟩
  · have hth := leaveHandler_thread (base := codeBaseOf s.dev g) (f := f) (g := F) hu
    exact ⟨congrArg Thread.st hth, congrArg Thread.pc hth, leaveHandler_sameRegs hu (hregs u)⟩
  · rintro hkind ⟨u, hu, hagain⟩
    exact ⟨_, _, leaveHandler_next_some hkind hu hagain, rfl, rfl, rfl, rfl, rfl, rfl, fun v hv => resumeMask_getLsbD f hv⟩

end Sys2Proof.Machine
end

section
/-! PROOFS. The encoder and the decoder: every instruction is read back, and the words written out from the tables. -/

namespace Sys2Proof.Laws

/-- An instruction that the encoder writes no word for makes no claim. -/
theorem encoded_of_encode_none {i : Instr} (h : encode i = none) : Encoded.Statement i := by
  intro _ n w he
  rw [h] at he
  cases he

/-- The lemma of each row that has an encoding; an event has none. -/
theorem encoded (i : Instr) : Encoded.Statement i := by
  cases i with
  | add16 o => exact Encoded.add16 o | sub16 o => exact Encoded.sub16 o | and16 o => exact Encoded.and16 o
  | or16 o => exact Encoded.or16 o | xor16 o => exact Encoded.xor16 o | shl16 o => exact Encoded.shl16 o
  | shr16 o => exact Encoded.shr16 o | min16 o => exact Encoded.min16 o | max16 o => exact Encoded.max16 o
  | mov16 o => exact Encoded.mov16 o | fadd16 o => exact Encoded.fadd16 o | fmul16 o => exact Encoded.fmul16 o
  | fmac16 o => exact Encoded.fmac16 o | padd2s16 o => exact Encoded.padd2s16 o | pfma2s16 o => exact Encoded.pfma2s16 o
  | fmax16 o => exact Encoded.fmax16 o | add o => exact Encoded.add o | sub o => exact Encoded.sub o
  | mullo o => exact Encoded.mullo o | mulhi o => exact Encoded.mulhi o | mulhiu o => exact Encoded.mulhiu o
  | mad o => exact Encoded.mad o | absdiff o => exact Encoded.absdiff o | avg o => exact Encoded.avg o
  | min o => exact Encoded.min o | max o => exact Encoded.max o | minu o => exact Encoded.minu o
  | maxu o => exact Encoded.maxu o | and o => exact Encoded.and o | or o => exact Encoded.or o
  | xor o => exact Encoded.xor o | andn o => exact Encoded.andn o | shl o => exact Encoded.shl o
  | shr o => exact Encoded.shr o | sar o => exact Encoded.sar o | rotl o => exact Encoded.rotl o
  | bfx o => exact Encoded.bfx o | bfi o => exact Encoded.bfi o | lea2 o => exact Encoded.lea2 o
  | lea3 o => exact Encoded.lea3 o | selp o => exact Encoded.selp o | add64 o => exact Encoded.add64 o
  | sub64 o => exact Encoded.sub64 o | shl64 o => exact Encoded.shl64 o | shr64 o => exact Encoded.shr64 o
  | icmp o => exact Encoded.icmp o | fcmp o => exact Encoded.fcmp o | addi o => exact Encoded.addi o
  | andi o => exact Encoded.andi o | ori o => exact Encoded.ori o | xori o => exact Encoded.xori o
  | shifti o => exact Encoded.shifti o | muli o => exact Encoded.muli o | saddi o => exact Encoded.saddi o
  | lui o => exact Encoded.lui o | llo o => exact Encoded.llo o | adr o => exact Encoded.adr o
  | slui o => exact Encoded.slui o | sllo o => exact Encoded.sllo o | mov o => exact Encoded.mov o
  | not o => exact Encoded.not o | neg o => exact Encoded.neg o | abs o => exact Encoded.abs o
  | clz o => exact Encoded.clz o | ctz o => exact Encoded.ctz o | popc o => exact Encoded.popc o
  | brev o => exact Encoded.brev o | bswap o => exact Encoded.bswap o | sext8 o => exact Encoded.sext8 o
  | sext16 o => exact Encoded.sext16 o | mov64 o => exact Encoded.mov64 o | movx o => exact Encoded.movx o
  | movxw o => exact Encoded.movxw o | iset o => exact Encoded.iset o | iget o => exact Encoded.iget o
  | scan o => exact Encoded.scan o | delay o => exact Encoded.delay o | perm o => exact Encoded.perm o
  | bfirst o => exact Encoded.bfirst o | blast o => exact Encoded.blast o | rank o => exact Encoded.rank o
  | matchLanes o => exact Encoded.matchLanes o | reduce o => exact Encoded.reduce o | vote o => exact Encoded.vote o
  | pand o => exact Encoded.pand o | por o => exact Encoded.por o | pxor o => exact Encoded.pxor o
  | ptest o => exact Encoded.ptest o | pbit o => exact Encoded.pbit o | pget o => exact Encoded.pget o
  | sadd o => exact Encoded.sadd o | ssub o => exact Encoded.ssub o | smul o => exact Encoded.smul o
  | sand o => exact Encoded.sand o | sor o => exact Encoded.sor o | sxor o => exact Encoded.sxor o
  | sshl o => exact Encoded.sshl o | sshr o => exact Encoded.sshr o | smov o => exact Encoded.smov o
  | sfromv o => exact Encoded.sfromv o | sld o => exact Encoded.sld o | sldd o => exact Encoded.sldd o
  | sread o => exact Encoded.sread o | swrite o => exact Encoded.swrite o | spopc o => exact Encoded.spopc o
  | sctz o => exact Encoded.sctz o | sclz o => exact Encoded.sclz o | braAlways o => exact Encoded.braAlways o
  | braThr o => exact Encoded.braThr o | braThrNot o => exact Encoded.braThrNot o | braAny o => exact Encoded.braAny o
  | braAll o => exact Encoded.braAll o | braNone o => exact Encoded.braNone o | brt o => exact Encoded.brt o
  | loop o => exact Encoded.loop o | call o => exact Encoded.call o | nop o => exact Encoded.nop o
  | jmp o => exact Encoded.jmp o | callr o => exact Encoded.callr o | ret o => exact Encoded.ret o
  | brkloop o => exact Encoded.brkloop o | endturn o => exact Encoded.endturn o | yield o => exact Encoded.yield o
  | fadd o => exact Encoded.fadd o | fsub o => exact Encoded.fsub o | fmul o => exact Encoded.fmul o
  | ffma o => exact Encoded.ffma o | fmin o => exact Encoded.fmin o | fmax o => exact Encoded.fmax o
  | ffmal o => exact Encoded.ffmal o | fnma o => exact Encoded.fnma o | padd2 o => exact Encoded.padd2 o
  | pmul2 o => exact Encoded.pmul2 o | pfma2 o => exact Encoded.pfma2 o | pmax2 o => exact Encoded.pmax2 o
  | dadd o => exact Encoded.dadd o | dsub o => exact Encoded.dsub o | dmul o => exact Encoded.dmul o
  | dfma o => exact Encoded.dfma o | dmin o => exact Encoded.dmin o | dmax o => exact Encoded.dmax o
  | fneg o => exact Encoded.fneg o | fabs o => exact Encoded.fabs o | fsqrt o => exact Encoded.fsqrt o
  | frcp o => exact Encoded.frcp o | frsq o => exact Encoded.frsq o | fexp2 o => exact Encoded.fexp2 o
  | flog2 o => exact Encoded.flog2 o | fsinpi o => exact Encoded.fsinpi o | fcospi o => exact Encoded.fcospi o
  | frint o => exact Encoded.frint o | fclass o => exact Encoded.fclass o | dneg o => exact Encoded.dneg o
  | dabs o => exact Encoded.dabs o | dsqrt o => exact Encoded.dsqrt o | drcp o => exact Encoded.drcp o
  | drint o => exact Encoded.drint o | dclass o => exact Encoded.dclass o | pneg2 o => exact Encoded.pneg2 o
  | pabs2 o => exact Encoded.pabs2 o | cvtF32I32 o => exact Encoded.cvtF32I32 o | cvtF32N32 o => exact Encoded.cvtF32N32 o
  | cvtI32F32 o => exact Encoded.cvtI32F32 o | cvtN32F32 o => exact Encoded.cvtN32F32 o
  | cvtF64F32 o => exact Encoded.cvtF64F32 o | cvtF32F64 o => exact Encoded.cvtF32F64 o
  | cvtF64I32 o => exact Encoded.cvtF64I32 o | cvtI32F64 o => exact Encoded.cvtI32F64 o
  | cvtF32F16 o => exact Encoded.cvtF32F16 o | cvtF16x2F32x2 o => exact Encoded.cvtF16x2F32x2 o
  | cvtBf16x2F32x2 o => exact Encoded.cvtBf16x2F32x2 o | cvtBf16x4E8x4 o => exact Encoded.cvtBf16x4E8x4 o
  | cvtE4m3x4Bf16x4 o => exact Encoded.cvtE4m3x4Bf16x4 o | cvtE5m2x4Bf16x4 o => exact Encoded.cvtE5m2x4Bf16x4 o
  | cvtBf16x2B4 o => exact Encoded.cvtBf16x2B4 o | cvtB4F32 o => exact Encoded.cvtB4F32 o | ldw o => exact Encoded.ldw o
  | ldd o => exact Encoded.ldd o | ldq o => exact Encoded.ldq o | ldsub o => exact Encoded.ldsub o
  | stw o => exact Encoded.stw o | std o => exact Encoded.std o | stq o => exact Encoded.stq o
  | stsub o => exact Encoded.stsub o | atom32AddI32 o => exact Encoded.atom32AddI32 o
  | atom32AddF32 o => exact Encoded.atom32AddF32 o | atom32MinI32 o => exact Encoded.atom32MinI32 o
  | atom32MinN32 o => exact Encoded.atom32MinN32 o | atom32MinF32 o => exact Encoded.atom32MinF32 o
  | atom32MaxI32 o => exact Encoded.atom32MaxI32 o | atom32MaxN32 o => exact Encoded.atom32MaxN32 o
  | atom32MaxF32 o => exact Encoded.atom32MaxF32 o | atom32AndB32 o => exact Encoded.atom32AndB32 o
  | atom32OrB32 o => exact Encoded.atom32OrB32 o | atom32XorB32 o => exact Encoded.atom32XorB32 o
  | atom32ExchB32 o => exact Encoded.atom32ExchB32 o | atom32CasB32 o => exact Encoded.atom32CasB32 o
  | atom64AddI64 o => exact Encoded.atom64AddI64 o | atom64AddF64 o => exact Encoded.atom64AddF64 o
  | atom64MinI64 o => exact Encoded.atom64MinI64 o | atom64MinN64 o => exact Encoded.atom64MinN64 o
  | atom64MinF64 o => exact Encoded.atom64MinF64 o | atom64MaxI64 o => exact Encoded.atom64MaxI64 o
  | atom64MaxN64 o => exact Encoded.atom64MaxN64 o | atom64MaxF64 o => exact Encoded.atom64MaxF64 o
  | atom64AndB64 o => exact Encoded.atom64AndB64 o | atom64OrB64 o => exact Encoded.atom64OrB64 o
  | atom64XorB64 o => exact Encoded.atom64XorB64 o | atom64ExchB64 o => exact Encoded.atom64ExchB64 o
  | atom64CasB64 o => exact Encoded.atom64CasB64 o | atomxAddBf16 o => exact Encoded.atomxAddBf16 o
  | atomxMinBf16 o => exact Encoded.atomxMinBf16 o | atomxMaxBf16 o => exact Encoded.atomxMaxBf16 o
  | atomxAddBf16x2 o => exact Encoded.atomxAddBf16x2 o | atomxMinBf16x2 o => exact Encoded.atomxMinBf16x2 o
  | atomxMaxBf16x2 o => exact Encoded.atomxMaxBf16x2 o | atomxAddF16x2 o => exact Encoded.atomxAddF16x2 o
  | atomxMinF16x2 o => exact Encoded.atomxMinF16x2 o | atomxMaxF16x2 o => exact Encoded.atomxMaxF16x2 o
  | atomxExchB128 o => exact Encoded.atomxExchB128 o | atomxCasB128 o => exact Encoded.atomxCasB128 o
  | pin o => exact Encoded.pin o | unpin o => exact Encoded.unpin o | cflush o => exact Encoded.cflush o
  | cinv o => exact Encoded.cinv o | mcrd o => exact Encoded.mcrd o | mcst o => exact Encoded.mcst o
  | msend o => exact Encoded.msend o | mwait o => exact Encoded.mwait o | barArrive o => exact Encoded.barArrive o
  | barWait o => exact Encoded.barWait o | boset o => exact Encoded.boset o | boadd o => exact Encoded.boadd o
  | bowait o => exact Encoded.bowait o | fence o => exact Encoded.fence o | qtake o => exact Encoded.qtake o
  | qpost o => exact Encoded.qpost o | taskend o => exact Encoded.taskend o | finit o => exact Encoded.finit o
  | finitFull o => exact Encoded.finitFull o | fget o => exact Encoded.fget o | ffill o => exact Encoded.ffill o
  | cpy o => exact Encoded.cpy o | cpyx o => exact Encoded.cpyx o | coll o => exact Encoded.coll o
  | estat o => exact Encoded.estat o | mma o => exact Encoded.mma o | mmaRa o => exact Encoded.mmaRa o
  | mmaRb o => exact Encoded.mmaRb o | dzero o => exact Encoded.dzero o | dzeroFree o => exact Encoded.dzeroFree o
  | drdrow o => exact Encoded.drdrow o | drdcol o => exact Encoded.drdcol o | dwrrow o => exact Encoded.dwrrow o
  | drestart o => exact Encoded.drestart o | twait o => exact Encoded.twait o | twaitany o => exact Encoded.twaitany o
  | tmin o => exact Encoded.tmin o | tmov o => exact Encoded.tmov o | tstat o => exact Encoded.tstat o
  | tset o => exact Encoded.tset o | tsetClr o => exact Encoded.tsetClr o | tnow o => exact Encoded.tnow o
  | tdiff o => exact Encoded.tdiff o | yieldt o => exact Encoded.yieldt o | trap o => exact Encoded.trap o
  | bkpt o => exact Encoded.bkpt o | eret o => exact Encoded.eret o | eretFail o => exact Encoded.eretFail o
  | srd o => exact Encoded.srd o | srdV o => exact Encoded.srdV o | swr o => exact Encoded.swr o
  | swrV o => exact Encoded.swrV o | idemb o => exact Encoded.idemb o | ideme o => exact Encoded.ideme o
  | cbind o => exact Encoded.cbind o | cunbind o => exact Encoded.cunbind o
  | _ => exact encoded_of_encode_none rfl

/-- Settles O47, by the lemma of the instruction's row. -/
theorem roundTrip : Obligations.RoundTrip := by
  unfold Obligations.RoundTrip
  exact fun i n w rest hf he => encoded i hf n w he rest

/-- Settles O45: each word evaluates through its row. -/
theorem decodedWords : Obligations.DecodedWords := by
  unfold Obligations.DecodedWords
  exact ⟨rfl, ⟨_, rfl, rfl, rfl, rfl⟩, ⟨_, rfl, rfl, rfl, rfl, rfl⟩, ⟨_, rfl, rfl⟩, ⟨_, rfl, rfl⟩, rfl⟩

end Sys2Proof.Laws
end

section
/-! PROOFS. The 16-bit forms: what an instruction's lane writes to D, and that the lane of each 16-bit form is that of its
equivalent (R106). -/

namespace Sys2Proof.Machine

/-! ## Lanes that write one result to D -/

/-- In every thread the instruction writes the result that `f` gives to `d`, raises its flags, and does nothing else. -/
structure WritesResult (op : Op) (d : Dst) (f : PassInfo → Nat → Value × Flags) : Prop where
  uniform : op.uniform = false
  commits : op.commits = false
  fin : ∀ i w, op.fin i w = w
  untimed : ∀ i k t, f { i with tick := k } t = f i t
  lane : ∀ m i t w, op.lane m i t w =
    { w := { w with g := putDst { w.g with flags := w.g.flags ||| (f i t).2 } t d (f i t).1.words }, res := some (f i t).1.whole }

/-- The pass of such an instruction. -/
theorem WritesResult.pass {dec : Nat → Option Op} {op : Op} {d : Dst} {f : PassInfo → Nat → Value × Flags}
    (h : WritesResult op d f) {s : State} {g : Group} {turn : Turn} {pc : DWord} (hr : Runs op s g turn pc) :
    ∃ t g', runPass dec op s = .next t ∧ Lanes op s g turn pc
      { upd := fun u => writeDst d (f (passInfo op s g turn pc) u).1.words
        fl := fun u => (f (passInfo op s g turn pc) u).2
        push := fun u => pushDst d (f (passInfo op s g turn pc) u).1.words
        res := fun u => some (f (passInfo op s g turn pc) u).1.whole } t g' := by
  refine dst_pass hr h.uniform h.commits h.fin fun t _ k w _ => ?_
  rw [h.lane, h.untimed]

/-- The encoded size of an instruction is no part of what it writes. -/
theorem WritesResult.withSize {op : Op} {d : Dst} {f : PassInfo → Nat → Value × Flags} (h : WritesResult op d f) (n : Nat) :
    WritesResult { op with size := n } d f := ⟨h.uniform, h.commits, h.fin, h.untimed, h.lane⟩

/-- An integer result raises no flags. -/
theorem put32_eq (t : Nat) (w : Work) (d : Dst) (x : Word) : put32 t w d x =
    { w := { w with g := putDst { w.g with flags := w.g.flags ||| 0 } t d [x] }, res := some (x.zeroExtend 64) } := by
  rw [orFlags_zero]
  rfl

/-- Format A on 32-bit integers. -/
theorem opA32_writesResult (o : FmtA) {f : Word → Word → Word} {v : PassInfo → Nat → Word}
    (h : ∀ i t, v i t = f (Rules.a32 o i t) (Rules.b32 o i t)) (ht : ∀ i k t, v { i with tick := k } t = v i t) :
    WritesResult (opA32 o f) o.d fun i t => (.one (v i t), 0) where
  uniform := rfl
  commits := rfl
  fin _ _ := rfl
  untimed i k t := by rw [ht]
  lane _ i t w := by
    rw [h]
    exact put32_eq t w o.d _

/-- MOV. -/
theorem opMov_writesResult (o : FmtN) : WritesResult (opMov o) o.d fun i t => (.one (src32 i.rd t o.a), 0) :=
  ⟨rfl, rfl, fun _ _ => rfl, fun _ _ _ => rfl, fun _ i t w => put32_eq t w o.d (src32 i.rd t o.a)⟩

/-- Format A on binary32. -/
theorem opF32_writesResult (o : FmtA) (f : Rnd → Nat → Nat → Nat × Flags) : WritesResult (opF32 o f) o.d fun i t =>
    Rules.w32 (f (modeRnd i.rd.g) (fpSrc32 f32 1 i.rd t o.a) (fpSrc32 f32 1 i.rd t o.b)) :=
  ⟨rfl, rfl, fun _ _ => rfl, fun _ _ _ => rfl, fun _ _ _ _ => rfl⟩

/-- FFMA and FNMA: D is the addend. -/
theorem opF32Acc_writesResult (o : FmtA) (sub : Bool) : WritesResult (opF32Acc o sub) o.d fun i t =>
    Rules.w32 (fpFma f32 (modeRnd i.rd.g) sub (fpSrc32 f32 1 i.rd t o.a) (fpSrc32 f32 1 i.rd t o.b) (acc32 i.rd t o.d).toNat) :=
  ⟨rfl, rfl, fun _ _ => rfl, fun _ _ _ => rfl, fun _ _ _ _ => rfl⟩

/-- Format A on two BF16 elements. -/
theorem opP2_writesResult (o : FmtA) (f : Rnd → Nat → Nat → Nat × Flags) : WritesResult (opP2 o f) o.d fun i t =>
    Rules.w32 (packElems bf16 (fun k => f (modeRnd i.rd.g) (elem bf16 (fpSrc32 bf16 2 i.rd t o.a) k)
      (elem bf16 (fpSrc32 bf16 2 i.rd t o.b) k)) 2) :=
  ⟨rfl, rfl, fun _ _ => rfl, fun _ _ _ => rfl, fun _ _ _ _ => rfl⟩

/-- PFMA2: D's elements are the addends. -/
theorem opPfma2_writesResult (o : FmtA) : WritesResult (opPfma2 o) o.d fun i t =>
    Rules.w32 (packElems bf16 (fun k => flushed (fpFma bf16 (modeRnd i.rd.g) false) (elem bf16 (fpSrc32 bf16 2 i.rd t o.a) k)
      (elem bf16 (fpSrc32 bf16 2 i.rd t o.b) k) (elem bf16 (acc32 i.rd t o.d).toNat k)) 2) :=
  ⟨rfl, rfl, fun _ _ => rfl, fun _ _ _ => rfl, fun _ _ _ _ => rfl⟩

/-! ## Integer results from the machine's operations -/

theorem ofInt_toInt_add (a b : Word) : .ofInt 32 (a.toInt + b.toInt) = a + b := by
  rw [BitVec.ofInt_add, BitVec.ofInt_toInt, BitVec.ofInt_toInt]

theorem ofInt_toInt_sub (a b : Word) : .ofInt 32 (a.toInt - b.toInt) = a - b := by
  rw [Int.sub_eq_add_neg, BitVec.ofInt_add, BitVec.ofInt_neg, BitVec.ofInt_toInt, BitVec.ofInt_toInt, BitVec.sub_eq_add_neg]

theorem shl_eq (a b : Word) : (if b.toNat < 32 then .ofNat 32 (a.toNat * 2 ^ b.toNat) else 0) = shl a b := by
  rw [shl]
  split
  · refine BitVec.eq_of_toNat_eq ?_
    rw [BitVec.toNat_ofNat, BitVec.toNat_shiftLeft, Nat.shiftLeft_eq]
  · rfl

theorem shr_eq (a b : Word) : (if b.toNat < 32 then .ofNat 32 (a.toNat / 2 ^ b.toNat) else 0) = shr a b := by
  rw [shr]
  split
  · refine BitVec.eq_of_toNat_eq ?_
    rw [BitVec.toNat_ofNat, BitVec.toNat_ushiftRight, Nat.shiftRight_eq_div_pow]
    exact Nat.mod_eq_of_lt (Nat.lt_of_le_of_lt (Nat.div_le_self _ _) a.isLt)
  · rfl

theorem minS_eq (a b : Word) : .ofInt 32 (min a.toInt b.toInt) = minS a b := by
  rw [minS]
  split <;> rename_i h
  · rw [Int.min_eq_right (Int.le_of_lt h), BitVec.ofInt_toInt]
  · rw [Int.min_eq_left (Int.not_lt.mp h), BitVec.ofInt_toInt]

theorem maxS_eq (a b : Word) : .ofInt 32 (max a.toInt b.toInt) = maxS a b := by
  rw [maxS]
  split <;> rename_i h
  · rw [Int.max_eq_right (Int.le_of_lt h), BitVec.ofInt_toInt]
  · rw [Int.max_eq_left (Int.not_lt.mp h), BitVec.ofInt_toInt]

/-! ## Each form and its equivalent -/

/-- Each 16-bit form is its equivalent but for the size, and the one row of its equivalent, in one of the three tables, gives
what its lane writes. -/
theorem wide_writesResult {i j : Instr} {d : Dst} {f : PassInfo → Nat → Value × Flags} (hw : Rules.Wide i j)
    (hj : Rules.Result j d f) {op : Op} (hop : opOf i = some op) : op.size = 2 ∧ WritesResult op d f := by
  cases hw <;> cases hop <;> refine ⟨rfl, .withSize ?_ 2⟩
  all_goals
    obtain ⟨v, hv, rfl⟩ | ⟨v, hv, rfl⟩ | hv := hj
    all_goals cases hv
  case add => exact opA32_writesResult _ (fun _ _ => ofInt_toInt_add ..) fun _ _ _ => rfl
  case sub => exact opA32_writesResult _ (fun _ _ => ofInt_toInt_sub ..) fun _ _ _ => rfl
  case and | or | xor => exact opA32_writesResult _ (fun _ _ => rfl) fun _ _ _ => rfl
  case shl => exact opA32_writesResult _ (fun _ _ => shl_eq ..) fun _ _ _ => rfl
  case shr => exact opA32_writesResult _ (fun _ _ => shr_eq ..) fun _ _ _ => rfl
  case min => exact opA32_writesResult _ (fun _ _ => minS_eq ..) fun _ _ _ => rfl
  case max => exact opA32_writesResult _ (fun _ _ => maxS_eq ..) fun _ _ _ => rfl
  case mov => exact opMov_writesResult _
  case fadd | fmul | fmax => exact opF32_writesResult _ _
  case ffma => exact opF32Acc_writesResult _ false
  case padd2 => exact opP2_writesResult _ _
  case pfma2 => exact opPfma2_writesResult _

/-- Settles O5: the pass of a lane that writes what the equivalent's row gives. -/
theorem sixteenBitForms : Obligations.SixteenBitForms := by
  unfold Obligations.SixteenBitForms
  intro i j d f hw hj op hop
  obtain ⟨hsize, hwrites⟩ := wide_writesResult hw hj hop
  refine ⟨hsize, fun s g turn pc hr => ?_⟩
  rw [exec_of_opOf hop]
  exact hwrites.pass hr

end Sys2Proof.Machine
end

section
/-! PROOFS. Faults of fetch and of decode (R122, R369, R370, R392): a trace record leaves the groups alone, what handler entry
makes of a group, and the steps that come to it. -/

namespace Sys2Proof.Machine

/-! ## Writes of the device leave the groups -/

/-- Folding a change that leaves the groups leaves them. -/
theorem foldl_groups {α : Type} {f : Device → α → Device} (h : ∀ d a, (f d a).groups = d.groups) (l : List α) (d : Device) :
    (l.foldl f d).groups = d.groups := by
  induction l generalizing d with
  | nil => rfl
  | cons a rest ih => exact (ih (f d a)).trans (h d a)

theorem bumpVersion_groups (d : Device) (key : Nat) : (bumpVersion d key).groups = d.groups := by
  unfold bumpVersion
  dsimp only
  split <;> rfl

theorem pokeCells_groups (d : Device) (cells : List Host.Cell) : (pokeCells d cells).groups = d.groups := by
  induction cells generalizing d with
  | nil => rfl
  | cons c rest ih => exact ih { d with log := c :: d.log }

theorem sealSector_groups (dom : Nat) (cells : List Host.Cell) (d : Device) (sector : Nat) :
    (sealSector dom cells d sector).groups = d.groups := by
  unfold sealSector
  dsimp only
  split <;> rfl

theorem useWay_groups {w : Way} {d e : Device} (h : useWay w d = some e) : e.groups = d.groups := by
  unfold useWay at h
  dsimp only at h
  split at h
  · cases h; rfl
  · split at h
    · cases h; rfl
    · split at h
      · cases h
      · cases h; rfl

theorem touchLine_groups (d : Device) (line : Nat) : (touchLine d line).groups = d.groups := by
  unfold touchLine
  dsimp only
  cases h : useWay _ d with
  | none => rfl
  | some e => exact useWay_groups h

theorem noteSeen_groups (core line : Nat) (d : Device) : (noteSeen core line d).groups = d.groups := by
  unfold noteSeen noteVersion
  dsimp only
  split <;> rfl

theorem recordWrite_groups (w : PWrite) (stamp : Clock) (d : Device) (sector : Nat) :
    (recordWrite w stamp d sector).2.groups = d.groups := by
  unfold recordWrite
  dsimp only
  split
  · split <;> rfl
  · rfl

theorem homeStore_groups (dom : Nat) (cells : List Host.Cell) (d : Device) : (homeStore dom cells d).groups = d.groups :=
  (foldl_groups (fun d l => (touchLine_groups (bumpVersion d (l * 128)) l).trans (bumpVersion_groups ..)) _ _).trans
    ((foldl_groups (sealSector_groups dom _) _ _).trans (pokeCells_groups d cells))

theorem foldl_recordWrite_groups (w : PWrite) (stamp : Clock) (sectors : List Nat) (a : List Host.Cell × Device) :
    (sectors.foldl (fun acc s => (acc.1 ++ (recordWrite w stamp acc.2 s).1, (recordWrite w stamp acc.2 s).2)) a).2.groups =
      a.2.groups := by
  induction sectors generalizing a with
  | nil => rfl
  | cons s rest ih => exact (ih _).trans (recordWrite_groups w stamp a.2 s)

theorem applyPlain_groups (w : PWrite) (d : Device) : (applyPlain w d).groups = d.groups :=
  (foldl_groups (fun d l => noteSeen_groups w.core l d) _ _).trans
    ((foldl_groups (fun d l => bumpVersion_groups d (l * 128)) _ _).trans
      ((homeStore_groups ..).trans (foldl_recordWrite_groups w _ _ (_, d))))

theorem traceStore_groups (key dom : Nat) (bs : List Byte) (d : Device) : (traceStore key dom bs d).groups = d.groups :=
  applyPlain_groups _ d

theorem traceWrite_groups (die : Nat) (bs : List Byte) (d : Device) : (traceWrite die bs d).groups = d.groups := by
  unfold traceWrite
  dsimp only
  split
  · rfl
  · split
    · rfl
    · split <;> simp only [Device.send_groups, Device.setDie_groups, traceStore_groups]

theorem traceFlush_groups (die : Nat) (d : Device) : (traceFlush die d).groups = d.groups :=
  foldl_groups (fun d bs => traceWrite_groups die bs d) _ _

theorem traceGroup_groups (d : Device) (g : Group) (kind data0 slot : Nat) (pc : Word) (aux : DWord) :
    (traceGroup d g kind data0 slot pc aux).groups = d.groups := by
  unfold traceGroup trace
  dsimp only
  split
  · rfl
  · split
    · exact traceFlush_groups _ _
    · rfl

/-- A trace unit that is off records nothing. -/
theorem traceGroup_off {d : Device} {g : Group} (h : (d.die (dieOf g.core)).trace.on = false) (kind data0 slot : Nat) (pc : Word)
    (aux : DWord) : traceGroup d g kind data0 slot pc aux = d := by
  unfold traceGroup trace
  dsimp only
  rw [if_pos (.inl (by rw [h]; decide))]

theorem spend_trace (d : Device) (core n : Nat) : ((d.spend core n).die (dieOf core)).trace = (d.die (dieOf core)).trace := by
  simp [Device.spend, Device.setDie, Device.die, dieOf_lt]

/-! ## Handler entry (R369, R370) -/

theorem endTurn_thread (g : Group) (u : Nat) : thread (endTurn g) u = thread g u := rfl

theorem enterHandler_thread {base : DWord} {h : Word} {t : TrapInfo} {g : Group} {u : Nat} (hu : u < 32) :
    thread (enterHandler base h t g) u =
      if (thread g u).st = .done then thread g u else { thread g u with st := .run, pc := codeAddr base h } := by
  simp [thread, enterHandler, Array.getD, hu]

section
variable {m : Memory} {d : Device} {g : Group} {t : TrapInfo} {c : Ctx} {h : Word} (hg : d.group? g.gid = some g)
  (hctx : d.ctx? g.ctx = some c) (hh : c.handler = some h) (hc : g.cond ≠ .handler) (hf : t.fails = false)
include hg hctx hh hc hf

/-- A trap outside HANDLER, in a context that names a handler, enters it. -/
theorem raiseTrap_eq :
    raiseTrap m g.gid t d = traceGroup (d.setGroup (enterHandler c.codeBase h t g)) g 3 (causeCode t.cause) t.slot
      (codeOff c.codeBase t.own) 0 := by
  simp only [raiseTrap, hg, hctx, Option.map_some, Option.getD_some, Option.bind_some, hh, hc, hf, Bool.false_eq_true, or_self,
    if_false]

theorem raiseTrap_group? : (raiseTrap m g.gid t d).group? g.gid = some (enterHandler c.codeBase h t g) := by
  rw [raiseTrap_eq hg hctx hh hc hf, Device.group?, traceGroup_groups]
  exact group?_setGroup_self (g := enterHandler c.codeBase h t g) hg

theorem raiseTrap_log (hoff : (d.die (dieOf g.core)).trace.on = false) : (raiseTrap m g.gid t d).log = d.log := by
  rw [raiseTrap_eq hg hctx hh hc hf, traceGroup_off (d := d.setGroup _) hoff]
  rfl

end

theorem find?_map_pair {α : Type} (ts : List Nat) (a : α) (u : Nat) :
    (ts.map fun v => (v, a)).find? (·.1 == u) = if u ∈ ts then some (u, a) else none := by
  induction ts with
  | nil => rfl
  | cons v rest ih =>
    by_cases h : v = u
    · simp [h]
    · simp [h, Ne.symm h, ih]

/-- The trap of a broadcast instruction before its pass (R122, R392). -/
def decodeInfo (turn : Turn) (pc : DWord) (present : List Nat) (f : Raise) : TrapInfo :=
  { kind := 1, cause := f.cause, acc := f.acc, fmask := maskOf present, slot := present.headD 0, pc := pc
    pos := turn.pos, resume := maskOf present, addrs := present.map fun u => (u, f.addr)
    l0 := turn.l0, l1 := turn.l1, kept := (turn.reissue.map (·.kept)).getD [] }

theorem decodeTrap_eq (m : Memory) (turn : Turn) (pc : DWord) (present : List Nat) (f : Raise) (d : Device) (g : Group) :
    ∃ n, decodeTrap m turn pc present f { d := d, g := g } = raiseTrap m g.gid (decodeInfo turn pc present f)
      (Work.close { d := d.spend g.core n, g := endTurn g }) := by
  unfold decodeTrap
  dsimp only
  split
  · exact ⟨1, rfl⟩
  · exact ⟨0, by rw [spend_zero]; rfl⟩

theorem saveThread_decodeInfo {base : DWord} {turn : Turn} {pc : DWord} {present : List Nat} {f : Raise} {u : Nat} {th : Thread}
    (hu : u < 32) : saveThread base (decodeInfo turn pc present f) u th =
      { st := th.st, epc := codeOff base th.pc, epc0 := codeOff base th.pc, resume := present.contains u
        addr := if u ∈ present then f.addr else 0 } := by
  have haddr : (((present.map fun v => (v, f.addr)).find? (·.1 == u)).map (·.2)).getD 0 = if u ∈ present then f.addr else 0 := by
    rw [find?_map_pair]
    split <;> rfl
  simp only [saveThread, decodeInfo, maskOf_getLsbD present hu, List.contains_eq_mem, haddr]

theorem close_ctxs (w : Work) : w.close.ctxs = w.d.ctxs := by
  simp only [Work.close]
  split <;> rfl

theorem close_dies (w : Work) : w.close.dies = w.d.dies := by
  simp only [Work.close]
  split <;> rfl

/-- A device that still holds what a trap of the group `g` takes from `s`. -/
structure BeforeTrap (s : State) (g : Group) (d : Device) : Prop where
  here : d.group? g.gid = some g
  ctxs : d.ctxs = s.dev.ctxs
  trace : (d.die (dieOf g.core)).trace = (s.dev.die (dieOf g.core)).trace
  log : d.log = []

section
variable {s : State} {g : Group} {d : Device}

theorem BeforeTrap.close (h : BeforeTrap s g d) (n : Nat) :
    BeforeTrap s (endTurn g) (Work.close { d := d.spend g.core n, g := endTurn g }) where
  here := close_group? (w := { d := d.spend g.core n, g := endTurn g }) h.here
  ctxs := (close_ctxs _).trans h.ctxs
  trace := by
    rw [Device.die, close_dies]
    exact (spend_trace d g.core n).trans h.trace
  log := (close_log _).trans h.log

/-- What such a trap leaves of the group and of memory. -/
theorem BeforeTrap.raiseTrap_enters {m : Memory} {t : TrapInfo} {c : Ctx} {h : Word} (hd : BeforeTrap s g d)
    (hctx : s.dev.ctx? g.ctx = some c) (hh : c.handler = some h) (hc : g.cond ≠ .handler) (hf : t.fails = false) :
    (commit s (raiseTrap m g.gid t d)).dev.group? g.gid = some (enterHandler c.codeBase h t g) ∧
      ((s.dev.die (dieOf g.core)).trace.on = false → (commit s (raiseTrap m g.gid t d)).mem = s.mem) := by
  have hctx' : d.ctx? g.ctx = some c := by
    rw [Device.ctx?, hd.ctxs]
    exact hctx
  refine ⟨raiseTrap_group? hd.here hctx' hh hc hf, fun hoff => ?_⟩
  rw [commit_quiet ((raiseTrap_log hd.here hctx' hh hc hf (by rw [hd.trace, hoff])).trans hd.log)]

/-- The trap at decode enters the handler for the threads given, in the group whose turn has ended. -/
theorem decodeTrap_enters (hd : BeforeTrap s g d) (hc : g.cond ≠ .handler) (turn : Turn) (pc : DWord) (f : Raise)
    (present : List Nat) :
    Rules.Enters s (commit s (decodeTrap s.mem turn pc present f { d := d, g := g })) g turn pc 1 f.cause f.acc present f.addr
      fun u => (thread g u).pc := by
  intro c h hctx hh
  obtain ⟨n, htrap⟩ := decodeTrap_eq s.mem turn pc present f d g
  obtain ⟨hgroup, hmem⟩ := (hd.close n).raiseTrap_enters (m := s.mem) (t := decodeInfo turn pc present f) hctx hh hc rfl
  rw [htrap]
  refine ⟨_, _, hgroup, rfl, rfl, rfl, ?_, ?_, rfl, rfl, rfl, rfl, rfl, rfl, rfl, rfl, rfl, rfl, fun u hu => ?_, hmem⟩
  · simp [enterHandler, tcauseWord, decodeInfo]
  · simp [enterHandler, tframeWord, decodeInfo]
  · rw [Vector.getElem_ofFn, saveThread_decodeInfo hu, enterHandler_thread hu, endTurn_thread]
    refine ⟨rfl, rfl, rfl, rfl, ?_, fun hst => ?_, fun hst => ?_⟩
    · split <;> rfl
    · rw [if_neg hst]
      exact ⟨rfl, rfl⟩
    · rw [if_pos hst]
      exact hst

end

/-! ## Fetch and decode before a pass (R48, R102, R392) -/

theorem leNat_lt (bs : List Byte) : leNat bs < 2 ^ (8 * bs.length) := by
  induction bs with
  | nil => exact Nat.one_pos
  | cons b rest ih =>
    have := b.isLt
    rw [leNat, List.length_cons, Nat.mul_succ, Nat.pow_add]
    omega

theorem lineHalf_lt (d : Device) (g : Group) (va : DWord) : lineHalf d g va < 2 ^ 16 := by
  unfold lineHalf
  split
  · decide
  · split
    · rename_i l _
      exact Nat.lt_of_lt_of_le (leNat_lt _) (Nat.pow_le_pow_right (by decide) (by rw [List.length_take]; omega))
    · decide

/-- A halfword fetched has 16 bits. -/
theorem fetchHalf_lt {m : Memory} {g : Group} {va : DWord} {d e : Device} {x : Nat} (h : fetchHalf m g va d = .got x e) :
    x < 2 ^ 16 := by
  unfold fetchHalf at h
  split at h
  · cases h
  · cases h
  · split at h <;> cases h
  · split at h
    · cases h
    · dsimp only at h
      split at h
      · cases h
        exact lineHalf_lt _ _ _
      · cases h

/-- A word fetched has the bits of its size. -/
theorem fetchWord_lt {m : Memory} {g : Group} {va : DWord} {d e : Device} {w : Nat} (h : fetchWord m g va d = .got w e) :
    w < 2 ^ (8 * wordSize w) := by
  unfold fetchWord at h
  split at h
  next lo d' hlo =>
    have := fetchHalf_lt hlo
    split at h
    next heven =>
      cases h
      rw [wordSize, if_pos heven]
      exact this
    next hodd =>
      split at h
      next hi d'' hhi =>
        have := fetchHalf_lt hhi
        cases h
        rw [wordSize, if_neg (by omega)]
        omega
      all_goals cases h
  all_goals cases h

/-- The decoder refuses a word of no row alone. -/
theorem rowOf_eq_none {w : Nat} (hw : w < 2 ^ (8 * wordSize w)) (h : decode (wordBytes 4 w) = none) : rowOf w = none := by
  cases hr : rowOf w with
  | none => rfl
  | some r =>
    by_cases heven : w % 2 = 0
    · rw [wordSize, if_pos heven] at hw
      rw [rowOf, if_pos heven, Nat.mod_eq_of_lt (show w < 65536 from hw)] at hr
      exact nomatch (decode_word16 hw heven hr rfl (wordBytes 2 (w / 256 / 256))).symm.trans h
    · rw [wordSize, if_neg heven] at hw
      rw [rowOf, if_neg heven] at hr
      exact nomatch (decode_word32 hw (by omega) hr rfl []).symm.trans h

/-- Taking the failed walk of a fetch changes nothing of it. -/
theorem BeforeTrap.takeCodeFail {s : State} {g : Group} {d : Device} (h : BeforeTrap s g d) (pc : DWord) :
    BeforeTrap s g (takeCodeFail g pc d) := ⟨h.here, h.ctxs, h.trace, h.log⟩

/-- A group in focus that stands at `pc` in its turn. -/
structure InFocus (s : State) (g : Group) (turn : Turn) (pc : DWord) : Prop where
  log : s.dev.log = []
  focus : s.dev.focus = some g.gid
  here : s.dev.group? g.gid = some g
  hasTurn : g.turn = some turn
  at_ : passPc g turn = some pc

section
variable {s : State} {g : Group} {turn : Turn} {pc : DWord}

theorem InFocus.beforeTrap (h : InFocus s g turn pc) : BeforeTrap s g s.dev := ⟨h.here, rfl, rfl, h.log⟩

/-- Where nothing else is due, a step is that of the group in focus (log 4). -/
theorem InFocus.step_eq (h : InFocus s g turn pc) (hb : s.dev.booted = true) (hi : s.dev.inbox = []) (hs : turn.stalled = false)
    (hd : dueWork s.mem s.dev = none) : step s = stepFocus s := by
  have hfocus : focusStalled s.dev = false := by
    simp only [focusStalled, h.focus, Option.bind_some, h.here, h.hasTurn, hs]
  simp only [step, stepAll, hd, hi, hb, stepOwn, h.focus, hfocus, Option.isSome_some, Bool.not_true, Bool.false_eq_true, if_true,
    if_false]

/-- A failing fetch is a trap before the pass. -/
theorem InFocus.stepFocus_fault (h : InFocus s g turn pc) {cause : Cause} (hf : fetchWord s.mem g pc s.dev = .fault cause) :
    stepFocus s = .next (commit s (decodeTrap s.mem turn pc (presentOf g turn pc) { cause := cause, acc := 4, addr := pc }
      { d := takeCodeFail g pc s.dev, g := g })) := by
  simp only [stepFocus, prepare, h.focus, Option.bind_some, h.here, h.hasTurn, h.at_, hf]

/-- A word of no row is a trap before the pass. -/
theorem InFocus.stepFocus_noRow (h : InFocus s g turn pc) {w : Nat} {d : Device} (hf : fetchWord s.mem g pc s.dev = .got w d)
    (hr : rowOf w = none) :
    stepFocus s = .next (commit s (decodeTrap s.mem turn pc (presentOf g turn pc) { cause := .illegalInstr }
      { d := takeCodeFail g pc s.dev, g := g })) := by
  simp only [stepFocus, prepare, h.focus, Option.bind_some, h.here, h.hasTurn, h.at_, hf, hr, Option.isSome_none,
    Bool.false_eq_true, if_false]

/-- An instruction that is illegal where it stands is a trap before the pass. -/
theorem InFocus.runPass_illegal (h : InFocus s g turn pc) {dec : Nat → Option Op} {op : Op} (hl : op.illegal g pc = true) :
    runPass dec op s = .next (commit s (decodeTrap s.mem turn pc (presentOf g turn pc) { cause := .illegalInstr }
      { d := s.dev, g := g })) := by
  simp only [runPass, passDev, h.focus, Option.bind_some, h.here, h.hasTurn, h.at_, hl, if_true]

/-- One whose operands are not accepted is a trap before the pass. -/
theorem InFocus.runPass_operand (h : InFocus s g turn pc) {dec : Nat → Option Op} {op : Op} (hl : op.illegal g pc = false)
    (ho : operandsAllowed (qRole s.dev g) g turn op.pos = false) :
    runPass dec op s = .next (commit s (decodeTrap s.mem turn pc (presentOf g turn pc) { cause := .illegalOperand }
      { d := s.dev, g := g })) := by
  simp only [runPass, passDev, h.focus, Option.bind_some, h.here, h.hasTurn, h.at_, hl, ho, Bool.not_false, Bool.false_eq_true,
    if_true, if_false]

end

/-- Settles O50: each of the four comes to the trap at decode. -/
theorem decodeFaults : Obligations.DecodeFaults := by
  unfold Obligations.DecodeFaults
  intro s g turn pc hlog hfocus hhere hturn hpc hc _ enters
  have hin : InFocus s g turn pc := ⟨hlog, hfocus, hhere, hturn, hpc⟩
  refine ⟨fun hb hi hs hd => ⟨fun cause hf => ?_, fun w d hf hw => ?_⟩, fun i op hop => ⟨fun hl => ?_, fun hl ho => ?_⟩⟩
  · rw [hin.step_eq hb hi hs hd, hin.stepFocus_fault hf]
    exact ⟨_, rfl, decodeTrap_enters (hin.beforeTrap.takeCodeFail pc) hc turn pc _ _⟩
  · rw [hin.step_eq hb hi hs hd, hin.stepFocus_noRow hf (rowOf_eq_none (fetchWord_lt hf) hw)]
    exact ⟨_, rfl, decodeTrap_enters (hin.beforeTrap.takeCodeFail pc) hc turn pc _ _⟩
  · rw [exec_of_opOf hop, hin.runPass_illegal hl]
    exact ⟨_, rfl, decodeTrap_enters hin.beforeTrap hc turn pc _ _⟩
  · rw [exec_of_opOf hop, hin.runPass_operand hl ho]
    exact ⟨_, rfl, decodeTrap_enters hin.beforeTrap hc turn pc _ _⟩

end Sys2Proof.Machine
end

section
/-! PROOFS. The floating-point instructions: the lane of each shape of operation writes one result of 32 or of 64 bits to D, and
each instruction is of one shape (R190 to R200). -/

namespace Sys2Proof.Machine

/-! ## Lanes that end in one floating-point result -/

section
variable {op : Op} {d : Dst} {r : PassInfo → Nat → Nat × Flags}

/-- An operation whose lane ends by writing 32 bits. -/
theorem writesResult_of_putF32 (hu : op.uniform = false) (hc : op.commits = false) (hf : ∀ i w, op.fin i w = w)
    (hr : ∀ i k t, r { i with tick := k } t = r i t) (hl : ∀ m i t w, op.lane m i t w = putF32 t w d (r i t)) :
    WritesResult op d fun i t => Rules.w32 (r i t) :=
  ⟨hu, hc, hf, fun i k t => congrArg Rules.w32 (hr i k t), hl⟩

/-- An operation whose lane ends by writing 64 bits. -/
theorem writesResult_of_putF64 (hu : op.uniform = false) (hc : op.commits = false) (hf : ∀ i w, op.fin i w = w)
    (hr : ∀ i k t, r { i with tick := k } t = r i t) (hl : ∀ m i t w, op.lane m i t w = putF64 t w d (r i t)) :
    WritesResult op d fun i t => Rules.w64 (r i t) :=
  ⟨hu, hc, hf, fun i k t => congrArg Rules.w64 (hr i k t), hl⟩

end

/-! ## Arithmetic beyond binary32 and its accumulator (R190 to R192) -/

/-- FFMAL: L0 is the addend. -/
theorem opFfmal_writesResult (o : FmtA) : WritesResult (opFfmal o) o.d fun i t =>
    Rules.w32 (fpFma f32 (modeRnd i.rd.g) false (fpSrc32 f32 1 i.rd t o.a) (fpSrc32 f32 1 i.rd t o.b) (src32 i.rd t .l0).toNat) :=
  writesResult_of_putF32 rfl rfl (fun _ _ => rfl) (fun _ _ _ => rfl) fun _ _ _ _ => rfl

/-- Format A on binary64. -/
theorem opF64_writesResult (o : FmtA) (f : Rnd → Nat → Nat → Nat × Flags) : WritesResult (opF64 o f) o.d fun i t =>
    Rules.w64 (f (modeRnd i.rd.g) (fpSrc64 f64 1 i.rd t o.a) (fpSrc64 f64 1 i.rd t o.b)) :=
  writesResult_of_putF64 rfl rfl (fun _ _ => rfl) (fun _ _ _ => rfl) fun _ _ _ _ => rfl

/-- DFMA: D is the addend. -/
theorem opDfma_writesResult (o : FmtA) : WritesResult (opDfma o) o.d fun i t =>
    Rules.w64 (fpFma f64 (modeRnd i.rd.g) false (fpSrc64 f64 1 i.rd t o.a) (fpSrc64 f64 1 i.rd t o.b) (acc64 i.rd t o.d).toNat) :=
  writesResult_of_putF64 rfl rfl (fun _ _ => rfl) (fun _ _ _ => rfl) fun _ _ _ _ => rfl

/-! ## Unary and special functions (R194 to R196) -/

/-- Format N on binary32. -/
theorem opN1_writesResult (o : FmtN) (flags : Bool) (f : Rnd → Nat → Nat × Flags) : WritesResult (opN1 o flags f) o.d fun i t =>
    Rules.w32 (f (modeRnd i.rd.g) (fpSrc32 f32 1 i.rd t o.a)) :=
  writesResult_of_putF32 rfl rfl (fun _ _ => rfl) (fun _ _ _ => rfl) fun _ _ _ _ => rfl

/-- Format N on binary64. -/
theorem opN2_writesResult (o : FmtN) (flags : Bool) (f : Rnd → Nat → Nat × Flags) : WritesResult (opN2 o flags f) o.d fun i t =>
    Rules.w64 (f (modeRnd i.rd.g) (fpSrc64 f64 1 i.rd t o.a)) :=
  writesResult_of_putF64 rfl rfl (fun _ _ => rfl) (fun _ _ _ => rfl) fun _ _ _ _ => rfl

/-- DCLASS: 64 bits give a mask of 32. -/
theorem opDclass_writesResult (o : FmtN) : WritesResult (opDclass o) o.d fun i t =>
    Rules.w32 (fpClass f64 (fpSrc64 f64 1 i.rd t o.a), 0) :=
  writesResult_of_putF32 rfl rfl (fun _ _ => rfl) (fun _ _ _ => rfl) fun _ _ _ _ => rfl

/-- A sign operation on two BF16 elements. -/
theorem opPsign_writesResult (o : FmtN) (f : Nat → Nat) : WritesResult (opPsign o f) o.d fun i t =>
    Rules.w32 (f (fpSrc32 bf16 2 i.rd t o.a), 0) :=
  writesResult_of_putF32 rfl rfl (fun _ _ => rfl) (fun _ _ _ => rfl) fun _ _ _ _ => rfl

/-! ## Conversions (R197 to R200) -/

section
variable (o : FmtCvt) {src : Rd → Nat → Src → Nat}

/-- A conversion from 32 bits to 32 bits. -/
theorem opCvt11_writesResult (rounds k1 flags : Bool) (f : Rnd → Nat → Nat × Flags) :
    WritesResult (opCvt11 o rounds k1 flags src f) o.d fun i t => Rules.w32 (f (selRnd i.rd.g o.r) (src i.rd t o.a)) :=
  writesResult_of_putF32 rfl rfl (fun _ _ => rfl) (fun _ _ _ => rfl) fun _ _ _ _ => rfl

/-- A conversion from 32 bits to a pair. -/
theorem opCvt12_writesResult (k1 flags : Bool) (f : Nat → Nat × Flags) :
    WritesResult (opCvt12 o k1 flags src f) o.d fun i t => Rules.w64 (f (src i.rd t o.a)) :=
  writesResult_of_putF64 rfl rfl (fun _ _ => rfl) (fun _ _ _ => rfl) fun _ _ _ _ => rfl

/-- A conversion from 64 bits to 32 bits. -/
theorem opCvt21_writesResult (k1 : Bool) (f : Rnd → Nat → Nat × Flags) :
    WritesResult (opCvt21 o k1 src f) o.d fun i t => Rules.w32 (f (selRnd i.rd.g o.r) (src i.rd t o.a)) :=
  writesResult_of_putF32 rfl rfl (fun _ _ => rfl) (fun _ _ _ => rfl) fun _ _ _ _ => rfl

/-- CVT.B4.F32: the code takes the low four bits of D, whose bits 15:8 are the scale (R200). -/
theorem opCvtB4F32_writesResult : WritesResult (opCvtB4F32 o) o.d fun i t =>
    Rules.w32 ((acc32 i.rd t o.d).toNat / 16 * 16
      + (b4Quantise (fpSrc32 f32 1 i.rd t o.a) ((acc32 i.rd t o.d).toNat / 256 % 256) (selRnd i.rd.g o.r)).1,
      (b4Quantise (fpSrc32 f32 1 i.rd t o.a) ((acc32 i.rd t o.d).toNat / 256 % 256) (selRnd i.rd.g o.r)).2) :=
  writesResult_of_putF32 rfl rfl (fun _ _ => rfl) (fun _ _ _ => rfl) fun _ _ _ _ => rfl

end

/-! ## Each instruction and its shape -/

/-- The lane of each instruction of the floating-point tables writes what its row gives. -/
theorem fp_writesResult {i : Instr} {d : Dst} {f : PassInfo → Nat → Value × Flags} (h : Rules.Fp i d f) {op : Op}
    (hop : opOf i = some op) : WritesResult op d f := by
  cases h <;> cases hop
  case fadd | fsub | fmul | fmin | fmax => exact opF32_writesResult _ _
  case ffma => exact opF32Acc_writesResult _ false
  case fnma => exact opF32Acc_writesResult _ true
  case ffmal => exact opFfmal_writesResult _
  case padd2 | pmul2 | pmax2 => exact opP2_writesResult _ _
  case pfma2 => exact opPfma2_writesResult _
  case dadd | dsub | dmul | dmin | dmax => exact opF64_writesResult _ _
  case dfma => exact opDfma_writesResult _
  case fsqrt | frcp | frsq | fexp2 | flog2 | fsinpi | fcospi | frint => exact opN1_writesResult _ true _
  case fneg | fabs | fclass => exact opN1_writesResult _ false _
  case dsqrt | drcp | drint => exact opN2_writesResult _ true _
  case dneg | dabs => exact opN2_writesResult _ false _
  case dclass => exact opDclass_writesResult _
  case pneg2 | pabs2 => exact opPsign_writesResult _ _
  case cvtF32I32 | cvtF32N32 | cvtI32F32 | cvtN32F32 => exact opCvt11_writesResult _ true false true _
  case cvtF32F16 => exact opCvt11_writesResult _ false true true _
  case cvtBf16x2B4 => exact opCvt11_writesResult _ false false false _
  case cvtF64F32 => exact opCvt12_writesResult _ false true _
  case cvtF64I32 => exact opCvt12_writesResult _ false false _
  case cvtBf16x4E8x4 => exact opCvt12_writesResult _ true true _
  case cvtI32F64 => exact opCvt21_writesResult _ false _
  case cvtF32F64 | cvtF16x2F32x2 | cvtBf16x2F32x2 | cvtE4m3x4Bf16x4 | cvtE5m2x4Bf16x4 => exact opCvt21_writesResult _ true _
  case cvtB4F32 => exact opCvtB4F32_writesResult _

/-- Settles O4: the pass of a lane that writes what the instruction's row gives. -/
theorem floatResults : Obligations.FloatResults := by
  unfold Obligations.FloatResults
  intro i d f h op hop s g turn pc hr
  rw [exec_of_opOf hop]
  exact (fp_writesResult h hop).pass hr

end Sys2Proof.Machine
end

section
/-! PROOFS. TNOW, TDIFF, TSTAT and TMIN: the word that each active thread writes to D, of time registers that no lane of the pass
changes (R253, R255, R257). -/

namespace Sys2Proof.Machine

/-- The pass of an instruction that writes one word to D in each active thread and leaves no result in L0. -/
theorem putTime_pass {dec : Nat → Option Op} {op : Op} {s : State} {g : Group} {turn : Turn} {pc : DWord} {d : Dst}
    {x : Nat → Word} (hr : Runs op s g turn pc) (hu : op.uniform = false) (hc : op.commits = false)
    (hf : ∀ i w, op.fin i w = w)
    (hl : ∀ t k w, Beside op s.dev g t w →
      op.lane s.mem { passInfo op s g turn pc with tick := k } t w = putTime t w d (x t)) :
    ∃ t g', runPass dec op s = .next t ∧
      Lanes op s g turn pc { upd := fun u => writeDst d [x u], push := fun u => pushDst d [x u] } t g' := by
  refine dst_pass (ws := fun u => [x u]) (fl := fun _ => 0) (res := fun _ => none) hr hu hc hf fun t _ k w hw => ?_
  rw [hl t k w hw, orFlags_zero]
  rfl

/-- TSTAT's word is the state's code, the sticky bit at 3 and the engine bit at 4 (R257). -/
theorem statWord_eq (x : TimeReg) : statWord x = .ofNat 32 ((match x.st with
    | .pending => 0
    | .promised => 1
    | .arrived => 2
    | .breached => 3
    | .withdrawn => 4) + (if x.sticky then 8 else 0) + (if x.engine then 16 else 0)) := by
  rw [statWord]
  cases x.st <;> rfl

/-- Settles O10: each row's lane writes the word of its rule, for it finds the time registers as they were before the pass. -/
theorem timeReads : Obligations.TimeReads := by
  unfold Obligations.TimeReads
  intro i d f hi op hop s g turn pc hr
  rw [exec_of_opOf hop]
  cases hi with
  | tnow o =>
    cases hop
    exact putTime_pass hr rfl rfl (fun _ _ => rfl) fun _ _ _ _ => rfl
  | tdiff o =>
    cases hop
    refine putTime_pass hr rfl rfl (fun _ _ => rfl) fun t k w hw => ?_
    simp only [opTdiff, opTimeRead, hw.timeSeen_eq]
    rfl
  | tstat o =>
    cases hop
    refine putTime_pass hr rfl rfl (fun _ _ => rfl) fun t k w hw => ?_
    simp only [opTstat, opTimeRead, hw.timeSeen_eq, statWord_eq]
    rfl
  | tmin o =>
    cases hop
    refine putTime_pass hr rfl rfl (fun _ _ => rfl) fun t k w hw => ?_
    simp only [opTmin, hw.timeSeen_eq]
    rfl

end Sys2Proof.Machine
end

section
/-! PROOFS. CPY, CPYX, COLL and MCRD: a command enters its engine's queue, and the time register of every present thread follows
it (R249, R259, R261). -/

namespace Sys2Proof.Machine

/-! ## The time registers that follow a command -/

/-- A time register that begins to follow a command: PENDING, or in a deterministic context promised for the next turn (R261,
R424); a breach stays sticky. -/
def commandTime (det : Bool) (i : PassInfo) (id : Nat) (old : TimeReg) : TimeReg :=
  { value := if det then i.now + 1 else .ofNat 32 (i.tick / 60), st := if det then .promised else .pending
    sticky := old.sticky, req := id, engine := true }

theorem commandTime_st (det : Bool) (i : PassInfo) (id : Nat) (old : TimeReg) :
    (commandTime det i id old).st = .pending ∨ (commandTime det i id old).st = .promised := by
  cases det
  · exact .inl rfl
  · exact .inr rfl

/-- The thread of such a register. -/
def commandThread (det : Bool) (i : PassInfo) (r : TReg) (id : Nat) (th : Thread) : Thread :=
  setTime th r (commandTime det i id (timeOf th r))

theorem commandThread_st (det : Bool) (i : PassInfo) (r : TReg) (id : Nat) (th : Thread) :
    (commandThread det i r id th).st = th.st := (setTime_marksApart r _).st th

theorem nameTime_command (i : PassInfo) (t : Nat) (r : TReg) (id : Nat) (w : Work) :
    nameTime i t r id true none w = { w with g := onThread w.g t (commandThread (w.d.isDet w.g) i r id) } := rfl

/-- Every thread of a list gets its register, and neither the device nor the rest of the group changes. -/
theorem foldl_nameTime (i : PassInfo) (r : TReg) (id : Nat) (ts : List Nat) (w : Work) :
    ts.foldl (fun w u => nameTime i u r id true none w) w =
      { w with g := ts.foldl (fun h u => onThread h u (commandThread (w.d.isDet w.g) i r id)) w.g } := by
  induction ts generalizing w with
  | nil => rfl
  | cons t rest ih =>
    rw [List.foldl_cons, nameTime_command, ih]
    rfl

/-! ## The pass -/

/-- The command that a group sends in a pass. -/
def sentCmd (dv : Device) (g : Group) (i : PassInfo) (k : CmdKind) (r : TReg) (block : List Byte) (rot : Nat) : Cmd :=
  { id := dv.nextId, kind := k, gid := g.gid, core := g.core, ctx := g.ctx, lead := i.chain.headD 0, lanes := maskOf i.chain
    t := r, block := block, rot := rot, pc := codeOff i.base i.pc, rect := grantOf g
    record := (workTask dv g).map fun k => recordOf k.words }

/-- The group in which the time register of every thread of the chain has begun to follow that command. -/
def sentGroup (dv : Device) (g : Group) (i : PassInfo) (r : TReg) : Group :=
  i.chain.foldl (fun h u => onThread h u (commandThread (dv.isDet g) i r dv.nextId)) g

theorem sentGroup_rest (dv : Device) (g : Group) (i : PassInfo) (r : TReg) :
    { sentGroup dv g i r with threads := g.threads } = g := by
  obtain ⟨v, hv⟩ := foldl_onThread_group g i.chain fun _ => commandThread (dv.isDet g) i r dv.nextId
  rw [sentGroup, hv]

theorem sentGroup_thread (op : Op) (s : State) (g : Group) (turn : Turn) (pc : DWord) (r : TReg) (u : Nat) :
    thread (sentGroup s.dev g (passInfo op s g turn pc) r) u = if u ∈ actives op g turn pc then
      commandThread (s.dev.isDet g) (passInfo op s g turn pc) r s.dev.nextId (thread g u) else thread g u :=
  thread_foldl_onThread (f := fun _ => commandThread (s.dev.isDet g) (passInfo op s g turn pc) r s.dev.nextId)
    (activeOf_nodup op g (presentOf_nodup g turn pc)) (fun _ => actives_lt) u

theorem sendCmd_eq (dv : Device) (g : Group) (i : PassInfo) (k : CmdKind) (r : TReg) (block : List Byte) (rot : Nat) :
    sendCmd i k r block rot { d := dv, g := g } =
      { d := { dv with cmds := dv.cmds ++ [sentCmd dv g i k r block rot], nextId := dv.nextId + 1 }
        g := sentGroup dv g i r } := by
  simp only [sendCmd, foldl_nameTime]
  rfl

/-- The pass of an instruction that sends one command. -/
theorem command_pass {dec : Nat → Option Op} {op : Op} {s : State} {g : Group} {turn : Turn} {pc : DWord} {k : CmdKind}
    {r : TReg} {block : List Byte} {rot : Nat} (hr : Runs op s g turn pc) (hu : op.uniform = true) (hy : op.yields = false)
    (hz : op.size = 4)
    (hl : ∀ u, op.lane s.mem (passInfo op s g turn pc) u { d := s.dev, g := g } =
      laneOk (sendCmd (passInfo op s g turn pc) k r block rot { d := s.dev, g := g }) none) :
    ∃ t g', runPass dec op s = .next t ∧ t.mem = s.mem ∧ Once op s g turn pc (sentGroup s.dev g (passInfo op s g turn pc) r)
      { s.dev with cmds := s.dev.cmds ++ [sentCmd s.dev g (passInfo op s g turn pc) k r block rot], nextId := s.dev.nextId + 1 }
      (pc + 4) (presentOf g turn pc) t g' := by
  obtain ⟨u, rest, ha⟩ := List.exists_cons_of_ne_nil hr.some_
  have hmem : u ∈ actives op g turn pc := by rw [ha]; exact List.mem_cons_self ..
  have hrun : isRun (thread g u) = true := (mem_presentOf.mp (mem_activeOf.mp hmem).1).2.1
  have hlane := (hl u).trans (congrArg (laneOk · none) (sendCmd_eq ..))
  have hrest := sentGroup_rest s.dev g (passInfo op s g turn pc) r
  have hdone : (thread (sentGroup s.dev g (passInfo op s g turn pc) r) u).st ≠ .done := by
    rw [sentGroup_thread, if_pos hmem, commandThread_st]
    intro hdone
    simp [isRun, hdone] at hrun
  obtain ⟨t, g', hpass, honce⟩ := uniform_pass (dec := dec) hr hu (by rw [hy]; exact nofun) ha hlane
    ⟨rfl, rfl, (have q := congrArg Group.gid hrest; q), (have q := congrArg Group.partner hrest; q),
      Option.isSome_iff_exists.mpr ⟨g, hr.here⟩⟩ ⟨u, actives_lt hmem, hdone⟩
  rw [hz] at honce
  exact ⟨t, g', hpass, honce.mem.trans (congrArg (memWriteAll s.mem) hr.log), honce⟩

section
variable {o : FmtE} {m : Memory} {i : PassInfo} {u : Nat} {w : Work}

/-- CPY, CPYX and COLL outside an idempotent region. -/
theorem engine_lane {k : CmdKind} (hr : w.g.region = none) :
    (opEngine o k).lane m i u w = laneOk (sendCmd i k o.t (blockBytes m w (usrc32 i.rd.g o.a)) (brot w.g) w) none := by
  simp only [opEngine, hr, Option.isSome_none, Bool.false_eq_true, if_false]

/-- MCRD outside an idempotent region, with a legal descriptor whose places all pass the check. -/
theorem mcrd_lane (hr : w.g.region = none) (hok : mcrdOk (mcrdOf (usrcWords i.rd.g o.a 8)) = true)
    (hp : ∀ p ∈ mcrdOffsets (mcrdOf (usrcWords i.rd.g o.a 8)), (placeCheck w.g p.1 p.2).isSome = true) :
    (opMcrd o).lane m i u w = laneOk (sendCmd i .mcrd o.t (wordsBytes (usrcWords i.rd.g o.a 8))
      (mcrdOf (usrcWords i.rd.g o.a 8)).rot w) none := by
  simp only [opMcrd, hr, hok, List.all_eq_true.mpr hp, Option.isSome_none, Bool.not_true, Bool.false_eq_true, if_false]

end

/-- The operation of each row sends the command that its rule says. -/
theorem row_sends {i : Instr} {o : FmtE} {k : CmdKind} {c : State → Group → Prop} {b : State → Group → List Byte}
    (hi : Rules.Engine i o k c b) {op : Op} (hop : opOf i = some op) {s : State} {g : Group} (turn : Turn) (pc : DWord)
    (hc : c s g) : op.uniform = true ∧ op.yields = false ∧ op.size = 4 ∧ ∃ rot, ∀ u,
      op.lane s.mem (passInfo op s g turn pc) u { d := s.dev, g := g } =
        laneOk (sendCmd (passInfo op s g turn pc) k o.t (b s g) rot { d := s.dev, g := g }) none := by
  cases hi <;> cases hop <;> refine ⟨rfl, rfl, rfl, ?_⟩
  case cpy | cpyx | coll => exact ⟨brot g, fun _ => engine_lane hc⟩
  case mcrd =>
    obtain ⟨hregion, hok, hplaces⟩ := hc
    exact ⟨(mcrdOf (usrcWords g o.a 8)).rot, fun _ => mcrd_lane hregion hok hplaces⟩

/-- Settles O31: the pass sends the one command of its row, and the register by which each present thread follows it is
`commandTime`'s. -/
theorem engineCommands : Obligations.EngineCommands := by
  unfold Obligations.EngineCommands
  intro i o k c b hi op hop s g turn pc hr hc
  rw [exec_of_opOf hop]
  obtain ⟨huniform, hyields, hsize, rot, hlane⟩ := row_sends hi hop turn pc hc
  obtain ⟨t, g', hrun, hmem, honce⟩ := command_pass (dec := decodeOp) hr huniform hyields hsize hlane
  exact ⟨t, g', _, _, _, hrun, honce, hmem, rfl, rfl, rfl, rfl, rfl, rfl, rfl, rfl, rfl, rfl, rfl, sentGroup_rest ..,
    fun v _ => ⟨_, sentGroup_thread op s g turn pc o.t v, rfl, rfl, commandTime_st ..⟩⟩

end Sys2Proof.Machine
end

section
/-! PROOFS. TWAIT, TWAITANY and YIELDT: the one active thread goes on or waits, and a YIELDT that leaves no thread RUN puts the group
aside (R254). -/

namespace Sys2Proof.Machine

/-! ## The lane's group before its effect -/

/-- Marking sources dead changes a thread's dead marks alone. -/
theorem markAll_marked {op : Op} {g : Group} {u : Nat} (hu : u < 32) : Rules.Marked g (markAll op u g) := by
  obtain ⟨m, hm, _⟩ := markAll_eq op u hu
  rw [hm]
  refine ⟨rfl, fun v _ => ?_⟩
  rw [thread_onThread hu]
  split
  · rename_i hv
    rw [hv]
  · rfl

/-- The lane of a pass with one active thread stands beside the state before the pass. -/
theorem beside_markAll {op : Op} {s : State} {g : Group} {u : Nat} (hu : u < 32) :
    Beside op s.dev g u { d := s.dev, g := markAll op u g } := by
  obtain ⟨hrest, hth⟩ := markAll_marked (op := op) (g := g) hu
  refine ⟨rfl, fun _ => rfl, ?_, hth u hu⟩
  exact congrArg (fun x : Group => { x with flags := g.flags, poison := g.poison, qwin := g.qwin }) hrest

/-- A thread's own update that neither sees nor changes dead marks keeps a group marked. -/
theorem marked_onThread {g h : Group} (hm : Rules.Marked g h) {u : Nat} (hu : u < 32) (st : ThreadSt) :
    Rules.Marked (setThread g u { thread g u with st := st }) (onThread h u fun th => { th with st := st }) := by
  obtain ⟨hrest, hth⟩ := hm
  refine ⟨?_, fun v hv => ?_⟩
  · exact congrArg (fun x : Group => { x with threads := (setThread g u { thread g u with st := st }).threads }) hrest
  · rw [thread_onThread hu, thread_setThread hu]
    split
    · exact congrArg (fun th : Thread => { th with st := st }) (hth u hu)
    · exact hth v hv

theorem marked_st {g h : Group} (hm : Rules.Marked g h) {v : Nat} (hv : v < 32) : (thread h v).st = (thread g v).st :=
  (have q := congrArg Thread.st (hm.2 v hv); q)

/-! ## The wait of a thread -/

/-- The group whose one active thread a pass leaves in WAIT, up to what follows the lane. -/
def waitGroup (op : Op) (g : Group) (u : Nat) (wt : Wait) : Group := onThread (markAll op u g) u fun th => { th with st := .wait wt }

section
variable {op : Op} {g : Group} {u : Nat} {wt : Wait}

theorem waitGroup_marked (hu : u < 32) :
    Rules.Marked (setThread g u { thread g u with st := .wait wt }) (waitGroup op g u wt) :=
  marked_onThread (markAll_marked hu) hu (.wait wt)

theorem setThread_st (hu : u < 32) (st : ThreadSt) (v : Nat) :
    (thread (setThread g u { thread g u with st := st }) v).st = if v = u then st else (thread g v).st := by
  rw [thread_setThread hu]
  split <;> rfl

theorem waitGroup_st (hu : u < 32) {v : Nat} (hv : v < 32) :
    (thread (waitGroup op g u wt) v).st = if v = u then .wait wt else (thread g v).st :=
  (marked_st (waitGroup_marked hu) hv).trans (setThread_st hu _ v)

end

/-- The time registers that a thread names, as it reads them. -/
def seenTimes (d : Device) (g : Group) (t : Nat) (ks : List TReg) (now : Word) : List TimeReg :=
  ks.map fun k => timeSeen d g t k now

/-- A thread goes on where it names no register, or one that has arrived (R254). -/
def Goes (xs : List TimeReg) : Prop := xs = [] ∨ ∃ x ∈ xs, x.st = .arrived

section
variable {i : PassInfo} {t : Nat} {ks : List TReg} {wt : Wait} {w : Work}

theorem waitTimes_sound (h : ∀ x ∈ seenTimes w.d w.g t ks i.now, x.st ≠ .withdrawn) : waitTimes i t ks wt w =
    if seenTimes w.d w.g t ks i.now = [] ∨
        (seenTimes w.d w.g t ks i.now).any (fun x => x.st == .arrived || x.st == .withdrawn) then laneOk w none
    else laneOk { w with g := onThread w.g t fun th => { th with st := .wait wt } } none := by
  have hnone : (seenTimes w.d w.g t ks i.now).find? (fun x => x.st == .withdrawn) = none :=
    List.find?_eq_none.mpr fun x hx => by simpa using h x hx
  rw [seenTimes] at hnone
  simp only [waitTimes, hnone, Option.bind_none]
  rfl

theorem waitTimes_goes (h : ∀ x ∈ seenTimes w.d w.g t ks i.now, x.st ≠ .withdrawn) (hg : Goes (seenTimes w.d w.g t ks i.now)) :
    waitTimes i t ks wt w = laneOk w none := by
  rw [waitTimes_sound h, if_pos]
  obtain hnil | ⟨x, hx, hst⟩ := hg
  · exact .inl hnil
  · exact .inr (List.any_eq_true.mpr ⟨x, hx, by simp [hst]⟩)

theorem waitTimes_waits (h : ∀ x ∈ seenTimes w.d w.g t ks i.now, x.st ≠ .withdrawn) (hg : ¬Goes (seenTimes w.d w.g t ks i.now)) :
    waitTimes i t ks wt w = laneOk { w with g := onThread w.g t fun th => { th with st := .wait wt } } none := by
  rw [waitTimes_sound h, if_neg]
  rintro (hnil | hany)
  · exact hg (.inl hnil)
  · obtain ⟨x, hx, hst⟩ := List.any_eq_true.mp hany
    simp only [Bool.or_eq_true, beq_iff_eq] at hst
    exact hst.elim (fun q => hg (.inr ⟨x, hx, q⟩)) (h x hx)

end

/-! ## A pass that leaves no thread RUN -/

theorem broadcastPc_none {g : Group} (h : ∀ u < 32, isRun (thread g u) = false) : broadcastPc g = none := by
  have hnil : ((slots.map (thread g)).filterMap fun th => if isRun th then some th.pc else none) = [] := by
    refine List.filterMap_eq_nil_iff.mpr fun th hth => ?_
    obtain ⟨u, hu, rfl⟩ := List.mem_map.mp hth
    rw [h u (mem_slots.mp hu)]
    rfl
  rw [broadcastPc, hnil]
  rfl

theorem allDone_eq_false {g : Group} {u : Nat} (hu : u < 32) (h : (thread g u).st ≠ .done) : allDone g = false := by
  have hth : g.threads[u] = thread g u := by simp [thread, Array.getD, hu]
  rw [allDone, Vector.all_eq_false]
  refine ⟨u, hu, ?_⟩
  rw [hth]
  simpa using h

/-- A pass that counts as YIELD and leaves no thread RUN: the group is put aside, its turn over (R254). -/
theorem doneGroup_yields {op : Op} {turn : Turn} {info : PassInfo} {present active quiet : List Nat} {w : Work} {r : Run}
    {span at_ : Nat} {d : Device} (hy : r.yields = true) (he : r.ends = true) (hn : quiet.Nodup) (hb : ∀ t ∈ quiet, t < 32)
    (ha : active ≠ []) (hrun : ∀ v < 32, isRun (thread r.w.g v) = false) :
    ∃ F, doneGroup op turn info present active quiet w r span d (pushPass r at_ (countPass op r info span r.w.g)) = F ∧
      F.gid = r.w.g.gid ∧ F.hold = .yielded ∧ F.turn = none ∧ ∀ v, thread F v = if op.uniform = false ∧ v ∈ quiet then
        { thread r.w.g v with pc := info.pc + BitVec.ofNat 64 op.size } else thread r.w.g v := by
  generalize hG : pushPass r at_ (countPass op r info span r.w.g) = G
  have hGr : SameRest r.w.g G := by
    rw [← hG]
    exact countPass_rest.trans pushPass_rest
  have hGt : ∀ v, thread G v = thread r.w.g v := fun v => by rw [← hG, pushPass_thread, countPass_thread]
  simp only [doneGroup]
  generalize List.filter _ present ++ _ = stay
  generalize hL : loopPass false stay r (quietPass op info.pc quiet active w.g G) = L
  have hLr : SameRest r.w.g L := by
    rw [← hL]
    exact hGr.trans ((quietPass_rest _).trans (loopPass_rest _))
  have hLt : ∀ v, thread L v = if op.uniform = false ∧ v ∈ quiet then
      { thread r.w.g v with pc := info.pc + BitVec.ofNat 64 op.size } else thread r.w.g v := by
    intro v
    rw [← hL, loopPass_thread, quietPass_thread _ hn hb ha, hGt]
  have hLn : broadcastPc L = none := by
    refine broadcastPc_none fun v hv => ?_
    rw [hLt]
    split
    · exact hrun v hv
    · exact hrun v hv
  have hyield : yieldPass r d L = yieldHold d L := by rw [yieldPass, hy, hLn]; rfl
  rw [hyield]
  refine ⟨_, rfl, (have q := congrArg Group.gid hLr; q), rfl, ?_, hLt⟩
  exact (none_if _ _).mpr (overPass_iff.mpr (.inl he))

/-- What the run of a pass with one active thread has come to, where its lane leaves the group as `h` and the device as it was. -/
theorem single_run_lane {dec : Nat → Option Op} {op : Op} {s : State} {g h : Group} {turn : Turn} {pc : DWord} {u : Nat}
    (hr : Runs op s g turn pc) (hu : op.uniform = false) (hfin : ∀ i w, op.fin i w = w) (hq : op.pos.any readsQ = false)
    (ha : actives op g turn pc = [u])
    (hl : op.lane s.mem (passInfo op s g turn pc) u { d := s.dev, g := markAll op u g } = laneOk { d := s.dev, g := h } none) :
    ∃ r, runThreads s.mem dec op (passInfo op s g turn pc) (presentOf g turn pc) (actives op g turn pc) { d := s.dev, g := g } = r ∧
      r.w = { d := s.dev, g := onThread h u fun th => { th with pc := pc + BitVec.ofNat 64 op.size } } ∧ r.fault = none ∧
      r.post = .none ∧ r.commits = op.commits ∧ r.yields = op.yields ∧ r.ends = (op.always || op.ends) := by
  have hf : operandFault op (passInfo op s g turn pc) u g = none := hr.sound u (by rw [ha]; exact List.mem_cons_self ..) _
  refine ⟨_, single_run hr hu hfin ha (runLane_start (w := { d := s.dev, g := g }) (ends := op.always) hf hl rfl) rfl rfl, ?_, rfl,
    rfl, Bool.false_or _, Bool.false_or _, rfl⟩
  simp only [hq]
  rfl

/-- An instruction that counts as YIELD where it leaves no thread RUN, and whose one active thread does not stay RUN, with no
other thread RUN. -/
theorem yield_pass {dec : Nat → Option Op} {op : Op} {s : State} {g h : Group} {turn : Turn} {pc : DWord} {u : Nat}
    (hr : Runs op s g turn pc) (hu : op.uniform = false) (hfin : ∀ i w, op.fin i w = w) (hc : op.commits = false)
    (hq : op.pos.any readsQ = false) (hy : op.yields = true) (he : op.ends = true) (ha : actives op g turn pc = [u])
    (hl : op.lane s.mem (passInfo op s g turn pc) u { d := s.dev, g := markAll op u g } = laneOk { d := s.dev, g := h } none)
    (hgid : h.gid = g.gid) (hrun : ∀ v < 32, isRun (thread h v) = false) (hd : (thread h u).st ≠ .done) :
    ∃ t g', runPass dec op s = .next t ∧ t.dev.group? g.gid = some g' ∧ g'.hold = .yielded ∧ g'.turn = none ∧
      thread g' u = { thread h u with pc := pc + BitVec.ofNat 64 op.size } ∧ t.mem = s.mem := by
  have hu32 : u < 32 := actives_lt (by rw [ha]; exact List.mem_cons_self ..)
  obtain ⟨r, hthreads, hrw, hfault, hpost, hcommits, hyields, hends⟩ := single_run_lane (dec := dec) hr hu hfin hq ha hl
  rw [hc] at hcommits
  rw [hy] at hyields
  rw [he, Bool.or_true] at hends
  have hrth : ∀ v, thread r.w.g v = if v = u then { thread h u with pc := pc + BitVec.ofNat 64 op.size } else thread h v := by
    intro v
    rw [hrw]
    exact thread_onThread hu32
  have hrrun : ∀ v < 32, isRun (thread r.w.g v) = false := by
    intro v hv
    rw [hrth]
    split
    · exact hrun u hu32
    · exact hrun v hv
  obtain ⟨span, at_, htake⟩ := takePass_eq_donePass (turn := turn) hthreads hfault (by rw [hpost]; rfl) hr.inside
  generalize hdev : ({ r.w.d.spend g.core (max r.cyc 1) with steps := (r.w.d.spend g.core (max r.cyc 1)).steps + 1 } : Device) = d
    at htake
  have hquiet : ∀ v ∈ (presentOf g turn pc).filter fun t => !(actives op g turn pc).contains t, v < 32 ∧ v ≠ u := by
    intro v hv
    obtain ⟨hpresent, hact⟩ := List.mem_filter.mp hv
    refine ⟨(mem_presentOf.mp hpresent).1, fun e => ?_⟩
    rw [e, ha] at hact
    simp at hact
  obtain ⟨F, hF, hFgid, hFhold, hFturn, hFth⟩ := doneGroup_yields (op := op) (turn := turn) (info := passInfo op s g turn pc)
    (present := presentOf g turn pc) (w := { d := s.dev, g := g }) (span := span) (at_ := at_) (d := d) hyields hends
    ((presentOf_nodup g turn pc).filter _) (fun v hv => (hquiet v hv).1) hr.some_ hrrun
  have hFu : thread F u = { thread h u with pc := pc + BitVec.ofNat 64 op.size } := by
    rw [hFth, if_neg fun e => (hquiet u e.2).2 rfl, hrth, if_pos rfl]
  have hgF : F.gid = g.gid := by rw [hFgid, hrw]; exact hgid
  have hall : allDone F = false := allDone_eq_false hu32 (by rw [hFu]; exact hd)
  rw [donePass_group hpost hF hall, hcommits] at htake
  have hfound : d.group? F.gid = some g := by
    rw [hgF, ← hdev, hrw]
    exact hr.here
  have hlog : (Work.close { d := d, g := F }).log = [] := by
    rw [close_log, ← hdev, hrw]
    exact hr.log
  refine ⟨{ mem := s.mem, dev := Work.close { d := d, g := F } }, F, ?_, ?_, hFhold, hFturn, hFu, rfl⟩
  · rw [runPass_runs hr, htake]
    exact congrArg Host.Outcome.next (commit_quiet hlog)
  · rw [← hgF]
    exact close_group? (w := { d := d, g := F }) hfound

/-! ## The three instructions -/

/-- An instruction whose threads each wait for the time registers `ks`, with the wait `wt`, and which ends the turn. -/
structure WaitsTimes (op : Op) (ks : Rd → Nat → List TReg) (wt : Rd → Nat → Wait) : Prop where
  uniform : op.uniform = false
  commits : op.commits = false
  fin : ∀ i w, op.fin i w = w
  size : op.size = 4
  ends : op.ends = true
  lane : ∀ m i t w, op.lane m i t w = waitTimes i t (ks i.rd t) (wt i.rd t) w

theorem timeWait_waitsTimes {i : Instr} {ks : Rd → Nat → List TReg} {wt : Rd → Nat → Wait} (hi : Rules.TimeWait i ks wt) {op : Op}
    (hop : opOf i = some op) : WaitsTimes op ks wt := by
  cases hi <;> cases hop <;> exact ⟨rfl, rfl, fun _ _ => rfl, rfl, rfl, fun _ _ _ _ => rfl⟩

/-- Of the three, YIELDT alone counts as YIELD, and it has no register operands. -/
theorem timeWait_yields {i : Instr} {ks : Rd → Nat → List TReg} {wt : Rd → Nat → Wait} (hi : Rules.TimeWait i ks wt) {op : Op}
    (hop : opOf i = some op) : op.yields = true ↔ ∃ o, i = .yieldt o := by
  cases hi <;> cases hop
  case twait | twaitany => exact ⟨nofun, nofun⟩
  case yieldt o => exact ⟨fun _ => ⟨o, rfl⟩, fun _ => rfl⟩

section
variable {dec : Nat → Option Op} {op : Op} {ks : Rd → Nat → List TReg} {wt : Rd → Nat → Wait} {s : State} {g : Group} {turn : Turn}
  {pc : DWord} {u : Nat}

/-- The time registers of the active thread, as the statement of R254 names them. -/
def passTimes (op : Op) (ks : Rd → Nat → List TReg) (s : State) (g : Group) (turn : Turn) (pc : DWord) (u : Nat) : List TimeReg :=
  (ks (rdOf s.dev g turn) u).map fun k => Rules.time s (passInfo op s g turn pc) u k

theorem seenTimes_markAll (hu : u < 32) :
    seenTimes s.dev (markAll op u g) u (ks (rdOf s.dev g turn) u) (passInfo op s g turn pc).now = passTimes op ks s g turn pc u :=
  List.map_congr_left fun k _ => (beside_markAll (op := op) hu).timeSeen_eq k _

/-- The lane of a thread that goes on does nothing. -/
theorem WaitsTimes.lane_goes (hw : WaitsTimes op ks wt) (hu : u < 32)
    (hs : ∀ x ∈ passTimes op ks s g turn pc u, x.st ≠ .withdrawn) (hg : Goes (passTimes op ks s g turn pc u)) :
    op.lane s.mem (passInfo op s g turn pc) u { d := s.dev, g := markAll op u g } =
      laneOk { d := s.dev, g := markAll op u g } none := by
  rw [← seenTimes_markAll hu] at hs hg
  exact (hw.lane ..).trans (waitTimes_goes hs hg)

/-- The lane of a thread that waits leaves it in WAIT. -/
theorem WaitsTimes.lane_waits (hw : WaitsTimes op ks wt) (hu : u < 32)
    (hs : ∀ x ∈ passTimes op ks s g turn pc u, x.st ≠ .withdrawn) (hg : ¬Goes (passTimes op ks s g turn pc u)) :
    op.lane s.mem (passInfo op s g turn pc) u { d := s.dev, g := markAll op u g } = 
      laneOk { d := s.dev, g := waitGroup op g u (wt (rdOf s.dev g turn) u) } none := by
  rw [← seenTimes_markAll hu] at hs hg
  exact (hw.lane ..).trans (waitTimes_waits hs hg)

/-- The pass of such an instruction whose thread's lane leaves the group as `h`, with a thread RUN where the pass may count as
YIELD. -/
theorem WaitsTimes.pass (hw : WaitsTimes op ks wt) (hr : Runs op s g turn pc) (ha : actives op g turn pc = [u]) {h k : Group}
    (hl : op.lane s.mem (passInfo op s g turn pc) u { d := s.dev, g := markAll op u g } = laneOk { d := s.dev, g := h } none)
    (hm : Rules.Marked k h) (hgid : k.gid = g.gid) (hpartner : k.partner = g.partner)
    (hy : op.yields = true → ∃ v < 32, (thread k v).st = .run) (hd : (thread k u).st ≠ .done) :
    ∃ t g' h, runPass dec op s = .next t ∧ Once op s g turn pc h s.dev (pc + 4) [u] t g' ∧ Rules.Marked k h ∧ g'.turn = none ∧
      t.mem = s.mem := by
  have hu32 : u < 32 := actives_lt (by rw [ha]; exact List.mem_cons_self ..)
  have hrun : op.yields = true → ∃ v < 32, isRun (thread h v) = true := by
    intro e
    obtain ⟨v, hv, hst⟩ := hy e
    exact ⟨v, hv, by simp [isRun, marked_st hm hv, hst]⟩
  obtain ⟨t, g', hpass, honce⟩ := single_pass (dec := dec) hr hw.uniform hrun hw.fin ha hl
    ⟨rfl, rfl, (have q := congrArg Group.gid hm.1; q).trans hgid, (have q := congrArg Group.partner hm.1; q).trans hpartner,
      Option.isSome_iff_exists.mpr ⟨g, hr.here⟩⟩ ⟨u, hu32, fun e => hd ((marked_st hm hu32).symm.trans e)⟩
  rw [hw.size] at honce
  exact ⟨t, g', h, hpass, honce, hm, honce.turnOver.mpr (.inl (by rw [hw.ends]; rfl)),
    honce.mem.trans (congrArg (memWriteAll s.mem) hr.log)⟩

end

/-- Settles O40: the thread's lane finds the registers it names as they were before the pass; where it waits and no thread stays
RUN, the pass of YIELDT counts as YIELD. -/
theorem timeWaits : Obligations.TimeWaits := by
  unfold Obligations.TimeWaits
  intro i ks wt hi op hop s g turn pc hr u ha seen hsound goes
  rw [exec_of_opOf hop]
  have hw := timeWait_waitsTimes hi hop
  have hmem : u ∈ actives op g turn pc := by rw [ha]; exact List.mem_cons_self ..
  have hu : u < 32 := actives_lt hmem
  have hrun : (thread g u).st = .run := by simpa [isRun] using (mem_presentOf.mp (mem_activeOf.mp hmem).1).2.1
  have hmarked : Rules.Marked g (markAll op u g) := markAll_marked hu
  refine ⟨fun hgoes => ?_, fun hstays hother => ?_, fun hstays hyieldt hothers => ?_⟩
  · exact hw.pass hr ha (hw.lane_goes hu hsound hgoes) hmarked rfl rfl (fun _ => ⟨u, hu, hrun⟩) (by rw [hrun]; exact nofun)
  · refine hw.pass hr ha (hw.lane_waits hu hsound hstays) (waitGroup_marked hu) rfl rfl (fun hy => ?_)
      (by rw [setThread_st hu, if_pos rfl]; exact nofun)
    obtain hnot | ⟨v, hv, hne, hvrun⟩ := hother
    · obtain ⟨o, ho⟩ := (timeWait_yields hi hop).mp hy
      exact absurd ho (hnot o)
    · exact ⟨v, hv, by rw [setThread_st hu, if_neg hne, hvrun]⟩
  · have hy := (timeWait_yields hi hop).mpr hyieldt
    have hq : op.pos.any readsQ = false := by
      obtain ⟨o, rfl⟩ := hyieldt
      cases hop
      rfl
    have hst : (thread (waitGroup op g u (wt (rdOf s.dev g turn) u)) u).st = .wait (wt (rdOf s.dev g turn) u) :=
      (waitGroup_st hu hu).trans (if_pos rfl)
    have hnorun : ∀ v < 32, isRun (thread (waitGroup op g u (wt (rdOf s.dev g turn) u)) v) = false := by
      intro v hv
      rw [isRun, waitGroup_st hu hv]
      split
      · rfl
      · simpa using hothers v hv ‹_›
    obtain ⟨t, g', hpass, hgroup, hhold, hturn, hth, hmem⟩ := yield_pass (dec := decodeOp) hr hw.uniform hw.fin hw.commits hq hy
      hw.ends ha (hw.lane_waits hu hsound hstays) (have q := congrArg Group.gid hmarked.1; q) hnorun (by rw [hst]; exact nofun)
    rw [hw.size] at hth
    exact ⟨t, g', hpass, hgroup, hhold, hturn, (congrArg Thread.st hth).trans hst, congrArg Thread.pc hth, hmem⟩

end Sys2Proof.Machine
end

section
/-! PROOFS. The end of an MCRD on a halted die: the step changes nothing, where the statement of the engines asks for the end of the
command (R261, R447). -/

namespace Sys2Proof.Machine

/-- An engine whose die is halted completes nothing. -/
theorem evEngineComplete_halted {d : Device} {c : Cmd} (m : Memory) (hc : d.cmd? c.id = some c) (hh : engineHalted d c = true) :
    evEngineComplete c.id m d = d := by
  simp only [evEngineComplete, hc]
  cases d.ctx? c.ctx with
  | none => rfl
  | some y => exact if_pos (.inr (.inr hh))

/-- An MCRD of one line to the issuing core, which holds the line and has counted it: only its end remains. -/
def deliveredMcrd : Cmd :=
  { id := 9, kind := .mcrd, gid := 0, core := 0, ctx := 0, lead := 0, lanes := 1, t := 1, st := .started
    block := [0x80, 0, 0xFC0, 128, 0, 1, 0xFFFFFFFF, 0].flatMap (wordBytes 4), receivers := [0], delivered := [(0, 1)] }

/-- A module whose die 0 a debugger has halted while that MCRD was under way. -/
def haltedModule : State :=
  { dev := {
      booted := true, ctxs := [{ num := 0, host := none, codeBase := 0, root := 0 }]
      groups := [{ gid := 0, ctx := 0, core := 0, gidx := 0 }], cmds := [deliveredMcrd]
      dies := Vector.replicate 4 { st := .halted } } }

theorem deliveredMcrd_complete : ∀ r ∈ deliveredMcrd.receivers, linesTo deliveredMcrd r = mcrdLines deliveredMcrd := by decide

/-- The step that would end the command leaves the halted module as it was. -/
theorem haltedModule_stays : exec (.engineComplete deliveredMcrd.id) haltedModule = .next haltedModule := by
  have hq : evEngineComplete deliveredMcrd.id haltedModule.mem haltedModule.dev = haltedModule.dev :=
    evEngineComplete_halted _ rfl (by decide)
  show runEvent (evEngineComplete deliveredMcrd.id) haltedModule = _
  rw [runEvent, hq]
  exact congrArg Host.Outcome.next (commit_quiet rfl)

/-- Refutes O59: the row that ends an MCRD whose lines have all been delivered asks nothing of the issuing core's die, and where
that die is halted its copy engine stands still (R447), so that the command stays in the queue. -/
theorem not_engineEffects : ¬ Obligations.EngineEffects := by
  unfold Obligations.EngineEffects
  intro h
  obtain ⟨t, hrun, hgone, _⟩ := h haltedModule rfl _ _
    (.received deliveredMcrd { num := 0, host := none, codeBase := 0, root := 0 } rfl rfl rfl rfl rfl deliveredMcrd_complete)
  rw [haltedModule_stays] at hrun
  cases hrun
  exact hgone deliveredMcrd (List.mem_cons_self ..) rfl

end Sys2Proof.Machine
end
